-- ==== Sys2Proof/Word.lean ====
section
/-! DEFINITION. The word types of the TYV-P12: tokens, rule words and registers are 64 bits (R27, R174), bank and memory bytes are 8 (R6), a brick identifier is 14 bits (R2). -/

namespace Sys2Proof

/-- A 64-bit rule word, token payload or register (R27, R174, R80). -/
abbrev Word := BitVec 64

/-- One byte of a bank or of memory (R6). -/
abbrev Byte := BitVec 8

/-- A brick identifier: die in [13:12], course in [11:6], column in [5:0] (R2). -/
abbrev BrickId := BitVec 14

end Sys2Proof
end

