-- ==== Sys2Proof/Machine/Bits.lean ====
section
/-! DEFINITION. Bit selections, signed views and byte order (R6, R7, R10, R107): the plain arithmetic that every chapter's pseudocode uses. -/

namespace Sys2Proof

/-- The field x[hi:lo] of a natural number (R6). -/
def bits (x hi lo : Nat) : Nat := (x >>> lo) % 2 ^ (hi + 1 - lo)

/-- Bit i of a natural number (R6). -/
def bit (x i : Nat) : Bool := x.testBit i

/-- 1 for true, 0 for false. -/
def b2n (b : Bool) : Nat := if b then 1 else 0

/-- The low w bits of an unbounded integer's two's complement, t[w-1:0] (R107). -/
def lowBits (w : Nat) (t : Int) : Nat := (t % (2 ^ w : Int)).toNat

/-- The signed view of an unsigned w-bit value: x - x[w-1]·2^w (R7, R107). -/
def signed (w x : Nat) : Int := if x < 2 ^ (w - 1) then (x : Int) else (x : Int) - 2 ^ w

/-- x[from:0] sign-extended from bit `from` to w bits (R7, R121). -/
def signExtend (w frm x : Nat) : Nat := lowBits w (signed (frm + 1) (x % 2 ^ (frm + 1)))

/-- a ‖ b with b of w bits (00_scope, pseudocode). -/
def cat (a w b : Nat) : Nat := a <<< w ||| b % 2 ^ w

/-- The value of a little-endian list of bytes (R6). -/
def leValue : List Byte → Nat
  | [] => 0
  | b :: bs => b.toNat + 256 * leValue bs

/-- The n low bytes of a value, little-endian (R6). -/
def leBytes : Nat → Nat → List Byte
  | 0, _ => []
  | n + 1, v => BitVec.ofNat 8 v :: leBytes n (v / 256)

/-- The ceiling of a / b. -/
def ceilDiv (a b : Nat) : Nat := (a + b - 1) / b

/-- Replace the field of n bits at lo by v. -/
def insertBits (x lo n v : Nat) : Nat :=
  x % 2 ^ lo + (v % 2 ^ n) * 2 ^ lo + (x >>> (lo + n)) * 2 ^ (lo + n)

/-- The number of one bits of x among its low w bits (R121). -/
def popCount : Nat → Nat → Nat
  | 0, _ => 0
  | w + 1, x => b2n (bit x w) + popCount w x

/-- The positions below w at which x has a one, in ascending order. -/
def onesBelow (w x : Nat) : List Nat := (List.range w).filter (bit x ·)

/-- The die, the course and the column of a brick identifier (R2). -/
def BrickId.die (b : BrickId) : Nat := bits b.toNat 13 12
def BrickId.course (b : BrickId) : Nat := bits b.toNat 11 6
def BrickId.col (b : BrickId) : Nat := bits b.toNat 5 0
/-- The identifier of brick d.c.k (R2). -/
def BrickId.mk (d c k : Nat) : BrickId := BitVec.ofNat 14 (d % 4 * 4096 + c % 64 * 64 + k % 64)
/-- The global bay 8d + floor(c / 8) (R2, R230). -/
def BrickId.bay (b : BrickId) : Nat := 8 * BrickId.die b + BrickId.course b / 8
/-- Edge bricks stand in columns 0 and 63 (R3). -/
def BrickId.isEdge (b : BrickId) : Bool := BrickId.col b = 0 || BrickId.col b = 63

end Sys2Proof
end

