-- ==== Sys2Proof/Syntax.lean ====
section
/-! DEFINITION. The ONE instruction type: the 152 rule-word instructions (R30-R46, each with its head and the body of its format) and the 121 steps of the machine's other agents, one constructor per row of the opcode table. -/

namespace Sys2Proof

/-- Bits [56:30] of a rule word (R30); the opcode of bits [63:57] is the constructor. -/
structure Head where
  pcare : BitVec 8
  pval : BitVec 8
  inrdy : BitVec 4
  tagEn : BitVec 1
  tagCh : BitVec 2
  tagTag : BitVec 2
  beats : BitVec 2
  deriving DecidableEq, Repr

/-- T body (R32). -/
structure TBody where
  wid : BitVec 3
  d : BitVec 7
  a : BitVec 7
  b : BitVec 7
  pdst : BitVec 3
  pmode : BitVec 2
  keep : BitVec 1
  deriving DecidableEq, Repr

/-- U body (R32): as T, with [12:6] holding IMM7. -/
structure UBody where
  wid : BitVec 3
  d : BitVec 7
  a : BitVec 7
  imm7 : BitVec 7
  pdst : BitVec 3
  pmode : BitVec 2
  keep : BitVec 1
  deriving DecidableEq, Repr

/-- I body (R32). -/
structure IBody where
  wid : BitVec 3
  d : BitVec 7
  imm14 : BitVec 14
  pdst : BitVec 3
  pmode : BitVec 2
  keep : BitVec 1
  deriving DecidableEq, Repr

/-- M body (R32). -/
structure MBody where
  wid : BitVec 3
  d : BitVec 7
  a : BitVec 7
  off7 : BitVec 7
  pdst : BitVec 3
  pmode : BitVec 2
  keep : BitVec 1
  deriving DecidableEq, Repr

/-- P body (R32, R34). -/
structure PBody where
  pd : BitVec 3
  pa : BitVec 3
  pb : BitVec 3
  fn : BitVec 4
  mask : BitVec 8
  val : BitVec 8
  keep : BitVec 1
  deriving DecidableEq, Repr

/-- K body (R32, R35). -/
structure KBody where
  wid : BitVec 3
  och : BitVec 2
  tag : BitVec 2
  a : BitVec 7
  csub : BitVec 4
  imm11 : BitVec 11
  keep : BitVec 1
  deriving DecidableEq, Repr

/-- X body (R32, R35); `z` is bits [2:1], which a legal word holds at zero. -/
structure XBody where
  sub : BitVec 6
  d : BitVec 7
  a : BitVec 7
  b : BitVec 7
  z : BitVec 2
  keep : BitVec 1
  deriving DecidableEq, Repr

/-- A port that forwards tokens: an output port of a brick (R175) or a stream route of an edge brick (R256). -/
inductive PortRef where
  | out (b : BrickId) (n : Nat)
  | so (b : BrickId) (n : Nat)
  deriving DecidableEq, Repr

/-- A region is named by the die and the number of its bind slot (R370). -/
structure RegionId where
  die : Nat
  slot : Nat
  deriving DecidableEq, Repr

/-- The registers that an outside write reaches and that have no step of their own (R8), and the words the foreman and the host store before a submission or a kick. -/
inductive RegName where
  /-- PTROOT[t] (R224) -/
  | ptroot (t : Nat)
  /-- SWADDR of a die (R387) -/
  | swaddr (die : Nat)
  /-- FLOGCTL.TAIL of a die (R400) -/
  | flogTail (die : Nat)
  /-- CQCONS (R439) -/
  | cqcons
  /-- word `i` of mailbox slot `slot` (R436) -/
  | mailbox (slot i : Nat)
  /-- KICK (R437) -/
  | kickReg
  /-- word `i`, 1 to 7, of BIND[die][slot] (R370) -/
  | bind (r : RegionId) (i : Nat)
  /-- word `w` of truss node `node` (R366) -/
  | node (node w : Nat)
  /-- the 8 B page-table entry at a physical address, which foreman firmware changes in memory (R229) -/
  | tableEntry (pa : Nat)
  /-- PASS of `bsr.ctl` of a brick, bit 3 of what is written (R82) -/
  | pass (b : BrickId)
  /-- INVCMD of a die, every field of it (R229) -/
  | invcmd (die : Nat)
  /-- a register, written through the TDI of tenancy t (R434) -/
  | tdi (t : Nat) (r : RegName)
  deriving DecidableEq, Repr

/-- The units that count errors (R405). -/
inductive UnitRef where
  | bank (b : BrickId)
  | loft (bay : Nat)
  | hbm (stack pc : Nat)
  | lane (n : Nat)
  | port (p : Nat)
  deriving DecidableEq, Repr

/-- What an error event is (R405). -/
inductive ErrorKind where
  | corrected
  | uncorrectable
  | retry
  deriving DecidableEq, Repr

/-- TDISP states (R435). -/
inductive TdiState where
  | configUnlocked
  | configLocked
  | run
  | error
  deriving DecidableEq, Repr

/-- What reaches the keystone for a secured session (R421): a key exchange with the requester's ephemeral point and, where it authenticates itself, its public key and the signature by it; a key update, a heartbeat and the end of a session. -/
inductive SessionRequest where
  | exchange (x y : Nat) (auth : Option ((Nat × Nat) × (Nat × Nat)))
  | update (session : Nat)
  | heartbeat (session : Nat)
  | leave (session : Nat)
  deriving DecidableEq, Repr

/-- The rows of the opcode table. -/
inductive Instr where
  /-- ADD (R111): Adds A and B at width w into D, with carry out as the flag. -/
  | add (h : Head) (x : TBody)
  /-- SUB (R111): Subtracts B from A at width w into D, with borrow as the flag. -/
  | sub (h : Head) (x : TBody)
  /-- ADC (R112): Adds with carry-in taken from p[PDST], chains the carry through the beats, and writes the final carry back to p[PDST]. -/
  | adc (h : Head) (x : TBody)
  /-- SBB (R112): Subtracts with borrow-in taken from p[PDST], chains the borrow through the beats, and writes the final borrow back to p[PDST]. -/
  | sbb (h : Head) (x : TBody)
  /-- ADDI (R111): Adds the immediate to D in place (read-modify-write). -/
  | addi (h : Head) (x : IBody)
  /-- MUL (R113): Writes the low w bits of the product to D, with signed overflow as the flag. -/
  | mul (h : Head) (x : TBody)
  /-- MULH (R113): Writes the high half of the signed product to D. -/
  | mulh (h : Head) (x : TBody)
  /-- MULHU (R113): Writes the high half of the unsigned product to D. -/
  | mulhu (h : Head) (x : TBody)
  /-- MAD (R113): Computes A*B+D modulo 2^w into D (read-modify-write). -/
  | mad (h : Head) (x : TBody)
  /-- DIVU (R114): Unsigned division with a fixed result and the flag set on a zero divisor. -/
  | divu (h : Head) (x : TBody)
  /-- REMU (R114): Unsigned remainder with a fixed result and the flag set on a zero divisor. -/
  | remu (h : Head) (x : TBody)
  /-- DIVS (R114): Signed division rounding toward zero, with fixed results for a zero divisor and for overflow. -/
  | divs (h : Head) (x : TBody)
  /-- REMS (R114): Signed remainder taking the sign of the dividend, with fixed results for a zero divisor and for overflow. -/
  | rems (h : Head) (x : TBody)
  /-- ADDS (R115): Signed saturating add. -/
  | adds (h : Head) (x : TBody)
  /-- ADDSU (R115): Unsigned saturating add. -/
  | addsu (h : Head) (x : TBody)
  /-- SUBS (R115): Signed saturating subtract. -/
  | subs (h : Head) (x : TBody)
  /-- SUBSU (R115): Unsigned saturating subtract. -/
  | subsu (h : Head) (x : TBody)
  /-- MIN (R116): Signed minimum; returns A when the operands are equal. -/
  | min (h : Head) (x : TBody)
  /-- MAX (R116): Signed maximum; returns A when the operands are equal. -/
  | max (h : Head) (x : TBody)
  /-- MINU (R116): Unsigned minimum. -/
  | minu (h : Head) (x : TBody)
  /-- MAXU (R116): Unsigned maximum. -/
  | maxu (h : Head) (x : TBody)
  /-- ABS (R116): Absolute value that wraps on the most negative input. -/
  | abs (h : Head) (x : UBody)
  /-- NEG (R116): Two's-complement negation. -/
  | neg (h : Head) (x : UBody)
  /-- AND (R117): Bitwise AND. -/
  | and (h : Head) (x : TBody)
  /-- OR (R117): Bitwise OR. -/
  | or (h : Head) (x : TBody)
  /-- XOR (R117): Bitwise XOR. -/
  | xor (h : Head) (x : TBody)
  /-- ANDN (R117): Computes A AND NOT B. -/
  | andn (h : Head) (x : TBody)
  /-- ORN (R117): Computes A OR NOT B. -/
  | orn (h : Head) (x : TBody)
  /-- XNOR (R117): Bitwise XNOR. -/
  | xnor (h : Head) (x : TBody)
  /-- ANDI (R117): ANDs D with the immediate in place. -/
  | andi (h : Head) (x : IBody)
  /-- ORI (R117): ORs D with the immediate in place. -/
  | ori (h : Head) (x : IBody)
  /-- XORI (R117): XORs D with the immediate in place. -/
  | xori (h : Head) (x : IBody)
  /-- SHL (R119): Logical left shift by the count in B. -/
  | shl (h : Head) (x : TBody)
  /-- SHR (R119): Logical right shift by the count in B. -/
  | shr (h : Head) (x : TBody)
  /-- SAR (R119): Arithmetic right shift by the count in B. -/
  | sar (h : Head) (x : TBody)
  /-- ROL (R119): Rotates left by the count in B, modulo w. -/
  | rol (h : Head) (x : TBody)
  /-- SHLI (R119): Logical left shift by an immediate count. -/
  | shli (h : Head) (x : UBody)
  /-- SHRI (R119): Logical right shift by an immediate count. -/
  | shri (h : Head) (x : UBody)
  /-- SARI (R119): Arithmetic right shift by an immediate count. -/
  | sari (h : Head) (x : UBody)
  /-- ROLI (R119): Rotates left by an immediate count. -/
  | roli (h : Head) (x : UBody)
  /-- BEXT (R120): Extracts a bit field and zero-extends it. -/
  | bext (h : Head) (x : UBody)
  /-- BEXTS (R120): Extracts a bit field and sign-extends it. -/
  | bexts (h : Head) (x : UBody)
  /-- BINS (R120): Inserts the low L bits of A into a field of D. -/
  | bins (h : Head) (x : UBody)
  /-- SEXT (R121): Sign-extends A from bit b. -/
  | sext (h : Head) (x : UBody)
  /-- CLZ (R121): Counts leading zeros. -/
  | clz (h : Head) (x : UBody)
  /-- CTZ (R121): Counts trailing zeros. -/
  | ctz (h : Head) (x : UBody)
  /-- POPC (R121): Counts one bits, with odd parity as the flag. -/
  | popc (h : Head) (x : UBody)
  /-- BREV (R121): Reverses the bits of A. -/
  | brev (h : Head) (x : UBody)
  /-- MOV (R122): Copies A to D. -/
  | mov (h : Head) (x : TBody)
  /-- MOVW (R123): Moves between widths, with sign or zero extension. -/
  | movw (h : Head) (x : UBody)
  /-- MOVI (R124): Loads the signed immediate into D. -/
  | movi (h : Head) (x : IBody)
  /-- MOVHI (R124): Shifts D left by 14 and ORs in the immediate. -/
  | movhi (h : Head) (x : IBody)
  /-- SEL (R125): Selects A or B by the predicate named in PDST. -/
  | sel (h : Head) (x : TBody)
  /-- CMPEQ (R126): Compares for equality; writes a mask and updates the predicate. -/
  | cmpeq (h : Head) (x : TBody)
  /-- CMPNE (R126): Compares for inequality. -/
  | cmpne (h : Head) (x : TBody)
  /-- CMPLT (R126): Signed less-than compare. -/
  | cmplt (h : Head) (x : TBody)
  /-- CMPLTU (R126): Unsigned less-than compare. -/
  | cmpltu (h : Head) (x : TBody)
  /-- CMPLE (R126): Signed less-or-equal compare. -/
  | cmple (h : Head) (x : TBody)
  /-- CMPLEU (R126): Unsigned less-or-equal compare. -/
  | cmpleu (h : Head) (x : TBody)
  /-- CMPEQI (R127): Compares D with the immediate for equality; only the predicate changes. -/
  | cmpeqi (h : Head) (x : IBody)
  /-- CMPLTI (R127): Signed less-than compare of D with the immediate. -/
  | cmplti (h : Head) (x : IBody)
  /-- CMPLTUI (R127): Unsigned less-than compare of D with the immediate. -/
  | cmpltui (h : Head) (x : IBody)
  /-- BTST (R127): Tests one bit of A. -/
  | btst (h : Head) (x : UBody)
  /-- FADD (R157): Floating-point add, rounded once under bsr.fmode. -/
  | fadd (h : Head) (x : TBody)
  /-- FSUB (R157): Floating-point subtract. -/
  | fsub (h : Head) (x : TBody)
  /-- FMUL (R157): Floating-point multiply. -/
  | fmul (h : Head) (x : TBody)
  /-- FFMA (R157): Fused multiply-add a*b+d. -/
  | ffma (h : Head) (x : TBody)
  /-- FFMS (R157): Fused d-a*b. -/
  | ffms (h : Head) (x : TBody)
  /-- FMIN (R159): Floating-point minimum, with -0 below +0. -/
  | fmin (h : Head) (x : TBody)
  /-- FMAX (R159): Floating-point maximum. -/
  | fmax (h : Head) (x : TBody)
  /-- FMINM (R159): Minimum by magnitude. -/
  | fminm (h : Head) (x : TBody)
  /-- FMAXM (R159): Maximum by magnitude. -/
  | fmaxm (h : Head) (x : TBody)
  /-- FCMPEQ (R160): Floating-point equality compare. -/
  | fcmpeq (h : Head) (x : TBody)
  /-- FCMPLT (R160): Floating-point less-than compare. -/
  | fcmplt (h : Head) (x : TBody)
  /-- FCMPLE (R160): Floating-point less-or-equal compare. -/
  | fcmple (h : Head) (x : TBody)
  /-- FCMPUN (R160): Unordered compare, true if either operand is NaN. -/
  | fcmpun (h : Head) (x : TBody)
  /-- FABS (R162): Clears the sign bit of the raw encoding. -/
  | fabs (h : Head) (x : UBody)
  /-- FNEG (R162): Inverts the sign bit of the raw encoding. -/
  | fneg (h : Head) (x : UBody)
  /-- FSCB (R158): Scales A by 2 to the power of the signed 8-bit value in B. -/
  | fscb (h : Head) (x : TBody)
  /-- FDIV (R157): Correctly rounded floating-point divide on the divider. -/
  | fdiv (h : Head) (x : TBody)
  /-- SFU_EXP2 (R163): Correctly rounded base-2 exponential. -/
  | sfuExp2 (h : Head) (x : UBody)
  /-- SFU_LOG2 (R163): Correctly rounded base-2 logarithm. -/
  | sfuLog2 (h : Head) (x : UBody)
  /-- SFU_RCP (R163): Correctly rounded reciprocal. -/
  | sfuRcp (h : Head) (x : UBody)
  /-- SFU_RSQRT (R163): Correctly rounded reciprocal square root. -/
  | sfuRsqrt (h : Head) (x : UBody)
  /-- SFU_SQRT (R163): Correctly rounded square root. -/
  | sfuSqrt (h : Head) (x : UBody)
  /-- SFU_TANH (R163): Correctly rounded hyperbolic tangent. -/
  | sfuTanh (h : Head) (x : UBody)
  /-- SFU_SINPI (R163): Correctly rounded sin(pi*x). -/
  | sfuSinpi (h : Head) (x : UBody)
  /-- SFU_COSPI (R163): Correctly rounded cos(pi*x). -/
  | sfuCospi (h : Head) (x : UBody)
  /-- CVT (R166): Converts between floating-point formats. -/
  | cvt (h : Head) (x : UBody)
  /-- CVTFI (R166): Converts floating point to integer, clamping out-of-range values. -/
  | cvtfi (h : Head) (x : UBody)
  /-- CVTIF (R166): Converts integer to floating point. -/
  | cvtif (h : Head) (x : UBody)
  /-- FRND (R166): Rounds to an integral value in the same format. -/
  | frnd (h : Head) (x : UBody)
  /-- FSUM (R167): Sums the beats of A into the FP32 value in D, with one rounding. -/
  | fsum (h : Head) (x : TBody)
  /-- FMAXR (R168): Maximum reduction of D and every beat of A. -/
  | fmaxr (h : Head) (x : TBody)
  /-- FDOT (R169): Widening packed dot product into FP32 by dot32grp. -/
  | fdot (h : Head) (x : TBody)
  /-- EXPD (R164): Computes 2^(a-b) with the exact difference, rounded once. -/
  | expd (h : Head) (x : TBody)
  /-- QBLK (R170): Gathers 32 elements into the QBLK buffer and forms an MX32 block with its scale. -/
  | qblk (h : Head) (x : UBody)
  /-- DQBLK (R172): Decodes elements of a packed block word, with a scale, into a wide format. -/
  | dqblk (h : Head) (x : TBody)
  /-- BPSPL (R173): Transposes eight INT8 elements into bit planes. -/
  | bpspl (h : Head) (x : TBody)
  /-- BPJN (R173): Rejoins the first p bit planes into INT8 elements. -/
  | bpjn (h : Head) (x : TBody)
  /-- FCLS (R161): Tests the class of A's encoding against a mask. -/
  | fcls (h : Head) (x : UBody)
  /-- PLOG (R85): Writes a truth-table function of two predicates. -/
  | plog (h : Head) (x : PBody)
  /-- PSETV (R85): Sets the masked predicates to given values in one cycle. -/
  | psetv (h : Head) (x : PBody)
  /-- PTOS (R86): Copies predicates into slices. -/
  | ptos (h : Head) (x : UBody)
  /-- STOP (R87): Copies slice bits into predicates. -/
  | stop (h : Head) (x : UBody)
  /-- TRAP (R88): Raises SWTRAP with an optional value stored in bsr.tval. -/
  | trap (h : Head) (x : UBody)
  /-- BKPT (R89): Traps as a breakpoint when BKEN is 1; otherwise commits as NOP. -/
  | bkpt (h : Head) (x : UBody)
  /-- IDLE (R90): Commits and suspends the picker until a wake event. -/
  | idle (h : Head) (x : UBody)
  /-- NOP (R91): Commits as a firing and changes nothing else. -/
  | nop (h : Head) (x : UBody)
  /-- LDB (R215): Loads bank containers into D. -/
  | ldb (h : Head) (x : MBody)
  /-- STB (R215): Stores D into bank containers at commit. -/
  | stb (h : Head) (x : MBody)
  /-- LDBI (R215): Strided bank load that post-increments A. -/
  | ldbi (h : Head) (x : MBody)
  /-- STBI (R215): Strided bank store that post-increments A. -/
  | stbi (h : Head) (x : MBody)
  /-- ATB (R216): Locked read-modify-write of a bank container that returns the old value. -/
  | atb (h : Head) (x : MBody)
  /-- CASB (R217): Locked compare-and-swap on a bank container. -/
  | casb (h : Head) (x : MBody)
  /-- SPL (R218): Spills slices to bank nibbles. -/
  | spl (h : Head) (x : MBody)
  /-- FIL (R218): Fills slices from bank nibbles. -/
  | fil (h : Head) (x : MBody)
  /-- LDPW (R220): Reads elements of a parameter window. -/
  | ldpw (h : Head) (x : UBody)
  /-- EMIT (R196): Enqueues a DATA or CTRL token on an output port. -/
  | emit (h : Head) (x : KBody)
  /-- EOS (R197): Enqueues an EOS token, with COUNT taken from A or from the port's DATA counter. -/
  | eos (h : Head) (x : KBody)
  /-- MARK (R198): On a brick with no connected input, advances the round and emits a MARK on every connected output. -/
  | mark (h : Head) (x : KBody)
  /-- WEEP (R198): Starts the brick's weep; this is the brick's last firing. -/
  | weep (h : Head) (x : KBody)
  /-- DROP (R199): Dequeues channel entries whatever their tags. -/
  | drop (h : Head) (x : KBody)
  /-- RTAG (R200): Forwards input entries to an output under a new tag. -/
  | rtag (h : Head) (x : KBody)
  /-- STEER (R201): Enqueues a STEER control token carrying a value and a route index. -/
  | steer (h : Head) (x : KBody)
  /-- GLD (R247): Global load, raw or decoded, returned to an input channel. -/
  | gld (h : Head) (x : XBody)
  /-- GST (R249): Posted global store of raw bytes. -/
  | gst (h : Head) (x : XBody)
  /-- GAT (R249): Global atomic at the home loft slice that returns the old value. -/
  | gat (h : Head) (x : XBody)
  /-- STRM_ARM (R260): Arms a shape record: it becomes LIVE with its credit and tile count cleared. -/
  | strmArm (h : Head) (x : XBody)
  /-- STRM_ABORT (R260): Aborts a LIVE shape record, or clears FAULTED. -/
  | strmAbort (h : Head) (x : XBody)
  /-- STRM_STAT (R260): Reads word 7 of a shape record. -/
  | strmStat (h : Head) (x : XBody)
  /-- TTQ (R292): Reads a task record from the bank and hands it to the task port. -/
  | ttq (h : Head) (x : XBody)
  /-- TTQ_TID (R292): Queues a task record with its TID taken from B. -/
  | ttqTid (h : Head) (x : XBody)
  /-- SLF_FIRE (R336): Processes a docked yealm against the slate in its stop register. -/
  | slfFire (h : Head) (x : XBody)
  /-- SLF_HDR_LAUNCH (R333): Launches a yealm image into an empty dock. -/
  | slfHdrLaunch (h : Head) (x : XBody)
  /-- SLF_HDR_RD (R332): Reads a word of a docked yealm. -/
  | slfHdrRd (h : Head) (x : XBody)
  /-- SLF_HDR_WR (R332): Writes a header word of a docked yealm. -/
  | slfHdrWr (h : Head) (x : XBody)
  /-- SLF_FIN (R335): Finalises a yealm at its home dock and emits its output tokens. -/
  | slfFin (h : Head) (x : XBody)
  /-- SLF_ROUTE (R334): Hands a docked yealm to the ring port for its next hop. -/
  | slfRoute (h : Head) (x : XBody)
  /-- SLF_PIN (R315): Pins a slate resident or stored, or as a shared alias, and enters it in the slate map. -/
  | slfPin (h : Head) (x : XBody)
  /-- SLF_UNPIN (R316): Releases a slate from the slate map. -/
  | slfUnpin (h : Head) (x : XBody)
  /-- SLF_LOOK (R317): Looks up a slate-map entry. -/
  | slfLook (h : Head) (x : XBody)
  /-- FQRY_POST (R358): Posts a query packet to a footing engine. -/
  | fqryPost (h : Head) (x : XBody)
  /-- FQRY_CNCL (R360): Cancels a live query. -/
  | fqryCncl (h : Head) (x : XBody)
  /-- SYS_XFENCE (R277): Cross-class fence between the named engine classes. -/
  | sysXfence (h : Head) (x : XBody)
  /-- SYS_HANDOVER (R280): Moves ownership of a run of pages to another edge brick. -/
  | sysHandover (h : Head) (x : XBody)
  /-- SYS_RDBSR (R94): Serialising read of a brick status register. -/
  | sysRdbsr (h : Head) (x : XBody)
  /-- SYS_WRBSR (R95): Serialising write of a brick status register. -/
  | sysWrbsr (h : Head) (x : XBody)
  /-- SYS_WATCH (R262): Arms or disarms a tag count on an input channel. -/
  | sysWatch (h : Head) (x : XBody)
  /-- SYS_SINK (R377): Replaces a sink's target count. -/
  | sysSink (h : Head) (x : XBody)
  /-- SYS_WPTR (R259): Reads a write pointer with acquire effect. -/
  | sysWptr (h : Head) (x : XBody)
  /-- SYS_RDTS (R94): Reads the brick's program timestamp. -/
  | sysRdts (h : Head) (x : XBody)
  /-- BEAT_ISSUE (R70): A later beat of a multi-beat firing issues once spacing, overlap and port room allow. -/
  | beatIssue (b : BrickId)
  /-- BEAT_WRITE_BACK (R69): A beat's result is written back at the end of its latency. -/
  | beatWriteBack (b : BrickId) (k : Nat)
  /-- FIRING_COMMIT (R76): A firing commits once it and every earlier firing have passed their trap points; its effects then take effect. -/
  | firingCommit (b : BrickId)
  /-- PRECISE_TRAP (R77): A trapping firing clears PICK, discards later firings and, after the earlier commits, writes the trap record. -/
  | preciseTrap (b : BrickId)
  /-- PICKER_WAKE (R90): The picker resumes after IDLE on the first event that can change eligibility. -/
  | pickerWake (b : BrickId)
  /-- TOKEN_ARRIVAL (R183): A token arrives at an input and enters its queue or its gutter under credit. -/
  | tokenArrival (n : Nat)
  /-- GUTTER_REFILL (R186): The gutter's head entry moves to the queue's tail when a place is free. -/
  | gutterRefill (b : BrickId) (ch : Nat)
  /-- TOKEN_FORWARD (R183): A token leaves a skid buffer toward a destination that has granted credit. -/
  | tokenForward (p : PortRef)
  /-- BRANCH_HOLD_DELIVER (R184): A multicast branch delivers its held copy when space appears. -/
  | branchHoldDeliver (p : PortRef) (branch : Nat)
  /-- BRICK_ALIGN (R188): A brick with a MARK or WEEP at every connected head aligns: it consumes the MARKs, advances its round and emits MARKs. -/
  | brickAlign (b : BrickId)
  /-- REGION_ROUND_UPDATE (R381): The controller raises the region round within 8 cycles of an alignment. -/
  | regionRoundUpdate (r : RegionId)
  /-- BRICK_WEEP (R191): A brick with WEEP at every connected head weeps: it clears PICK, dequeues the WEEPs and emits WEEPs. -/
  | brickWeep (b : BrickId)
  /-- WEEP_ORDER (R191): The region controller orders bricks to weep, either at completion or directly at a fault or halt. -/
  | weepOrder (r : RegionId)
  /-- RECONFIG_APPLY (R192): A wept brick applies its held reconfiguration and sets PICK. -/
  | reconfigApply (b : BrickId)
  /-- BRICK_RECLAIM (R206): A brick leaving DRAINING has its pool invalidated and its granules reclaimed, and becomes FREE or HELD. -/
  | brickReclaim (b : BrickId)
  /-- OWNER_REQUEST (R242): An owner edge brick takes a global request, translates it, coalesces it and issues it. -/
  | ownerRequest (n : Nat)
  /-- COALESCE_TIMEOUT (R242): A coalescing-buffer line that has waited 64 cycles leaves for its home slice. -/
  | coalesceTimeout (e : BrickId) (line : Nat)
  /-- PAGE_WALK (R228): A TLB miss walks the page tables with a walker of its bay share. -/
  | pageWalk (n : Nat)
  /-- LOFT_ACCESS (R232): A request is performed at its home loft slice, with timestamps and leases. -/
  | loftAccess (n : Nat)
  /-- LOFT_FILL_DONE (R281): A sector fill arrives and serves the reads that wait for it, without overwriting masked bytes. -/
  | loftFillDone (line : Nat)
  /-- HBM_REQUEST (R235): A pseudo-channel controller serves a request. -/
  | hbmRequest (line : Nat)
  /-- DEADLINE_SERVICE (R236): At its latest-service time a deadline request is issued, closing an open row early. -/
  | deadlineService (line : Nat)
  /-- REFRESH_START (R237): A pseudo-channel begins a refresh at its interval. -/
  | refreshStart (stack pc : Nat)
  /-- REFRESH_END (R237): A refresh ends and the requests that waited are served and counted. -/
  | refreshEnd (stack pc : Nat)
  /-- STACK_SENSOR_READING (R238): A stack sensor reading enters or leaves doubled refresh or throttling. -/
  | stackSensorReading (stack temp : Nat)
  /-- THERMTRIP (R408): A stack that reaches 105 °C stops serving, and its regions fault DEVICE. -/
  | thermtrip (stack : Nat)
  /-- TALW_UPDATE (R239): Every 10 µs the die's thermal allowance register is updated. -/
  | talwUpdate (die rise : Nat)
  /-- THERMAL_NOTICE (R383): Under THERM notify, a crossing of TTH sends a thermal notice token. -/
  | thermalNotice (r : RegionId) (stack : Nat)
  /-- RSTALL_READ (R237): A management-window read of RSTALL returns STALL and clears it. -/
  | rstallRead (stack : Nat)
  /-- REBASE (R273): A tenancy's timestamps approach their limit: new requests are held, the tenancy drains, and every timestamp resets. -/
  | rebase (t : Nat)
  /-- INVCMD_VA (R229): Invalidates every TLB and walk-cache entry covering a virtual page of a tenancy. -/
  | invcmdVa (die t page : Nat)
  /-- INVCMD_TENANCY (R229): Invalidates every TLB and walk-cache entry of a tenancy. -/
  | invcmdTenancy (die t : Nat)
  /-- INVCMD_COMPLETE (R229): GO clears once every access marked by the invalidation has finished. -/
  | invcmdComplete (die : Nat)
  /-- GLOBAL_RETURN (R246): A GLD, GAT or slate-map return, or a FAULT token, lands in its reserved place in the return channel. -/
  | globalReturn (n : Nat)
  /-- HANDOVER_MESSAGE (R280): The old owner sends the handover message once the acknowledgements and flushes are done. -/
  | handoverMessage (n : Nat)
  /-- HANDOVER_RELEASE (R280): The new owner receives the message and performs the forwarded and held requests. -/
  | handoverRelease (n : Nat)
  /-- STREAM_TILE_START (R254): A LIVE source record with credit starts a tile. -/
  | streamTileStart (b : BrickId) (r : Nat)
  /-- STREAM_WORD_SEND (R511): A source record places a DATA or SCALE word on its stream route. -/
  | streamWordSend (b : BrickId) (r : Nat)
  /-- STREAM_INPUT_TAKE (R255): A destination record takes one token from its stream input port and writes or forwards it. -/
  | streamInputTake (b : BrickId) (r : Nat)
  /-- STREAM_RUN_END (R257): A record's run ends, and a DONE is sent once the writes have landed. -/
  | streamRunEnd (b : BrickId) (r : Nat)
  /-- DRAW_PORT_TAKE (R254): The draw port takes one token per cycle and adds a DRAW's count to its record's credit. -/
  | drawPortTake (b : BrickId)
  /-- PARAM_PORT_TAKE (R261): The parameter port takes a token into its hold register, or discards a non-PARAM token. -/
  | paramPortTake (b : BrickId)
  /-- PARAM_APPLY (R261): A held PARAM is applied once the brick has aligned and the record is IDLE. -/
  | paramApply (b : BrickId)
  /-- TASK_RECORD_ARRIVAL (R293): The course scheduler takes a task record, checks it and queues it. -/
  | taskRecordArrival (b : BrickId)
  /-- WINDOW_ENTER (R294): The record at the head of the ring enters the issue window when its entry and the window allow. -/
  | windowEnter (die course : Nat)
  /-- STALE_RECORD (R295): A stale record leaves the window unissued with status STALE. -/
  | staleRecord (die course : Nat) (k : Nat)
  /-- TASK_ISSUE (R296): The scheduler issues the oldest ready record to the lowest free slab. -/
  | taskIssue (die course : Nat)
  /-- TASK_COMPUTE_END (R297): A slab finishes computing a task. -/
  | taskComputeEnd (b : BrickId) (acc : Nat)
  /-- DRAIN_START (R299): A drain starts once its route is known, including after a STEER. -/
  | drainStart (b : BrickId) (acc : Nat)
  /-- DRAIN_WORD (R299): A drain sends one tile word as credit allows. -/
  | drainWord (b : BrickId) (acc : Nat)
  /-- TASK_DONE (R301): The scheduler sends the task's DONE and sets its scoreboard entry. -/
  | taskDone (b : BrickId) (acc : Nat)
  /-- STEER_PORT_TAKE (R300): The steer port takes a token and sets a steer table entry, or discards the token. -/
  | steerPortTake (die course : Nat)
  /-- SLATE_MAP_OPERATION (R316): After commit, a PIN, UNPIN or LOOK performs its map accesses and returns its status. -/
  | slateMapOperation (n : Nat)
  /-- SLATE_RELEASE (R316): The holder applies an UNPIN release, frees the granules and writes the entry. -/
  | slateRelease (n : Nat)
  /-- FRAME_LAND (R326): An arriving frame lands in a dock, or parks at the ring port. -/
  | frameLand (n : Nat)
  /-- DOCK_NOTICE (R325): A frame's landing, and any HBM slate fetch, ends; the notice is enqueued and the dock becomes DOCKED. -/
  | dockNotice (b : BrickId) (dock : Nat)
  /-- LAUNCH_COPY_END (R333): A launch copy ends and its dock becomes DOCKED. -/
  | launchCopyEnd (b : BrickId) (dock : Nat)
  /-- FIRE_END (R337): FIRE finishes its computation, returns the dock to DOCKED or, with FWD, routes the frame. -/
  | fireEnd (b : BrickId) (dock : Nat)
  /-- RING_PORT_SEND (R334): The ring port, holding its target, sends the frame's flits. -/
  | ringPortSend (b : BrickId) (dock : Nat)
  /-- FIN_TOKEN_EMIT (R335): FIN emits its next output token when the port has room. -/
  | finTokenEmit (b : BrickId) (dock : Nat)
  /-- GATEWAY_CONTRIBUTION (R341): The collective port takes a contribution stream to a group. -/
  | gatewayContribution (die : Nat)
  /-- GATEWAY_COMBINE (R342): When all contributions have arrived, the gateway combines them and delivers the sum. -/
  | gatewayCombine (gid : Nat)
  /-- FOOTING_PACKET_ARRIVAL (R358): A query packet enters an engine's post queue. -/
  | footingPacketArrival (b : BrickId)
  /-- QUERY_START (R359): The engine starts the oldest queued query when a context and budget allow. -/
  | queryStart (eng : Nat)
  /-- EXPANSION_STEP (R352): When the step's replies are in, the search offers them and expands the next candidate. -/
  | expansionStep (eng q : Nat)
  /-- DISTANCE_REQUEST (R355): A home engine computes a distance on a lane and replies. -/
  | distanceRequest (eng q k : Nat)
  /-- QUERY_COMPLETE (R363): A query delivers its results, then its completion record, and frees its context. -/
  | queryComplete (eng q : Nat)
  /-- QBLK_BUFFER_EMIT (R171): The QBLK buffer enqueues the next block word when the port has room. -/
  | qblkBufferEmit (b : BrickId)
  /-- REGION_COMPLETION (R378): When the last sink reports, the controller orders the weep. -/
  | regionCompletion (r : RegionId)
  /-- COMPLETION_WORD_STORE (R282): Once every access has been performed, the controller stores the completion word. -/
  | completionWordStore (r : RegionId)
  /-- COUNT_WAVE (R380): Every 4,096 cycles the controller collects busy flags and counters; quiescence raises DEADLOCK. -/
  | countWave (r : RegionId)
  /-- REGION_FAULT (R403): A region takes its first fatal fault: one record is written and the region tears down. -/
  | regionFault (r : RegionId)
  /-- BIND_SUBMIT (R370): A write of bind word 0 with GO submits a bind record to its slot. -/
  | bindSubmit (r : RegionId) (w0 : Word)
  /-- RECONFIG_SUBMIT (R375): A bind record with RCF submits a reconfiguration of a running region. -/
  | reconfigSubmit (r : RegionId)
  /-- DISPATCH_LOAD (R373): Dispatch takes the next VALID record, checks it, holds or loads it, and starts the region. -/
  | dispatchLoad (die : Nat)
  /-- HELD_RECORD_RELEASE (R24): A held bind record proceeds once its bricks leave DRAINING or the thermal hold ends. -/
  | heldRecordRelease (r : RegionId)
  /-- BSTAT_KILL (R371): Writing KILL in RUN gives the region the DOMAIN fault. -/
  | bstatKill (r : RegionId) (node : Nat)
  /-- BSTAT_CLR (R371): Writing CLR returns a finished slot to FREE. -/
  | bstatClr (r : RegionId)
  /-- BAY_GRANT (R26): The foreman grants whole bays to a node, or refuses the request whole. -/
  | bayGrant (node : Nat) (baysAsked : Nat)
  /-- BAY_RETURN (R25): A bay whose bricks are all FREE or OUT returns to the device. -/
  | bayReturn (node bay : Nat)
  /-- SWCMD (R387): The set-wave command starts a round-edge or immediate wave of a region. -/
  | swcmd (die : Nat) (value : Word)
  /-- SETW_STOP (R389): A SETW message stops a brick at its stop point and the engines settle. -/
  | setwStop (b : BrickId)
  /-- SETW_WAIT_EXPIRY (R390): The round-edge limit expires, and the wave becomes immediate. -/
  | setwWaitExpiry (r : RegionId)
  /-- IMAGE_CAPTURE (R391): Once everything has settled, the controller writes the image and the halted completion word, and orders the weep. -/
  | imageCapture (r : RegionId)
  /-- BSR_CTL_PICK_SET (R89): A management-window write of PICK = 1 starts the picker and clears a held trap record's VALID. -/
  | bsrCtlPickSet (b : BrickId)
  /-- BSR_CTL_PICK_CLEAR (R82): A management-window write of PICK = 0 stops the picker. -/
  | bsrCtlPickClear (b : BrickId)
  /-- BSR_CTL_STEP (R82): A management-window write sets or clears STEP mode. -/
  | bsrCtlStep (b : BrickId) (on : Bool)
  /-- BSR_CTL_PASS (R82): A management-window write of PASS lets the next BKPT complete as NOP. -/
  | bsrCtlPass (b : BrickId)
  /-- TSCFG_WRITE (R272): Foreman write of a tenancy's lease and deadline window, ignored whole when out of range. -/
  | tscfgWrite (t : Nat) (value : Word)
  /-- ERRWIN_WRITE (R406): Write of the error-window parameters, ignored whole when any field is zero. -/
  | errwinWrite (value : Word)
  /-- REGISTER_WRITE (R8): Write to a register with no behaviour of its own, such as PTROOT, SWADDR, FLOGCTL.TAIL or CQCONS. -/
  | registerWrite (r : RegName) (value : Word)
  /-- PATROL_SCRUB (R208): Every 2,048 cycles the scrubber reads and corrects one bank word. -/
  | patrolScrub (b : BrickId)
  /-- ERROR_EVENT (R405): A corrected or uncorrectable error or a link retry is weighed against its unit's window, and may mark the unit LASTING. -/
  | errorEvent (u : UnitRef) (kind : ErrorKind) (addr : Nat)
  /-- BOOT (R17): At boot the keystone maps out listed bricks, sets CAPB and BPM, and derives the alias key. -/
  | boot
  /-- MAPOUT_REMOVE (R20): An authenticated management command removes an entry from the map-out list. -/
  | mapoutRemove (b : BrickId)
  /-- KICK (R437): The device takes a kick, verifies the slot header and queues the command. -/
  | kick
  /-- KICK_REREAD (R437): After 2 µs a kick re-reads its slot header, or posts KICKSTALE after the fifth try. -/
  | kickReread
  /-- COMPLETION_POST (R439): A command's completion entry is written when the completion ring has room. -/
  | completionPost
  /-- CQBASE_WRITE (R439): Sets the completion ring's base and resets PROD, CONS and PHASE. -/
  | cqbaseWrite (value : Word)
  /-- HOST_NOP (R440): Host command that completes OK. -/
  | hostNop
  /-- SUMMARY (R409): Host command that writes a state summary taken at one snapshot cycle. -/
  | summary
  /-- CHKPT (R398): Host command that halts regions and checkpoints the device to a safe tier. -/
  | chkpt
  /-- TENSET (R413): Host command that sets a tenancy's registers and makes it live. -/
  | tenset
  /-- TENCLR (R415): Host command that takes a tenancy down and erases its keys and state. -/
  | tenclr
  /-- KEYMAP (R427): Host command that sets a key slot's weight base and tag array. -/
  | keymap
  /-- RESTORE (R399): Host command that restores a signed checkpoint. -/
  | restore (safeTier : List Byte)
  /-- KEYLOAD (R424): SPDM vendor request that loads a key into the lowest empty slot. -/
  | keyload (session t hash key : Nat)
  /-- KEYDROP (R433): SPDM vendor request that erases a slot's key. -/
  | keydrop (session slot : Nat)
  /-- SPDM_GET_CERTIFICATE (R422): Returns the certificate chain of slot 0. -/
  | spdmGetCertificate
  /-- SPDM_CHALLENGE (R422): Signs a challenge with the alias key. -/
  | spdmChallenge (nonce : Nat)
  /-- SPDM_GET_MEASUREMENTS (R423): Returns signed measurements. -/
  | spdmGetMeasurements (index nonce : Nat)
  /-- SPDM_KEY_EXCHANGE (R421): Opens a secured session, rejecting a ninth. -/
  | spdmKeyExchange (request : SessionRequest)
  /-- WEIGHT_CHUNK_READ (R428): The flashing unit reads and verifies a weight chunk, or faults INTEG. -/
  | weightChunkRead (b : BrickId) (va : Nat)
  /-- RING_FLIT_RECEIVE (R442): A scale-out port receives a ring flit, acknowledges it or draws a replay. -/
  | ringFlitReceive (port : Nat) (flit : List Byte)
  /-- LINKDOWN (R408): A lost port or lane faults the regions routed over it. -/
  | linkdown (u : UnitRef)
  /-- POWER_LIMIT_STEP_DOWN (R444): At 3.6 kW the fabric clock drops by 100 MHz. -/
  | powerLimitStepDown (watts : Nat)
  /-- POWER_STEP_UP (R444): Below 3.4 kW the fabric clock rises by 100 MHz, up to 2.7 GHz. -/
  | powerStepUp (watts : Nat)
  /-- TDI_LEAVE_RUN (R435): A TDI that leaves TDISP RUN loses its decrypted view. -/
  | tdiLeaveRun (t : Nat) (target : TdiState)
  /-- INTERNAL_ACKNOWLEDGEMENT (R267): A GST's internal acknowledgement returns its timestamp to the issuing brick, which raises pts and releases the brick's held global requests to other lines. -/
  | internalAcknowledgement (n : Nat)
  /-- HST_ACCESS (R432): A host or peer DMA access arrives, translates under class HST and is served through its home loft slice, encrypted or in plaintext as R432 gives. -/
  | hstAccess (t : Nat) (ide : Bool) (va : Nat) (store : Option (List Byte)) (len : Nat)
  /-- TDI_ENTER_RUN (R435): A TDI enters the TDISP RUN state, so accesses over its bound IDE stream gain the plaintext view of R432. -/
  | tdiEnterRun (t : Nat) (bound : Bool)
  deriving DecidableEq, Repr

end Sys2Proof
end

