-- ==== Sys2Proof/Machine/Loader.lean ====
section
/-! DEFINITION. The rule word: its raw fields (R30-R35), the opcode and sub-operation maps (R44, R46) and the loader's checks in the order of R47. -/

namespace Sys2Proof

/-- A rule word cut into opcode, head and body (R30, R32); `other` is an INV word or one of the reserved opcode. -/
inductive Raw where
  | fT (opc : Nat) (h : Head) (x : TBody)
  | fU (opc : Nat) (h : Head) (x : UBody)
  | fI (opc : Nat) (h : Head) (x : IBody)
  | fM (opc : Nat) (h : Head) (x : MBody)
  | fP (opc : Nat) (h : Head) (x : PBody)
  | fK (opc : Nat) (h : Head) (x : KBody)
  | fX (opc : Nat) (h : Head) (x : XBody)
  | other (w : Word)
  deriving DecidableEq, Repr

/-- The fields of bits [56:30] (R30). -/
def Head.ofWord (w : Word) : Head where
  pcare := w.extractLsb' 49 8
  pval := w.extractLsb' 41 8
  inrdy := w.extractLsb' 37 4
  tagEn := w.extractLsb' 36 1
  tagCh := w.extractLsb' 34 2
  tagTag := w.extractLsb' 32 2
  beats := w.extractLsb' 30 2

def TBody.ofWord (w : Word) : TBody where
  wid := w.extractLsb' 27 3
  d := w.extractLsb' 20 7
  a := w.extractLsb' 13 7
  b := w.extractLsb' 6 7
  pdst := w.extractLsb' 3 3
  pmode := w.extractLsb' 1 2
  keep := w.extractLsb' 0 1

def UBody.ofWord (w : Word) : UBody where
  wid := w.extractLsb' 27 3
  d := w.extractLsb' 20 7
  a := w.extractLsb' 13 7
  imm7 := w.extractLsb' 6 7
  pdst := w.extractLsb' 3 3
  pmode := w.extractLsb' 1 2
  keep := w.extractLsb' 0 1

def IBody.ofWord (w : Word) : IBody where
  wid := w.extractLsb' 27 3
  d := w.extractLsb' 20 7
  imm14 := w.extractLsb' 6 14
  pdst := w.extractLsb' 3 3
  pmode := w.extractLsb' 1 2
  keep := w.extractLsb' 0 1

def MBody.ofWord (w : Word) : MBody where
  wid := w.extractLsb' 27 3
  d := w.extractLsb' 20 7
  a := w.extractLsb' 13 7
  off7 := w.extractLsb' 6 7
  pdst := w.extractLsb' 3 3
  pmode := w.extractLsb' 1 2
  keep := w.extractLsb' 0 1

def PBody.ofWord (w : Word) : PBody where
  pd := w.extractLsb' 27 3
  pa := w.extractLsb' 24 3
  pb := w.extractLsb' 21 3
  fn := w.extractLsb' 17 4
  mask := w.extractLsb' 9 8
  val := w.extractLsb' 1 8
  keep := w.extractLsb' 0 1

def KBody.ofWord (w : Word) : KBody where
  wid := w.extractLsb' 27 3
  och := w.extractLsb' 25 2
  tag := w.extractLsb' 23 2
  a := w.extractLsb' 16 7
  csub := w.extractLsb' 12 4
  imm11 := w.extractLsb' 1 11
  keep := w.extractLsb' 0 1

def XBody.ofWord (w : Word) : XBody where
  sub := w.extractLsb' 24 6
  d := w.extractLsb' 17 7
  a := w.extractLsb' 10 7
  b := w.extractLsb' 3 7
  z := w.extractLsb' 1 2
  keep := w.extractLsb' 0 1

/-- Opcode and head as bits [63:30] (R30). -/
def Head.toBits (opc : Nat) (h : Head) : BitVec 34 :=
  BitVec.ofNat 7 opc ++ h.pcare ++ h.pval ++ h.inrdy ++ h.tagEn ++ h.tagCh ++ h.tagTag ++ h.beats

def TBody.toBits (x : TBody) : BitVec 30 :=
  x.wid ++ x.d ++ x.a ++ x.b ++ x.pdst ++ x.pmode ++ x.keep
def UBody.toBits (x : UBody) : BitVec 30 :=
  x.wid ++ x.d ++ x.a ++ x.imm7 ++ x.pdst ++ x.pmode ++ x.keep
def IBody.toBits (x : IBody) : BitVec 30 :=
  x.wid ++ x.d ++ x.imm14 ++ x.pdst ++ x.pmode ++ x.keep
def MBody.toBits (x : MBody) : BitVec 30 :=
  x.wid ++ x.d ++ x.a ++ x.off7 ++ x.pdst ++ x.pmode ++ x.keep
def PBody.toBits (x : PBody) : BitVec 30 :=
  x.pd ++ x.pa ++ x.pb ++ x.fn ++ x.mask ++ x.val ++ x.keep
def KBody.toBits (x : KBody) : BitVec 30 :=
  x.wid ++ x.och ++ x.tag ++ x.a ++ x.csub ++ x.imm11 ++ x.keep
def XBody.toBits (x : XBody) : BitVec 30 :=
  x.sub ++ x.d ++ x.a ++ x.b ++ x.z ++ x.keep

/-- The formats of the opcode map (R44). -/
inductive Format where
  | t | u | i | m | p | k | x | none
  deriving DecidableEq, Repr

/-- The format of an opcode; 0x00 (INV) and 0x5F have none (R29, R44). -/
def formatOf (opc : Nat) : Format :=
  if opc = 0x00 ∨ opc = 0x5F then .none
  else if opc ∈ [0x05, 0x1E, 0x1F, 0x20, 0x33, 0x34, 0x3C, 0x3D, 0x3E] then .i
  else if opc ∈ [0x16, 0x17, 0x32, 0x3F, 0x4D, 0x4E, 0x5A, 0x5E, 0x77] then .u
  else if (0x25 ≤ opc ∧ opc ≤ 0x30) ∨ (0x51 ≤ opc ∧ opc ≤ 0x55) ∨ (0x62 ≤ opc ∧ opc ≤ 0x67) then .u
  else if opc < 0x60 then .t
  else if opc < 0x62 then .p
  else if opc < 0x70 then .m
  else if opc < 0x77 then .k
  else .x

/-- The fields of a word in the format that its opcode gives (R32). -/
def Raw.ofWord (w : Word) : Raw :=
  let opc := (w.extractLsb' 57 7).toNat
  let h := Head.ofWord w
  match formatOf opc with
  | .t => .fT opc h (.ofWord w)
  | .u => .fU opc h (.ofWord w)
  | .i => .fI opc h (.ofWord w)
  | .m => .fM opc h (.ofWord w)
  | .p => .fP opc h (.ofWord w)
  | .k => .fK opc h (.ofWord w)
  | .x => .fX opc h (.ofWord w)
  | .none => .other w

/-- The word that raw fields make (R30, R32). -/
def Raw.toWord : Raw → Word
  | .fT opc h x => h.toBits opc ++ x.toBits
  | .fU opc h x => h.toBits opc ++ x.toBits
  | .fI opc h x => h.toBits opc ++ x.toBits
  | .fM opc h x => h.toBits opc ++ x.toBits
  | .fP opc h x => h.toBits opc ++ x.toBits
  | .fK opc h x => h.toBits opc ++ x.toBits
  | .fX opc h x => h.toBits opc ++ x.toBits
  | .other w => w

/-- The format, the opcode, the head and the body of a rule instruction (R32, R44); a step of another agent has none. -/
def toRaw : Instr → Option Raw
  | .add h x => some (.fT 0x01 h x)
  | .sub h x => some (.fT 0x02 h x)
  | .adc h x => some (.fT 0x03 h x)
  | .sbb h x => some (.fT 0x04 h x)
  | .addi h x => some (.fI 0x05 h x)
  | .mul h x => some (.fT 0x06 h x)
  | .mulh h x => some (.fT 0x07 h x)
  | .mulhu h x => some (.fT 0x08 h x)
  | .mad h x => some (.fT 0x09 h x)
  | .divu h x => some (.fT 0x0A h x)
  | .remu h x => some (.fT 0x0B h x)
  | .divs h x => some (.fT 0x0C h x)
  | .rems h x => some (.fT 0x0D h x)
  | .adds h x => some (.fT 0x0E h x)
  | .addsu h x => some (.fT 0x0F h x)
  | .subs h x => some (.fT 0x10 h x)
  | .subsu h x => some (.fT 0x11 h x)
  | .min h x => some (.fT 0x12 h x)
  | .max h x => some (.fT 0x13 h x)
  | .minu h x => some (.fT 0x14 h x)
  | .maxu h x => some (.fT 0x15 h x)
  | .abs h x => some (.fU 0x16 h x)
  | .neg h x => some (.fU 0x17 h x)
  | .and h x => some (.fT 0x18 h x)
  | .or h x => some (.fT 0x19 h x)
  | .xor h x => some (.fT 0x1A h x)
  | .andn h x => some (.fT 0x1B h x)
  | .orn h x => some (.fT 0x1C h x)
  | .xnor h x => some (.fT 0x1D h x)
  | .andi h x => some (.fI 0x1E h x)
  | .ori h x => some (.fI 0x1F h x)
  | .xori h x => some (.fI 0x20 h x)
  | .shl h x => some (.fT 0x21 h x)
  | .shr h x => some (.fT 0x22 h x)
  | .sar h x => some (.fT 0x23 h x)
  | .rol h x => some (.fT 0x24 h x)
  | .shli h x => some (.fU 0x25 h x)
  | .shri h x => some (.fU 0x26 h x)
  | .sari h x => some (.fU 0x27 h x)
  | .roli h x => some (.fU 0x28 h x)
  | .bext h x => some (.fU 0x29 h x)
  | .bexts h x => some (.fU 0x2A h x)
  | .bins h x => some (.fU 0x2B h x)
  | .sext h x => some (.fU 0x2C h x)
  | .clz h x => some (.fU 0x2D h x)
  | .ctz h x => some (.fU 0x2E h x)
  | .popc h x => some (.fU 0x2F h x)
  | .brev h x => some (.fU 0x30 h x)
  | .mov h x => some (.fT 0x31 h x)
  | .movw h x => some (.fU 0x32 h x)
  | .movi h x => some (.fI 0x33 h x)
  | .movhi h x => some (.fI 0x34 h x)
  | .sel h x => some (.fT 0x35 h x)
  | .cmpeq h x => some (.fT 0x36 h x)
  | .cmpne h x => some (.fT 0x37 h x)
  | .cmplt h x => some (.fT 0x38 h x)
  | .cmpltu h x => some (.fT 0x39 h x)
  | .cmple h x => some (.fT 0x3A h x)
  | .cmpleu h x => some (.fT 0x3B h x)
  | .cmpeqi h x => some (.fI 0x3C h x)
  | .cmplti h x => some (.fI 0x3D h x)
  | .cmpltui h x => some (.fI 0x3E h x)
  | .btst h x => some (.fU 0x3F h x)
  | .fadd h x => some (.fT 0x40 h x)
  | .fsub h x => some (.fT 0x41 h x)
  | .fmul h x => some (.fT 0x42 h x)
  | .ffma h x => some (.fT 0x43 h x)
  | .ffms h x => some (.fT 0x44 h x)
  | .fmin h x => some (.fT 0x45 h x)
  | .fmax h x => some (.fT 0x46 h x)
  | .fminm h x => some (.fT 0x47 h x)
  | .fmaxm h x => some (.fT 0x48 h x)
  | .fcmpeq h x => some (.fT 0x49 h x)
  | .fcmplt h x => some (.fT 0x4A h x)
  | .fcmple h x => some (.fT 0x4B h x)
  | .fcmpun h x => some (.fT 0x4C h x)
  | .fabs h x => some (.fU 0x4D h x)
  | .fneg h x => some (.fU 0x4E h x)
  | .fscb h x => some (.fT 0x4F h x)
  | .fdiv h x => some (.fT 0x50 h x)
  | .sfuExp2 h x => some (.fU 0x51 h x)
  | .sfuLog2 h x => some (.fU 0x51 h x)
  | .sfuRcp h x => some (.fU 0x51 h x)
  | .sfuRsqrt h x => some (.fU 0x51 h x)
  | .sfuSqrt h x => some (.fU 0x51 h x)
  | .sfuTanh h x => some (.fU 0x51 h x)
  | .sfuSinpi h x => some (.fU 0x51 h x)
  | .sfuCospi h x => some (.fU 0x51 h x)
  | .cvt h x => some (.fU 0x52 h x)
  | .cvtfi h x => some (.fU 0x53 h x)
  | .cvtif h x => some (.fU 0x54 h x)
  | .frnd h x => some (.fU 0x55 h x)
  | .fsum h x => some (.fT 0x56 h x)
  | .fmaxr h x => some (.fT 0x57 h x)
  | .fdot h x => some (.fT 0x58 h x)
  | .expd h x => some (.fT 0x59 h x)
  | .qblk h x => some (.fU 0x5A h x)
  | .dqblk h x => some (.fT 0x5B h x)
  | .bpspl h x => some (.fT 0x5C h x)
  | .bpjn h x => some (.fT 0x5D h x)
  | .fcls h x => some (.fU 0x5E h x)
  | .plog h x => some (.fP 0x60 h x)
  | .psetv h x => some (.fP 0x61 h x)
  | .ptos h x => some (.fU 0x62 h x)
  | .stop h x => some (.fU 0x63 h x)
  | .trap h x => some (.fU 0x64 h x)
  | .bkpt h x => some (.fU 0x65 h x)
  | .idle h x => some (.fU 0x66 h x)
  | .nop h x => some (.fU 0x67 h x)
  | .ldb h x => some (.fM 0x68 h x)
  | .stb h x => some (.fM 0x69 h x)
  | .ldbi h x => some (.fM 0x6A h x)
  | .stbi h x => some (.fM 0x6B h x)
  | .atb h x => some (.fM 0x6C h x)
  | .casb h x => some (.fM 0x6D h x)
  | .spl h x => some (.fM 0x6E h x)
  | .fil h x => some (.fM 0x6F h x)
  | .ldpw h x => some (.fU 0x77 h x)
  | .emit h x => some (.fK 0x70 h x)
  | .eos h x => some (.fK 0x71 h x)
  | .mark h x => some (.fK 0x72 h x)
  | .weep h x => some (.fK 0x73 h x)
  | .drop h x => some (.fK 0x74 h x)
  | .rtag h x => some (.fK 0x75 h x)
  | .steer h x => some (.fK 0x76 h x)
  | .gld h x => some (.fX 0x78 h x)
  | .gst h x => some (.fX 0x79 h x)
  | .gat h x => some (.fX 0x7A h x)
  | .strmArm h x => some (.fX 0x7B h x)
  | .strmAbort h x => some (.fX 0x7B h x)
  | .strmStat h x => some (.fX 0x7B h x)
  | .ttq h x => some (.fX 0x7C h x)
  | .ttqTid h x => some (.fX 0x7C h x)
  | .slfFire h x => some (.fX 0x7D h x)
  | .slfHdrLaunch h x => some (.fX 0x7D h x)
  | .slfHdrRd h x => some (.fX 0x7D h x)
  | .slfHdrWr h x => some (.fX 0x7D h x)
  | .slfFin h x => some (.fX 0x7D h x)
  | .slfRoute h x => some (.fX 0x7D h x)
  | .slfPin h x => some (.fX 0x7D h x)
  | .slfUnpin h x => some (.fX 0x7D h x)
  | .slfLook h x => some (.fX 0x7D h x)
  | .fqryPost h x => some (.fX 0x7E h x)
  | .fqryCncl h x => some (.fX 0x7E h x)
  | .sysXfence h x => some (.fX 0x7F h x)
  | .sysHandover h x => some (.fX 0x7F h x)
  | .sysRdbsr h x => some (.fX 0x7F h x)
  | .sysWrbsr h x => some (.fX 0x7F h x)
  | .sysWatch h x => some (.fX 0x7F h x)
  | .sysSink h x => some (.fX 0x7F h x)
  | .sysWptr h x => some (.fX 0x7F h x)
  | .sysRdts h x => some (.fX 0x7F h x)
  | _ => none

/-- The special functions of opcode 0x51 by IMM7 (R46). -/
def ofSfu (imm7 : Nat) : Option (Head → UBody → Instr) :=
  match imm7 with
  | 0 => some .sfuExp2
  | 1 => some .sfuLog2
  | 2 => some .sfuRcp
  | 3 => some .sfuRsqrt
  | 4 => some .sfuSqrt
  | 5 => some .sfuTanh
  | 6 => some .sfuSinpi
  | 7 => some .sfuCospi
  | _ => none

/-- The T-format instruction of an opcode (R44). -/
def ofT (opc : Nat) : Option (Head → TBody → Instr) :=
  match opc with
  | 0x01 => some .add
  | 0x02 => some .sub
  | 0x03 => some .adc
  | 0x04 => some .sbb
  | 0x06 => some .mul
  | 0x07 => some .mulh
  | 0x08 => some .mulhu
  | 0x09 => some .mad
  | 0x0A => some .divu
  | 0x0B => some .remu
  | 0x0C => some .divs
  | 0x0D => some .rems
  | 0x0E => some .adds
  | 0x0F => some .addsu
  | 0x10 => some .subs
  | 0x11 => some .subsu
  | 0x12 => some .min
  | 0x13 => some .max
  | 0x14 => some .minu
  | 0x15 => some .maxu
  | 0x18 => some .and
  | 0x19 => some .or
  | 0x1A => some .xor
  | 0x1B => some .andn
  | 0x1C => some .orn
  | 0x1D => some .xnor
  | 0x21 => some .shl
  | 0x22 => some .shr
  | 0x23 => some .sar
  | 0x24 => some .rol
  | 0x31 => some .mov
  | 0x35 => some .sel
  | 0x36 => some .cmpeq
  | 0x37 => some .cmpne
  | 0x38 => some .cmplt
  | 0x39 => some .cmpltu
  | 0x3A => some .cmple
  | 0x3B => some .cmpleu
  | 0x40 => some .fadd
  | 0x41 => some .fsub
  | 0x42 => some .fmul
  | 0x43 => some .ffma
  | 0x44 => some .ffms
  | 0x45 => some .fmin
  | 0x46 => some .fmax
  | 0x47 => some .fminm
  | 0x48 => some .fmaxm
  | 0x49 => some .fcmpeq
  | 0x4A => some .fcmplt
  | 0x4B => some .fcmple
  | 0x4C => some .fcmpun
  | 0x4F => some .fscb
  | 0x50 => some .fdiv
  | 0x56 => some .fsum
  | 0x57 => some .fmaxr
  | 0x58 => some .fdot
  | 0x59 => some .expd
  | 0x5B => some .dqblk
  | 0x5C => some .bpspl
  | 0x5D => some .bpjn
  | _ => none

/-- The U-format instruction of an opcode (R44, R46). -/
def ofU (opc imm7 : Nat) : Option (Head → UBody → Instr) :=
  match opc with
  | 0x16 => some .abs
  | 0x17 => some .neg
  | 0x25 => some .shli
  | 0x26 => some .shri
  | 0x27 => some .sari
  | 0x28 => some .roli
  | 0x29 => some .bext
  | 0x2A => some .bexts
  | 0x2B => some .bins
  | 0x2C => some .sext
  | 0x2D => some .clz
  | 0x2E => some .ctz
  | 0x2F => some .popc
  | 0x30 => some .brev
  | 0x32 => some .movw
  | 0x3F => some .btst
  | 0x4D => some .fabs
  | 0x4E => some .fneg
  | 0x51 => ofSfu imm7
  | 0x52 => some .cvt
  | 0x53 => some .cvtfi
  | 0x54 => some .cvtif
  | 0x55 => some .frnd
  | 0x5A => some .qblk
  | 0x5E => some .fcls
  | 0x62 => some .ptos
  | 0x63 => some .stop
  | 0x64 => some .trap
  | 0x65 => some .bkpt
  | 0x66 => some .idle
  | 0x67 => some .nop
  | 0x77 => some .ldpw
  | _ => none

/-- The I-format instruction of an opcode (R44). -/
def ofI (opc : Nat) : Option (Head → IBody → Instr) :=
  match opc with
  | 0x05 => some .addi
  | 0x1E => some .andi
  | 0x1F => some .ori
  | 0x20 => some .xori
  | 0x33 => some .movi
  | 0x34 => some .movhi
  | 0x3C => some .cmpeqi
  | 0x3D => some .cmplti
  | 0x3E => some .cmpltui
  | _ => none

/-- The M-format instruction of an opcode (R44). -/
def ofM (opc : Nat) : Option (Head → MBody → Instr) :=
  match opc with
  | 0x68 => some .ldb
  | 0x69 => some .stb
  | 0x6A => some .ldbi
  | 0x6B => some .stbi
  | 0x6C => some .atb
  | 0x6D => some .casb
  | 0x6E => some .spl
  | 0x6F => some .fil
  | _ => none

/-- The P-format instruction of an opcode (R44). -/
def ofP (opc : Nat) : Option (Head → PBody → Instr) :=
  match opc with
  | 0x60 => some .plog
  | 0x61 => some .psetv
  | _ => none

/-- The K-format instruction of an opcode (R44). -/
def ofK (opc : Nat) : Option (Head → KBody → Instr) :=
  match opc with
  | 0x70 => some .emit
  | 0x71 => some .eos
  | 0x72 => some .mark
  | 0x73 => some .weep
  | 0x74 => some .drop
  | 0x75 => some .rtag
  | 0x76 => some .steer
  | _ => none
/-- The X-format instruction of an opcode, by SUB and, for SLF HDR, by B (R46, R244, R260, R291, R313, R330, R357, R93, R259, R262, R276, R279, R376). -/
def ofX (opc : Nat) (x : XBody) : Option (Head → XBody → Instr) :=
  let sub := x.sub.toNat
  match opc with
  | 0x78 => some .gld
  | 0x79 => some .gst
  | 0x7A => some .gat
  | 0x7B =>
    match sub % 8 with
    | 0 => some .strmArm
    | 1 => some .strmAbort
    | 2 => some .strmStat
    | _ => none
  | 0x7C =>
    match sub with
    | 0 => some .ttq
    | 0x20 => some .ttqTid
    | _ => none
  | 0x7D =>
    match sub with
    | 0 => some .slfFire
    | 1 =>
      match x.b.toNat with
      | 0 => some .slfHdrLaunch
      | 0x20 => some .slfHdrRd
      | 0x40 => some .slfHdrWr
      | _ => none
    | 2 => some .slfFin
    | 3 => some .slfRoute
    | 4 => some .slfPin
    | 5 => some .slfUnpin
    | 6 => some .slfLook
    | _ => none
  | 0x7E =>
    match sub with
    | 0 => some .fqryPost
    | 1 => some .fqryCncl
    | _ => none
  | 0x7F =>
    match sub with
    | 0 => some .sysXfence
    | 1 => some .sysHandover
    | 2 => some .sysRdbsr
    | 3 => some .sysWrbsr
    | 4 => some .sysWatch
    | 5 => some .sysSink
    | 6 => some .sysWptr
    | 7 => some .sysRdts
    | _ => none
  | _ => none

/-- The instruction of raw fields, where the maps of R44 and R46 name one. -/
def ofRaw : Raw → Option Instr
  | .fT opc h x => (ofT opc).map (· h x)
  | .fU opc h x => (ofU opc x.imm7.toNat).map (· h x)
  | .fI opc h x => (ofI opc).map (· h x)
  | .fM opc h x => (ofM opc).map (· h x)
  | .fP opc h x => (ofP opc).map (· h x)
  | .fK opc h x => (ofK opc).map (· h x)
  | .fX opc h x => (ofX opc x).map (· h x)
  | .other _ => none

/-- Bits of an integer width code (R36). -/
def intBits (wid : Nat) : Nat :=
  match wid with
  | 0 => 4
  | 1 => 8
  | 2 => 12
  | 3 => 16
  | 4 => 24
  | 5 => 32
  | 6 => 48
  | _ => 64

/-- Bits of an FP width code (R36); the reserved codes fail check 0x04 and take 32. -/
def fpBits (wid : Nat) : Nat :=
  match wid with
  | 0 => 4
  | 1 => 8
  | 2 => 8
  | 3 => 16
  | 4 => 16
  | _ => 32

/-- How a rule uses an operand field, with the slices the operand covers (R37, R40): a source, a destination, or both (R109). `srcD` is a D field read as a source only; `raw` is a field that holds no operand code. -/
inductive Use where
  | src (n : Nat)
  | dst (n : Nat)
  | rmw (n : Nat)
  | off
  | raw
  deriving DecidableEq, Repr

/-- True when the operand's value is read. -/
def Use.reads : Use → Bool
  | .src _ | .rmw _ => true
  | .dst _ | .off | .raw => false

/-- True when the rule writes through the field. -/
def Use.writes : Use → Bool
  | .dst _ | .rmw _ => true
  | .src _ | .off | .raw => false

/-- The slices an operand covers (R40). -/
def Use.slices : Use → Nat
  | .src n | .dst n | .rmw n => n
  | .off | .raw => 0

/-- What the owning chapter says of a rule's fields: the uses of D, A and B, and the checks 0x04, 0x05, 0x06, 0x09 (K and P fields), 0x0B and 0x0C that the word fails. -/
structure Layout where
  d : Use := .off
  a : Use := .off
  b : Use := .off
  badWidth : Bool := false
  badBeats : Bool := false
  badSub : Bool := false
  badUnused : Bool := false
  badPmode : Bool := false
  badResv : Bool := false
  deriving DecidableEq, Repr

/-- Check 0x0B and the PMODE part of check 0x0C for an ordinary rule or a compare (R41, R84, R214): `flag` when PMODE 10 is defined, `judge` when PMODE 01 and 11 are. -/
def pmodeBad (flag judge : Bool) (pdst pmode : Nat) : Bool × Bool :=
  ((pmode = 0 && pdst ≠ 0) || (pmode = 2 && !flag), (pmode = 1 || pmode = 3) && !judge)

/-- T-format integer rules with no flag (R113, R117, R122, R125). -/
def noFlagT : List Nat := [0x07, 0x08, 0x09, 0x18, 0x19, 0x1A, 0x1B, 0x1C, 0x1D, 0x31, 0x35]

/-- Layouts of the T format (R111-R126, R156). -/
def layoutT (opc : Nat) (x : TBody) : Layout :=
  let wid := x.wid.toNat
  let pm := x.pmode.toNat
  let pd := x.pdst.toNat
  if opc < 0x40 then
    let n := intBits wid / 4
    let base : Layout := { d := .dst n, a := .src n, b := .src n }
    if opc = 0x35 then { base with badPmode := pm ≠ 0 }
    else if opc = 0x03 ∨ opc = 0x04 then { base with badPmode := pm ≠ 2 }
    else
      let (bp, _) := pmodeBad (opc ∉ noFlagT) true pd pm
      let base := { base with badPmode := bp }
      if opc = 0x09 then { base with d := .rmw n }
      else if opc = 0x31 then { base with b := .off }
      else base
  else
    let n := fpBits wid / 4
    let (bp, _) := pmodeBad (opc ≠ 0x5C ∧ opc ≠ 0x5D) true pd pm
    let base : Layout := { d := .dst n, a := .src n, b := .src n, badWidth := 5 < wid, badPmode := bp }
    let wide : Bool := wid < 3 || 5 < wid
    let chD : Bool := 112 ≤ x.d.toNat && x.d.toNat ≤ 115
    if opc = 0x43 ∨ opc = 0x44 then { base with d := .rmw n }
    else if opc = 0x4F then { base with b := .src 2 }
    else if opc = 0x50 ∨ opc = 0x59 then { base with badWidth := wide }
    else if opc = 0x56 then { base with d := .rmw 8, b := .off, badResv := chD && x.a = x.d }
    else if opc = 0x57 then { base with d := .rmw n, b := .off, badResv := chD && x.a = x.d }
    else if opc = 0x58 then
      { base with d := .rmw 8, a := .src 16, b := .src 16, badResv := chD && (x.a = x.d || x.b = x.d) }
    else if opc = 0x5B then { base with a := .src 16, b := .src 4, badWidth := wide }
    else if opc = 0x5C then { base with d := .dst 16, a := .src 16, b := .off, badWidth := wid ≠ 1 }
    else if opc = 0x5D then { base with d := .dst 16, a := .src 16, b := .src 1, badWidth := wid ≠ 1 }
    else base

/-- Layouts of the U format (R84, R116-R127, R156, R165, R170, R214, R220). -/
def layoutU (opc : Nat) (h : Head) (x : UBody) : Layout :=
  let wid := x.wid.toNat
  let imm := x.imm7.toNat
  let pm := x.pmode.toNat
  let pd := x.pdst.toNat
  if opc < 0x40 then
    let w := intBits wid
    let n := w / 4
    let flag : Bool := opc ∉ [0x29, 0x2A, 0x2B, 0x2C, 0x30, 0x32]
    let (bp, _) := pmodeBad flag true pd pm
    let base : Layout := { d := .dst n, a := .src n, badPmode := bp }
    if opc ∈ [0x16, 0x17, 0x2D, 0x2E, 0x2F, 0x30] then { base with badSub := imm ≠ 0 }
    else if opc ∈ [0x25, 0x26, 0x27, 0x28, 0x2C] then { base with badSub := w ≤ imm }
    else if opc = 0x3F then { base with d := .off, badSub := w ≤ imm }
    else if opc = 0x32 then { base with a := .src (intBits (imm % 8) / 4), badSub := 16 ≤ imm }
    else
      let bad : Bool := w < imm % 4 + imm / 4 + 1
      if opc = 0x2B then { base with d := .rmw n, badSub := bad } else { base with badSub := bad }
  else if opc < 0x60 then
    let n := fpBits wid / 4
    let (bp, _) := pmodeBad true true pd pm
    let base : Layout := { d := .dst n, a := .src n, badWidth := 5 < wid, badPmode := bp }
    let sf := imm % 8
    if opc = 0x51 then { base with badWidth := wid < 3 || 5 < wid, badSub := 7 < imm }
    else if opc = 0x52 then { base with a := .src (fpBits sf / 4), badSub := 5 < imm }
    else if opc = 0x53 then { base with d := .dst (intBits sf / 4), badSub := 32 ≤ imm }
    else if opc = 0x54 then { base with a := .src (intBits sf / 4), badSub := 16 ≤ imm }
    else if opc = 0x55 then { base with badSub := imm ≠ 0 && (imm < 4 || 7 < imm) }
    else if opc = 0x5A then
      { base with
        d := .dst 1
        a := .src (fpBits sf / 4)
        badWidth := 2 < wid
        badBeats := h.beats ≠ 3
        badSub := imm < 3 || 5 < imm
        badResv := x.d.toNat < 112 || 115 < x.d.toNat }
    else if opc = 0x5E then { base with d := .off }
    else { base with badSub := imm ≠ 0 }
  else if opc = 0x77 then
    let (bp, _) := pmodeBad false true pd pm
    { d := .dst (intBits wid / 4), a := .src 4, badPmode := bp }
  else
    let n := intBits wid / 4
    let (bp, br) := pmodeBad false (opc = 0x62) pd pm
    let base : Layout := { badBeats := h.beats ≠ 0, badPmode := bp, badResv := br }
    if opc = 0x62 then { base with d := .dst n, badSub := imm ≠ 0 }
    else if opc = 0x63 then
      { base with a := .src n, badWidth := 1 < wid, badSub := imm ≠ 0 && !(imm = 1 && wid = 0) }
    else if opc = 0x64 then { base with a := if x.a = 116 then .off else .src n }
    else if opc = 0x65 then { base with badWidth := wid ≠ 0 }
    else { base with badWidth := wid ≠ 0, badSub := imm ≠ 0 }

/-- Layouts of the I format (R111, R117, R124, R127): D is read and written, or only read by the compares, or only written by MOVI. -/
def layoutI (opc : Nat) (x : IBody) : Layout :=
  let n := intBits x.wid.toNat / 4
  let (bp, _) := pmodeBad (opc ∉ [0x1E, 0x1F, 0x20, 0x33, 0x34]) true x.pdst.toNat x.pmode.toNat
  { d := if opc = 0x33 then .dst n else if 0x3C ≤ opc then .src n else .rmw n, badPmode := bp }

/-- Layouts of the M format (R214, R216, R217). -/
def layoutM (opc : Nat) (h : Head) (x : MBody) : Layout :=
  let wid := x.wid.toNat
  let n := intBits wid / 4
  let pm := x.pmode.toNat
  let pd := x.pdst.toNat
  let chan : Bool := 112 ≤ x.d.toNat && x.d.toNat ≤ 115
  let one : Bool := h.beats ≠ 0
  if opc = 0x68 then
    let (bp, br) := pmodeBad false true pd pm
    { d := .dst n, a := .src 4, badPmode := bp, badResv := br }
  else if opc = 0x69 then
    let (bp, br) := pmodeBad false false pd pm
    { d := .src n, a := .src 4, badPmode := bp, badResv := br }
  else if opc = 0x6A then
    let (bp, br) := pmodeBad true true pd pm
    { d := .dst n, a := .rmw 4, badWidth := wid = 0, badPmode := bp, badResv := br || 112 ≤ x.a.toNat }
  else if opc = 0x6B then
    let (bp, br) := pmodeBad true false pd pm
    { d := .src n, a := .rmw 4, badWidth := wid = 0, badPmode := bp, badResv := br || 112 ≤ x.a.toNat }
  else if opc = 0x6C then
    let (bp, br) := pmodeBad false true pd pm
    { d := .rmw n, a := .src 4, badWidth := wid % 2 = 0, badBeats := one
      badSub := 80 ≤ x.off7.toNat, badPmode := bp, badResv := br }
  else if opc = 0x6D then
    let (bp, br) := pmodeBad true true pd pm
    { d := .rmw (2 * n), a := .src 4, badWidth := wid % 2 = 0, badBeats := one
      badPmode := bp, badResv := br || (chan && wid = 7) }
  else if opc = 0x6E then
    let (bp, br) := pmodeBad false false pd pm
    { d := .src n, a := .src 4, badBeats := one, badPmode := bp, badResv := br || 112 ≤ x.d.toNat }
  else
    let (bp, br) := pmodeBad false true pd pm
    { d := .dst n, a := .src 4, badBeats := one, badPmode := bp, badResv := br || 112 ≤ x.d.toNat }

/-- Unused fields of the P format (R34, R84). -/
def layoutP (opc : Nat) (h : Head) (x : PBody) : Layout :=
  if opc = 0x60 then { badBeats := h.beats ≠ 0, badUnused := x.mask ≠ 0 || x.val ≠ 0 }
  else
    { badBeats := h.beats ≠ 0
      badUnused := x.pd ≠ 0 || x.pa ≠ 0 || x.pb ≠ 0 || x.fn ≠ 0
      badResv := x.val &&& ~~~x.mask ≠ 0 }

/-- Layouts of the channel rules (R195). DESIGN CHOICE (log 18): an unused TAG, OCH or IMM11 that is not zero has the reason 0x09 of R47's table, and not the 0x0C of R195. -/
def layoutK (opc : Nat) (h : Head) (x : KBody) : Layout :=
  let wid := x.wid.toNat
  let n := intBits wid / 4
  let tag := x.tag.toNat
  let cs := x.csub.toNat
  let a := x.a.toNat
  let headOnly : Bool := a < 112 || 115 < a
  let one : Bool := h.beats ≠ 0
  let notOne : Bool := x.och ≠ 0 || x.tag ≠ 0 || x.imm11 ≠ 0
  if opc = 0x70 then
    { a := if a = 116 then .off else .src n
      badSub := (tag = 0 && cs ≠ 0) || (tag = 3 && cs ∉ [3, 4, 5, 8, 14])
      badUnused := a ≠ 116 && x.imm11 ≠ 0
      badResv := tag = 1 || tag = 2 }
  else if opc = 0x71 then
    { a := if a = 116 then .off else .src n
      badWidth := 5 < wid
      badBeats := one
      badSub := 8 ≤ cs
      badUnused := tag ≠ 0
      badResv := a = 116 && !bit cs 2 }
  else if opc = 0x72 ∨ opc = 0x73 then
    { badWidth := wid ≠ 0, badBeats := one, badSub := cs ≠ 0, badUnused := notOne }
  else if opc = 0x74 then
    { a := .src 1, badWidth := wid ≠ 0, badSub := cs ≠ 0, badUnused := notOne, badResv := headOnly || x.keep ≠ 0 }
  else if opc = 0x75 then
    { a := .src 16, badWidth := wid ≠ 7, badSub := cs ≠ 0, badUnused := x.imm11 ≠ 0, badResv := headOnly || tag = 2 }
  else
    { a := .src 8, badWidth := wid ≠ 5, badBeats := one, badSub := cs ≠ 0, badUnused := tag ≠ 0
      badResv := 8 ≤ x.imm11.toNat || x.keep ≠ 0 }

/-- The bits of a GST width code, SUB[5:3] (R244). -/
def gstBits (x : XBody) : Nat := intBits (x.sub.toNat / 8)
/-- The bits of a GAT, by B[6] (R244). -/
def gatBits (x : XBody) : Nat := if bit x.b.toNat 6 then 64 else 32
/-- True for GAT cas (R244). -/
def gatIsCas (x : XBody) : Bool := x.b.toNat % 16 = 0xA

/-- Layouts of the X format, bits [2:1] apart; `edge` says whose pool holds the word (R260, R279). DESIGN CHOICE (log 18): a B of PIN, UNPIN or LOOK outside its values has the reason 0x06 of R313 whichever of its bits is one, and not 0x0C. A reserved SUB of SLF or FQRY, and a B of HDR that is none of its three, keep A as a source, so that an A whose INRDY bit is clear gives 0x03 before their 0x06; a reserved SUB of SYS has no operand. -/
def layoutX (edge : Bool) (opc : Nat) (h : Head) (x : XBody) : Layout :=
  let sub := x.sub.toNat
  let b := x.b.toNat
  let d := x.d.toNat
  let chan : Bool := 112 ≤ d && d ≤ 115
  let one : Bool := h.beats ≠ 0
  match opc with
  | 0x78 => { a := .src 16 }
  | 0x79 =>
    { d := .src (gstBits x / 4), a := .src 16
      badSub := sub / 8 = 0 || sub / 8 = 2
      badResv := sub % 4 ≠ 0 }
  | 0x7A =>
    { d := .src (gatBits x / 4 * if gatIsCas x then 2 else 1), a := .src 16, b := .raw
      badSub := 0xA < b % 16
      badResv := sub % 8 ≠ 0 || bits b 5 4 ≠ 0 || (gatIsCas x && gatBits x = 64 && chan) }
  | 0x7B =>
    { d := if sub % 8 = 2 then .dst 16 else .off, badBeats := one, badSub := 2 < sub % 8, badResv := !edge }
  | 0x7C =>
    { a := .src 4, b := if sub = 0x20 then .src 2 else .off, badBeats := one, badSub := sub ≠ 0 && sub ≠ 0x20 }
  | 0x7D =>
    let base : Layout := { b := .raw, badBeats := one }
    match sub with
    | 0 => { base with a := .src 1, badSub := 1 < b }
    | 1 =>
      match b with
      | 0 => { base with d := .dst 1, a := .src 4 }
      | 0x20 => { base with d := .dst 16, a := .src 4 }
      | 0x40 => { base with d := .src 16, a := .src 4 }
      | _ => { base with d := .raw, a := .src 4, badSub := true }
    | 2 => { base with d := .dst 1, a := .src 1, badSub := b ≠ 0, badResv := !chan }
    | 3 => { base with a := .src 1, badSub := b ≠ 0 }
    | 4 => { base with d := .raw, a := .src 4, badSub := 2 < b, badResv := 4 ≤ d }
    | 5 => { base with d := .raw, a := .src 4, badSub := 2 < b, badResv := 4 ≤ d }
    | 6 => { base with d := .raw, a := .src 4, badSub := b ≠ 0, badResv := 4 ≤ d }
    | _ => { base with d := .raw, a := .src 4, badSub := true }
  | 0x7E => { a := .src (if sub = 1 then 8 else 4), b := .raw, badBeats := one, badSub := 1 < sub || 11 < b }
  | _ =>
    let base : Layout := { b := .raw, badBeats := one }
    match sub with
    | 0 => { base with badSub := popCount 6 b < 2 || bit b 6 }
    | 1 => { base with d := .src 4, a := .src 16, badSub := 20 < b, badResv := !edge }
    | 2 => { base with d := .dst 16, badSub := 0x10 < b }
    | 3 => { base with a := .src 16, badSub := b ∉ [0x03, 0x0C, 0x0D] }
    | 4 => { base with d := .raw, a := .src 8, badSub := 3 < b, badResv := bits d 6 5 ≠ 0 }
    | 5 => { base with d := .raw, a := .src 4, b := .off, badResv := 4 ≤ d }
    | 6 => { base with d := .dst 16, badSub := 1 < b }
    | 7 => { base with d := .dst 16, b := .off }
    | _ => { base with d := .raw, a := .raw, badSub := true }

/-- What the loader's checks look at, in one shape for every format. -/
structure Parts where
  h : Head
  d : Nat := 116
  a : Nat := 116
  b : Nat := 116
  lay : Layout
  deriving DecidableEq, Repr

/-- The parts of raw fields; a field that the format does not have counts as an unused operand. -/
def Raw.parts (edge : Bool) : Raw → Option Parts
  | .fT opc h x => some { h, d := x.d.toNat, a := x.a.toNat, b := x.b.toNat, lay := layoutT opc x }
  | .fU opc h x => some { h, d := x.d.toNat, a := x.a.toNat, lay := layoutU opc h x }
  | .fI opc h x => some { h, d := x.d.toNat, lay := layoutI opc x }
  | .fM opc h x => some { h, d := x.d.toNat, a := x.a.toNat, lay := layoutM opc h x }
  | .fP opc h x => some { h, lay := layoutP opc h x }
  | .fK opc h x => some { h, a := x.a.toNat, lay := layoutK opc h x }
  | .fX opc h x =>
    let l := layoutX edge opc h x
    some { h, d := x.d.toNat, a := x.a.toNat, b := x.b.toNat, lay := { l with badResv := l.badResv || x.z ≠ 0 } }
  | .other _ => none

/-- Check 0x03 for one operand: a channel read as an operand has its INRDY bit (R31, R109). -/
def headBad (inrdy : Nat) (u : Use) (code : Nat) : Bool :=
  u.reads && 112 ≤ code && code ≤ 115 && !bit inrdy (code - 112)

/-- Check 0x07: codes 120 to 127 (R37). -/
def reservedBad (u : Use) (code : Nat) : Bool := u ≠ .raw && 120 ≤ code
/-- Check 0x09 for an operand field (R40). -/
def unusedBad (u : Use) (code : Nat) : Bool := u = .off && code ≠ 116
/-- Check 0x0A (R40). -/
def rangeBad (u : Use) (code : Nat) : Bool := code < 112 && 112 < code + u.slices

/-- The reasons a word is no instruction, in the order of R47; `[]` for an instruction. -/
def Parts.failures (p : Parts) : List Nat :=
  let l := p.lay
  let h := p.h
  let all (f : Use → Nat → Bool) : Bool := f l.d p.d || f l.a p.a || f l.b p.b
  let head : Bool := h.pval &&& ~~~h.pcare ≠ 0 || (h.tagEn = 0 && (h.tagCh ≠ 0 || h.tagTag ≠ 0))
    || all (headBad h.inrdy.toNat)
  [(0x03, head), (0x04, l.badWidth), (0x05, l.badBeats), (0x06, l.badSub), (0x07, all reservedBad),
   (0x08, l.d ≠ .raw && 117 ≤ p.d && p.d ≤ 119), (0x09, l.badUnused || all unusedBad), (0x0A, all rangeBad),
   (0x0B, l.badPmode), (0x0C, l.badResv)].filterMap fun c => if c.2 then some c.1 else none

/-- The reason code of the first check of R47 that a word's fields fail, 0 for an instruction or INV. -/
def Raw.reason (edge : Bool) (r : Raw) : Nat :=
  match r with
  | .other w => if w = 0 then 0 else if (w.extractLsb' 57 7).toNat = 0 then 0x01 else 0x02
  | _ =>
    match r.parts edge with
    | some p => p.failures.headD 0
    | none => 0

/-- check(w) of R47 for a pool word of an edge or an interior brick. -/
def loadCheck (edge : Bool) (w : Word) : Nat := (Raw.ofWord w).reason edge

end Sys2Proof
end

