-- ==== Sys2Proof/WellFormed.lean ====
section
/-! DEFINITION. When a term of Instr is an instruction of the machine: its word passes every check of R47 and its constructor is the one that the word's opcode and sub-operation name. Steps of other agents carry no word and are always well formed. -/

namespace Sys2Proof

/-- True for the rows of the opcode table that a rule word encodes. -/
def Instr.isRule (i : Instr) : Bool := (toRaw i).isSome

/-- Well-formedness for the pool of an edge brick (`edge = true`) or of an interior brick (R47, R260, R279). -/
def Instr.wf (edge : Bool) (i : Instr) : Bool :=
  match toRaw i with
  | some r => r.reason edge = 0 && ofRaw r = some i
  | none => true

end Sys2Proof
end

