-- ==== Sys2Proof/Decode.lean ====
section
/-! DEFINITION. The decoder of rule words, total on every word and rejecting by name (R29, R47), and the encoder. -/

namespace Sys2Proof

/-- The checks of R47 by name. -/
inductive LoadReason where
  | invbits | opcode | head | width | beats | subop | opcode7 | dstill | unused | range | pmode | resv
  deriving DecidableEq, Repr

/-- The reason of a code of R47. -/
def LoadReason.ofCode (n : Nat) : LoadReason :=
  match n with
  | 0x01 => .invbits
  | 0x02 => .opcode
  | 0x03 => .head
  | 0x04 => .width
  | 0x05 => .beats
  | 0x06 => .subop
  | 0x07 => .opcode7
  | 0x08 => .dstill
  | 0x09 => .unused
  | 0x0A => .range
  | 0x0B => .pmode
  | _ => .resv

/-- The reason code of R47. -/
def LoadReason.code : LoadReason → Nat
  | .invbits => 0x01
  | .opcode => 0x02
  | .head => 0x03
  | .width => 0x04
  | .beats => 0x05
  | .subop => 0x06
  | .opcode7 => 0x07
  | .dstill => 0x08
  | .unused => 0x09
  | .range => 0x0A
  | .pmode => 0x0B
  | .resv => 0x0C

/-- What a 64-bit word is to the picker: a disabled slot (R29), a non-instruction with its reason (R47), or an instruction. -/
inductive Decoded where
  | inv
  | rejected (r : LoadReason)
  | instr (i : Instr)
  deriving DecidableEq, Repr

/-- The decoder for a word in the pool of an edge or an interior brick. -/
def decode (edge : Bool) (w : Word) : Decoded :=
  if w = 0 then .inv
  else
    let r := Raw.ofWord w
    match r.reason edge with
    | 0 =>
      match ofRaw r with
      | some i => .instr i
      | none => .rejected .subop
    | n => .rejected (.ofCode n)

/-- The instruction a word decodes to, if it is one. -/
def Decoded.toInstr : Decoded → Option Instr
  | .instr i => some i
  | .inv | .rejected _ => none

/-- The rule word of an instruction; a step of another agent has none. -/
def encode (i : Instr) : Option Word := (toRaw i).map Raw.toWord

/-- The instruction read from a table word: rule words are one 64-bit word (R27); an edge brick's pool accepts every instruction. -/
def decodeTableWord (nbits w : Nat) : Option Instr :=
  if nbits ≤ 64 then (decode true (BitVec.ofNat 64 w)).toInstr else none

end Sys2Proof
end

