-- ==== Sys2Proof/Config.lean ====
section
/-! DEFINITION. What an implementation fixes and the spec leaves open: free values with no body. Nothing can be proved of the value of one, so a statement holds whatever it is. -/

namespace Sys2Proof

/-- A move of the machine: the clock advances, a picker looks at its pool, a request of classes 2 to 6 that has waited 64 cycles takes sub-banks of a bank for this cycle (R207), or one step of another agent (95_what_each_step_holds). -/
inductive Move where
  | tick
  | pick (b : BrickId)
  | hold (b : BrickId) (subBanks : BitVec 8)
  | event (i : Instr)
  deriving DecidableEq, Repr

/-- The order in which agents move, and everything that the outside does (R183, R334, R355, R373, R510): the e-th list of moves. Log 1. -/
opaque Config.schedule (epoch : Nat) : List Move

/-- A free word for each draw: replacement victims, congestion marks and what else an implementation decides (R193, R228, R232). Log 8. -/
opaque Config.freeNat (draw : Nat) : Nat

/-- The code of a unit kind, and the number of a unit, in a LASTING record (R401, R402). Log 8. -/
opaque Config.unitKind (kind : Nat) : Nat
opaque Config.unitNumber (kind n : Nat) : Nat

/-- The result of a transcendental function that no precision of `settle` decides; none is known (R163, R164). Log 9. -/
opaque Config.hardCase (m : Nat) (e : Int) : Nat

/-- The k-th 256-bit output of the keystone's deterministic random bit generator (R414). Log 7. -/
opaque Config.drbg (k : Nat) : BitVec 256

/-- The fused secret of the keystone (R422, R399). Log 7. -/
opaque Config.fusedSecret : BitVec 256
/-- Keys that the keystone derives from the fused secret and its firmware's hash: 0 the alias key, 1 the sealing key (R399, R422). Log 7. -/
opaque Config.deriveKey (purpose : Nat) (secret firmware : BitVec 256) : BitVec 256
/-- The digest of the SPDM transcript that a response signs (R421, R422). Log 7. -/
opaque Config.transcript (request nonce : Nat) (content : List (BitVec 8)) : BitVec 256
/-- SHA-256 of the keystone firmware, of the foreman firmware, and of the base-die and footing firmware (R423). Log 7. -/
opaque Config.keystoneFirmware : BitVec 256
opaque Config.foremanFirmware : BitVec 256
opaque Config.footingFirmware : BitVec 256
/-- The device identity certificate, under Moator's root, as bytes (R422). Log 7. -/
opaque Config.identityCertificate : List (BitVec 8)
/-- The P-256 key fused at manufacture, for which the identity certificate stands (R422). Log 7. -/
opaque Config.identityKey : Nat
/-- The part of the alias certificate that is signed, for a key point, and the secret of its signature (R422). Log 7. -/
opaque Config.aliasCertificate (x y : Nat) : List (BitVec 8)
opaque Config.aliasNonce : Nat
/-- The key of a secured session from the shared secret and the two ephemeral points, and the key that follows a key update (R421). Log 7. -/
opaque Config.sessionKey (secret : Nat) (points : List (BitVec 8)) : BitVec 256
opaque Config.updatedKey (k : BitVec 256) : BitVec 256
/-- The device key of device pages, an XTS-AES-256 key pair (R429). Log 7. -/
opaque Config.deviceKey : BitVec 512
/-- The pod position of this package (R320, R333). Log 8. -/
opaque Config.podPosition : Nat
/-- The phase of the refresh of pseudo-channel `pc` of stack `stack` (R237). Log 8. -/
opaque Config.refreshPhase (stack pc : Nat) : Nat

end Sys2Proof
end

