-- ==== Sys2Proof/Machine/Table.lean ====
section
/-! DEFINITION. Finite tables as plain data: a list of (key, value) pairs with strictly rising keys. -/

namespace Sys2Proof

/-- A table from natural-number keys; an unlisted key has no entry. -/
abbrev Table (α : Type) := List (Nat × α)

/-- The entry of a key. -/
def Table.get? {α : Type} (t : Table α) (k : Nat) : Option α :=
  match t with
  | [] => none
  | (k', v) :: rest => if k' = k then some v else Table.get? rest k

/-- The entry of a key, or `d` where the key is unlisted. -/
def Table.getD {α : Type} (t : Table α) (k : Nat) (d : α) : α := (Table.get? t k).getD d

/-- Replace or add the entry of a key, keeping the keys rising. -/
def Table.set {α : Type} (t : Table α) (k : Nat) (v : α) : Table α :=
  match t with
  | [] => [(k, v)]
  | (k', v') :: rest =>
    if k < k' then (k, v) :: (k', v') :: rest
    else if k = k' then (k, v) :: rest
    else (k', v') :: Table.set rest k v

/-- Remove the entry of a key. -/
def Table.erase {α : Type} (t : Table α) (k : Nat) : Table α := t.filter fun e => e.1 ≠ k

/-- Keys rise strictly. -/
def Table.sorted {α : Type} : Table α → Bool
  | [] => true
  | [_] => true
  | a :: b :: rest => a.1 < b.1 && Table.sorted (b :: rest)

/-- Replace element `i` of a list by `f` of it; a list that is too short is unchanged. -/
def modifyAt {α : Type} (f : α → α) : Nat → List α → List α
  | _, [] => []
  | 0, a :: l => f a :: l
  | n + 1, a :: l => a :: modifyAt f n l

/-- Remove element `i` of a list. -/
def removeAt {α : Type} : Nat → List α → List α
  | _, [] => []
  | 0, _ :: l => l
  | n + 1, a :: l => a :: removeAt n l

end Sys2Proof
end

