-- ==== Sys2Proof/Machine/State.lean ====
section
/-! DEFINITION. The whole state of the TYV-P12 as plain data, and its value at reset. Each field's docstring names the rule that gives it; a field said to be the model's own is named in log 1. -/

namespace Sys2Proof.Machine

open Sys2Proof

/-- The machine stops with no fault: the spec gives an effect to every trap, fault and rejection it names. -/
inductive Fault : Type where
  deriving DecidableEq, Repr

/-- Why a step has no meaning. -/
inductive Refusal where
  /-- Raised by an arm of `exec` for an instruction that has no meaning yet. Safe: nothing can be proved of such a step. -/
  | notModelled (mnemonic : String)
  deriving DecidableEq, Repr

/-- The tags of an entry (R178). -/
inductive Tag where
  | data | eos | mark | ctrl
  deriving DecidableEq, Repr

/-- The engine classes of R274. -/
inductive EngClass where
  | brk | stm | slb | rng | ftg | hst | ctl
  deriving DecidableEq, Repr

/-- A token: payload and tag (R174), and what R277 and R278 attach to it, the class and greatest timestamp of the accesses whose completion it reports. A notice that reports the fetch of an HBM slate reports the yealm's RNG accesses beside it, up to the timestamp `rng`. -/
structure Token where
  tag : Tag
  pay : Word
  cls : Option EngClass := none
  ts : Nat := 0
  rng : Nat := 0
  deriving DecidableEq, Repr

/-- A destination of a route entry (R176, R298, R386). -/
inductive Dest where
  | input (b : BrickId) (ch : Nat)
  | streamIn (b : BrickId) (m : Nat)
  | draw (b : BrickId)
  | param (b : BrickId)
  | steer (die course : Nat)
  | coll (die : Nat)
  | bank (b : BrickId) (off : Nat)
  | ring (b : BrickId)
  deriving DecidableEq, Repr

/-- A gutter: bank range, index of its head entry, entries held, whether an uncorrectable word has stopped it, and the granule of the ECCU trap that the brick has still to take for it (R185-R187). -/
structure Gutter where
  off : Nat
  size : Nat
  head : Nat := 0
  count : Nat := 0
  stopped : Bool := false
  trap : Option Nat := none
  /-- what its entries' tokens report (R277), in their order -/
  notes : List (Option EngClass × Nat × Nat) := []
  deriving DecidableEq, Repr

/-- A watch on an input channel (R262, R263) and the greatest timestamp its counted tokens report (R278). -/
structure Watch where
  tag : Tag
  target : Nat
  pred : Nat
  seen : Nat := 0
  fired : Bool := false
  overSent : Bool := false
  ts : Nat := 0
  deriving DecidableEq, Repr

/-- A sink (R377). -/
structure Sink where
  target : Nat
  count : Nat := 0
  reported : Bool := false
  deriving DecidableEq, Repr

/-- An input queue with what stands beside it (R174, R185, R246, R262, R377); `ret` counts the places reserved for returns. -/
structure Input where
  queue : List Token := []
  gutter : Option Gutter := none
  watch : Option Watch := none
  sink : Option Sink := none
  connected : Bool := false
  ret : Nat := 0
  deriving DecidableEq, Repr

/-- An entry of a skid buffer: `todo` are the branches that have not taken it; once it has forked, the oldest such entry of a branch stands in that branch's hold register (R175, R184). -/
structure SkidEntry where
  tok : Token
  todo : List Nat
  forked : Bool := false
  deriving DecidableEq, Repr

/-- An output port or a stream route: route entry, skid buffer and DATA counter (R175, R176, R256). -/
structure Port where
  route : List Dest := []
  skid : List SkidEntry := []
  count : Nat := 0
  deriving DecidableEq, Repr

/-- The trap record of a firing that has trapped (R77, R79, R83): class, detail, beat and the cycle of its trap point. -/
structure Trap where
  cls : Nat
  detail : Nat
  beat : Nat
  val : Nat := 0
  deriving DecidableEq, Repr

/-- A TLB entry: tenancy, leaf level, virtual page at that level, leaf (R227). -/
structure TlbEntry where
  tenancy : Nat
  level : Nat
  page : Nat
  leaf : Word
  deriving DecidableEq, Repr

/-- The bytes of a request that lie in one 64 B line (R265): physical address once translated, bytes, and whether the part has been performed. `performed` says that its place in the order is set; `got` holds, for a read, the bytes that place fixed, `none` where the fill supplies them (R281). -/
structure Part where
  va : Nat
  len : Nat
  pa : Nat := 0
  performed : Bool := false
  got : List (Option Byte) := []
  ue : Bool := false
  /-- the key slot of its page, where that is a weight page (R223, R428) -/
  key : Option Nat := none
  deriving DecidableEq, Repr

/-- What a global request does (R244-R249). -/
inductive ReqKind where
  | load (dec : Bool) (sz : Nat)
  | store
  | atomic (op w v y : Nat)
  deriving DecidableEq, Repr

/-- A page that an engine's access at an edge brick misses, with its place in the order of the bay's misses, and whether its walk has ended in a fault, which the access then takes (R228). -/
structure Walk where
  id : Nat
  edge : BrickId
  tenancy : Nat
  va : Nat
  answered : Bool := false
  deriving DecidableEq, Repr

/-- How far a global request has come: waiting in its brick (R267), held by a handover at its owner (R280), missing the TLB (R228), waiting for a weight chunk (R428), in the coalescing buffer (R242), to be performed at the owner's L1 or at the loft, or done. -/
inductive Stage where
  | waiting | held | miss | flash | buffered | toLoft | done
  deriving DecidableEq, Repr

/-- A global request of a brick (R245-R249). `seq` is its place among the brick's requests, `order` its place of arrival at the owner; `miss` the address whose page it walks for, `leaves` the TLB entries that translated it (R228, R229); `net` says that it counts in the owner's window (R194); `fault` is the payload of its FAULT record (R248). -/
structure Req where
  id : Nat
  brick : BrickId
  seq : Nat
  kind : ReqKind
  va : Nat
  data : List Byte := []
  rch : Nat := 0
  dcl : Bool := false
  tenancy : Nat := 0
  pts : Nat := 0
  stage : Stage := .waiting
  owner : BrickId := 0
  order : Nat := 0
  since : Nat := 0
  parts : List Part := []
  miss : Nat := 0
  leaves : List TlbEntry := []
  net : Bool := false
  ts : Nat := 0
  result : Word := 0
  fault : Option Word := none
  marked : Bool := false
  deriving DecidableEq, Repr

/-- The slate-map sub-operations (R313). -/
inductive MapKind where
  | pinResident | pinStored | pinShare
  | unpinDrop | unpinKeep | unpinErase
  | look
  deriving DecidableEq, Repr

/-- The accesses of a slate-map operation, in the order of R316. -/
inductive MapPhase where
  | desc | dir | entry | targetDir | target | entryShare | undo | untargetDir | untarget | aliasDir | aliasEntry | release | done
  deriving DecidableEq, Repr

/-- A slate-map operation after its commit (R316): request block, progress, and the words it returns (R317). -/
structure MapOp where
  id : Nat
  brick : BrickId
  seq : Nat
  kind : MapKind
  rch : Nat
  block : List Word
  tenancy : Nat
  phase : MapPhase := .desc
  desc : List Word := []
  shard : Nat := 0
  entry : List Word := []
  tshard : Nat := 0
  tindex : Nat := 0
  wasPinned : Bool := false
  ts : Nat := 0
  out : List Token := []
  deriving DecidableEq, Repr

/-- Effects that a firing queues for its commit (R75, R76). -/
inductive Effect where
  /-- store `len` nibbles of `v` at nibble address `nib` of the bank (R212) -/
  | bank (nib len v : Nat)
  /-- ATB and CASB: operation `op` on the w-bit container at a byte address, the old value written back through the firing's D (R212, R216, R217) -/
  | atomic (op w byte v y issue : Nat)
  /-- a global request leaves (R245) -/
  | global (kind : ReqKind) (va : Nat) (data : List Byte) (rch : Nat) (dcl : Bool)
  | mark
  | weep
  | idle
  | watch (ch : Nat) (w : Option Watch)
  | sink (ch target : Nat)
  | wrbsr (reg v : Nat)
  | strm (r act : Nat)
  | task (rec : List Word)
  | map (k : MapKind) (rch : Nat) (block : List Word)
  | fence (mask : Nat)
  | handover (owner va k : Nat)
  | fire (dock : Nat) (fwd : Bool)
  | route (dock : Nat)
  | fin (dock port : Nat)
  | launch (off : Nat)
  | hdrWrite (dock w v : Nat)
  | post (eng : Nat) (packet : List Word) (inline : List Byte)
  | cancel (eng qid : Nat)
  | qblk (port : Nat) (words : List Word) (ready : Nat)
  /-- the brick has observed accesses of a class up to a timestamp (R277) -/
  | observe (cls ts : Nat)
  deriving DecidableEq, Repr

/-- What a beat enqueues on a port: a token, or an EOS whose COUNT is the port's DATA counter when it enters (R175, R197). -/
inductive Out where
  | tok (t : Token)
  | eosAuto (base : Word)
  deriving DecidableEq, Repr

/-- A write-back that is due (R69): slices from `lo`, an output port, and predicates (R72). -/
structure WriteBack where
  due : Nat
  beat : Nat
  lo : Option (Nat × Nat × Nat) := none
  port : Option (Nat × Out) := none
  preds : List (Nat × Bool) := []
  deriving DecidableEq, Repr

/-- A firing in flight (R65-R77): the instruction, its slot and word, its fire cycle; the entries it read from each channel (`heads`) and how many of them its commit dequeues (`take`), the heads that stood there (`snap`, R83); `bsr.fmode`, the predicates as read at fire; the beats issued and the earliest cycle of the next; the carry, or the compare combined so far (`chain`), and the values that a reduction or QBLK has gathered (`acc`); write-backs and effects to come; sticky flags; its trap, with the cycle that found it, and its trap point; the output port it writes, with places reserved and tokens entered; the timestamp that its predicates carry (R278), and the cycle until which its locked operation keeps its word (R212). -/
structure Firing where
  instr : Instr
  slot : Nat
  word : Word
  fired : Nat
  heads : List (List Token)
  take : List Nat
  snap : List (Option Token)
  fmode : Nat
  preds : Nat
  issued : Nat := 0
  next : Nat := 0
  chain : Bool := false
  acc : List Nat := []
  wbs : List WriteBack := []
  effects : List Effect := []
  sticky : Nat := 0
  trap : Option Trap := none
  found : Nat := 0
  point : Nat := 0
  committed : Bool := false
  port : Option Nat := none
  places : Nat := 0
  entered : Nat := 0
  /-- words of the bank it touches and whether it writes them (R213) -/
  range : Option (Nat × Nat × Bool) := none
  carry : Nat := 0
  lock : Nat := 0
  deriving DecidableEq, Repr

/-- The life of a brick (R23). -/
inductive Life where
  | free | bound | running | draining | held | out
  deriving DecidableEq, Repr

/-- The weep of a brick (R191): `ordered` has been ordered to weep, `weeping` has sent its WEEPs, `wept` once they have left. -/
inductive WeepState where
  | none | ordered | weeping | wept
  deriving DecidableEq, Repr

/-- The set wave's hold on a brick (R388-R390): its target round where it has one, or stopped. -/
inductive WaveState where
  | none
  | target (round : Nat)
  | stopped
  deriving DecidableEq, Repr

/-- A part of a reconfiguration held by a brick (R192): its pool, route entries, stream routes, gutters, notice input, shape records and generation. -/
structure Hold where
  pool : List Word
  outs : List (List Dest)
  sos : List (List Dest)
  gutters : List (Option Gutter)
  note : Option Nat
  shapes : List (List Word)
  gen : Nat
  slot : RegionId
  deriving DecidableEq, Repr

/-- A task record, the scoreboard state that stood before it entered the window (R288, R294), whether it has been written to the ring in memory (R293), the timestamp floor of its accesses and the greatest timestamp they took (R277). -/
structure Task where
  words : List Word
  prev : Nat := 0
  stored : Bool := false
  floor : Nat := 0
  ts : Nat := 0
  deriving DecidableEq, Repr

/-- An accumulator's work (R286, R297, R299): computing until a cycle, waiting for its route, draining at a word from a cycle on with the branches that have still to fork it and those whose hold register keeps a copy (R184), or its DONE due at a cycle with a status. -/
inductive AccWork where
  | idle
  | computing (t : Task) (ends : Nat)
  | waiting (t : Task) (start : Nat)
  | draining (t : Task) (route word next : Nat) (todo held : List Nat)
  | ending (t : Task) (status due : Nat)
  deriving DecidableEq, Repr

/-- An accumulator of a slab: 32 x 32 elements of 4 B in row-major order, none listed standing for zeros (R285). -/
structure Acc where
  tile : List Nat := []
  work : AccWork := .idle
  deriving DecidableEq, Repr

/-- The stop register of a dock (R324): HOME, or a route entry. -/
inductive Stop where
  | none
  | home
  | entry (w0 w1 : Word)
  deriving DecidableEq, Repr

/-- The states of a dock (R324), with what each waits for. -/
inductive DockState where
  | empty
  /-- a frame's writes end at a cycle, then an HBM slate may have to be fetched -/
  | landing (ends : Nat) (fetch : Bool)
  /-- a launch copy of `len` bytes from a bank offset ends at a cycle (R333) -/
  | copying (off len ends : Nat)
  /-- the notice waits to enter the notice input (R325) -/
  | noticing (order : Nat)
  | docked
  | firing (fwd : Bool) (ends : Nat)
  /-- the ring port chooses its target and sends (R334) -/
  | leaving (ready : Nat)
  /-- the frame's last flit leaves at the end of a cycle -/
  | sending (ends : Nat)
  /-- FIN emits token `next` on a port from a cycle on (R335) -/
  | finishing (port next ready : Nat)
  deriving DecidableEq, Repr

/-- A dock's registers; its bytes lie in the bank (R323). `fetched` says whether an HBM fetch lands (R328), `stm` is the timestamp of one that has, and `ts` the greatest one of the yealm's RNG accesses (R277, R339); `hold` says that the granules of an HBM visit are held (R328), `order` gives the order in which FIRE and ROUTE steps committed (R327), and `floor` is the timestamp floor that the firings which moved the yealm gave its accesses (R277). -/
structure Dock where
  st : DockState := .empty
  stop : Stop := .none
  fetched : Bool := true
  stm : Option Nat := none
  ts : Nat := 0
  hold : Bool := false
  order : Nat := 0
  floor : Nat := 0
  deriving DecidableEq, Repr

/-- A shape record with its run (R250-R261): words 0 to 6, STATE, TILES, CREDIT; the next element, the elements of the started tile still to come, the DATA words of the run and since the last EOS, the format and geometry of the run, the blocks of the tile whose scale has gone; tokens still to send on its route and on NRT; whether the run is over; whether surplus words of the stream are being dropped and the first drop was told; the greatest timestamp; the cycles from which it may send and take. -/
structure Shape where
  words : List Word := [0, 0, 0, 0, 0, 0, 0]
  state : Nat := 0
  tiles : Nat := 0
  credit : Nat := 0
  next : Nat := 0
  tileLeft : Nat := 0
  count : Nat := 0
  sent : Nat := 0
  page : Option (Nat × Nat) := none
  scaled : List Nat := []
  outq : List Token := []
  notes : List Token := []
  fin : Bool := false
  surplus : Bool := false
  overSent : Bool := false
  ts : Nat := 0
  sendAt : Nat := 0
  takeAt : Nat := 0
  deriving DecidableEq, Repr

/-- An L1 copy of a line, of those of its bytes that the slice held, with its timestamps (R269). -/
structure L1Line where
  line : Nat
  tenancy : Nat
  data : List Byte
  bytes : BitVec 64
  wts : Nat
  rts : Nat
  deriving DecidableEq, Repr

/-- A verified weight chunk held by a flashing unit (R428). -/
structure Chunk where
  slot : Nat
  n : Nat
  region : RegionId
  data : List Byte
  deriving DecidableEq, Repr

/-- What only an edge brick holds (R3, R194, R227, R242, R250-R261, R428). -/
structure Edge where
  tlb : List TlbEntry := []
  l1 : List L1Line := []
  window : Nat := 32
  unmarked : Nat := 0
  sinceHalve : Nat := 256
  shapes : List Shape := List.replicate 8 {}
  si : List (List Token) := List.replicate 8 []
  so : List Port := List.replicate 8 {}
  dp : List Token := []
  dpAt : Nat := 0
  pp : Option (Token × Bool) := none
  chunks : List Chunk := []
  deriving DecidableEq, Repr

/-- A brick (R2-R3, R23, R27, R62, R80, R97, R174-R175, R202, R286, R292, R323, R358). -/
structure Brick where
  life : Life := .free
  region : Option RegionId := none
  tenancy : Nat := 0
  pool : List Word := List.replicate 16 0
  /-- the 448-bit slice file (R97) -/
  slices : BitVec 448 := 0
  /-- values and pending bits of p0 to p7 (R62, R81) -/
  pval : BitVec 8 := 0
  pend : BitVec 8 := 0
  /-- the timestamp that a watched predicate carries (R278) -/
  predTs : List Nat := List.replicate 8 0
  fires : Nat := 0
  /-- cycle at which the brick last entered RUNNING, and the count restored by a resume (R80, R83) -/
  cycleBase : Int := 0
  ctl : BitVec 4 := 0
  tcls : Word := 0
  tfire : Nat := 0
  thead : List Word := [0, 0, 0, 0]
  tword : Word := 0
  tval : Word := 0
  sticky : BitVec 9 := 0
  fmode : BitVec 3 := 0
  round : Nat := 0
  overBsr : Word := 0
  pts : Nat := 0
  /-- timestamps of observed accesses by class, and the floor of engine operations after a fence (R277) -/
  seen : List Nat := List.replicate 6 0
  fence : Nat := 0
  /-- the picker is suspended by IDLE since a cycle, and whether an event has come that wakes it (R90) -/
  idle : Option (Nat × Bool) := none
  /-- the last cycle in which requests of classes 2 to 6 that had waited 64 cycles held sub-banks, and which (R207) -/
  aged : Nat × BitVec 8 := (0, 0)
  /-- such an event has come since the latest firing, so an IDLE that commits with it does not miss it (R90) -/
  stirred : Bool := false
  /-- firings in flight, in firing order (R74); the cycle from which the datapath and the divider accept a beat (R70, R149) -/
  firings : List Firing := []
  dpFree : Nat := 0
  divFree : Nat := 0
  /-- the QBLK buffer: port, words still to enqueue, and the cycle from which it holds them; busy from the fire cycle (R149, R171) -/
  qblk : Option (Nat × List Word × Nat) := none
  inputs : List Input := List.replicate 4 {}
  outs : List Port := List.replicate 4 {}
  weep : WeepState := .none
  discard : Bool := false
  /-- the cycle after the latest alignment: before it the picker fires no slot and the brick does not align again (R188) -/
  barrierAt : Nat := 0
  /-- the cycle in which `bsr.round` last changed (R381) -/
  roundAt : Nat := 0
  wave : WaveState := .none
  /-- PICK was 1 when a wave stopped the brick, or is to be set as RUN begins (R373, R396) -/
  picked : Bool := false
  hold : Option Hold := none
  bank : List Host.Cell := []
  bankUe : List Nat := []
  corrected : Nat := 0
  scrub : Nat := 0
  /-- PART of GMAP (R205), the bound granules (R311) the pin allowance and the node charged (R312) -/
  gmap : BitVec 32 := 0
  bound : BitVec 16 := 0
  pinAllow : Nat := 0
  pinNode : Nat := 0xFFF
  wp : List Nat := [0, 0]
  /-- the greatest timestamp of the stream words that each write pointer covers (R277) -/
  wpTs : List Nat := [0, 0]
  taskPort : List Task := []
  taskAt : Nat := 0
  footPort : List (Nat × List Word × List Byte) := []
  accs : List Acc := [{}, {}]
  dockBrick : Bool := false
  note : Option Nat := none
  docks : List Dock := [{}, {}]
  away : Nat := 0
  ringFree : Nat := 0
  /-- channel tokens that have reached the ring port (R176, log 13) -/
  ringPort : List Token := []
  edge : Edge := {}
  /-- commits since boot of the model's bookkeeping of requests (R246, R267) -/
  reqSeq : Nat := 0
  /-- SENT and RCVD of its agents (R379) -/
  sent : Nat := 0
  rcvd : Nat := 0
  deriving DecidableEq, Repr

/-- The place that a token on its way holds at its destination (R183, R186, R263): none where the destination drops it or names no bound, one of the port or queue, or one of the gutter. -/
inductive Credit where
  | none | queue | gutter
  deriving DecidableEq, Repr

/-- A token on a network or leaving one (R182, R183): source port or engine, destination, the first cycle at which it can enter, and the place granted to it. -/
structure Flight where
  tok : Token
  src : BrickId
  port : Nat
  dest : Dest
  due : Nat
  credit : Credit := .queue
  deriving DecidableEq, Repr

/-- A frame on a ring or parked at its target's ring port (R326, R327); `ue` are the uncorrectable words of its dock, `ts` the greatest timestamp of its RNG accesses and `floor` the floor of those to come (R277). -/
structure Frame where
  src : BrickId
  target : BrickId
  pkg : Nat
  stop : Stop
  data : List Byte
  ue : List Nat := []
  ts : Nat := 0
  floor : Nat := 0
  due : Nat
  parked : Bool := false
  deriving DecidableEq, Repr

/-- A loft line (R232, R233, R269): sector valid bits, byte mask, data, uncorrectable 8 B words, timestamps, and whether it belongs to a weight page, which XTS leaves alone (R428). The timestamps outlast the line's stay in the loft (log 14). -/
structure LoftLine where
  valid : BitVec 2
  mask : BitVec 64
  data : List Byte
  ue : BitVec 8
  wts : Nat
  rts : Nat
  weights : Bool := false
  deriving DecidableEq, Repr

/-- A sector fill asked of a pseudo-channel (R235-R237, R281): the sector's physical address / 32, arrival, latest-service time where it carries the deadline class, whether it has been served and what was read. -/
structure Fill where
  sector : Nat
  arrived : Nat
  latest : Option Nat
  served : Option (List Byte × Nat) := none
  deriving DecidableEq, Repr

/-- A course's task scheduler (R293-R302, R509): ring, window, CGEN, the scoreboard with each entry's state, its state before and the cycle of the change (R296), steer table, drain routes (true: `noeos`), steer port, counters, the cycles from which it may issue and take a STEER, and the tasks whose drain could not start, each with its column and the cycle of its DONE (R299). -/
structure Sched where
  region : Option RegionId := none
  base : Nat := 0
  size : Nat := 0
  head : Nat := 0
  ring : List Task := []
  window : List Task := []
  board : List (Nat × Nat × Nat) := List.replicate 256 (0, 0, 0)
  steer : List (Option Nat) := List.replicate 256 none
  routes : List (List Dest × Bool) := List.replicate 8 ([], true)
  gen : Nat := 0
  port : List Token := []
  malf : Nat := 0
  stale : Nat := 0
  ltid : Nat := 0
  lstat : Nat := 0
  issueAt : Nat := 0
  takeAt : Nat := 0
  ends : List (Task × Nat × Nat) := []
  /-- items launched and taken (R379) -/
  sent : Nat := 0
  rcvd : Nat := 0
  deriving DecidableEq, Repr

/-- A parameter window in a course's store (R219). -/
structure ParamWindow where
  region : RegionId
  n : Nat
  data : List Byte
  deriving DecidableEq, Repr

/-- The states of a bind slot (R371). -/
inductive SlotState where
  | free | valid | hold | load | run | drain | done | reject | fault
  deriving DecidableEq, Repr

/-- A set wave in progress (R387-R391). -/
structure Wave where
  addr : Nat
  pinI : Bool
  started : Nat
  limit : Nat
  target : Option Nat
  deriving DecidableEq, Repr

/-- A bind slot (R370, R371) with the region it holds: load hash, placed bricks, owner map, sinks, round, wave, faults and count waves (R377-R381, R387, R403). -/
structure Slot where
  words : List Word := List.replicate 8 0
  st : SlotState := .free
  reason : Nat := 0
  order : Nat := 0
  hash : Nat := 0
  bricks : List BrickId := []
  origin : List (Option (Nat × Nat × Nat × Nat)) := [none, none, none, none]
  courses : List (Nat × Nat) := []
  owners : List (Nat × Nat × BrickId) := []
  moved : List (Nat × Nat × BrickId × BrickId) := []
  round : Nat := 0
  cut : Bool := false
  ranAt : Nat := 0
  wave : Option Wave := none
  fault : Option Nat := none
  faultSeq : Nat := 0xFFFF
  pending : Option (Nat × List Word) := none
  ended : Bool := false
  kind : Nat := 0
  lastWave : Option (Nat × Nat) := none
  /-- the cycle of the last count wave (R380) -/
  countedAt : Nat := 0
  maxTs : Nat := 0
  walls : List Nat := []
  /-- dies of the region whose ALLOW is below TTH, and the thermal notices to be sent, each with the cycle of its TALW update (R383) -/
  hot : List Nat := []
  notices : List (Nat × Token) := []
  keys : List Nat := []
  deriving DecidableEq, Repr

/-- A die's registers in the management window (R48, R229, R239, R387, R400). -/
structure Die where
  lddiag : Word := 0
  ldword : Word := 0
  invcmd : Word := 0
  invMarks : List Nat := []
  talw : Word := 0xFFFF_0000_0000
  swaddr : Word := 0
  swcmd : Word := 0
  log : Table (List Word) := []
  head : Nat := 0
  tail : Nat := 0
  ovf : Nat := 0
  seq : Nat := 0
  deriving DecidableEq, Repr

/-- A stack (R237-R239, R408): `hot` is set by a reading that is a thermal trip, `issued` lists the time of each pseudo-channel's latest command, and `grid` the time at which the refresh interval last changed with what had then elapsed since each channel's last refresh. -/
structure Stack where
  stall : Nat := 0
  temp : Nat := 0
  doubled : Bool := false
  throttled : Bool := false
  hot : Option Nat := none
  tripped : Bool := false
  issued : List (Nat × Nat) := []
  grid : Nat × List Nat := (0, [])
  refreshing : List (Nat × Nat) := []
  deriving DecidableEq, Repr

/-- A tenancy's registers and keys (R224, R272, R410-R414, R419, R423, R431, R435). -/
structure Tenancy where
  cfg : Word := 0
  lane : Word := 0
  port : Word := 0
  root : Word := 0
  rebase : Nat := 0
  dlwin : Nat := 2048
  lease : Nat := 16
  drops : Nat := 0
  lbay : Nat := 0
  xts : BitVec 512 := 0
  wrap : BitVec 256 := 0
  links : List (Nat × BitVec 256) := []
  counter : Nat := 0
  log : BitVec 256 := 0
  tdi : TdiState := .configUnlocked
  ide : Bool := false
  rebasing : Bool := false
  deriving DecidableEq, Repr

/-- A key slot of the keystone (R424-R427); `st` is 0 empty, 1 loaded, 2 bound. -/
structure KeySlot where
  hash : BitVec 256 := 0
  key : BitVec 256 := 0
  tenancy : Nat := 0
  requester : Option Nat := none
  wbase : Nat := 0
  tva : Nat := 0
  nreg : Nat := 0
  node : Nat := 0xFFF
  st : Nat := 0
  deriving DecidableEq, Repr

/-- A request of a footing query's step, in issue order (R352, R354): a distance of a node, or the read of its record; its home engine, its reply (distance bits, or DEG and neighbours) or the status of its error. -/
structure FootReq where
  node : Nat
  record : Bool
  home : Nat := 0
  reply : Option (Nat × List Nat) := none
  status : Nat := 0
  deriving DecidableEq, Repr

/-- A footing query (R346-R363), queued or started: packet, vector as bytes, visited set (as a hash, or the set bits of the filter), heaps in ascending order, the requests of the step, and what is to be sent. `phase` is 0 for step 0, 1 while a record is awaited, 2 while a step's distances are; `copies` are the engines that keep a copy of its vector (R352); `recOrder` is the cycle in which it reached its place in the completion order, and `doneAt` the one in which its record was sent (R346, R363). -/
structure Query where
  id : Nat
  region : RegionId
  brick : BrickId
  eng : Nat := 0
  tenancy : Nat
  node : Nat := 0xFFF
  packet : List Word
  vector : List Byte
  floor : Nat := 0
  started : Bool := false
  desc : List Word := []
  visited : List Nat := []
  bloom : Option (List Nat) := none
  cands : List (Nat × Nat) := []
  best : List (Nat × Nat) := []
  steps : Nat := 0
  phase : Nat := 0
  reqs : List FootReq := []
  badref : Bool := false
  hoplim : Bool := false
  cancelled : Bool := false
  status : Nat := 0
  finished : Bool := false
  prepared : Bool := false
  nres : Nat := 0
  out : List (BrickId × Nat × Token) := []
  copies : List Nat := []
  /-- the homes of the nodes visited (R354) -/
  homes : List (Nat × Nat) := []
  recOrder : Option Nat := none
  doneAt : Nat := 0
  ts : Nat := 0
  deriving DecidableEq, Repr

/-- A footing engine (R345, R346). -/
structure Footing where
  posts : List Query := []
  contexts : List Query := []
  deriving DecidableEq, Repr

/-- A contribution that a gateway holds (R341, R342). -/
structure Contribution where
  brick : BrickId
  head : Word
  words : List Word := []
  eos : Option Word := none
  deriving DecidableEq, Repr

/-- A result on its way from a gateway (R342, R343). -/
structure Delivery where
  gid : Nat
  brick : BrickId
  ch : Nat
  toks : List Token
  deriving DecidableEq, Repr

/-- A gateway's collective port: tokens waiting, with the brick that sent each; open contributions; deliveries (R341-R343). -/
structure Gateway where
  port : List (BrickId × Token) := []
  contribs : List Contribution := []
  out : List Delivery := []
  deriving DecidableEq, Repr

/-- The errors of a unit (R405-R407): window start, its count, totals, deadline misses, lasting mark, taken down. -/
structure ErrUnit where
  open? : Option Nat := none
  count : Nat := 0
  corrected : Nat := 0
  uncorrectable : Nat := 0
  misses : Nat := 0
  lasting : Bool := false
  marks : Nat := 0
  down : Bool := false
  /-- spare lanes that repairs at boot have taken (R443) -/
  spares : Nat := 0
  deriving DecidableEq, Repr

/-- A host command, queued or running (R436-R440). -/
structure Command where
  seq : Nat
  opc : Nat
  len : Nat
  arg : Word
  body : List Word
  started : Option Nat := none
  deriving DecidableEq, Repr

/-- The host's side of the device (R436-R440). -/
structure HostLink where
  mailbox : Table (List Word) := []
  kicks : List Word := []
  dropped : Nat := 0
  next : Nat := 0
  tries : Nat := 0
  retryAt : Nat := 0
  commands : List Command := []
  posts : List (Nat × Nat × Word) := []
  cqbase : Word := 0
  phase : Bool := true
  prod : Nat := 0
  cons : Nat := 0
  memory : List Host.Cell := []
  /-- what checkpoints have written at safe-tier addresses, outside the device (R398) -/
  safeTier : List (Nat × List Byte) := []
  /-- the bytes that the last host read returned (R432) -/
  dma : List Byte := []
  deriving DecidableEq, Repr

/-- A scale-out port's link layer (R442): the sequence number that it expects and the one it acknowledged last; the next it sends, the flits sent and not acknowledged, what waits to be sent (type, tenancy, payload), the credit of each tenancy in flits, and every flit that has gone out. -/
structure ScalePort where
  expect : Nat := 0
  acked : Nat := 4095
  seq : Nat := 0
  replay : List (List Byte) := []
  queue : List (Nat × Nat × List Byte) := []
  credit : Table Nat := []
  tx : List (List Byte) := []
  /-- flits delivered in order: type, tenancy and payload -/
  rx : List (Nat × Nat × List Byte) := []
  deriving DecidableEq, Repr

/-- An ownership handover after its commit (R280): old and new owner, pages, and whether the message has been sent. -/
structure Handover where
  region : RegionId
  old : BrickId
  new : BrickId
  first : Nat
  count : Nat
  before : Nat
  sent : Bool := false
  deriving DecidableEq, Repr

/-- A secured SPDM session (R421, R424): its number, the hash of the requester's public key where that has authenticated itself, its key, and the answers sent under it. -/
structure Session where
  id : Nat
  requester : Option Nat := none
  key : BitVec 256 := 0
  sent : Nat := 0
  deriving DecidableEq, Repr

/-- The keystone's protected store and its sessions (R17, R20, R407, R421, R424). -/
structure Keystone where
  mapOut : List Nat := []
  previous : List Nat := []
  mapGen : Nat := 0
  retired : List Nat := []
  disabledWays : List (Nat × Nat × Nat) := []
  /-- ways that the next boot disables (R407) -/
  nextWays : List (Nat × Nat × Nat) := []
  sessions : List Session := []
  draws : Nat := 0
  slots : Table KeySlot := []
  /-- the content of the last SPDM response (R421-R424) -/
  reply : List Byte := []
  deriving DecidableEq, Repr

/-- The whole machine. -/
structure State where
  /-- cycles since boot (R9), and the model's own choice of moves (log 1) -/
  now : Nat
  agenda : List Move
  epoch : Nat
  focus : BrickId × Nat
  free : Nat
  /-- capability register and presence map (R14-R16) -/
  capb : Word
  bpm : List Word
  fclk : Nat
  /-- the cycle at which FCLK last changed, and the time since boot then, in units of which every FCLK gives a cycle a whole number (R9, R444) -/
  clockAt : Nat
  clockTime : Nat
  bricks : Table Brick
  flights : List Flight
  frames : List Frame
  reqs : List Req
  /-- misses of the engines that go through an edge brick's TLB (R228, R243) -/
  walks : List Walk
  maps : List MapOp
  handovers : List Handover
  nextId : Nat
  hbm : List Host.Cell
  hbmUe : List Nat
  loft : Table LoftLine
  fills : List Fill
  walkCache : Table (List TlbEntry)
  scheds : Table Sched
  params : Table (List ParamWindow)
  slots : Table Slot
  nodes : Table (List Word)
  dies : Table Die
  hbmStacks : Table Stack
  tenancies : Table Tenancy
  footings : Table Footing
  gateways : Table Gateway
  errwin : Nat × Nat × Nat
  units : List (UnitRef × ErrUnit)
  host : HostLink
  ports : Table ScalePort
  keystone : Keystone
  deriving DecidableEq, Repr

/-- A brick at boot, in service (R23, R60, R64, R81-R83, R190, R271). -/
def Brick.reset : Brick := {}

/-- The state right after the boot of a part as manufactured: nothing mapped out (R15-R17), every register at the value the spec gives or log 2 names, memory with nothing listed (log 3). -/
def State.reset : State where
  now := 0
  agenda := []
  epoch := 0
  focus := (0, 0)
  free := 0
  capb := BitVec.ofNat 64 (16384 <<< 49 ||| 512 <<< 39 ||| 32 <<< 24)
  bpm := List.replicate 256 0xFFFF_FFFF_FFFF_FFFF
  fclk := 27
  clockAt := 0
  clockTime := 0
  bricks := []
  flights := []
  frames := []
  reqs := []
  walks := []
  maps := []
  handovers := []
  nextId := 0
  hbm := []
  hbmUe := []
  loft := []
  fills := []
  walkCache := []
  scheds := []
  params := []
  slots := []
  nodes := []
  dies := []
  hbmStacks := []
  tenancies := []
  footings := []
  gateways := []
  errwin := (1000, 4, 8)
  units := []
  host := {}
  ports := []
  keystone := {}

end Sys2Proof.Machine
end

