-- ==== Sys2Proof/Machine/Ops.lean ====
section
/-! DEFINITION. Named operations on the state: bricks, slices, predicates, input queues, output ports and the bank. -/

namespace Sys2Proof

/-- The place of a bind slot in a table of slots (R370). -/
def RegionId.key (r : RegionId) : Nat := r.die * 64 + r.slot
/-- A bind slot that there is: 64 on each of 4 dies (R370). -/
def RegionId.exists (r : RegionId) : Bool := r.die < 4 && r.slot < 64
def RegionId.ofKey (k : Nat) : RegionId := { die := k / 64, slot := k % 64 }

end Sys2Proof

namespace Sys2Proof.Machine

open Sys2Proof

/-! Outcomes -/

/-- A machine outcome. -/
abbrev Outcome := Host.Outcome State Fault Refusal

/-- A step of an agent: it takes effect when it is enabled, and otherwise waits, the state unchanged (log 1). -/
def stepWhen (enabled : Bool) (s t : State) : Outcome := .next (if enabled then t else s)

/-! Time -/

/-- Units of time in a nanosecond: ten nanoseconds have as many as the least common multiple of 1 to 27, so a cycle at every FCLK is a whole number of units (R444). -/
def unitsPerNs : Nat := 8031343320

/-- A cycle at the present FCLK, which counts 100 MHz (R9, R444). -/
def State.cycleUnits (s : State) : Nat := 10 * unitsPerNs / s.fclk

/-- Time since boot, exactly (R9, R444). -/
def State.time (s : State) : Nat := s.clockTime + (s.now - s.clockAt) * s.cycleUnits

/-- Nanoseconds since boot. -/
def State.ns (s : State) : Nat := s.time / unitsPerNs

/-- Microseconds since boot (R401). -/
def State.us (s : State) : Nat := s.ns / 1000

/-- The next free draw (log 8). -/
def State.draw (s : State) : Nat × State := (Config.freeNat s.free, { s with free := s.free + 1 })

/-! Bricks -/

/-- In service: the brick's bit of BPM is 1 (R16). -/
def State.inService (s : State) (b : BrickId) : Bool :=
  (s.bpm.getD (b.toNat / 64) 0).getLsbD (b.toNat % 64)

/-- A brick that nothing has touched since boot; a mapped-out one is OUT (R23). -/
def State.blank (s : State) (b : BrickId) : Brick := if s.inService b then Brick.reset else { Brick.reset with life := .out }

/-- A brick. -/
def State.brick (s : State) (b : BrickId) : Brick := s.bricks.getD b.toNat (s.blank b)

def State.setBrick (s : State) (b : BrickId) (x : Brick) : State :=
  { s with bricks := s.bricks.set b.toNat x }

def State.modBrick (s : State) (b : BrickId) (f : Brick → Brick) : State := s.setBrick b (f (s.brick b))

/-- Bits of `bsr.ctl` (R82). -/
def Brick.pick (x : Brick) : Bool := x.ctl.getLsbD 0
def Brick.bken (x : Brick) : Bool := x.ctl.getLsbD 1
def Brick.stepMode (x : Brick) : Bool := x.ctl.getLsbD 2
def Brick.pass (x : Brick) : Bool := x.ctl.getLsbD 3
def Brick.setPick (x : Brick) (v : Bool) : Brick := { x with ctl := (x.ctl &&& 0xE) ||| (if v then 1 else 0) }
def Brick.setBken (x : Brick) (v : Bool) : Brick := { x with ctl := (x.ctl &&& 0xD) ||| (if v then 2 else 0) }
def Brick.setStep (x : Brick) (v : Bool) : Brick := { x with ctl := (x.ctl &&& 0xB) ||| (if v then 4 else 0) }
def Brick.setPass (x : Brick) (v : Bool) : Brick := { x with ctl := (x.ctl &&& 0x7) ||| (if v then 8 else 0) }

/-- FTZ and RM of `bsr.fmode` (R140). -/
def fmodeFtz (m : Nat) : Bool := bit m 2
def fmodeRm (m : Nat) : Nat := bits m 1 0

/-! Slices (R97-R99) -/

/-- The value of n slices from `lo`. -/
def readSlices (f : BitVec 448) (lo n : Nat) : Nat := bits f.toNat (4 * (lo + n) - 1) (4 * lo)

/-- Write n slices from `lo`; every other slice keeps its value (R99). -/
def writeSlices (f : BitVec 448) (lo n v : Nat) : BitVec 448 :=
  BitVec.ofNat 448 (insertBits f.toNat (4 * lo) (4 * n) v)

/-! Predicates (R62) -/

def Brick.pred (x : Brick) (i : Nat) : Bool := x.pval.getLsbD i
def Brick.pending (x : Brick) (i : Nat) : Bool := x.pend.getLsbD i

/-- Bit i of an 8-bit set. -/
def setBit8 (v : BitVec 8) (i : Nat) (b : Bool) : BitVec 8 :=
  if b then v ||| BitVec.ofNat 8 (1 <<< i) else v &&& ~~~(BitVec.ofNat 8 (1 <<< i))

/-- Predicate writes of one cycle, together (R73); a rule's value carries no order of R278. -/
def Brick.writePreds (x : Brick) (ws : List (Nat × Bool)) : Brick :=
  ws.foldl (fun x w =>
    { x with
      pval := setBit8 x.pval w.1 w.2
      pend := setBit8 x.pend w.1 false
      predTs := modifyAt (fun _ => 0) w.1 x.predTs }) x

/-! Tokens (R178, R179) -/

def Token.subtype (t : Token) : Nat := bits t.pay.toNat 63 60
def Token.isWeep (t : Token) : Bool := t.tag = .ctrl && t.subtype = 1
def Token.isMark (t : Token) : Bool := t.tag = .mark
/-- A MARK or a WEEP: no firing dequeues it, and the INRDY count stops before it (R180). -/
def Token.isBarrier (t : Token) : Bool := t.isMark || t.isWeep

def Tag.code : Tag → Nat
  | .data => 0
  | .eos => 1
  | .mark => 2
  | .ctrl => 3
def Tag.ofCode (n : Nat) : Tag :=
  match n with
  | 0 => .data
  | 1 => .eos
  | 2 => .mark
  | _ => .ctrl

def dataToken (v : Nat) : Token := { tag := .data, pay := BitVec.ofNat 64 v }
def ctrlToken (sub v : Nat) : Token := { tag := .ctrl, pay := BitVec.ofNat 64 (sub % 16 * 2 ^ 60 + v % 2 ^ 60) }
/-- An EOS payload (R179). -/
def eosToken (sid : Nat) (abort lenmis : Bool) (count : Nat) : Token :=
  { tag := .eos, pay := BitVec.ofNat 64 (sid % 2048 * 2 ^ 48 + b2n abort * 2 ^ 33 + b2n lenmis * 2 ^ 32 + count % 2 ^ 32) }
def markToken (round : Nat) : Token := { tag := .mark, pay := BitVec.ofNat 64 (round % 2 ^ 48) }
def weepToken (gen : Nat) : Token := ctrlToken 1 (gen % 65536)

/-! Input queues (R174, R180, R246) -/

def Brick.input (x : Brick) (ch : Nat) : Input := x.inputs.getD ch {}
def Brick.modInput (x : Brick) (ch : Nat) (f : Input → Input) : Brick := { x with inputs := modifyAt f ch x.inputs }

/-- Entries of a channel that uncommitted firings have reserved (R65, R67). -/
def Brick.reserved (x : Brick) (ch : Nat) : Nat :=
  x.firings.foldl (fun n f => if f.committed then n else n + f.take.getD ch 0) 0

/-- The queue as the picker sees it, after the reserved entries (R65). -/
def Brick.visible (x : Brick) (ch : Nat) : List Token := (x.input ch).queue.drop (x.reserved ch)

/-- The INRDY count: visible entries ahead of the first MARK or WEEP (R180). -/
def Brick.ready (x : Brick) (ch : Nat) : List Token := (x.visible ch).takeWhile fun t => !t.isBarrier

/-- Entries that a gutter holds at most (R185). -/
def Gutter.capacity (g : Gutter) : Nat := g.size / 16

/-! Output ports (R175, R184) -/

def Brick.out (x : Brick) (p : Nat) : Port := x.outs.getD p {}
def Brick.modOut (x : Brick) (p : Nat) (f : Port → Port) : Brick := { x with outs := modifyAt f p x.outs }

/-- Places of a port that firings have reserved and not yet filled (R67, R70). -/
def Brick.portReserved (x : Brick) (p : Nat) : Nat :=
  x.firings.foldl (fun n f =>
    if f.port = some p then n + (f.places - f.entered)
    else n + (f.wbs.filter fun w => match w.port with
      | some (q, _) => q = p
      | none => false).length) 0

/-- Unconnected ports always have room (R177). -/
def Port.connected (p : Port) : Bool := !p.route.isEmpty

/-- Free places of a skid buffer, reserved ones taken off (R175); an unconnected port has room for any firing. -/
def Brick.room (x : Brick) (p : Nat) : Nat :=
  if (x.out p).connected then 4 - (x.out p).skid.length - x.portReserved p else 64

/-- The token that enters a port whose DATA counter holds `count` (R197). -/
def Out.token (count : Nat) : Out → Token
  | .tok t => t
  | .eosAuto base => { tag := .eos, pay := base ||| BitVec.ofNat 64 count }

/-- The DATA counter after a token (R175). -/
def countAfter (count : Nat) (t : Token) : Nat :=
  match t.tag with
  | .data => (count + 1) % 2 ^ 32
  | .eos => 0
  | .mark | .ctrl => count

/-- Enqueue a token on a port: the DATA counter counts it (R175), and an unconnected port discards it (R177). -/
def Port.push (p : Port) (o : Out) : Port :=
  let t := o.token p.count
  let entry : SkidEntry := { tok := t, todo := List.range p.route.length }
  { p with
    count := countAfter p.count t
    skid := if p.connected then p.skid ++ [entry] else p.skid }

/-- Enqueue a token on every connected output (R188, R191, R198). -/
def Brick.pushConnected (x : Brick) (t : Token) : Brick :=
  { x with outs := x.outs.map fun p => if p.connected then p.push (.tok t) else p }

/-! The bank (R202-R213) -/

def cellsGet (l : List Host.Cell) (a : Nat) : Byte :=
  match l with
  | [] => 0
  | (a', v) :: rest => if a' = a then v else cellsGet rest a

/-- Write one byte; a byte of 0 is not listed, so that equal memories are equal lists. -/
def cellsSet (l : List Host.Cell) (a : Nat) (v : Byte) : List Host.Cell :=
  match l with
  | [] => if v = 0 then [] else [(a, v)]
  | (a', v') :: rest =>
    if a < a' then (if v = 0 then (a', v') :: rest else (a, v) :: (a', v') :: rest)
    else if a = a' then (if v = 0 then rest else (a, v) :: rest)
    else (a', v') :: cellsSet rest a v

/-- The canonical form: addresses rise strictly and no byte is the value of an unlisted address. -/
def Memory.wf : List Host.Cell → Bool
  | [] => true
  | [c] => c.2 ≠ 0
  | c :: d :: rest => c.2 ≠ 0 && c.1 < d.1 && Memory.wf (d :: rest)

def cellsRead (l : List Host.Cell) (a n : Nat) : List Byte := (List.range n).map fun i => cellsGet l (a + i)

def cellsWrite (l : List Host.Cell) (a : Nat) : List Byte → List Host.Cell
  | [] => l
  | v :: vs => cellsWrite (cellsSet l a v) (a + 1) vs

/-- Clear a range of bytes. -/
def cellsClear (l : List Host.Cell) (a n : Nat) : List Host.Cell := l.filter fun c => c.1 < a || a + n ≤ c.1

/-- A nibble of the bank: bits [4(n mod 2)+3 : 4(n mod 2)] of byte floor(n / 2) (R210). -/
def nibbleGet (l : List Host.Cell) (n : Nat) : Nat := (cellsGet l (n / 2)).toNat / 16 ^ (n % 2) % 16
def nibbleSet (l : List Host.Cell) (n v : Nat) : List Host.Cell :=
  cellsSet l (n / 2) (BitVec.ofNat 8 (insertBits (cellsGet l (n / 2)).toNat (4 * (n % 2)) 4 v))

/-- `len` nibbles from nibble address `n`, the lowest first. -/
def nibblesRead (l : List Host.Cell) (n : Nat) : Nat → Nat
  | 0 => 0
  | len + 1 => nibbleGet l n + 16 * nibblesRead l (n + 1) len

def nibblesWrite (l : List Host.Cell) (n : Nat) : Nat → Nat → List Host.Cell
  | 0, _ => l
  | len + 1, v => nibblesWrite (nibbleSet l n v) (n + 1) len (v / 16)

/-- Partition of granule g: 0 SCRATCH, 1 PINNED, 2 L1 (R203, R205). -/
def Brick.part (x : Brick) (g : Nat) : Nat := bits x.gmap.toNat (2 * g + 1) (2 * g)
def Brick.setPart (x : Brick) (g v : Nat) : Brick := { x with gmap := BitVec.ofNat 32 (insertBits x.gmap.toNat (2 * g) 2 v) }
def Brick.isBound (x : Brick) (g : Nat) : Bool := x.bound.getLsbD g
def Brick.setBound (x : Brick) (g : Nat) (v : Bool) : Brick :=
  { x with bound := BitVec.ofNat 16 (insertBits x.bound.toNat g 1 (b2n v)) }

/-- The byte belongs to a gutter's range (R185). -/
def Brick.inGutter (x : Brick) (a : Nat) : Bool :=
  x.inputs.any fun i => match i.gutter with
    | some g => g.off ≤ a && a < g.off + g.size
    | none => false

/-- A dock brick's pool holds an SLF rule with SUB 0x00 to 0x03 (R323). -/
def isDockWord (w : Word) : Bool := bits w.toNat 63 57 = 0x7D && bits w.toNat 29 24 ≤ 3

/-- Dock 0 covers bytes 0x0000-0x2FFF, dock 1 0x3000-0x5FFF (R323). -/
def Brick.inDock (x : Brick) (a : Nat) : Bool := x.dockBrick && a < 0x6000

/-- The head dimension d of a code DC, and Pmax, Z and G of a slate of it; both formats take 2 B (R305). -/
def headDim (dc : Nat) : Nat := 32 * 2 ^ (dc % 4)
def slatePmax (dc : Nat) : Nat := min 64 (8192 / headDim dc)
def slateBytes (dc : Nat) : Nat := 4 * slatePmax dc * headDim dc
def slateGranules (dc : Nat) : Nat := slateBytes dc / 4096

/-- Byte offset of a dock (R323). -/
def dockBase (k : Nat) : Nat := k % 2 * 0x3000

/-- DC of the yealm in dock k (R320). -/
def Brick.dockDc (x : Brick) (k : Nat) : Nat := bits (leValue (cellsRead x.bank (dockBase k + 8) 8)) 25 24

/-- The G granules that an HBM slate of a dock occupies from its fetch until the dock leaves DOCKED (R328). -/
def Brick.slateHold (x : Brick) (a : Nat) : Bool :=
  x.docks.zipIdx.any fun (d, k) =>
    match d.stop with
    | .entry w0 _ =>
      let g := bits w0.toNat 23 20
      d.hold && bit w0.toNat 31 && g * 4096 ≤ a && a < (g + slateGranules (x.dockDc k)) * 4096
    | _ => false

/-- SCRATCH outside gutters: where streams, slabs and docks may go (R203). -/
def Brick.scratchAt (x : Brick) (a : Nat) : Bool := a < 65536 && x.part (a / 4096) = 0
def Brick.scratchRange (x : Brick) (a n : Nat) : Bool := (List.range n).all fun i => x.scratchAt (a + i)

/-- A word of the bank (R202). -/
def Brick.word (x : Brick) (i : Nat) : Nat := leValue (cellsRead x.bank (8 * i) 8)
def Brick.wordUe (x : Brick) (i : Nat) : Bool := x.bankUe.contains i

/-- Store bytes: an aligned whole word takes new check bits, and a narrower store merges (R208). -/
def Brick.store (x : Brick) (a : Nat) (vs : List Byte) : Brick :=
  let whole (i : Nat) : Bool := a ≤ 8 * i && 8 * i + 8 ≤ a + vs.length
  { x with bank := cellsWrite x.bank a vs, bankUe := x.bankUe.filter fun i => !whole i }

/-! Tables of the state -/

def State.die (s : State) (d : Nat) : Die := s.dies.getD d {}
def State.modDie (s : State) (d : Nat) (f : Die → Die) : State := { s with dies := s.dies.set d (f (s.die d)) }
def State.tenancy (s : State) (t : Nat) : Tenancy := s.tenancies.getD t {}
def State.modTenancy (s : State) (t : Nat) (f : Tenancy → Tenancy) : State :=
  { s with tenancies := s.tenancies.set t (f (s.tenancy t)) }
def State.stack (s : State) (k : Nat) : Stack := s.hbmStacks.getD k {}
def State.modStack (s : State) (k : Nat) (f : Stack → Stack) : State := { s with hbmStacks := s.hbmStacks.set k (f (s.stack k)) }
def State.slot (s : State) (r : RegionId) : Slot := s.slots.getD r.key {}
def State.modSlot (s : State) (r : RegionId) (f : Slot → Slot) : State := { s with slots := s.slots.set r.key (f (s.slot r)) }
def State.sched (s : State) (d c : Nat) : Sched := s.scheds.getD (64 * d + c) {}
def State.modSched (s : State) (d c : Nat) (f : Sched → Sched) : State :=
  { s with scheds := s.scheds.set (64 * d + c) (f (s.sched d c)) }
def State.gateway (s : State) (d : Nat) : Gateway := s.gateways.getD d {}
def State.modGateway (s : State) (d : Nat) (f : Gateway → Gateway) : State :=
  { s with gateways := s.gateways.set d (f (s.gateway d)) }
def State.footing (s : State) (e : Nat) : Footing := s.footings.getD e {}
def State.modFooting (s : State) (e : Nat) (f : Footing → Footing) : State :=
  { s with footings := s.footings.set e (f (s.footing e)) }
def State.node (s : State) (n : Nat) : List Word := s.nodes.getD n (List.replicate 8 0)
def State.keySlot (s : State) (k : Nat) : KeySlot := s.keystone.slots.getD k {}
def State.modKeySlot (s : State) (k : Nat) (f : KeySlot → KeySlot) : State :=
  { s with keystone := { s.keystone with slots := s.keystone.slots.set k (f (s.keySlot k)) } }

/-- TALW.ALLOW and THROT of a die (R239). -/
def Die.allow (d : Die) : Nat := bits d.talw.toNat 47 32
def Die.throt (d : Die) : Bool := d.talw.getLsbD 31

/-- Fields of a bind slot's record (R370, R382). -/
def Slot.word (x : Slot) (i : Nat) : Nat := (x.words.getD i 0).toNat
def Slot.gen (x : Slot) : Nat := bits (x.word 0) 38 23
def Slot.tenancy (x : Slot) : Nat := bits (x.word 0) 44 39
def Slot.node (x : Slot) : Nat := bits (x.word 0) 56 45
def Slot.bsp (x : Slot) : Bool := bit (x.word 0) 57
def Slot.modes (x : Slot) : Nat := bits (x.word 0) 22 0
/-- A slot that holds a region: LOAD, RUN or DRAIN (R509). -/
def Slot.active (x : Slot) : Bool := x.st = .load || x.st = .run || x.st = .drain
/-- The slot's region has begun to run, and has not ended. -/
def Slot.underway (x : Slot) : Bool := x.st = .run || x.st = .drain

/-- Raise a brick's program timestamp (R269). -/
def Brick.raisePts (x : Brick) (ts : Nat) : Brick := { x with pts := max x.pts ts }

/-- `bsr.ts` as it stands (R271): the timestamps that firings in flight carry raise it from their fire cycles on (R278), and go with a firing that is discarded (R77). -/
def Brick.ts (x : Brick) : Nat := x.firings.foldl (fun t f => if f.committed then t else max t f.carry) x.pts

/-- A commit or a return tells the region the greatest timestamp it has seen (R282). -/
def State.noteTs (s : State) (b : BrickId) (ts : Nat) : State :=
  match (s.brick b).region with
  | some r => s.modSlot r fun x => { x with maxTs := max x.maxTs ts }
  | none => s

/-! Counters of the region's agents (R379) -/

def State.sent (s : State) (b : BrickId) (n : Nat) : State := s.modBrick b fun x => { x with sent := x.sent + n }
def State.rcvd (s : State) (b : BrickId) (n : Nat) : State := s.modBrick b fun x => { x with rcvd := x.rcvd + n }
/-- Credits that a taken entry returns: launched, and taken at once, as the model's credits are (R183, R379, log 1). -/
def State.returned (s : State) (b : BrickId) (n : Nat) : State := s.modBrick b fun x => { x with sent := x.sent + n, rcvd := x.rcvd + n }

/-- An event that can change eligibility wakes a picker that IDLE has suspended (R90). -/
def Brick.wake (x : Brick) : Brick := { x with idle := x.idle.map fun p => (p.1, true), stirred := true }

/-! Fault records (R400-R402) -/

/-- The fields of a fault record but SEQ and TIME. -/
structure Record where
  code : Nat
  ten : Nat := 63
  node : Nat := 0xFFF
  slot : Nat := 0
  die : Nat := 0
  brick : Nat := 0
  fire : Nat := 0
  cls : Nat := 0
  detail : Nat := 0
  count : Nat := 0
  data : Nat := 0
  deriving DecidableEq, Repr

def Record.words (r : Record) (seq us : Nat) : List Word :=
  [BitVec.ofNat 64 (r.code % 256 * 2 ^ 56 + r.ten % 64 * 2 ^ 50 + r.node % 4096 * 2 ^ 38 + r.slot % 64 * 2 ^ 32 +
      r.die % 4 * 2 ^ 30 + r.brick % 2 ^ 14 * 2 ^ 16 + seq % 65536),
   BitVec.ofNat 64 (r.fire % 2 ^ 48 * 2 ^ 16 + r.cls % 256 * 256 + r.detail % 256),
   BitVec.ofNat 64 (min r.count 65535 * 2 ^ 48 + us % 2 ^ 48),
   BitVec.ofNat 64 r.data]

/-- The log of a die with one more record, or one more lost to a full ring (R400). -/
def Die.logRecord (d : Die) (us : Nat) (r : Record) : Die :=
  if (d.head + 1) % 256 = d.tail then { d with ovf := min (d.ovf + 1) (2 ^ 32 - 1) }
  else { d with log := d.log.set d.head (r.words d.seq us), head := (d.head + 1) % 256, seq := (d.seq + 1) % 65536 }

/-- Write a record at its die (R400, R401). -/
def State.writeRecord (s : State) (r : Record) : State := s.modDie r.die fun d => d.logRecord s.us r

/-! Error units (R405-R407) -/

/-- Boundary q of the package ring joins dies of `boundaryDies q` (R412). -/
def boundaryDies (q : Nat) : Nat × Nat :=
  match q with
  | 0 => (0, 1)
  | 1 => (1, 3)
  | 2 => (3, 2)
  | _ => (2, 0)

def UnitRef.kind : UnitRef → Nat
  | .bank _ => 0
  | .loft _ => 1
  | .hbm _ _ => 2
  | .lane _ => 3
  | .port _ => 4
def UnitRef.number : UnitRef → Nat
  | .bank b => b.toNat
  | .loft bay => bay
  | .hbm st pc => 64 * st + pc
  | .lane n => n
  | .port p => p
def UnitRef.die : UnitRef → Nat
  | .bank b => BrickId.die b
  | .loft bay => bay / 8 % 4
  | .hbm st _ => st / 3 % 4
  | .lane n => (boundaryDies (n / 8)).1
  | .port _ => 0
def UnitRef.isLink : UnitRef → Bool
  | .lane _ | .port _ => true
  | .bank _ | .loft _ | .hbm _ _ => false

/-- An error unit's entry (R405). -/
def State.unit (s : State) (u : UnitRef) : ErrUnit := ((s.units.find? fun e => e.1 = u).map (·.2)).getD {}
def State.setUnit (s : State) (u : UnitRef) (x : ErrUnit) : State :=
  { s with units := (s.units.filter fun e => e.1 ≠ u) ++ [(u, x)] }

/-- What a lasting unit leads to (R407); `addr` is the failing address. -/
def State.lastingAction (s : State) (u : UnitRef) (addr : Nat) : State :=
  let k := s.keystone
  match u with
  | .bank b => { s with keystone := { k with mapOut := if k.mapOut.contains b.toNat then k.mapOut else k.mapOut ++ [b.toNat] } }
  | .loft bay => { s with keystone := { k with nextWays := k.nextWays ++ [(bay, addr / 64 % 4096, k.nextWays.length)] } }
  | .hbm _ _ => { s with keystone := { k with retired := if k.retired.contains (addr / 8192) then k.retired else k.retired ++ [addr / 8192] } }
  | .lane _ | .port _ => s

/-- An event of weight w in a unit's window (R405, R406): at the threshold the window closes, and the first time a LASTING record is written. -/
def State.countError (s : State) (u : UnitRef) (w addr : Nat) : State :=
  let x := s.unit u
  let fresh : Bool := match x.open? with
    | none => true
    | some t => s.errwin.1 * 1000000 * unitsPerNs ≤ s.time - t
  let c := (if fresh then 0 else x.count) + w
  let x := { x with open? := if fresh then some s.time else x.open?, count := c }
  if c < s.errwin.2.2 then s.setUnit u x
  else
    let s := s.setUnit u { x with open? := none, count := 0, lasting := true, marks := x.marks + 1 }
    if x.lasting then s
    else
      (s.writeRecord
        { code := 0x43, die := UnitRef.die u, cls := Config.unitKind (UnitRef.kind u), detail := Config.unitNumber (UnitRef.kind u) (UnitRef.number u)
          brick := match u with
            | .bank b => b.toNat
            | _ => 0
          count := c
          data := match u with
            | .bank b => b.toNat
            | _ => addr }).lastingAction u addr

/-- A read meets an uncorrectable word of a unit: it weighs UEW (R405). -/
def State.meetBad (s : State) (u : UnitRef) (addr : Nat) : State :=
  (s.setUnit u { s.unit u with uncorrectable := (s.unit u).uncorrectable + 1 }).countError u s.errwin.2.1 addr

/-- A record of a region with its tenancy, node, slot and die (R401). -/
def State.regionRecord (s : State) (g : RegionId) (r : Record) : Record :=
  let x := s.slot g
  { r with ten := x.tenancy, node := x.node, slot := g.slot, die := g.die }

/-- The order in which one cycle's fatal conditions are taken: the lower code, then the lower brick (R403). -/
def Record.beats (r q : Record) : Bool := r.code < q.code || (r.code = q.code && r.brick < q.brick)

/-- A fatal condition reaches a region's controller: the first one of the region is taken, and among those of one cycle R403's choice. -/
def State.raiseFault (s : State) (g : RegionId) (r : Record) : State :=
  let x := s.slot g
  let q := s.regionRecord g r
  let take : Bool := x.active && x.fault.isNone && !x.ended && match x.pending with
    | none => true
    | some (at', old) =>
      at' = s.now && (let o := (old.getD 0 0).toNat
        q.beats { code := bits o 63 56, brick := bits o 29 16 })
  if take then s.modSlot g fun x => { x with pending := some (s.now, q.words 0 0) } else s

/-- A fatal condition of a brick's region. -/
def State.raiseAt (s : State) (b : BrickId) (r : Record) : State :=
  match (s.brick b).region with
  | some g => s.raiseFault g { r with brick := b.toNat }
  | none => s

/-- A record of a brick's region that leaves it running (R404). -/
def State.noteAt (s : State) (b : BrickId) (r : Record) : State :=
  match (s.brick b).region with
  | some g => s.writeRecord (s.regionRecord g { r with brick := b.toNat })
  | none => s

/-! Taking a brick trap, and going on after one (R77, R83, R89) -/

/-- HNE and HTAG of `bsr.tcls` from the heads at the fire cycle (R83). DESIGN CHOICE (log 12): the HTAG bits of a channel without a head are 0. -/
def headBits (snap : List (Option Token)) : Nat :=
  (List.range 4).foldl (fun n ch => match (snap.getD ch none) with
    | some t => n + 2 ^ (40 + ch) + t.tag.code * 2 ^ (32 + 2 * ch)
    | none => n) 0

/-- TAKING A BRICK TRAP: the trap record of R83 and R80 is written with VALID, PICK is clear, and `bsr.tfire` names the firing after the last that committed. `blank` gives the payload of a head that does not exist (log 12). -/
def Brick.recordTrap (x : Brick) (cls detail beat slot val : Nat) (word : Word) (snap : List (Option Token)) (blank : Nat → Nat) : Brick :=
  { x.setPick false with
    tcls := BitVec.ofNat 64 (headBits snap + detail % 256 * 2 ^ 24 + cls % 256 * 2 ^ 16 + 2 ^ 15 + beat % 32 * 32 + slot % 16)
    tfire := (x.fires + 1) % 2 ^ 48
    thead := (List.range 4).map fun ch => match snap.getD ch none with
      | some t => t.pay
      | none => BitVec.ofNat 64 (blank ch)
    tword := word
    tval := BitVec.ofNat 64 val }

/-- A trap reaches the region: BKPTNOTE for a breakpoint (R89), else the fatal fault BRKTRAP (R78, R402). -/
def State.reportTrap (s : State) (b : BrickId) (cls detail : Nat) : State :=
  let x := s.brick b
  if cls = 0x02 then s.noteAt b { code := 0x20, fire := x.tfire, cls, detail, data := x.tword.toNat }
  else s.raiseAt b { code := 0x01, fire := x.tfire, cls, detail, data := x.tword.toNat }

/-- A trap of class ECCU has met an uncorrectable word of granule `detail`, which weighs in its bank's window (R405). -/
def State.meetTrap (s : State) (b : BrickId) (cls detail : Nat) : State :=
  if cls = 0x06 then s.meetBad (.bank b) (4096 * detail) else s

/-- Take a trap: an uncorrectable word weighs in its bank's window (R405), and the record is written and reported. -/
def State.takeTrap (s : State) (b : BrickId) (cls detail beat slot val : Nat) (word : Word) (snap : List (Option Token)) : State :=
  let s := s.meetTrap b cls detail
  let s' := s.modBrick b fun x => x.recordTrap cls detail beat slot val word snap fun ch => Config.freeNat (s.free + ch)
  { s' with free := s.free + 4 }.reportTrap b cls detail

/-- GOING ON AFTER A TRAP: a management-window write of PICK = 1 starts the picker and clears VALID; the record's other fields stay (R89). A brick that weeps or is wept waits with PICK clear (R191, R192), and one that a wave has stopped is imaged as it would pick (R396, log 20). -/
def Brick.resumePick (x : Brick) : Brick :=
  if x.weep ≠ .none then x.wake
  else { (x.setPick true).wake with tcls := x.tcls &&& ~~~(0x8000 : Word), picked := x.picked || x.wave = .stopped }

/-- PICK clears and is not to be set again when the brick goes on: STEP, and a management-window write of 0 (R82, R396). -/
def Brick.haltPick (x : Brick) : Brick := { x.setPick false with picked := false }

/-- VALID of the trap record. -/
def Brick.trapValid (x : Brick) : Bool := x.tcls.getLsbD 15

end Sys2Proof.Machine
end

