-- ==== Sys2Proof/Machine/Operands.lean ====
section
/-! DEFINITION. What a rule's word says of its operands (R36-R43, R101, R109), its predicates (R63, R65), its timing (R69, R149, R214) and the channels, ports and slices it uses; and the value an operand reads (R38, R39, R68, R98). -/

namespace Sys2Proof.Machine

open Sys2Proof

/-- The opcode, PDST, PMODE, KEEP and WID of a rule (R32); a format that lacks a field has it at zero. -/
structure Fields where
  opc : Nat := 0
  pdst : Nat := 0
  pmode : Nat := 0
  keep : Bool := false
  wid : Nat := 0
  deriving DecidableEq, Repr

def rawFields : Raw → Fields
  | .fT opc _ x => { opc, pdst := x.pdst.toNat, pmode := x.pmode.toNat, keep := x.keep = 1, wid := x.wid.toNat }
  | .fU opc _ x => { opc, pdst := x.pdst.toNat, pmode := x.pmode.toNat, keep := x.keep = 1, wid := x.wid.toNat }
  | .fI opc _ x => { opc, pdst := x.pdst.toNat, pmode := x.pmode.toNat, keep := x.keep = 1, wid := x.wid.toNat }
  | .fM opc _ x => { opc, pdst := x.pdst.toNat, pmode := x.pmode.toNat, keep := x.keep = 1, wid := x.wid.toNat }
  | .fP opc _ x => { opc, keep := x.keep = 1 }
  | .fK opc _ x => { opc, keep := x.keep = 1, wid := x.wid.toNat }
  | .fX opc _ x => { opc, keep := x.keep = 1 }
  | .other _ => {}

/-- BEATS (R30). -/
def beatCount (h : Head) : Nat :=
  match h.beats.toNat with
  | 0 => 1
  | 1 => 4
  | 2 => 16
  | _ => 32

/-- What the picker and the datapath need to know of a rule. -/
structure RuleInfo where
  h : Head
  f : Fields
  p : Parts
  deriving DecidableEq, Repr

def ruleInfo (i : Instr) : Option RuleInfo :=
  match toRaw i with
  | some r => (Raw.parts true r).map fun p => { h := p.h, f := rawFields r, p }
  | none => none

namespace RuleInfo

def beats (r : RuleInfo) : Nat := beatCount r.h
def d (r : RuleInfo) : Nat := r.p.d
def a (r : RuleInfo) : Nat := r.p.a
def b (r : RuleInfo) : Nat := r.p.b
def du (r : RuleInfo) : Use := r.p.lay.d
def au (r : RuleInfo) : Use := r.p.lay.a
def bu (r : RuleInfo) : Use := r.p.lay.b

/-- CMPEQ to CMPLTUI, BTST, FCMPEQ to FCMPUN and FCLS (R41). -/
def isCompare (r : RuleInfo) : Bool :=
  (0x36 ≤ r.f.opc && r.f.opc ≤ 0x3F) || (0x49 ≤ r.f.opc && r.f.opc ≤ 0x4C) || r.f.opc = 0x5E

/-- FSUM, FMAXR and FDOT read D once and write it once (R150, R152). -/
def isReduction (r : RuleInfo) : Bool := 0x56 ≤ r.f.opc && r.f.opc ≤ 0x58

def isQblk (r : RuleInfo) : Bool := r.f.opc = 0x5A

/-- DROP and RTAG read heads of every tag (R181). -/
def readsAnyTag (r : RuleInfo) : Bool := r.f.opc = 0x74 || r.f.opc = 0x75

/-- Latency: the cycles from a beat's issue to its write-back (R69, R149, R195, R214, R332). -/
def latency (r : RuleInfo) : Nat :=
  let o := r.f.opc
  if 0x06 ≤ o ∧ o ≤ 0x09 then 3
  else if 0x0A ≤ o ∧ o ≤ 0x0D then 20
  else if o < 0x40 then 1
  else if o = 0x50 then 20
  else if o = 0x51 then 8
  else if o = 0x5A then 6
  else if o < 0x60 then 4
  else if o = 0x68 ∨ o = 0x6A ∨ o = 0x6F then 3
  else if o = 0x77 then 6
  else if o = 0x7D then 2
  else 1

/-- Cycles after which the datapath accepts the next beat (R69). -/
def spacing (r : RuleInfo) : Nat :=
  if (0x0A ≤ r.f.opc ∧ r.f.opc ≤ 0x0D) ∨ r.f.opc = 0x50 then 4 else 1

/-- FDIV and the integer divides use the divider (R148). -/
def usesDivider (r : RuleInfo) : Bool := (0x0A ≤ r.f.opc && r.f.opc ≤ 0x0D) || r.f.opc = 0x50

/-- The serialising rules: RDBSR, WRBSR, RDTS, WPTR (R94, R259) and XFENCE (R277). -/
def isSerial (i : Instr) : Bool :=
  match i with
  | .sysRdbsr .. | .sysWrbsr .. | .sysRdts .. | .sysWptr .. | .sysXfence .. => true
  | _ => false

/-- The channel that an operand names, where it is read (R37). -/
def channelOf (u : Use) (code : Nat) : Option Nat :=
  if u.reads && 112 ≤ code && code ≤ 115 then some (code - 112) else none

/-- Entries of channel `ch` that the rule reads as operands: one for a reduction's D, BEATS otherwise, none where no operand names it (R39, R152). -/
def reads (r : RuleInfo) (ch : Nat) : Nat :=
  if channelOf r.au r.a = some ch ∨ channelOf r.bu r.b = some ch then r.beats
  else if channelOf r.du r.d = some ch then (if r.isReduction then 1 else r.beats)
  else 0

/-- Entries that channel `ch` has to hold (R65): BEATS for an INRDY bit, one for a reduction's D alone (R152). -/
def needs (r : RuleInfo) (ch : Nat) : Nat :=
  if bit r.h.inrdy.toNat ch then
    (if r.isReduction ∧ channelOf r.du r.d = some ch then 1 else r.beats)
  else 0

/-- Entries that the commit dequeues from channel `ch` (R39, R43, R67). -/
def takes (r : RuleInfo) (ch : Nat) : Nat := if r.f.keep then 0 else r.reads ch

/-- The output port that the rule's D names (R38); QBLK hands its port to the buffer (R171). -/
def port (r : RuleInfo) : Option Nat :=
  if r.isQblk then none
  else if r.du.writes && 112 ≤ r.d && r.d ≤ 115 then some (r.d - 112)
  else none

/-- Slice ranges read, as (first, count) (R101). -/
def sliceReads (r : RuleInfo) : List (Nat × Nat) :=
  [(r.du, r.d), (r.au, r.a), (r.bu, r.b)].filterMap fun (u, c) => if u.reads && c < 112 then some (c, u.slices) else none

/-- Slice ranges written (R101). -/
def sliceWrites (r : RuleInfo) : List (Nat × Nat) :=
  [(r.du, r.d), (r.au, r.a)].filterMap fun (u, c) => if u.writes && c < 112 then some (c, u.slices) else none

end RuleInfo

/-- Two ranges share a slice (R101). -/
def rangesMeet (x y : Nat × Nat) : Bool := x.1 < y.1 + y.2 && y.1 < x.1 + x.2

/-- The read-modify-write rules of R109: ADDI, MAD, ANDI, ORI, XORI, BINS and MOVHI. -/
def RuleInfo.isReadModifyWrite (r : RuleInfo) : Bool := [0x05, 0x09, 0x1E, 0x1F, 0x20, 0x2B, 0x34].contains r.f.opc

/-- R70's overlap: the D range meets a range that the beat reads, D's own where D is a source in slices (R103, R152); a rule of R109 whatever its D (R104); a reduction adds no spacing (R150). -/
def RuleInfo.overlaps (r : RuleInfo) : Bool :=
  r.du.writes && !r.isReduction && (r.isReadModifyWrite || r.d < 112 &&
    [(r.du, r.d), (r.au, r.a), (r.bu, r.b)].any fun (u, c) => u.reads && c < 112 && rangesMeet (r.d, r.du.slices) (c, u.slices))

/-- Cycles from a beat's issue to the earliest issue of the next (R70): the datapath's spacing, and under overlap the end of the beat's write-back. -/
def RuleInfo.pace (r : RuleInfo) : Nat := if r.overlaps then max r.spacing (r.latency + 1) else r.spacing

/-- The output port that the beats of a rule write: OCH for the channel rules (R195), otherwise D; FIN hands its port to the dock (R335). -/
def rulePort (i : Instr) (r : RuleInfo) : Option Nat :=
  match i with
  | .emit _ x | .eos _ x | .rtag _ x | .steer _ x => some x.och.toNat
  | .slfFin _ _ => none
  | _ => r.port

/-- Predicates that a rule reads as operands (R65), as an 8-bit set. -/
def predReads (i : Instr) (r : RuleInfo) : Nat :=
  match i with
  | .plog _ x => 2 ^ x.pa.toNat ||| 2 ^ x.pb.toNat
  | .sel _ x => 2 ^ x.pdst.toNat
  | .adc _ x | .sbb _ x => 2 ^ x.pdst.toNat
  | .ptos _ x => if x.wid = 0 then 0x0F else 0xFF
  | _ => if r.isCompare ∧ 2 ≤ r.f.pmode then 2 ^ r.f.pdst else 0

/-- Predicates that a rule writes (R63), as an 8-bit set. -/
def predWrites (i : Instr) (r : RuleInfo) : Nat :=
  match i with
  | .plog _ x => 2 ^ x.pd.toNat
  | .psetv _ x => x.mask.toNat
  | .stop _ x => if x.wid = 1 then 0xFF else 0x0F * 16 ^ (x.imm7.toNat % 2)
  | _ => if r.f.pmode ≠ 0 then 2 ^ r.f.pdst else 0

/-- `bsr.cycle` (R80). -/
def Brick.cycle (x : Brick) (now : Nat) : Nat :=
  ((if x.life = .bound then 0 else (now : Int)) - x.cycleBase).toNat % 2 ^ 64

/-- The entry that operand code `code` reads in beat i of a firing (R39, R68). -/
def Firing.entry (f : Firing) (ch i : Nat) (keep : Bool) : Option Token :=
  (f.heads.getD ch [])[if keep then 0 else i]?

/-- The slices as a later beat of the same firing reads them: with its own earlier write-backs whose time has come applied, even while R75 still holds them (R70, R103, log 11). -/
def Firing.overlay (f : Firing) (now : Nat) (v : BitVec 448) : BitVec 448 :=
  f.wbs.foldl (fun v w => match w.lo with
    | some (lo, n, x) => if w.due ≤ now then writeSlices v lo n x else v
    | none => v) v

/-- The value a source operand of n slices reads in beat i (R38, R98). -/
def operand (s : State) (b : BrickId) (f : Firing) (keep : Bool) (code n i : Nat) : Nat :=
  let x := s.brick b
  if code < 112 then readSlices (f.overlay s.now x.slices) code n
  else if code ≤ 115 then (((f.entry (code - 112) i keep).map (·.pay.toNat)).getD 0) % 2 ^ (4 * n)
  else if code = 117 then i % 2 ^ (4 * n)
  else if code = 118 then b.toNat % 2 ^ (4 * n)
  else if code = 119 then x.cycle s.now % 2 ^ (4 * n)
  else 0

/-- The operand value of a field with its use: zero where the rule does not read it. -/
def fieldValue (s : State) (b : BrickId) (f : Firing) (r : RuleInfo) (u : Use) (code i : Nat) : Nat :=
  if u.reads then operand s b f r.f.keep code u.slices i else 0

end Sys2Proof.Machine
end

