-- ==== Sys2Proof/Machine/Flags.lean ====
section
/-! DEFINITION. What a beat computes, and the predicate that a rule writes from it (R41, R72, R110, R128, R155); the flag computations that several instructions share (R111-R119). -/

namespace Sys2Proof.Machine

open Sys2Proof

/-- What one beat gives: the value for D (`none` where the beat does not write D), a token in its place for a channel rule, the value PMODE 01 and 11 judge, the flag of PMODE 10, the compare result, what the next beat takes over, sticky flags, a trap, effects for the commit, further write-backs and predicate writes. -/
structure BeatOut where
  write : Option Nat := none
  out : Option Out := none
  judge : Nat := 0
  flag : Bool := false
  cmp : Bool := false
  chain : Bool := false
  acc : List Nat := []
  sticky : Nat := 0
  trap : Option Trap := none
  effects : List Effect := []
  wbs : List WriteBack := []
  preds : List (Nat × Bool) := []
  deriving DecidableEq, Repr

/-- The effect of beat i of a firing on brick b. -/
abbrev Beat := State → BrickId → Firing → RuleInfo → Nat → BeatOut

/-- A beat that writes v to D and judges it. -/
def BeatOut.value (v : Nat) (flag : Bool := false) (sticky : Nat := 0) : BeatOut :=
  { write := some v, judge := v, flag, sticky }

/-- All ones or zero over n slices (R126, R160). -/
def allOnes (n : Nat) (c : Bool) : Nat := if c then 2 ^ (4 * n) - 1 else 0

/-- The compare result combined over the beats (R128): conjunction under PMODE 01 and 10, disjunction under 11. -/
def combineCompare (pmode i : Nat) (chain c : Bool) : Bool :=
  if i = 0 then c else if pmode = 3 then chain || c else chain && c

/-- The predicate a compare writes from the combined result (R41). -/
def comparePred (pmode : Nat) (old c : Bool) : Bool :=
  match pmode with
  | 1 => c
  | 2 => old && c
  | _ => old || c

/-- The predicate an ordinary rule writes (R41): nonzero, flag, or zero. -/
def ordinaryPred (pmode judge : Nat) (flag : Bool) : Bool :=
  match pmode with
  | 1 => judge ≠ 0
  | 2 => flag
  | _ => judge = 0

/-- The predicate writes of the last beat under PMODE (R72). -/
def pmodeWrites (r : RuleInfo) (f : Firing) (o : BeatOut) (chain : Bool) : List (Nat × Bool) :=
  if r.f.pmode = 0 then []
  else if r.isCompare then [(r.f.pdst, comparePred r.f.pmode (bit f.preds r.f.pdst) chain)]
  else [(r.f.pdst, ordinaryPred r.f.pmode o.judge o.flag)]

/-! Flags of the integer group -/

/-- Carry out of an unsigned sum (R111). -/
def carryOut (w t : Nat) : Bool := 2 ^ w ≤ t

/-- Signed overflow of an exact product (R113). -/
def signedOverflow (w : Nat) (p : Int) : Bool := p < -(2 ^ (w - 1)) || 2 ^ (w - 1) ≤ p

/-- Clamp an exact result to a range; the flag reports that it was clamped (R115). -/
def saturate (lo hi t : Int) : Int × Bool :=
  if hi < t then (hi, true) else if t < lo then (lo, true) else (t, false)

/-- Bit i of A as a flag, 0 when i is negative (R119). -/
def shiftedOut (a : Nat) (w n : Nat) (left : Bool) : Bool :=
  if n = 0 ∨ w < n then false else if left then bit a (w - n) else bit a (n - 1)

end Sys2Proof.Machine
end

