-- ==== Sys2Proof/Machine/Eligible.lean ====
section
/-! DEFINITION. Which words of the bank a rule touches (R209, R210, R213), what a firing captures as it fires (R67, R68, R181), and when a slot is eligible (R65). -/

namespace Sys2Proof.Machine

open Sys2Proof

/-! Bank locations -/

/-- Nibbles of a container (R209). -/
def containerNibbles (wid : Nat) : Nat :=
  match wid with
  | 0 => 1
  | 1 => 2
  | 2 => 4
  | 3 => 4
  | 4 => 6
  | 5 => 8
  | 6 => 12
  | _ => 16

/-- Bytes of a container of at least 8 bits (R209). -/
def containerBytes (wid : Nat) : Nat := containerNibbles wid / 2

/-- First nibble of beat i of LDB and STB (R210). -/
def locIndexed (wid a off i : Nat) : Nat :=
  if wid = 0 then 2 * a + off + i else 2 * (a + (off + i) * containerBytes wid)
/-- First nibble of beat i of LDBI and STBI (R210). -/
def locStrided (wid a off i : Nat) : Nat := 2 * (a + i * off * containerBytes wid)

/-- The yealm size Y of ROWS rows and head dimension code DC (R319); both Q formats take 2 B. -/
def yealmBytes (rows dc : Nat) : Nat := 64 + 8 * rows + 6 * rows * headDim dc

/-- The 64-bit words of the bank from a byte offset. -/
def Brick.wordsAt (x : Brick) (off n : Nat) : List Word :=
  (List.range n).map fun i => BitVec.ofNat 64 (leValue (cellsRead x.bank (off + 8 * i) 8))

/-- Bytes of a query packet with its inline vector (R356, R358). -/
def packetBytes (x : Brick) (off : Nat) : Nat :=
  let w := x.wordsAt off 8
  if bit (w.getD 0 0).toNat 50 then 64 + 8 * ceilDiv ((w.getD 2 0).toNat % 2048) 8 else 64

/-- The nibbles that beat i of a rule touches, with the value its A operand reads: first and count (R210, R292, R314, R333, R358). -/
def bankSpan (x : Brick) (i : Instr) (beat a : Nat) : Option (Nat × Nat) :=
  match i with
  | .ldb _ x => some (locIndexed x.wid.toNat a x.off7.toNat beat, containerNibbles x.wid.toNat)
  | .stb _ x => some (locIndexed x.wid.toNat a x.off7.toNat beat, containerNibbles x.wid.toNat)
  | .ldbi _ x => some (locStrided x.wid.toNat a x.off7.toNat beat, containerNibbles x.wid.toNat)
  | .stbi _ x => some (locStrided x.wid.toNat a x.off7.toNat beat, containerNibbles x.wid.toNat)
  | .atb _ x => some (2 * (a + x.off7.toNat % 8 * containerBytes x.wid.toNat), containerNibbles x.wid.toNat)
  | .casb _ x => some (2 * (a + x.off7.toNat * containerBytes x.wid.toNat), containerNibbles x.wid.toNat)
  | .spl _ x => some (2 * a + x.off7.toNat, intBits x.wid.toNat / 4)
  | .fil _ x => some (2 * a + x.off7.toNat, intBits x.wid.toNat / 4)
  | .ttq _ _ => some (2 * a, 128)
  | .ttqTid _ _ => some (2 * a, 128)
  | .slfPin _ _ => some (2 * a, 64)
  | .slfUnpin _ _ => some (2 * a, 64)
  | .slfLook _ _ => some (2 * a, 64)
  | .slfHdrLaunch _ _ =>
    let w1 := ((x.wordsAt a 2).getD 1 0).toNat
    some (2 * a, 2 * yealmBytes (bits w1 22 16) (bits w1 25 24))
  | .fqryPost _ _ => some (2 * a, 2 * packetBytes x a)
  | _ => none

/-- The rules that write the bank for the comparator (R213). -/
def bankWrites (i : Instr) : Bool :=
  match i with
  | .stb .. | .stbi .. | .spl .. | .atb .. | .casb .. => true
  | _ => false

/-- A dock rule (R330). -/
def isDockRule (i : Instr) : Bool :=
  match i with
  | .slfFire .. | .slfHdrLaunch .. | .slfHdrRd .. | .slfHdrWr .. | .slfFin .. | .slfRoute .. => true
  | _ => false

/-- The return channel of a rule and the tokens each beat returns (R244, R313). -/
def returnsOf (i : Instr) : Option (Nat × Nat) :=
  match i with
  | .gld _ x => some (bits x.sub.toNat 5 4, 1)
  | .gat _ x => some (bits x.sub.toNat 5 4, 1)
  | .slfPin _ x => some (x.d.toNat % 4, 1)
  | .slfUnpin _ x => some (x.d.toNat % 4, 1)
  | .slfLook _ x => some (x.d.toNat % 4, 3)
  | _ => none

/-- Cycles after a beat's issue at which its last trap class is decided; `none` for a rule whose classes are all decided at its fire cycle (R75, R79). -/
def trapDelay (i : Instr) : Option Nat :=
  match i with
  | .ldb .. | .stb .. | .ldbi .. | .stbi .. | .atb .. | .casb .. | .spl .. | .fil .. => some 2
  | .ttq .. | .ttqTid .. | .slfPin .. | .slfUnpin .. | .slfLook .. | .fqryPost .. => some 2
  | .slfFire .. | .slfHdrLaunch .. | .slfHdrRd .. | .slfHdrWr .. | .slfFin .. | .slfRoute .. => some 2
  | .gld .. | .gst .. | .gat .. | .sysHandover .. => some 0
  | _ => none

/-- Cycles from its fire cycle before which a rule does not commit: XFENCE and HANDOVER commit in the next one at the earliest (R277, R280). -/
def commitDelay (i : Instr) : Nat :=
  match i with
  | .sysXfence .. | .sysHandover .. => 1
  | _ => 0

/-! What a firing captures -/

/-- TAGMIS over every entry that a beat reads as data (R75, R181): the lowest beat, and within it the lowest channel. -/
def tagTrap (r : RuleInfo) (heads : List (List Token)) : Option Trap :=
  let bad (ch i : Nat) : Bool :=
    let k := if r.f.keep then 0 else i
    match (heads.getD ch [])[k]? with
    | none => false
    | some t => t.tag ≠ .data &&
        !(k = 0 && r.h.tagEn = 1 && r.h.tagCh.toNat = ch && t.tag = Tag.ofCode r.h.tagTag.toNat)
  if r.readsAnyTag then none
  else
    (List.range r.beats).findSome? fun i =>
      (List.range 4).findSome? fun ch => if i < r.reads ch && bad ch i then some { cls := 0x03, detail := ch, beat := i } else none

/-- The timestamp that the predicates of a firing's guard and operands carry (R278): those tested true, and those read. -/
def carriedOrder (x : Brick) (h : Head) (reads : Nat) : Nat :=
  ((List.range 8).map fun p =>
    if (h.pcare.getLsbD p && h.pval.getLsbD p) || bit reads p then x.predTs.getD p 0 else 0).foldl max 0

/-- A range of words with those that a span of nibbles touches (R213). -/
def joinSpan (writes : Bool) (range : Option (Nat × Nat × Bool)) (span : Option (Nat × Nat)) : Option (Nat × Nat × Bool) :=
  match span with
  | none => range
  | some (lo, len) =>
    let h := (lo + len - 1) / 16
    match range with
    | some (l', h', w) => some (min l' (lo / 16), max h' h, w)
    | none => some (lo / 16, h, writes)

/-- The firing's range takes in the span of a beat. -/
def Firing.cover (f : Firing) (span : Option (Nat × Nat)) : Firing := { f with range := joinSpan (bankWrites f.instr) f.range span }

/-- The nibbles that beat n of a firing touches as they stand now. -/
def Firing.beatSpan (s : State) (b : BrickId) (r : RuleInfo) (f : Firing) (n : Nat) : Option (Nat × Nat) :=
  bankSpan (s.brick b) f.instr n (fieldValue s b f r r.au r.a n)

/-- A firing of slot `k` as it stands before its first beat (R67, R68); a later beat's span is the one that its earliest issue gives it. Where a firing meets TAGMIS and a class of its first beat, TAGMIS is recorded (log 10). DESIGN CHOICE (log 10): the later beats of an LDB whose D overlaps its A (R103) take their range from A as it stands at the fire, since R213 does not say what range the comparator keeps for addresses that the loads themselves give; such a beat waits until its words are free. -/
def mkFiring (s : State) (b : BrickId) (k : Nat) (word : Word) (i : Instr) (r : RuleInfo) : Firing :=
  let x := s.brick b
  let heads := (List.range 4).map fun ch => (x.visible ch).take (if r.f.keep then min 1 (r.reads ch) else r.reads ch)
  let f : Firing :=
    { instr := i, slot := k, word, fired := s.now, heads
      take := (List.range 4).map r.takes
      snap := (List.range 4).map fun ch => (x.visible ch).head?
      fmode := x.fmode.toNat
      preds := x.pval.toNat
      next := s.now
      point := s.now
      trap := tagTrap r heads
      found := s.now
      port := rulePort i r
      places := min r.beats 4
      carry := carriedOrder x r.h (predReads i r) }
  { f with
    range := (List.range r.beats).foldl (fun range n =>
      joinSpan (bankWrites i) range (f.beatSpan { s with now := s.now + n * r.pace } b r n)) none }

/-! Eligibility -/

/-- Words of the bank, by nibbles, lie in a set of sub-banks (R202). -/
def inSubBanks (banks : BitVec 8) (lo len : Nat) : Bool :=
  (List.range ((lo + len - 1) / 16 + 1 - lo / 16)).any fun k => banks.getLsbD ((lo / 16 + k) % 8)

/-- No beat of the firing uses a sub-bank that a request which has waited 64 cycles holds in this cycle (R207). -/
def subBanksFree (s : State) (b : BrickId) (r : RuleInfo) (f : Firing) : Bool :=
  let x := s.brick b
  x.aged.2 = 0 || x.aged.1 ≠ s.now || (List.range r.beats).all fun n =>
    match f.beatSpan { s with now := s.now + n * r.pace } b r n with
    | some (lo, len) => !inSubBanks x.aged.2 lo len
    | none => true

/-- Two ranges of words, each by its first and last, share a word. -/
def wordsMeet (p q : Nat × Nat) : Bool := p.1 ≤ q.2 && q.1 ≤ p.2

/-- The words of the granules GRAN to GRAN + G - 1 that a PIN resident binds (R314, R315). -/
def pinWords (x : Brick) (f : Firing) : Option (Nat × Nat) :=
  match f.instr, f.range with
  | .slfPin _ y, some (lo, _, _) =>
    let w := x.word (lo + 2)
    if y.b = 0 then some (bits w 3 0 * 512, (bits w 3 0 + slateGranules (bits w 12 11)) * 512 - 1) else none
  | _, _ => none

/-- The images that launch copies in progress read (R333). -/
def Brick.copyReads (x : Brick) : List (Nat × Nat) :=
  x.docks.filterMap fun d => match d.st with
    | .copying off len _ => some (off / 8, (off + len - 1) / 8)
    | _ => none

/-- A bank firing keeps its range until its writes are applied, an ATB or CASB until its locked operation ends (R212, R213). -/
def Firing.keepsRange (f : Firing) (now : Nat) : Bool := !f.committed || now < f.lock

/-- What a firing in flight keeps later writers out of: the image of a launch and the granules of a PIN resident (R315, R318, R333). -/
def noWriteWords (x : Brick) (g : Firing) : List (Nat × Nat) :=
  match g.instr, g.range with
  | .slfHdrLaunch .., some (l, h, _) => [(l, h)]
  | _, _ => (pinWords x g).toList

/-- Words that no earlier firing in flight still has to write, nor, for a writer, any earlier agent still has to read (R213, R315, R333). -/
def wordsFree (x : Brick) (held : List Firing) (p : Nat × Nat) (writes : Bool) : Bool :=
  held.all (fun g => match g.range with
    | some (l, h, true) => !wordsMeet p (l, h)
    | _ => true) &&
  (!writes || (x.copyReads ++ held.flatMap (noWriteWords x)).all fun q => !wordsMeet p q)

/-- The address comparator (R213, R315, R333). -/
def comparatorOk (x : Brick) (f : Firing) : Bool :=
  let held := x.firings.filter (·.keepsRange f.fired)
  match f.range with
  | none => true
  | some (lo, hi, wr) =>
    (held.filter (·.range.isSome)).length + x.copyReads.length < 8 &&
    wordsFree x held (lo, hi) wr && (pinWords x f).all fun p => wordsFree x held p false

/-- Tokens on their way that hold a place of one kind at a destination (R183). -/
def State.credited (s : State) (d : Dest) (k : Credit) : Nat := (s.flights.filter fun f => f.dest = d && f.credit = k).length

/-- R246's sum for a return channel. -/
def returnRoom (s : State) (b : BrickId) (ch n : Nat) : Bool :=
  let i := (s.brick b).input ch
  i.queue.length + s.credited (.input b ch) .queue + i.ret + n ≤ 32

/-- Docks that a launch may take: EMPTY ones, less AWAY and the launches fired and not committed (R326, R333). -/
def Brick.emptyDocks (x : Brick) : Nat := (x.docks.filter fun d => d.st = .empty).length
/-- A launch that traps gives its place back at its trap point. -/
def Brick.launchesInFlight (x : Brick) (now : Nat) : Nat :=
  (x.firings.filter fun f => match f.instr with
    | .slfHdrLaunch .. => !f.committed && (f.trap.isNone || now ≤ f.point)
    | _ => false).length
def Brick.dockRoom (x : Brick) (now : Nat) : Bool := 1 ≤ x.emptyDocks - x.away - x.launchesInFlight now

/-- No connected input (R198), and room for one entry on every connected output (R188, R198). -/
def Brick.noConnectedInput (x : Brick) : Bool := x.inputs.all fun i => !i.connected
def Brick.outputsHaveRoom (x : Brick) : Bool := (List.range 4).all fun p => 1 ≤ x.room p

/-- A firing in flight uses the same kind of place (R292, R358). -/
def countInFlight (x : Brick) (p : Instr → Bool) : Nat := (x.firings.filter fun f => !f.committed && p f.instr).length

/-- Beats that a firing still has to issue. -/
def Firing.unissued (f : Firing) : Bool :=
  match ruleInfo f.instr with
  | some r => f.issued < r.beats
  | none => false

/-- A firing has come to its trap point (R75): every beat issued where a beat can move it. -/
def Firing.atPoint (f : Firing) (now : Nat) : Bool := f.point ≤ now && ((trapDelay f.instr).isNone || !f.unissued)

/-- The ring engine is held (R330): by a FIRE or a launch copy until it ends, and by every dock rule in its commit cycle (R332-R336, log 10). -/
def ringHeld (x : Brick) (now : Nat) : Bool :=
  now < x.ringFree ||
  (List.range x.firings.length).any fun k => match x.firings[k]? with
    | some f => isDockRule f.instr && !f.committed &&
        (x.firings.take (k + 1)).all fun g => g.committed || (g.trap.isNone && g.atPoint now)
    | none => false

/-- The engines a rule needs are free (R65), as their chapters define. -/
def enginesFree (s : State) (b : BrickId) (i : Instr) (r : RuleInfo) : Bool :=
  let x := s.brick b
  let qblkBusy : Bool := x.qblk.isSome || 0 < countInFlight x fun j => match j with
    | .qblk .. => true
    | _ => false
  let dockFree : Bool := !ringHeld x s.now
  (!r.usesDivider || x.divFree ≤ s.now) &&
  (match returnsOf i with
    | some (ch, n) => returnRoom s b ch (n * r.beats)
    | none => true) &&
  match i with
  | .qblk .. => !qblkBusy
  | .mark .. =>
    x.noConnectedInput && x.outputsHaveRoom &&
      (match x.region with
        | some g => !(s.slot g).bsp || x.round = (s.slot g).round
        | none => true)
  | .weep .. => x.noConnectedInput && x.outputsHaveRoom
  | .strmArm _ y => (x.edge.shapes.getD (y.sub.toNat / 8) {}).state ≠ 1
  | .ttq .. | .ttqTid .. =>
    x.taskPort.length + countInFlight x (fun j => match j with
      | .ttq .. | .ttqTid .. => true
      | _ => false) < 2
  | .fqryPost .. =>
    x.footPort.length + countInFlight x (fun j => match j with
      | .fqryPost .. => true
      | _ => false) < 2
  | .slfHdrLaunch .. => dockFree && x.dockRoom s.now
  | .slfFire .. | .slfHdrRd .. | .slfHdrWr .. | .slfFin .. | .slfRoute .. => dockFree
  | .sysHandover .. =>
    (s.handovers.all fun h => h.old ≠ b || h.sent) && countInFlight x (fun j => match j with
      | .sysHandover .. => true
      | _ => false) = 0
  | _ => true

/-- An engine holds an output port: the QBLK buffer or a QBLK in flight (R171), or FIN (R335). -/
def portHeld (x : Brick) (p : Nat) : Bool :=
  (match x.qblk with
    | some (q, _, _) => q = p
    | none => false) ||
  x.docks.any (fun d => match d.st with
    | .finishing q _ _ => q = p
    | _ => false) ||
  x.firings.any fun f => !f.committed && match f.instr with
    | .qblk _ y => y.d.toNat = 112 + p
    | .slfFin _ y => y.d.toNat = 112 + p
    | _ => false

/-- The output ports that have a destination. -/
def Brick.connectedPorts (x : Brick) : List Nat := (List.range 4).filter fun p => (x.out p).connected

/-- The ports that a rule's tokens enter, by its beats or through an engine. -/
def portsEntered (x : Brick) (i : Instr) (r : RuleInfo) : List Nat :=
  match i with
  | .qblk _ y => [y.d.toNat - 112]
  | .slfFin _ y => [y.d.toNat - 112]
  | .mark .. | .weep .. => x.connectedPorts
  | _ => (rulePort i r).toList

/-- A destination range that a firing in flight has yet to write (R71). -/
def busyRange (x : Brick) (rng : Nat × Nat) : Bool :=
  x.firings.any fun f =>
    match ruleInfo f.instr with
    | none => false
    | some r => r.sliceWrites.any fun w =>
        rangesMeet rng w && (f.issued < r.beats || !f.committed || f.wbs.any fun u => match u.lo with
          | some (lo, n, _) => rangesMeet (lo, n) w
          | none => false)

/-- Guard: predicates and tag test (R65). -/
def guardHolds (x : Brick) (h : Head) : Bool :=
  (List.range 8).all (fun p => !h.pcare.getLsbD p || (!x.pending p && x.pred p = h.pval.getLsbD p)) &&
  (h.tagEn = 0 || match (x.visible h.tagCh.toNat).head? with
    | some t => t.tag = Tag.ofCode h.tagTag.toNat
    | none => false)

/-- No beat of a firing in flight is still to issue, and the datapath accepts a beat (R65, R70). -/
def datapathFree (s : State) (x : Brick) : Bool :=
  x.dpFree ≤ s.now && x.firings.all fun f => !f.unissued

/-- R65 for an instruction in slot k, the picker's own condition apart. -/
def eligible (s : State) (b : BrickId) (k : Nat) (word : Word) (i : Instr) : Bool :=
  match ruleInfo i with
  | none => false
  | some r =>
    let x := s.brick b
    let preds := predReads i r ||| predWrites i r
    guardHolds x r.h &&
    (List.range 8).all (fun p => !(bit preds p && x.pending p)) &&
    (List.range 4).all (fun ch => r.needs ch ≤ (x.ready ch).length) &&
    (match rulePort i r with
      | some p => min r.beats 4 ≤ x.room p
      | none => true) &&
    (portsEntered x i r).all (fun p => !portHeld x p) &&
    (r.sliceReads ++ r.sliceWrites).all (fun g => !busyRange x g) &&
    datapathFree s x &&
    x.firings.all (fun f => !RuleInfo.isSerial f.instr) &&
    (!RuleInfo.isSerial i || x.firings.isEmpty) &&
    comparatorOk x (mkFiring s b k word i r) &&
    subBanksFree s b r (mkFiring s b k word i r) &&
    enginesFree s b i r

/-- The conditions of R188 but those on PICK and on a stop, for alignment (`mark`) or weeping. A port that still has to take the words of a QBLK or the tokens of a FIN gets them first (R171, R189, R335). -/
def atBarrier (now : Nat) (x : Brick) (mark : Bool) : Bool :=
  let heads := (x.inputs.filter (·.connected)).map fun i => i.queue.head?
  !heads.isEmpty &&
  heads.all (fun h => match h with
    | some t => if mark then t.isBarrier else t.isWeep
    | none => false) &&
  (!mark || heads.any fun h => match h with
    | some t => t.isMark
    | none => false) &&
  x.firings.isEmpty && x.outputsHaveRoom && x.connectedPorts.all (fun p => !portHeld x p) && x.barrierAt ≤ now

/-- The picker of a RUNNING brick is active, and that of a brick that drains goes on until WEEP has passed (R23, R191). -/
def Brick.live (x : Brick) : Bool := x.life = .running || x.life = .draining

/-- The brick aligns in this cycle (R188). -/
def alignReady (now : Nat) (x : Brick) : Bool :=
  atBarrier now x true && x.pick && (match x.wave with
    | .stopped => false
    | _ => true) && x.live
/-- The brick weeps in this cycle by its heads (R191). -/
def weepReady (now : Nat) (x : Brick) : Bool :=
  atBarrier now x false && x.weep = .none && (match x.wave with
    | .stopped => false
    | _ => true) && x.live

/-- Under STEP a firing that has not committed is the one that may commit (R82). -/
def Brick.stepBusy (x : Brick) : Bool := x.stepMode && x.firings.any fun f => !f.committed

/-- A firing in flight is the brick's last: a WEEP (R198), or the MARK that brings the round a wave waits for (R390). -/
def Brick.lastFired (x : Brick) : Bool :=
  let marks := countInFlight x fun j => match j with
    | .mark .. => true
    | _ => false
  (0 < countInFlight x fun j => match j with
    | .weep .. => true
    | _ => false) ||
  match x.wave with
  | .target t => 0 < marks && (x.round + marks) % 2 ^ 48 = t
  | _ => false

/-- The picker runs and neither aligns nor weeps in this cycle (R65, R82, R90, R188, R191). -/
def pickerRuns (now : Nat) (x : Brick) : Bool :=
  !x.stepBusy && x.live && x.pick && x.weep = .none && x.wave ≠ .stopped && x.idle.isNone && x.barrierAt ≤ now && !x.lastFired &&
    !alignReady now x && !weepReady now x

/-- The instruction in a slot of a brick's pool, which the loader has checked (R47). -/
def slotInstr (s : State) (b : BrickId) (k : Nat) : Option Instr :=
  (decode b.isEdge ((s.brick b).pool.getD k 0)).toInstr

/-- The lowest eligible slot (R66). -/
def pickSlot (s : State) (b : BrickId) : Option (Nat × Instr) :=
  if pickerRuns s.now (s.brick b) then
    (List.range 16).findSome? fun k =>
      match slotInstr s b k with
      | some i => if eligible s b k ((s.brick b).pool.getD k 0) i then some (k, i) else none
      | none => none
  else none

end Sys2Proof.Machine
end

