-- ==== Sys2Proof/Machine/Fire.lean ====
section
/-! DEFINITION. Firing a rule: reservations, busy slices and pending predicates (R63, R67, R71), the issue of a beat (R70, R103), and what a beat's result becomes (R38, R72, R75). Taking a brick trap is `Brick.recordTrap` in Machine/Ops.lean. -/

namespace Sys2Proof.Machine

open Sys2Proof

/-- The delay of a trap class after the issue that raises it (R79). -/
def classDelay (cls : Nat) : Nat := if cls = 0x06 ∨ cls = 0x08 ∨ cls = 0x09 then 2 else 0

/-- The write-back of a beat's result through D (R37, R38), with the predicates of the last beat. -/
def resultWriteBack (r : RuleInfo) (port : Option Nat) (beat due : Nat) (o : BeatOut) (preds : List (Nat × Bool)) : List WriteBack :=
  let base : WriteBack := { due, beat, preds }
  let w : WriteBack :=
    match o.out, port with
    | some out, some p => { base with port := some (p, out) }
    | _, _ =>
      match o.write with
      | none => base
      | some v =>
        if !r.du.writes then base
        else if r.d < 112 then { base with lo := some (r.d, r.du.slices, v) }
        else match port with
          | some p => { base with port := some (p, .tok (dataToken v)) }
          | none => base
  if w.lo.isNone && w.port.isNone && w.preds.isEmpty then [] else [w]

/-- ATB and CASB work in their commit, and their predicate follows from the old value (R212, R216, R217). -/
def isBankAtomic (i : Instr) : Bool :=
  match i with
  | .atb .. | .casb .. => true
  | _ => false

/-- Add the outcome of beat `f.issued` to a firing that issues it in cycle `now` (R69, R70, R103): a firing that has trapped goes on issuing, with no further effect (R77). -/
def recordBeat (now : Nat) (r : RuleInfo) (f : Firing) (o : BeatOut) : Firing :=
  let i := f.issued
  let last : Bool := i + 1 = r.beats
  let chain := if r.isCompare then combineCompare r.f.pmode i f.chain o.cmp else o.chain
  let due := now + r.latency + 1
  let preds := if last && !isBankAtomic f.instr then pmodeWrites r f o chain ++ o.preds else []
  let dead : Bool := f.trap.isSome || o.trap.isSome
  let g : Firing :=
    { f with
      issued := i + 1
      next := now + r.pace
      chain := chain
      acc := o.acc
      places := if 4 ≤ i && f.port.isSome && !r.isReduction then f.places + 1 else f.places
      point := match trapDelay f.instr with
        | some d => now + d
        | none => f.point }
  if dead then
    match f.trap, o.trap with
    | none, some t => { g with trap := some { t with beat := i }, found := now + classDelay t.cls, wbs := [], effects := [] }
    | _, _ => g
  else
    { g with
      wbs := f.wbs ++ resultWriteBack r f.port i due o preds ++ o.wbs
      effects := f.effects ++ o.effects
      sticky := f.sticky ||| o.sticky }

/-- A dock rule on a dock that A names: SLFFMT is decided 2 cycles after its issue, on the dock as it then stands (R75, R331). -/
def judgedLate (i : Instr) : Bool :=
  match i with
  | .slfFire .. | .slfHdrRd .. | .slfHdrWr .. | .slfFin .. | .slfRoute .. => true
  | _ => false

/-- Issue the next beat of a firing. -/
def issueBeat (beat : Beat) (s : State) (b : BrickId) (r : RuleInfo) (f : Firing) : Firing :=
  recordBeat s.now r f (if judgedLate f.instr then {} else beat s b f r f.issued)

/-- A dock rule as it is decided in the cycle before now: its trap, or what it writes and does (R331, R332, R334-R336). -/
def Firing.judged (s : State) (b : BrickId) (f : Firing) (r : RuleInfo) (beat : Beat) : Firing :=
  let o := beat s b f r 0
  match o.trap with
  | some t => { f with trap := some t, found := s.now - 1, wbs := [], effects := [] }
  | none => { f with wbs := resultWriteBack r f.port 0 s.now o [], effects := o.effects }

/-- A serialising firing of R94 with nothing to write back still ends no earlier than its latency of 1: WRBSR, and RDBSR or RDTS into 116. -/
def settle (s : State) (f : Firing) : Firing :=
  match f.instr with
  | .sysWrbsr .. | .sysRdbsr .. | .sysRdts .. | .sysWptr .. =>
    if f.wbs.isEmpty && f.trap.isNone then { f with wbs := [{ due := s.now + 2, beat := 0 }] } else f
  | _ => f

/-- The brick in the cycle after a firing's fire cycle: predicates pending (R63), returns reserved (R246), datapath and divider taken (R70, R149), PASS cleared (R82). -/
def takeFiring (s : State) (x : Brick) (i : Instr) (r : RuleInfo) (f : Firing) : Brick :=
  let x := match returnsOf i with
    | some (ch, n) => x.modInput ch fun q => { q with ret := q.ret + n * r.beats }
    | none => x
  { x.setPass false with
    pend := x.pend ||| BitVec.ofNat 8 (predWrites i r)
    firings := x.firings ++ [f]
    stirred := false
    dpFree := s.now + r.spacing
    divFree := if r.usesDivider then s.now + r.spacing else x.divFree }

/-- Fire a rule from the slot in focus: beat 0 issues in the fire cycle (R70). -/
def fired (i : Instr) (beat : Beat) (s : State) (r : RuleInfo) : State :=
  let b := s.focus.1
  let x := s.brick b
  let f := mkFiring s b s.focus.2 (x.pool.getD s.focus.2 0) i r
  s.setBrick b (takeFiring s x i r (settle s (issueBeat beat s b r f)))

/-- The meaning of every rule: it fires when it is eligible in the slot in focus (R65), and otherwise nothing fires. -/
def fireRule (i : Instr) (beat : Beat) (s : State) : Outcome :=
  let b := s.focus.1
  let x := s.brick b
  match ruleInfo i with
  | none => .next s
  | some r =>
    if pickerRuns s.now x && eligible s b s.focus.2 (x.pool.getD s.focus.2 0) i then .next (fired i beat s r) else .next s

/-- The next beat may issue now (R70): its pace and a place in the port from beat 4 on, whether the firing has trapped or not (R75). A reduction writes its port once (R152, log 10). -/
def beatReady (s : State) (x : Brick) (r : RuleInfo) (f : Firing) : Bool :=
  f.issued < r.beats && f.next ≤ s.now && x.dpFree ≤ s.now &&
  (match f.port with
    | some p => f.issued < 4 || r.isReduction || 1 ≤ x.room p
    | none => true)

end Sys2Proof.Machine
end

