-- ==== Sys2Proof/Machine/Channel.lean ====
section
/-! DEFINITION. The channel rules (R195-R201). -/

namespace Sys2Proof.Machine

open Sys2Proof

/-- The token of EMIT (R196). -/
def emitToken (x : KBody) (a : Nat) : Token :=
  let v := if x.a = 116 then x.imm11.toNat else a
  if x.tag = 0 then dataToken v else ctrlToken x.csub.toNat v

/-- EMIT (R196). -/
def emitBeat (x : KBody) : Beat := fun s b f r i => { out := some (.tok (emitToken x (fieldValue s b f r r.au r.a i))) }
def execEmit (h : Head) (x : KBody) (s : State) : Outcome := fireRule (.emit h x) (emitBeat x) s

/-- EOS (R179, R197). -/
def eosBeat (x : KBody) : Beat := fun s b f r i =>
  let a := fieldValue s b f r r.au r.a i
  let tok (count : Nat) : Token := eosToken x.imm11.toNat (x.csub.getLsbD 1) (x.csub.getLsbD 0) count
  { out := some (if x.csub.getLsbD 2 then .eosAuto (tok 0).pay else .tok (tok a)) }
def execEos (h : Head) (x : KBody) (s : State) : Outcome := fireRule (.eos h x) (eosBeat x) s

/-- One token for every connected output, entering in firing order at the end of the cycle after the issue (R188, R191, R195, R198). -/
def toConnected (x : Brick) (now : Nat) (t : Token) : List WriteBack :=
  (List.range 4).filterMap fun p =>
    if (x.out p).connected then some { due := now + 2, beat := 0, port := some (p, .tok t) } else none

/-- MARK (R198); the commit gives the MARKs their round. -/
def markBeat (_x : KBody) : Beat := fun s b _ _ _ =>
  { effects := [.mark], wbs := toConnected (s.brick b) s.now (markToken 0) }
def execMark (h : Head) (x : KBody) (s : State) : Outcome := fireRule (.mark h x) (markBeat x) s

/-- The generation of the region that a brick works for (R191). -/
def State.regionGen (s : State) (x : Brick) : Nat :=
  match x.region with
  | some r => (s.slot r).gen
  | none => 0

/-- WEEP (R191, R198). -/
def weepBeat (_x : KBody) : Beat := fun s b _ _ _ =>
  let x := s.brick b
  { effects := [.weep], wbs := toConnected x s.now (weepToken (s.regionGen x)) }
def execWeep (h : Head) (x : KBody) (s : State) : Outcome := fireRule (.weep h x) (weepBeat x) s

/-- DROP (R199): its entries leave at the commit. -/
def dropBeat (_x : KBody) : Beat := fun _ _ _ _ _ => {}
def execDrop (h : Head) (x : KBody) (s : State) : Outcome := fireRule (.drop h x) (dropBeat x) s

/-- An entry under a new tag (R200). -/
def retag (tag : Nat) (p : Nat) : Token :=
  match Tag.ofCode tag with
  | .ctrl => ctrlToken 0xE p
  | t => { tag := t, pay := BitVec.ofNat 64 p }

/-- RTAG (R200). -/
def rtagBeat (x : KBody) : Beat := fun s b f r i =>
  { out := some (.tok (retag x.tag.toNat (fieldValue s b f r r.au r.a i))) }
def execRtag (h : Head) (x : KBody) (s : State) : Outcome := fireRule (.rtag h x) (rtagBeat x) s

/-- STEER (R201). -/
def steerBeat (x : KBody) : Beat := fun s b f r i =>
  { out := some (.tok (ctrlToken 0x2 (fieldValue s b f r r.au r.a i * 2 ^ 16 + x.imm11.toNat % 8))) }
def execSteer (h : Head) (x : KBody) (s : State) : Outcome := fireRule (.steer h x) (steerBeat x) s

end Sys2Proof.Machine
end

