-- ==== Sys2Proof/Machine/Control.lean ====
section
/-! DEFINITION. Predicate and control rules (R84-R92) and the rules that read and write the status registers (R80-R83, R93-R95). -/

namespace Sys2Proof.Machine

open Sys2Proof

/-- A status register by its number (R80), as a rule reads it: PEND reads as zero (R81). -/
def bsrRead (x : Brick) (now n : Nat) : Nat :=
  match n with
  | 0x00 => x.fires % 2 ^ 48
  | 0x01 => x.cycle now
  | 0x02 => x.pval.toNat
  | 0x03 => x.ctl.toNat
  | 0x04 => x.tcls.toNat
  | 0x05 => x.tfire % 2 ^ 48
  | 0x06 => (x.thead.getD 0 0).toNat
  | 0x07 => (x.thead.getD 1 0).toNat
  | 0x08 => (x.thead.getD 2 0).toNat
  | 0x09 => (x.thead.getD 3 0).toNat
  | 0x0A => x.tword.toNat
  | 0x0B => x.tval.toNat
  | 0x0C => x.sticky.toNat
  | 0x0D => x.fmode.toNat
  | 0x0E => x.round
  | 0x0F => x.overBsr.toNat
  | _ => x.ts

/-- What WRBSR writes, at its commit (R82, R95): BKEN, the sticky flags W1C, `bsr.fmode`. -/
def bsrWrite (x : Brick) (n v : Nat) : Brick :=
  match n with
  | 0x03 => x.setBken (bit v 1)
  | 0x0C => { x with sticky := x.sticky &&& ~~~(BitVec.ofNat 9 v) }
  | 0x0D => { x with fmode := BitVec.ofNat 3 v }
  | _ => x

/-- The slot that `bsr.tcls` names (R83). -/
def Brick.trapSlot (x : Brick) : Nat := x.tcls.toNat % 16

/-- PLOG (R85). -/
def plogBeat (x : PBody) : Beat := fun _ _ f _ _ =>
  { preds := [(x.pd.toNat, x.fn.getLsbD (2 * b2n (bit f.preds x.pa.toNat) + b2n (bit f.preds x.pb.toNat)))] }
def execPlog (h : Head) (x : PBody) (s : State) : Outcome := fireRule (.plog h x) (plogBeat x) s

/-- PSETV (R85). -/
def psetvBeat (x : PBody) : Beat := fun _ _ _ _ _ =>
  { preds := (onesBelow 8 x.mask.toNat).map fun p => (p, x.val.getLsbD p) }
def execPsetv (h : Head) (x : PBody) (s : State) : Outcome := fireRule (.psetv h x) (psetvBeat x) s

/-- PTOS (R86). -/
def ptosBeat (x : UBody) : Beat := fun _ _ f _ _ => .value (if x.wid = 0 then f.preds % 16 else f.preds)
def execPtos (h : Head) (x : UBody) (s : State) : Outcome := fireRule (.ptos h x) (ptosBeat x) s

/-- STOP (R87). -/
def stopBeat (x : UBody) : Beat := fun s b f r i =>
  let a := fieldValue s b f r r.au r.a i
  { preds := if x.wid = 1 then (List.range 8).map fun p => (p, bit a p)
      else (List.range 4).map fun p => (4 * (x.imm7.toNat % 2) + p, bit a p) }
def execStop (h : Head) (x : UBody) (s : State) : Outcome := fireRule (.stop h x) (stopBeat x) s

/-- TRAP (R88). -/
def trapBeat (x : UBody) : Beat := fun s b f r i =>
  { trap := some { cls := 0x01, detail := x.imm7.toNat, beat := i, val := fieldValue s b f r r.au r.a i } }
def execTrap (h : Head) (x : UBody) (s : State) : Outcome := fireRule (.trap h x) (trapBeat x) s

/-- BKPT (R82, R89). -/
def bkptBeat (x : UBody) : Beat := fun s b f _ i =>
  let y := s.brick b
  if y.bken && !(y.pass && y.trapSlot = f.slot) then { trap := some { cls := 0x02, detail := x.imm7.toNat, beat := i } } else {}
def execBkpt (h : Head) (x : UBody) (s : State) : Outcome := fireRule (.bkpt h x) (bkptBeat x) s

/-- IDLE (R90). -/
def idleBeat (_x : UBody) : Beat := fun _ _ _ _ _ => { effects := [.idle] }
def execIdle (h : Head) (x : UBody) (s : State) : Outcome := fireRule (.idle h x) (idleBeat x) s

/-- NOP (R91). -/
def nopBeat (_x : UBody) : Beat := fun _ _ _ _ _ => {}
def execNop (h : Head) (x : UBody) (s : State) : Outcome := fireRule (.nop h x) (nopBeat x) s

/-- The brick as a serialising read of `bsr.ts` sees it: the timestamp that its own predicates carry counts from its fire cycle on (R94, R278). -/
def Firing.seenBy (f : Firing) (x : Brick) : Brick := { x with pts := max x.pts f.carry }

/-- SYS RDBSR (R93, R94). -/
def sysRdbsrBeat (x : XBody) : Beat := fun s b f _ _ => .value (bsrRead (f.seenBy (s.brick b)) s.now x.b.toNat)
def execSysRdbsr (h : Head) (x : XBody) (s : State) : Outcome := fireRule (.sysRdbsr h x) (sysRdbsrBeat x) s

/-- SYS WRBSR (R94, R95). -/
def sysWrbsrBeat (x : XBody) : Beat := fun s b f r i =>
  { effects := [.wrbsr x.b.toNat (fieldValue s b f r r.au r.a i)] }
def execSysWrbsr (h : Head) (x : XBody) (s : State) : Outcome := fireRule (.sysWrbsr h x) (sysWrbsrBeat x) s

/-- SYS RDTS (R94). -/
def sysRdtsBeat (_x : XBody) : Beat := fun s b f _ _ => .value (f.seenBy (s.brick b)).ts
def execSysRdts (h : Head) (x : XBody) (s : State) : Outcome := fireRule (.sysRdts h x) (sysRdtsBeat x) s

end Sys2Proof.Machine
end

