-- ==== Sys2Proof/Machine/IntAlu.lean ====
section
/-! DEFINITION. The integer group, opcodes 0x01 to 0x3F (R106-R128). Operands are unsigned w-bit values; results are exact and then narrowed (R10, R107). -/

namespace Sys2Proof.Machine

open Sys2Proof

/-! Shapes of beats -/

/-- A two-operand beat at one width: `op w A B` gives the result and the flag. -/
def beatAB (wid : BitVec 3) (op : Nat → Nat → Nat → Nat × Bool) : Beat := fun s b f r i =>
  let w := intBits wid.toNat
  let (v, flag) := op w (fieldValue s b f r r.au r.a i) (fieldValue s b f r r.bu r.b i)
  .value v flag

/-- A one-operand beat with IMM7: `op w A imm`. -/
def beatAI (wid : BitVec 3) (imm : BitVec 7) (op : Nat → Nat → Nat → Nat × Bool) : Beat := fun s b f r i =>
  let w := intBits wid.toNat
  let (v, flag) := op w (fieldValue s b f r r.au r.a i) imm.toNat
  .value v flag

/-- I of R107: IMM14 as a signed integer taken to w bits. -/
def immI (w : Nat) (imm : BitVec 14) : Nat := lowBits w (signed 14 imm.toNat)

/-- A beat that reads D and the immediate: `op w D I` (R109). -/
def beatDI (x : IBody) (op : Nat → Nat → Nat → Nat × Bool) : Beat := fun s b f r i =>
  let w := intBits x.wid.toNat
  let (v, flag) := op w (fieldValue s b f r r.du r.d i) (immI w x.imm14)
  .value v flag

/-- A compare of A and B: all ones or zero into D, and c for the predicate (R126). -/
def beatCmp (wid : BitVec 3) (c : Nat → Nat → Nat → Bool) : Beat := fun s b f r i =>
  let w := intBits wid.toNat
  let t := c w (fieldValue s b f r r.au r.a i) (fieldValue s b f r r.bu r.b i)
  { write := some (allOnes r.du.slices t), cmp := t }

/-- A compare of D with the immediate, which writes no operand (R127). -/
def beatCmpI (x : IBody) (c : Nat → Nat → Nat → Bool) : Beat := fun s b f r i =>
  let w := intBits x.wid.toNat
  { cmp := c w (fieldValue s b f r r.du r.d i) (immI w x.imm14) }

/-! Add and subtract (R111, R112) -/

def addOp (w a b : Nat) : Nat × Bool := ((a + b) % 2 ^ w, carryOut w (a + b))
def subOp (w a b : Nat) : Nat × Bool := (lowBits w ((a : Int) - b), a < b)

/-- One beat of a carry chain: `op w A B c` gives D and the carry; the chain starts at p[PDST] as read at fire. -/
def beatCarry (x : TBody) (op : Nat → Nat → Nat → Nat → Nat × Bool) : Beat := fun s b f r i =>
  let c := b2n (if i = 0 then bit f.preds x.pdst.toNat else f.chain)
  let (v, carry) := op (intBits x.wid.toNat) (fieldValue s b f r r.au r.a i) (fieldValue s b f r r.bu r.b i) c
  { write := some v, judge := v, flag := carry, chain := carry }

def adcOp (w a b c : Nat) : Nat × Bool := ((a + b + c) % 2 ^ w, carryOut w (a + b + c))
def sbbOp (w a b c : Nat) : Nat × Bool := (lowBits w ((a : Int) - b - c), (a : Int) - b - c < 0)

/-! Multiply and divide (R113, R114) -/

def mulOp (w a b : Nat) : Nat × Bool := (a * b % 2 ^ w, signedOverflow w (signed w a * signed w b))
def mulhOp (w a b : Nat) : Nat × Bool := (lowBits w ((signed w a * signed w b) / 2 ^ w), false)
def mulhuOp (w a b : Nat) : Nat × Bool := (a * b / 2 ^ w % 2 ^ w, false)
def madOp (w a b d : Nat) : Nat := (a * b + d) % 2 ^ w
def divuOp (w a b : Nat) : Nat × Bool := if b = 0 then (2 ^ w - 1, true) else (a / b, false)
def remuOp (_ a b : Nat) : Nat × Bool := if b = 0 then (a, true) else (a - b * (a / b), false)
/-- The signed quotient rounded toward zero. -/
def quotient (w a b : Nat) : Int :=
  let q : Int := ((signed w a).natAbs / (signed w b).natAbs : Nat)
  if (signed w a < 0) ≠ (signed w b < 0) then -q else q
def divsOp (w a b : Nat) : Nat × Bool :=
  if signed w b = 0 then (lowBits w (-1), true)
  else if quotient w a b = 2 ^ (w - 1) then (lowBits w (-(2 ^ (w - 1))), true)
  else (lowBits w (quotient w a b), false)
def remsOp (w a b : Nat) : Nat × Bool :=
  if signed w b = 0 then (a, true)
  else if quotient w a b = 2 ^ (w - 1) then (0, true)
  else (lowBits w (signed w a - signed w b * quotient w a b), false)

/-! Saturation, minimum and maximum (R115, R116) -/

def satSigned (w : Nat) (t : Int) : Nat × Bool :=
  let (v, f) := saturate (-(2 ^ (w - 1))) (2 ^ (w - 1) - 1) t
  (lowBits w v, f)
def satUnsigned (w : Nat) (t : Int) : Nat × Bool :=
  let (v, f) := saturate 0 (2 ^ w - 1) t
  (lowBits w v, f)
def addsOp (w a b : Nat) : Nat × Bool := satSigned w (signed w a + signed w b)
def addsuOp (w a b : Nat) : Nat × Bool := satUnsigned w ((a : Int) + b)
def subsOp (w a b : Nat) : Nat × Bool := satSigned w (signed w a - signed w b)
def subsuOp (w a b : Nat) : Nat × Bool := satUnsigned w ((a : Int) - b)
/-- B where B is strictly preferred, else A (R116). -/
def prefer (a b : Nat) (c : Bool) : Nat × Bool := (if c then b else a, c)
def minOp (w a b : Nat) : Nat × Bool := prefer a b (signed w b < signed w a)
def maxOp (w a b : Nat) : Nat × Bool := prefer a b (signed w a < signed w b)
def minuOp (_ a b : Nat) : Nat × Bool := prefer a b (b < a)
def maxuOp (_ a b : Nat) : Nat × Bool := prefer a b (a < b)
def absOp (w a _imm : Nat) : Nat × Bool :=
  (if signed w a < 0 then lowBits w (-signed w a) else a, signed w a = -(2 ^ (w - 1)))
def negOp (w a _imm : Nat) : Nat × Bool := (lowBits w (-signed w a), signed w a = -(2 ^ (w - 1)))

/-! Logic (R117) -/

/-- The complement within w bits. -/
def notW (w a : Nat) : Nat := 2 ^ w - 1 - a % 2 ^ w
def andOp (_ a b : Nat) : Nat × Bool := (a &&& b, false)
def orOp (_ a b : Nat) : Nat × Bool := (a ||| b, false)
def xorOp (_ a b : Nat) : Nat × Bool := (a ^^^ b, false)
def andnOp (w a b : Nat) : Nat × Bool := (a &&& notW w b, false)
def ornOp (w a b : Nat) : Nat × Bool := (a ||| notW w b, false)
def xnorOp (w a b : Nat) : Nat × Bool := (notW w (a ^^^ b), false)

/-! Shifts and rotates (R118, R119) -/

def shlOp (w a n : Nat) : Nat × Bool := (if w ≤ n then 0 else a * 2 ^ n % 2 ^ w, shiftedOut a w n true)
def shrOp (w a n : Nat) : Nat × Bool := (if w ≤ n then 0 else a / 2 ^ n, shiftedOut a w n false)
def sarOp (w a n : Nat) : Nat × Bool :=
  (if w ≤ n then (if signed w a < 0 then 2 ^ w - 1 else 0) else lowBits w (signed w a / 2 ^ n),
   if n = 0 then false else if w < n then bit a (w - 1) else bit a (n - 1))
def rolOp (w a n : Nat) : Nat × Bool :=
  let m := n % w
  ((a * 2 ^ m ||| a / 2 ^ (w - m)) % 2 ^ w, if m = 0 then false else bit a (w - m))

/-! Bit fields and counts (R120, R121) -/

/-- Offset and length of a field (R120). -/
def fieldOffset (imm : Nat) : Nat := imm % 4
def fieldLength (imm : Nat) : Nat := imm / 4 + 1
def bextOp (_ a imm : Nat) : Nat × Bool := (bits a (fieldOffset imm + fieldLength imm - 1) (fieldOffset imm), false)
def bextsOp (w a imm : Nat) : Nat × Bool :=
  (lowBits w (signed (fieldLength imm) (bits a (fieldOffset imm + fieldLength imm - 1) (fieldOffset imm))), false)
def binsOp (a d imm : Nat) : Nat := insertBits d (fieldOffset imm) (fieldLength imm) a
def sextOp (w a imm : Nat) : Nat × Bool := (signExtend w imm a, false)
/-- Zeros above the highest one of the low w bits. -/
def leadingZeros : Nat → Nat → Nat
  | 0, _ => 0
  | w + 1, a => if bit a w then 0 else 1 + leadingZeros w a
def reverseBits (w a : Nat) : Nat := (List.range w).foldl (fun n i => n + b2n (bit a (w - 1 - i)) * 2 ^ i) 0
def clzOp (w a _imm : Nat) : Nat × Bool := (leadingZeros w a, a = 0)
def ctzOp (w a _imm : Nat) : Nat × Bool := (leadingZeros w (reverseBits w a), a = 0)
def popcOp (w a _imm : Nat) : Nat × Bool := (popCount w a, popCount w a % 2 = 1)
def brevOp (w a _imm : Nat) : Nat × Bool := (reverseBits w a, false)

/-! Moves and select (R122-R125) -/

def movOp (_ a _b : Nat) : Nat × Bool := (a, false)
/-- MOVW: A has the width of code IMM7[2:0] (R123). -/
def movwOp (w a imm : Nat) : Nat × Bool :=
  let sw := intBits (imm % 8)
  (if w ≤ sw then a % 2 ^ w else if bit imm 3 then lowBits w (signed sw a) else a, false)
def movhiOp (w d imm : Nat) : Nat := (d * 2 ^ 14 ||| imm) % 2 ^ w

/-! Compares (R126, R127) -/

def ltSigned (w a b : Nat) : Bool := signed w a < signed w b
def leSigned (w a b : Nat) : Bool := signed w a ≤ signed w b

/-! Meanings -/

/-- ADD (R111). -/
def addBeat (x : TBody) : Beat := beatAB x.wid addOp
def execAdd (h : Head) (x : TBody) (s : State) : Outcome := fireRule (.add h x) (addBeat x) s

/-- SUB (R111). -/
def subBeat (x : TBody) : Beat := beatAB x.wid subOp
def execSub (h : Head) (x : TBody) (s : State) : Outcome := fireRule (.sub h x) (subBeat x) s

/-- ADC (R112). -/
def adcBeat (x : TBody) : Beat := beatCarry x adcOp
def execAdc (h : Head) (x : TBody) (s : State) : Outcome := fireRule (.adc h x) (adcBeat x) s

/-- SBB (R112). -/
def sbbBeat (x : TBody) : Beat := beatCarry x sbbOp
def execSbb (h : Head) (x : TBody) (s : State) : Outcome := fireRule (.sbb h x) (sbbBeat x) s

/-- ADDI (R111). -/
def addiBeat (x : IBody) : Beat := beatDI x addOp
def execAddi (h : Head) (x : IBody) (s : State) : Outcome := fireRule (.addi h x) (addiBeat x) s

/-- MUL (R113). -/
def mulBeat (x : TBody) : Beat := beatAB x.wid mulOp
def execMul (h : Head) (x : TBody) (s : State) : Outcome := fireRule (.mul h x) (mulBeat x) s

/-- MULH (R113). -/
def mulhBeat (x : TBody) : Beat := beatAB x.wid mulhOp
def execMulh (h : Head) (x : TBody) (s : State) : Outcome := fireRule (.mulh h x) (mulhBeat x) s

/-- MULHU (R113). -/
def mulhuBeat (x : TBody) : Beat := beatAB x.wid mulhuOp
def execMulhu (h : Head) (x : TBody) (s : State) : Outcome := fireRule (.mulhu h x) (mulhuBeat x) s

/-- MAD (R113). -/
def madBeat (x : TBody) : Beat := fun s b f r i =>
  .value (madOp (intBits x.wid.toNat) (fieldValue s b f r r.au r.a i) (fieldValue s b f r r.bu r.b i)
    (fieldValue s b f r r.du r.d i))
def execMad (h : Head) (x : TBody) (s : State) : Outcome := fireRule (.mad h x) (madBeat x) s

/-- DIVU (R114). -/
def divuBeat (x : TBody) : Beat := beatAB x.wid divuOp
def execDivu (h : Head) (x : TBody) (s : State) : Outcome := fireRule (.divu h x) (divuBeat x) s

/-- REMU (R114). -/
def remuBeat (x : TBody) : Beat := beatAB x.wid remuOp
def execRemu (h : Head) (x : TBody) (s : State) : Outcome := fireRule (.remu h x) (remuBeat x) s

/-- DIVS (R114). -/
def divsBeat (x : TBody) : Beat := beatAB x.wid divsOp
def execDivs (h : Head) (x : TBody) (s : State) : Outcome := fireRule (.divs h x) (divsBeat x) s

/-- REMS (R114). -/
def remsBeat (x : TBody) : Beat := beatAB x.wid remsOp
def execRems (h : Head) (x : TBody) (s : State) : Outcome := fireRule (.rems h x) (remsBeat x) s

/-- ADDS (R115). -/
def addsBeat (x : TBody) : Beat := beatAB x.wid addsOp
def execAdds (h : Head) (x : TBody) (s : State) : Outcome := fireRule (.adds h x) (addsBeat x) s

/-- ADDSU (R115). -/
def addsuBeat (x : TBody) : Beat := beatAB x.wid addsuOp
def execAddsu (h : Head) (x : TBody) (s : State) : Outcome := fireRule (.addsu h x) (addsuBeat x) s

/-- SUBS (R115). -/
def subsBeat (x : TBody) : Beat := beatAB x.wid subsOp
def execSubs (h : Head) (x : TBody) (s : State) : Outcome := fireRule (.subs h x) (subsBeat x) s

/-- SUBSU (R115). -/
def subsuBeat (x : TBody) : Beat := beatAB x.wid subsuOp
def execSubsu (h : Head) (x : TBody) (s : State) : Outcome := fireRule (.subsu h x) (subsuBeat x) s

/-- MIN (R116). -/
def minBeat (x : TBody) : Beat := beatAB x.wid minOp
def execMin (h : Head) (x : TBody) (s : State) : Outcome := fireRule (.min h x) (minBeat x) s

/-- MAX (R116). -/
def maxBeat (x : TBody) : Beat := beatAB x.wid maxOp
def execMax (h : Head) (x : TBody) (s : State) : Outcome := fireRule (.max h x) (maxBeat x) s

/-- MINU (R116). -/
def minuBeat (x : TBody) : Beat := beatAB x.wid minuOp
def execMinu (h : Head) (x : TBody) (s : State) : Outcome := fireRule (.minu h x) (minuBeat x) s

/-- MAXU (R116). -/
def maxuBeat (x : TBody) : Beat := beatAB x.wid maxuOp
def execMaxu (h : Head) (x : TBody) (s : State) : Outcome := fireRule (.maxu h x) (maxuBeat x) s

/-- ABS (R116). -/
def absBeat (x : UBody) : Beat := beatAI x.wid x.imm7 absOp
def execAbs (h : Head) (x : UBody) (s : State) : Outcome := fireRule (.abs h x) (absBeat x) s

/-- NEG (R116). -/
def negBeat (x : UBody) : Beat := beatAI x.wid x.imm7 negOp
def execNeg (h : Head) (x : UBody) (s : State) : Outcome := fireRule (.neg h x) (negBeat x) s

/-- AND (R117). -/
def andBeat (x : TBody) : Beat := beatAB x.wid andOp
def execAnd (h : Head) (x : TBody) (s : State) : Outcome := fireRule (.and h x) (andBeat x) s

/-- OR (R117). -/
def orBeat (x : TBody) : Beat := beatAB x.wid orOp
def execOr (h : Head) (x : TBody) (s : State) : Outcome := fireRule (.or h x) (orBeat x) s

/-- XOR (R117). -/
def xorBeat (x : TBody) : Beat := beatAB x.wid xorOp
def execXor (h : Head) (x : TBody) (s : State) : Outcome := fireRule (.xor h x) (xorBeat x) s

/-- ANDN (R117). -/
def andnBeat (x : TBody) : Beat := beatAB x.wid andnOp
def execAndn (h : Head) (x : TBody) (s : State) : Outcome := fireRule (.andn h x) (andnBeat x) s

/-- ORN (R117). -/
def ornBeat (x : TBody) : Beat := beatAB x.wid ornOp
def execOrn (h : Head) (x : TBody) (s : State) : Outcome := fireRule (.orn h x) (ornBeat x) s

/-- XNOR (R117). -/
def xnorBeat (x : TBody) : Beat := beatAB x.wid xnorOp
def execXnor (h : Head) (x : TBody) (s : State) : Outcome := fireRule (.xnor h x) (xnorBeat x) s

/-- ANDI (R117). -/
def andiBeat (x : IBody) : Beat := beatDI x andOp
def execAndi (h : Head) (x : IBody) (s : State) : Outcome := fireRule (.andi h x) (andiBeat x) s

/-- ORI (R117). -/
def oriBeat (x : IBody) : Beat := beatDI x orOp
def execOri (h : Head) (x : IBody) (s : State) : Outcome := fireRule (.ori h x) (oriBeat x) s

/-- XORI (R117). -/
def xoriBeat (x : IBody) : Beat := beatDI x xorOp
def execXori (h : Head) (x : IBody) (s : State) : Outcome := fireRule (.xori h x) (xoriBeat x) s

/-- SHL (R119). -/
def shlBeat (x : TBody) : Beat := beatAB x.wid shlOp
def execShl (h : Head) (x : TBody) (s : State) : Outcome := fireRule (.shl h x) (shlBeat x) s

/-- SHR (R119). -/
def shrBeat (x : TBody) : Beat := beatAB x.wid shrOp
def execShr (h : Head) (x : TBody) (s : State) : Outcome := fireRule (.shr h x) (shrBeat x) s

/-- SAR (R119). -/
def sarBeat (x : TBody) : Beat := beatAB x.wid sarOp
def execSar (h : Head) (x : TBody) (s : State) : Outcome := fireRule (.sar h x) (sarBeat x) s

/-- ROL (R119). -/
def rolBeat (x : TBody) : Beat := beatAB x.wid rolOp
def execRol (h : Head) (x : TBody) (s : State) : Outcome := fireRule (.rol h x) (rolBeat x) s

/-- SHLI (R119). -/
def shliBeat (x : UBody) : Beat := beatAI x.wid x.imm7 shlOp
def execShli (h : Head) (x : UBody) (s : State) : Outcome := fireRule (.shli h x) (shliBeat x) s

/-- SHRI (R119). -/
def shriBeat (x : UBody) : Beat := beatAI x.wid x.imm7 shrOp
def execShri (h : Head) (x : UBody) (s : State) : Outcome := fireRule (.shri h x) (shriBeat x) s

/-- SARI (R119). -/
def sariBeat (x : UBody) : Beat := beatAI x.wid x.imm7 sarOp
def execSari (h : Head) (x : UBody) (s : State) : Outcome := fireRule (.sari h x) (sariBeat x) s

/-- ROLI (R119). -/
def roliBeat (x : UBody) : Beat := beatAI x.wid x.imm7 rolOp
def execRoli (h : Head) (x : UBody) (s : State) : Outcome := fireRule (.roli h x) (roliBeat x) s

/-- BEXT (R120). -/
def bextBeat (x : UBody) : Beat := beatAI x.wid x.imm7 bextOp
def execBext (h : Head) (x : UBody) (s : State) : Outcome := fireRule (.bext h x) (bextBeat x) s

/-- BEXTS (R120). -/
def bextsBeat (x : UBody) : Beat := beatAI x.wid x.imm7 bextsOp
def execBexts (h : Head) (x : UBody) (s : State) : Outcome := fireRule (.bexts h x) (bextsBeat x) s

/-- BINS (R120). -/
def binsBeat (x : UBody) : Beat := fun s b f r i =>
  .value (binsOp (fieldValue s b f r r.au r.a i) (fieldValue s b f r r.du r.d i) x.imm7.toNat)
def execBins (h : Head) (x : UBody) (s : State) : Outcome := fireRule (.bins h x) (binsBeat x) s

/-- SEXT (R121). -/
def sextBeat (x : UBody) : Beat := beatAI x.wid x.imm7 sextOp
def execSext (h : Head) (x : UBody) (s : State) : Outcome := fireRule (.sext h x) (sextBeat x) s

/-- CLZ (R121). -/
def clzBeat (x : UBody) : Beat := beatAI x.wid x.imm7 clzOp
def execClz (h : Head) (x : UBody) (s : State) : Outcome := fireRule (.clz h x) (clzBeat x) s

/-- CTZ (R121). -/
def ctzBeat (x : UBody) : Beat := beatAI x.wid x.imm7 ctzOp
def execCtz (h : Head) (x : UBody) (s : State) : Outcome := fireRule (.ctz h x) (ctzBeat x) s

/-- POPC (R121). -/
def popcBeat (x : UBody) : Beat := beatAI x.wid x.imm7 popcOp
def execPopc (h : Head) (x : UBody) (s : State) : Outcome := fireRule (.popc h x) (popcBeat x) s

/-- BREV (R121). -/
def brevBeat (x : UBody) : Beat := beatAI x.wid x.imm7 brevOp
def execBrev (h : Head) (x : UBody) (s : State) : Outcome := fireRule (.brev h x) (brevBeat x) s

/-- MOV (R122). -/
def movBeat (x : TBody) : Beat := beatAB x.wid movOp
def execMov (h : Head) (x : TBody) (s : State) : Outcome := fireRule (.mov h x) (movBeat x) s

/-- MOVW (R123). -/
def movwBeat (x : UBody) : Beat := beatAI x.wid x.imm7 movwOp
def execMovw (h : Head) (x : UBody) (s : State) : Outcome := fireRule (.movw h x) (movwBeat x) s

/-- MOVI (R124). -/
def moviBeat (x : IBody) : Beat := fun _ _ _ _ _ => .value (immI (intBits x.wid.toNat) x.imm14)
def execMovi (h : Head) (x : IBody) (s : State) : Outcome := fireRule (.movi h x) (moviBeat x) s

/-- MOVHI (R124). -/
def movhiBeat (x : IBody) : Beat := fun s b f r i =>
  .value (movhiOp (intBits x.wid.toNat) (fieldValue s b f r r.du r.d i) x.imm14.toNat)
def execMovhi (h : Head) (x : IBody) (s : State) : Outcome := fireRule (.movhi h x) (movhiBeat x) s

/-- SEL (R125). -/
def selBeat (x : TBody) : Beat := fun s b f r i =>
  .value (if bit f.preds x.pdst.toNat then fieldValue s b f r r.au r.a i else fieldValue s b f r r.bu r.b i)
def execSel (h : Head) (x : TBody) (s : State) : Outcome := fireRule (.sel h x) (selBeat x) s

/-- CMPEQ (R126). -/
def cmpeqBeat (x : TBody) : Beat := beatCmp x.wid (fun _ a b => a = b)
def execCmpeq (h : Head) (x : TBody) (s : State) : Outcome := fireRule (.cmpeq h x) (cmpeqBeat x) s

/-- CMPNE (R126). -/
def cmpneBeat (x : TBody) : Beat := beatCmp x.wid (fun _ a b => a ≠ b)
def execCmpne (h : Head) (x : TBody) (s : State) : Outcome := fireRule (.cmpne h x) (cmpneBeat x) s

/-- CMPLT (R126). -/
def cmpltBeat (x : TBody) : Beat := beatCmp x.wid ltSigned
def execCmplt (h : Head) (x : TBody) (s : State) : Outcome := fireRule (.cmplt h x) (cmpltBeat x) s

/-- CMPLTU (R126). -/
def cmpltuBeat (x : TBody) : Beat := beatCmp x.wid (fun _ a b => a < b)
def execCmpltu (h : Head) (x : TBody) (s : State) : Outcome := fireRule (.cmpltu h x) (cmpltuBeat x) s

/-- CMPLE (R126). -/
def cmpleBeat (x : TBody) : Beat := beatCmp x.wid leSigned
def execCmple (h : Head) (x : TBody) (s : State) : Outcome := fireRule (.cmple h x) (cmpleBeat x) s

/-- CMPLEU (R126). -/
def cmpleuBeat (x : TBody) : Beat := beatCmp x.wid (fun _ a b => a ≤ b)
def execCmpleu (h : Head) (x : TBody) (s : State) : Outcome := fireRule (.cmpleu h x) (cmpleuBeat x) s

/-- CMPEQI (R127). -/
def cmpeqiBeat (x : IBody) : Beat := beatCmpI x (fun _ a b => a = b)
def execCmpeqi (h : Head) (x : IBody) (s : State) : Outcome := fireRule (.cmpeqi h x) (cmpeqiBeat x) s

/-- CMPLTI (R127). -/
def cmpltiBeat (x : IBody) : Beat := beatCmpI x ltSigned
def execCmplti (h : Head) (x : IBody) (s : State) : Outcome := fireRule (.cmplti h x) (cmpltiBeat x) s

/-- CMPLTUI (R127). -/
def cmpltuiBeat (x : IBody) : Beat := beatCmpI x (fun _ a b => a < b)
def execCmpltui (h : Head) (x : IBody) (s : State) : Outcome := fireRule (.cmpltui h x) (cmpltuiBeat x) s

/-- BTST (R127). -/
def btstBeat (x : UBody) : Beat := fun s b f r i => { cmp := bit (fieldValue s b f r r.au r.a i) x.imm7.toNat }
def execBtst (h : Head) (x : UBody) (s : State) : Outcome := fireRule (.btst h x) (btstBeat x) s

end Sys2Proof.Machine
end

