-- ==== Sys2Proof/Machine/Num.lean ====
section
/-! DEFINITION. Number formats (R130-R134), exact values, rounding (R142-R144), the group dot product (R146, R147) and the plane integers (R136). -/

namespace Sys2Proof.Machine

open Sys2Proof

/-- An exact value: NaN, an infinity, or (-1)^neg · m · 2^e. A zero keeps its sign. A value that is not dyadic stands as a longer one that rounds alike in every format and mode: its low bit is one below every bit that rounding looks at. -/
inductive Val where
  | nan
  | inf (neg : Bool)
  | fin (neg : Bool) (m : Nat) (e : Int)
  deriving DecidableEq, Repr

/-- A floating-point format (R130): exponent bits, mantissa bits, bias, and what its top exponent holds: 0 numbers, 1 numbers and one NaN, 2 infinities and NaNs. -/
structure Fmt where
  ebits : Nat
  m : Nat
  bias : Nat
  top : Nat
  narrow : Bool
  nan : Nat
  deriving DecidableEq, Repr

def fp32 : Fmt := { ebits := 8, m := 23, bias := 127, top := 2, narrow := false, nan := 0x7FC0_0000 }
def bf16 : Fmt := { ebits := 8, m := 7, bias := 127, top := 2, narrow := false, nan := 0x7FC0 }
def fp16 : Fmt := { ebits := 5, m := 10, bias := 15, top := 2, narrow := false, nan := 0x7E00 }
def e4m3 : Fmt := { ebits := 4, m := 3, bias := 7, top := 1, narrow := true, nan := 0x7F }
def e5m2 : Fmt := { ebits := 5, m := 2, bias := 15, top := 2, narrow := true, nan := 0x7E }
def e2m1 : Fmt := { ebits := 2, m := 1, bias := 1, top := 0, narrow := true, nan := 0 }

/-- The format of a WID code (R36). -/
def Fmt.ofWid (w : Nat) : Fmt :=
  match w with
  | 0 => e2m1
  | 1 => e4m3
  | 2 => e5m2
  | 3 => fp16
  | 4 => bf16
  | _ => fp32

/-- The floating-point format of a page's format code (R137). -/
def Fmt.ofPage (c : Nat) : Fmt :=
  match c with
  | 5 => fp32
  | 6 => bf16
  | 7 => fp16
  | 8 => e4m3
  | 9 => e5m2
  | _ => e2m1

def Fmt.bits (f : Fmt) : Nat := 1 + f.ebits + f.m
def Fmt.hasInf (f : Fmt) : Bool := f.top = 2
/-- The exponent of the smallest normal. -/
def Fmt.emin (f : Fmt) : Int := 1 - (f.bias : Int)
/-- The largest finite magnitude as (m, e). -/
def Fmt.maxfin (f : Fmt) : Nat × Int :=
  let t : Int := 2 ^ f.ebits - 1
  match f.top with
  | 2 => (2 ^ (f.m + 1) - 1, t - 1 - f.bias - f.m)
  | 1 => (2 ^ (f.m + 1) - 2, t - f.bias - f.m)
  | _ => (2 ^ (f.m + 1) - 1, t - f.bias - f.m)

/-- x · 2^k, rounded down where k is negative. -/
def shiftBy (x : Nat) (k : Int) : Nat := if 0 ≤ k then x <<< k.toNat else x >>> (-k).toNat

namespace Val

def zero (neg : Bool) : Val := .fin neg 0 0
def one : Val := .fin false 1 0
def ofInt (t : Int) : Val := .fin (t < 0) t.natAbs 0

def isNan : Val → Bool
  | .nan => true
  | _ => false
def isInf : Val → Bool
  | .inf _ => true
  | _ => false
def isZero : Val → Bool
  | .fin _ m _ => m = 0
  | _ => false
def isFinite : Val → Bool
  | .fin .. => true
  | _ => false
def sign : Val → Bool
  | .nan => false
  | .inf s => s
  | .fin s _ _ => s
def neg : Val → Val
  | .nan => .nan
  | .inf s => .inf !s
  | .fin s m e => .fin (!s) m e
def abs : Val → Val
  | .nan => .nan
  | .inf _ => .inf false
  | .fin _ m e => .fin false m e
/-- v · 2^k. -/
def scale (k : Int) : Val → Val
  | .fin s m e => .fin s m (e + k)
  | v => v
/-- floor(log2 |v|) of a nonzero finite value. -/
def log2 : Val → Int
  | .fin _ m e => Nat.log2 m + e
  | _ => 0

/-- The signed integer that v is in units of 2^e. -/
def units (e0 : Int) : Val → Int
  | .fin s m e => if s then -(shiftBy m (e - e0) : Int) else shiftBy m (e - e0)
  | _ => 0

/-- The least exponent of a list of finite nonzero values. -/
def minExp (vs : List Val) : Int :=
  (vs.filterMap fun v => match v with
    | .fin _ m e => if m = 0 then none else some e
    | _ => none).foldl min 4000

/-- The exact sum (R144, R146): rm 3, RDN, makes an exact zero negative. -/
def sum (vs : List Val) (rm : Nat) : Val :=
  if vs.any isNan then .nan
  else
    match vs.contains (.inf false), vs.contains (.inf true) with
    | true, true => .nan
    | true, false => .inf false
    | false, true => .inf true
    | false, false =>
      if vs.all isZero && (vs.all sign || !vs.any sign) then zero (vs.any sign)
      else
        let e := minExp vs
        let t := (vs.map (units e)).foldl (· + ·) 0
        if t = 0 then zero (rm = 3) else .fin (t < 0) t.natAbs e

def add (a b : Val) (rm : Nat) : Val := sum [a, b] rm

def mul (a b : Val) : Val :=
  match a, b with
  | .nan, _ | _, .nan => .nan
  | .fin s m e, .fin t n g => .fin (s != t) (m * n) (e + g)
  | _, _ => if a.isZero || b.isZero then .nan else .inf (a.sign != b.sign)

/-- The exact quotient, with 64 bits and more and a low bit for what is left. -/
def div (a b : Val) : Val :=
  match a, b with
  | .nan, _ | _, .nan => .nan
  | .inf _, .inf _ => .nan
  | .inf s, .fin t _ _ => .inf (s != t)
  | .fin s _ _, .inf t => zero (s != t)
  | .fin s m e, .fin t n g =>
    if n = 0 then (if m = 0 then .nan else .inf (s != t))
    else if m = 0 then zero (s != t)
    else
      let k := 64 + Nat.log2 n
      let q := (m <<< k) / n
      .fin (s != t) (2 * q + b2n ((m <<< k) % n ≠ 0)) (e - g - k - 1)

/-- Order of finite and infinite values; −0 equals +0. -/
def lt (a b : Val) : Bool :=
  match a, b with
  | .nan, _ | _, .nan => false
  | .inf s, .inf t => s && !t
  | .inf s, .fin .. => s
  | .fin .., .inf t => !t
  | .fin .., .fin .. => let e := minExp [a, b]; units e a < units e b
def eq (a b : Val) : Bool := !a.isNan && !b.isNan && !lt a b && !lt b a
/-- The order of FMIN and FMAX: −0 lies below +0 (R159). -/
def below (a b : Val) : Bool := lt a b || (a.isZero && b.isZero && a.sign && !b.sign)

end Val

/-! Decode and encode (R131-R134) -/

def Fmt.dec (f : Fmt) (x : Nat) : Val :=
  let s := bit x (f.ebits + f.m)
  let e := Sys2Proof.bits x (f.ebits + f.m - 1) f.m
  let fr := Sys2Proof.bits x (f.m - 1) 0
  if e = 2 ^ f.ebits - 1 ∧ f.top = 2 then (if fr = 0 then .inf s else .nan)
  else if e = 2 ^ f.ebits - 1 ∧ f.top = 1 ∧ fr = 2 ^ f.m - 1 then .nan
  else if e = 0 then .fin s fr (1 - f.bias - f.m)
  else .fin s (2 ^ f.m + fr) ((e : Int) - f.bias - f.m)

def Fmt.pack (f : Fmt) (s : Bool) (e fr : Nat) : Nat := cat (cat (b2n s) f.ebits e) f.m fr

def Fmt.enc (f : Fmt) : Val → Nat
  | .nan => f.nan
  | .inf s => f.pack s (2 ^ f.ebits - 1) 0
  | .fin s m e =>
    if m = 0 then f.pack s 0 0
    else
      let l : Int := Nat.log2 m + e
      if l < f.emin then f.pack s 0 (shiftBy m (e - (f.emin - f.m)))
      else f.pack s (l + f.bias).toNat (shiftBy m (e - (l - f.m)) - 2 ^ f.m)

/-- Element x under scale code k: NaN under 0xFF (R134). -/
def Fmt.decScaled (f : Fmt) (x k : Nat) : Val := if k = 0xFF then .nan else (f.dec x).scale ((k : Int) - 127)

/-! Rounding (R142, R143, R153) -/

def flNX : Nat := 1
def flUF : Nat := 2
def flOF : Nat := 4
def flDZ : Nat := 8
def flNV : Nat := 16
def flSAT : Nat := 32
def flFTZ : Nat := 64
def flQUF : Nat := 128
def flPWOOB : Nat := 256

def flagIf (c : Bool) (f : Nat) : Nat := if c then f else 0

/-- m / 2^sh rounded to an integer under a mode, and whether a bit was lost. -/
def roundShift (rm : Nat) (neg : Bool) (m sh : Nat) : Nat × Bool :=
  let k := m >>> sh
  let rem := m % 2 ^ sh
  let up : Bool :=
    match rm with
    | 0 => 2 ^ sh < 2 * rem || (2 * rem = 2 ^ sh && rem ≠ 0 && k % 2 = 1)
    | 1 => false
    | 2 => !neg && rem ≠ 0
    | _ => neg && rem ≠ 0
  (if up then k + 1 else k, rem ≠ 0)

/-- The result of an overflow (R142). -/
def overflowed (f : Fmt) (rm : Nat) (neg : Bool) : Val :=
  let big : Val := .fin neg f.maxfin.1 f.maxfin.2
  if f.narrow then big
  else match rm with
    | 0 => .inf neg
    | 1 => big
    | 2 => if neg then big else .inf false
    | _ => if neg then .inf true else big

/-- `round` of R142 with the flags it raises. -/
def Fmt.round (f : Fmt) (rm : Nat) (v : Val) : Val × Nat :=
  match v with
  | .nan => (.nan, 0)
  | .inf s => if f.hasInf then (v, 0) else (.fin s f.maxfin.1 f.maxfin.2, flSAT)
  | .fin s m e =>
    if m = 0 then (v, 0)
    else
      let q := max (Nat.log2 m + e) f.emin - f.m
      let (k, lost) := if e < q then roundShift rm s m (q - e).toNat else (shiftBy m (e - q), false)
      let big : Val := .fin false f.maxfin.1 f.maxfin.2
      if Val.lt big (.fin false k q) then (overflowed f rm s, flOF + flNX + flagIf f.narrow flSAT)
      else
        let tiny : Bool := k ≠ 0 && Nat.log2 k + q < f.emin
        (.fin s k q, flagIf (lost && tiny) flUF + flagIf lost flNX)

def rne32 (v : Val) : Val := (fp32.round 0 v).1

/-- The value that FTZ flushes (R143). -/
def Val.tiny (v : Val) : Bool := v.isFinite && !v.isZero && v.log2 < -126
def ftzIn (ftz : Bool) (v : Val) : Val × Nat := if ftz && v.tiny then (.zero v.sign, flFTZ) else (v, 0)

/-- `rnd_fm` (R143) with its flags: a flushed result is not the exact one. -/
def rndFm (fmode : Nat) (f : Fmt) (v : Val) : Val × Nat :=
  let (r, fl) := f.round (fmodeRmOf fmode) v
  let (z, fz) := ftzIn (bit fmode 2) r
  (z, fl ||| fz ||| flagIf (fz ≠ 0) flNX)
where
  fmodeRmOf (m : Nat) : Nat := m % 4

/-- v rounded to an integral value by a mode (R166). -/
def toIntegral (rm : Nat) : Val → Val
  | .fin s m e => if 0 ≤ e then .fin s m e else .fin s (roundShift rm s m (-e).toNat).1 0
  | v => v

/-! Dot products (R146, R147) -/

/-- Cut a list into groups of n. -/
def groupsOf {α : Type} (n : Nat) : Nat → List α → List (List α)
  | 0, _ => []
  | fuel + 1, l => if l.isEmpty then [] else l.take n :: groupsOf n fuel (l.drop n)

/-- Products by groups of 32 (R146). -/
def dotGroups (a b : List Val) : List Val :=
  (groupsOf 32 a.length (List.zipWith Val.mul a b)).map fun g => Val.sum g 0

/-- `dot32grp` (R146). -/
def dot32grp (a b : List Val) (init : Val) : Val :=
  (dotGroups a b).foldl (fun acc t => rne32 (acc.add t 0)) init

/-- The integer dot product, wrapped to 32 bits (R147). -/
def dotInt (a b : List Int) (init : Nat) : Nat :=
  lowBits 32 (init + (List.zipWith (· * ·) a b).foldl (· + ·) 0)

/-- bp(v, p) (R136). -/
def bp (v : Int) (p : Nat) : Int := v / 2 ^ (8 - p) * 2 ^ (8 - p)

end Sys2Proof.Machine
end

