-- ==== Sys2Proof/Machine/Bank.lean ====
section
/-! DEFINITION. The bank rules and LDPW (R210-R220). -/

namespace Sys2Proof.Machine

open Sys2Proof

/-! Checks at the issue of a beat -/

/-- The bytes of a span of nibbles. -/
def spanBytes (lo len : Nat) : List Nat := (List.range ((lo + len - 1) / 2 + 1 - lo / 2)).map (lo / 2 + ·)

/-- BANKADDR (R211, R323, R328): past the end, an L1 granule, a gutter, a dock, the granules of a slate fetched for a dock, or a write of PINNED. -/
def bankDenied (x : Brick) (lo len : Nat) (write : Bool) : Bool :=
  131072 < lo + len ||
    (spanBytes lo len).any fun a => x.part (a / 4096) = 2 || x.inGutter a || x.inDock a || x.slateHold a || (write && x.part (a / 4096) = 1)

/-- The lowest uncorrectable word that a span reads; `merge` reads only words that it does not cover whole (R208). -/
def spanUe (x : Brick) (lo len : Nat) (merge : Bool) : Option Nat :=
  ((List.range ((lo + len - 1) / 16 + 1 - lo / 16)).map (lo / 16 + ·)).find? fun w =>
    x.wordUe w && !(merge && lo ≤ 16 * w && 16 * w + 16 ≤ lo + len)

def bankAddrTrap (i : Nat) : Option Trap := some { cls := 0x05, detail := 0, beat := i }
/-- ECCU with its granule (R79, R208). -/
def eccTrap (w i : Nat) : Option Trap := some { cls := 0x06, detail := w / 512, beat := i }

/-- The trap of one beat of a bank rule. -/
def bankTrap (x : Brick) (lo len i : Nat) (write merge misaligned : Bool) : Option Trap :=
  if bankDenied x lo len write || misaligned then bankAddrTrap i
  else match spanUe x lo len merge with
    | some w => eccTrap w i
    | none => none

/-- A load from `len` nibbles at `lo`, of which it delivers `w4`. -/
def loadBeat (x : Brick) (i lo len w4 : Nat) : BeatOut :=
  match bankTrap x lo len i false false false with
  | some t => { trap := some t }
  | none => .value (nibblesRead x.bank lo w4)

/-- A store of v over `len` nibbles at `lo`, queued for the commit (R212). -/
def storeBeat (x : Brick) (i lo len v : Nat) : BeatOut :=
  match bankTrap x lo len i true true false with
  | some t => { trap := some t }
  | none => { effects := [.bank lo len v] }

/-- The value of the A operand read at 16 bits (R210). -/
def addrOf (s : State) (b : BrickId) (f : Firing) (r : RuleInfo) (i : Nat) : Nat :=
  fieldValue s b f r r.au r.a i % 65536

/-- The A update of LDBI and STBI (R215): at the last beat, one cycle after its issue, with the flag that it wrapped. -/
def postIncrement (s : State) (b : BrickId) (f : Firing) (r : RuleInfo) (x : MBody) (i : Nat) (o : BeatOut) : BeatOut :=
  let t := addrOf s b f r i + r.beats * x.off7.toNat * containerBytes x.wid.toNat
  if i + 1 = r.beats then
    { o with wbs := [{ due := s.now + 2, beat := i, lo := some (r.a, 4, t % 65536) }], flag := 65536 ≤ t }
  else o

/-! Meanings -/

/-- LDB (R215). -/
def ldbBeat (x : MBody) : Beat := fun s b f r i =>
  loadBeat (s.brick b) i (locIndexed x.wid.toNat (addrOf s b f r i) x.off7.toNat i) (containerNibbles x.wid.toNat) (intBits x.wid.toNat / 4)
def execLdb (h : Head) (x : MBody) (s : State) : Outcome := fireRule (.ldb h x) (ldbBeat x) s

/-- STB (R215). -/
def stbBeat (x : MBody) : Beat := fun s b f r i =>
  storeBeat (s.brick b) i (locIndexed x.wid.toNat (addrOf s b f r i) x.off7.toNat i) (containerNibbles x.wid.toNat)
    (fieldValue s b f r r.du r.d i)
def execStb (h : Head) (x : MBody) (s : State) : Outcome := fireRule (.stb h x) (stbBeat x) s

/-- LDBI (R215). -/
def ldbiBeat (x : MBody) : Beat := fun s b f r i =>
  postIncrement s b f r x i
    (loadBeat (s.brick b) i (locStrided x.wid.toNat (addrOf s b f r i) x.off7.toNat i) (containerNibbles x.wid.toNat) (intBits x.wid.toNat / 4))
def execLdbi (h : Head) (x : MBody) (s : State) : Outcome := fireRule (.ldbi h x) (ldbiBeat x) s

/-- STBI (R215). -/
def stbiBeat (x : MBody) : Beat := fun s b f r i =>
  postIncrement s b f r x i
    (storeBeat (s.brick b) i (locStrided x.wid.toNat (addrOf s b f r i) x.off7.toNat i) (containerNibbles x.wid.toNat)
      (fieldValue s b f r r.du r.d i))
def execStbi (h : Head) (x : MBody) (s : State) : Outcome := fireRule (.stbi h x) (stbiBeat x) s

/-- op(old, v) of ATB (R216); code 16 is the compare-and-swap of CASB (R217), with expected value v and new value y. -/
def atomicOp (op w old v y : Nat) : Nat :=
  match op with
  | 0x0 => (old + v) % 2 ^ w
  | 0x1 => old &&& v
  | 0x2 => old ||| v
  | 0x3 => old ^^^ v
  | 0x4 => (minOp w old v).1
  | 0x5 => (maxOp w old v).1
  | 0x6 => (minuOp w old v).1
  | 0x7 => (maxuOp w old v).1
  | 0x8 => v
  | 0x9 => (addsuOp w old v).1
  | _ => if old = v then y else old

/-- An atomic on the container at byte a. -/
def atomicBeat (s : State) (b : BrickId) (wid i a op v y : Nat) : BeatOut :=
  let e := containerBytes wid
  match bankTrap (s.brick b) (2 * a) (2 * e) i true false (a % e ≠ 0) with
  | some t => { trap := some t }
  | none => { effects := [.atomic op (8 * e) a v y s.now] }

/-- ATB (R216). -/
def atbBeat (x : MBody) : Beat := fun s b f r i =>
  atomicBeat s b x.wid.toNat i (addrOf s b f r i + x.off7.toNat % 8 * containerBytes x.wid.toNat) (x.off7.toNat / 8)
    (fieldValue s b f r r.du r.d i) 0
def execAtb (h : Head) (x : MBody) (s : State) : Outcome := fireRule (.atb h x) (atbBeat x) s

/-- CASB (R217). -/
def casbBeat (x : MBody) : Beat := fun s b f r i =>
  let w := intBits x.wid.toNat
  let d := fieldValue s b f r r.du r.d i
  atomicBeat s b x.wid.toNat i (addrOf s b f r i + x.off7.toNat * containerBytes x.wid.toNat) 16 (d % 2 ^ w) (d / 2 ^ w % 2 ^ w)
def execCasb (h : Head) (x : MBody) (s : State) : Outcome := fireRule (.casb h x) (casbBeat x) s

/-- SPL (R218). -/
def splBeat (x : MBody) : Beat := fun s b f r i =>
  storeBeat (s.brick b) i (2 * addrOf s b f r i + x.off7.toNat) (intBits x.wid.toNat / 4) (fieldValue s b f r r.du r.d i)
def execSpl (h : Head) (x : MBody) (s : State) : Outcome := fireRule (.spl h x) (splBeat x) s

/-- FIL (R218). -/
def filBeat (x : MBody) : Beat := fun s b f r i =>
  loadBeat (s.brick b) i (2 * addrOf s b f r i + x.off7.toNat) (intBits x.wid.toNat / 4) (intBits x.wid.toNat / 4)
def execFil (h : Head) (x : MBody) (s : State) : Outcome := fireRule (.fil h x) (filBeat x) s

/-- The window pwN that a brick's region has bound on its course (R219). -/
def paramWindow (s : State) (b : BrickId) (n : Nat) : Option (List Byte) :=
  match (s.brick b).region with
  | none => none
  | some g => ((s.params.getD (b.toNat / 64) []).find? fun w => w.region = g && w.n = n).map (·.data)

/-- LDPW (R220). -/
def ldpwBeat (x : UBody) : Beat := fun s b f r i =>
  let n := bits x.imm7.toNat 6 4
  match paramWindow s b n with
  | none => { trap := some { cls := 0x04, detail := n, beat := i } }
  | some data =>
    let w := intBits x.wid.toNat
    let j := addrOf s b f r i + x.imm7.toNat % 8 + b2n (bit x.imm7.toNat 3) * i
    if 8 * data.length < (j + 1) * w then .value 0 false flPWOOB
    else .value (bits (leValue data) ((j + 1) * w - 1) (j * w))
def execLdpw (h : Head) (x : UBody) (s : State) : Outcome := fireRule (.ldpw h x) (ldpwBeat x) s

end Sys2Proof.Machine
end

