-- ==== Sys2Proof/Machine/Global.lean ====
section
/-! DEFINITION. The rules that leave the brick for global memory (R244-R249), XFENCE (R276, R277) and HANDOVER (R279, R280). -/

namespace Sys2Proof.Machine

open Sys2Proof

/-- The trap GADDR (R79, R245). -/
def gaddrTrap (i : Nat) : Option Trap := some { cls := 0x07, detail := 0, beat := i }
def badGlobal (a : Nat) : Bool := 2 ^ 54 ≤ a

/-- The address of beat i (R245): the entry of a channel, or the slices stepped by the access size. DESIGN CHOICE (log 23): an A of code 116 to 119, neither slices nor a channel, is not stepped. -/
def globalAddr (s : State) (b : BrickId) (f : Firing) (r : RuleInfo) (i step : Nat) : Nat :=
  let a := fieldValue s b f r r.au r.a i
  if r.a < 112 then (a + i * step) % 2 ^ 64 else a

/-- One request, queued for the commit. -/
def globalBeat (i a : Nat) (kind : ReqKind) (data : List Byte) (rch : Nat) (dcl : Bool) : BeatOut :=
  if badGlobal a then { trap := gaddrTrap i } else { effects := [.global kind a data rch dcl] }

/-- GLD (R247). -/
def gldBeat (x : XBody) : Beat := fun s b f r i =>
  let m := x.sub.toNat
  globalBeat i (globalAddr s b f r i (2 ^ (m % 4))) (.load (bit m 3) (m % 4)) [] (bits m 5 4) (bit m 2)
def execGld (h : Head) (x : XBody) (s : State) : Outcome := fireRule (.gld h x) (gldBeat x) s

/-- GST (R249). -/
def gstBeat (x : XBody) : Beat := fun s b f r i =>
  let n := gstBits x / 8
  globalBeat i (globalAddr s b f r i n) .store (leBytes n (fieldValue s b f r r.du r.d i)) 0 (bit x.sub.toNat 2)
def execGst (h : Head) (x : XBody) (s : State) : Outcome := fireRule (.gst h x) (gstBeat x) s

/-- GAT (R249); op 0xA compares and swaps, with the expected value in the low w bits of D and the new one above. -/
def gatBeat (x : XBody) : Beat := fun s b f r i =>
  let w := gatBits x
  let d := fieldValue s b f r r.du r.d i
  globalBeat i (globalAddr s b f r i (w / 8)) (.atomic (x.b.toNat % 16) w (d % 2 ^ w) (d / 2 ^ w % 2 ^ w)) []
    (bits x.sub.toNat 5 4) (bit x.sub.toNat 3)
def execGat (h : Head) (x : XBody) (s : State) : Outcome := fireRule (.gat h x) (gatBeat x) s

/-- SYS XFENCE (R277): its commit waits for the before set. -/
def sysXfenceBeat (x : XBody) : Beat := fun _ _ _ _ _ => { effects := [.fence (x.b.toNat % 64)] }
def execSysXfence (h : Head) (x : XBody) (s : State) : Outcome := fireRule (.sysXfence h x) (sysXfenceBeat x) s

/-- SYS HANDOVER (R279, R280). -/
def sysHandoverBeat (x : XBody) : Beat := fun s b f r i =>
  let a := fieldValue s b f r r.au r.a i
  if badGlobal a then { trap := gaddrTrap i }
  else { effects := [.handover (fieldValue s b f r r.du r.d i % 2 ^ 14) a x.b.toNat] }
def execSysHandover (h : Head) (x : XBody) (s : State) : Outcome := fireRule (.sysHandover h x) (sysHandoverBeat x) s

end Sys2Proof.Machine
end

