-- ==== Sys2Proof/Machine/EngineRules.lean ====
section
/-! DEFINITION. The rules that hand work to an engine: TTQ (R291, R292), the slate-map rules (R313-R317), the dock rules (R330-R336) and FQRY (R356-R360). -/

namespace Sys2Proof.Machine

open Sys2Proof

/-! Reading a block of the bank -/

/-- A block of n bytes at a byte offset, aligned to `al`: BANKADDR, or its words with the granule of an uncorrectable one. -/
def blockDenied (x : Brick) (off n al : Nat) : Bool := off % al ≠ 0 || bankDenied x (2 * off) (2 * n) false

/-- The first of several traps. -/
def firstTrap (ts : List (Option Trap)) : Option Trap := ts.findSome? id

def trapWhen (c : Bool) (t : Option Trap) : Option Trap := if c then t else none

def eccOf (x : Brick) (off n i : Nat) : Option Trap :=
  match spanUe x (2 * off) (2 * n) false with
  | some w => eccTrap w i
  | none => none

/-- SLFFMT and FQRYFMT with their sub-codes (R79). -/
def slfTrap (d i : Nat) : Option Trap := some { cls := 0x08, detail := d, beat := i }
def fqryTrap (d i : Nat) : Option Trap := some { cls := 0x09, detail := d, beat := i }

/-- Effects, or the trap that stops them. -/
def effectsUnless (t : Option Trap) (es : List Effect) : BeatOut :=
  match t with
  | some t => { trap := some t }
  | none => { effects := es }

def wordNat (ws : List Word) (i : Nat) : Nat := (ws.getD i 0).toNat

/-! TTQ -/

/-- A task record from the bank, with its TID where the form gives one (R292). -/
def taskBeat (s : State) (b : BrickId) (off i : Nat) (tid : Option Nat) : BeatOut :=
  let x := s.brick b
  if blockDenied x off 64 64 then { trap := bankAddrTrap i }
  else
    let ws := x.wordsAt off 8
    let rec' := match tid with
      | some t => modifyAt (fun w => BitVec.ofNat 64 (insertBits w.toNat 56 8 t)) 0 ws
      | none => ws
    effectsUnless (eccOf x off 64 i) [.task rec']

/-- TTQ (R292). -/
def ttqBeat (_x : XBody) : Beat := fun s b f r i => taskBeat s b (addrOf s b f r i) i none
def execTtq (h : Head) (x : XBody) (s : State) : Outcome := fireRule (.ttq h x) (ttqBeat x) s

/-- TTQ.tid (R292). -/
def ttqTidBeat (_x : XBody) : Beat := fun s b f r i =>
  taskBeat s b (addrOf s b f r i) i (some (fieldValue s b f r r.bu r.b i % 256))
def execTtqTid (h : Head) (x : XBody) (s : State) : Outcome := fireRule (.ttqTid h x) (ttqTidBeat x) s

/-! Slate-map rules -/

/-- Fields of word 2 of a PIN block (R314). -/
def pinGran (w2 : Nat) : Nat := bits w2 3 0
def pinCount (w2 : Nat) : Nat := bits w2 10 4
def pinDc (w2 : Nat) : Nat := bits w2 12 11
def pinFmt (w2 : Nat) : Nat := bits w2 16 13

/-- A format code of a slate or a query: BF16 or FP16. -/
def isHalf (f : Nat) : Bool := f = 6 || f = 7

/-- DETAIL of SLFFMT for a request block (R314): the lowest code that applies. -/
def blockDetail (k : MapKind) (w1 w2 w3 : Nat) : Option Nat :=
  let placed : Bool := k = .pinResident || k = .pinStored
  let dirty : Bool := w1 % 256 ≠ 0 ||
    (if placed then bits w2 63 17 ≠ 0 else w3 ≠ 0 || (if k = .pinShare then w2 % 256 ≠ 0 else w2 ≠ 0))
  if dirty then some 0x01
  else if !placed then none
  else if !isHalf (pinFmt w2) then some 0x02
  else if pinCount w2 = 0 || slatePmax (pinDc w2) < pinCount w2 then some 0x03
  else if k = .pinResident && 16 < pinGran w2 + slateGranules (pinDc w2) then some 0x04
  else if (k = .pinStored && w3 = 0) || w3 % 8192 ≠ 0 then some 0x05
  else none

/-- PIN, UNPIN or LOOK at issue (R314). -/
def mapBeat (s : State) (b : BrickId) (off i : Nat) (k : MapKind) (rch : Nat) : BeatOut :=
  let x := s.brick b
  if blockDenied x off 32 32 then { trap := bankAddrTrap i }
  else
    let ws := x.wordsAt off 4
    let ok (j : Nat) : Bool := !x.wordUe (off / 8 + j)
    effectsUnless (firstTrap
      [trapWhen ((ok 0 && badGlobal (wordNat ws 0)) || (ok 3 && badGlobal (wordNat ws 3))) (gaddrTrap i),
       eccOf x off 32 i,
       (blockDetail k (wordNat ws 1) (wordNat ws 2) (wordNat ws 3)).bind (slfTrap · i)]) [.map k rch ws]

/-- SLF PIN (R315). -/
def slfPinBeat (x : XBody) : Beat := fun s b f r i =>
  mapBeat s b (addrOf s b f r i) i
    (match x.b.toNat % 4 with
      | 0 => .pinResident
      | 1 => .pinStored
      | _ => .pinShare) (x.d.toNat % 4)
def execSlfPin (h : Head) (x : XBody) (s : State) : Outcome := fireRule (.slfPin h x) (slfPinBeat x) s

/-- SLF UNPIN (R316). -/
def slfUnpinBeat (x : XBody) : Beat := fun s b f r i =>
  mapBeat s b (addrOf s b f r i) i
    (match x.b.toNat % 4 with
      | 0 => .unpinDrop
      | 1 => .unpinKeep
      | _ => .unpinErase) (x.d.toNat % 4)
def execSlfUnpin (h : Head) (x : XBody) (s : State) : Outcome := fireRule (.slfUnpin h x) (slfUnpinBeat x) s

/-- SLF LOOK (R317). -/
def slfLookBeat (x : XBody) : Beat := fun s b f r i => mapBeat s b (addrOf s b f r i) i .look (x.d.toNat % 4)
def execSlfLook (h : Head) (x : XBody) (s : State) : Outcome := fireRule (.slfLook h x) (slfLookBeat x) s

/-! Dock rules -/

def Brick.dock (x : Brick) (k : Nat) : Dock := x.docks.getD (k % 2) {}
def Brick.modDock (x : Brick) (k : Nat) (f : Dock → Dock) : Brick := { x with docks := modifyAt f (k % 2) x.docks }
/-- Word w of a dock's yealm (R320). -/
def Brick.dockWord (x : Brick) (k w : Nat) : Nat := leValue (cellsRead x.bank (dockBase k + 8 * w) 8)
/-- Bytes of a yealm whose header word 1 is given (R319). -/
def yealmSize (w1 : Nat) : Nat := yealmBytes (bits w1 22 16) (bits w1 25 24)

/-- The dock that A names is not DOCKED (R331). -/
def notDocked (x : Brick) (k i : Nat) : Option Trap := trapWhen ((x.dock k).st ≠ .docked) (slfTrap 0x10 i)

/-- SLF FIRE (R331, R336). -/
def slfFireBeat (x : XBody) : Beat := fun s b f r i =>
  let y := s.brick b
  let k := addrOf s b f r i % 2
  effectsUnless (firstTrap [notDocked y k i, trapWhen ((y.dock k).stop = .home) (slfTrap 0x13 i)]) [.fire k (bit x.b.toNat 0)]
def execSlfFire (h : Head) (x : XBody) (s : State) : Outcome := fireRule (.slfFire h x) (slfFireBeat x) s

/-- The launch image breaks R333. -/
def launchMalformed (b : BrickId) (ws : List Word) : Bool :=
  let w1 := wordNat ws 1
  let w3 := wordNat ws 3
  bit w1 23 || bits w1 31 30 ≠ 0 || bit w1 35 || bit w1 39 || bits w1 63 60 ≠ 0 || bits w3 63 48 ≠ 0 ||
  2 ^ 54 ≤ wordNat ws 4 || 2 ^ 54 ≤ wordNat ws 5 ||
  bits w1 22 16 = 0 || 12288 < yealmSize w1 || !isHalf (bits w1 29 26) || 5 ≤ bits w1 34 32 || 6 < bits w1 38 36 ||
  wordNat ws 5 % 16 ≠ 0 || bits w1 53 40 ≠ b.toNat || bits w1 59 54 ≠ Config.podPosition

/-- SLF HDR launch (R333). -/
def slfHdrLaunchBeat (_x : XBody) : Beat := fun s b f r i =>
  let y := s.brick b
  let off := addrOf s b f r i
  let ws := y.wordsAt off 8
  if blockDenied y off 64 64 || blockDenied y off (yealmSize (wordNat ws 1)) 64 then { trap := bankAddrTrap i }
  else effectsUnless (firstTrap [eccOf y off 64 i, trapWhen (launchMalformed b ws) (slfTrap 0x12 i)]) [.launch off]
def execSlfHdrLaunch (h : Head) (x : XBody) (s : State) : Outcome := fireRule (.slfHdrLaunch h x) (slfHdrLaunchBeat x) s

/-- SLF HDR read (R331, R332). -/
def slfHdrRdBeat (_x : XBody) : Beat := fun s b f r i =>
  let y := s.brick b
  let a := addrOf s b f r i
  let k := a % 2
  let w := bits a 11 1
  match firstTrap [notDocked y k i, trapWhen (ceilDiv (yealmSize (y.dockWord k 1)) 8 ≤ w) (slfTrap 0x14 i)] with
  | some t => { trap := some t }
  | none => .value (y.dockWord k w)
def execSlfHdrRd (h : Head) (x : XBody) (s : State) : Outcome := fireRule (.slfHdrRd h x) (slfHdrRdBeat x) s

/-- SLF HDR write (R331, R332). -/
def slfHdrWrBeat (_x : XBody) : Beat := fun s b f r i =>
  let y := s.brick b
  let a := addrOf s b f r i
  let k := a % 2
  let w := bits a 11 1
  effectsUnless (firstTrap [notDocked y k i, trapWhen (w = 0 || w = 1 || 7 ≤ w) (slfTrap 0x11 i)])
    [.hdrWrite k w (fieldValue s b f r r.du r.d i)]
def execSlfHdrWr (h : Head) (x : XBody) (s : State) : Outcome := fireRule (.slfHdrWr h x) (slfHdrWrBeat x) s

/-- SLF FIN (R331, R335). -/
def slfFinBeat (x : XBody) : Beat := fun s b f r i =>
  let y := s.brick b
  let k := addrOf s b f r i % 2
  effectsUnless (firstTrap [notDocked y k i, trapWhen ((y.dock k).stop ≠ .home) (slfTrap 0x13 i)])
    [.fin k (x.d.toNat - 112)]
def execSlfFin (h : Head) (x : XBody) (s : State) : Outcome := fireRule (.slfFin h x) (slfFinBeat x) s

/-- SLF ROUTE (R331, R334). -/
def slfRouteBeat (_x : XBody) : Beat := fun s b f r i =>
  let y := s.brick b
  let k := addrOf s b f r i % 2
  effectsUnless (notDocked y k i) [.route k]
def execSlfRoute (h : Head) (x : XBody) (s : State) : Outcome := fireRule (.slfRoute h x) (slfRouteBeat x) s

/-! FQRY -/

/-- A footing engine belongs to a tenancy (R411). -/
def State.hasEngine (s : State) (t e : Nat) : Bool := bit (s.tenancy t).cfg.toNat (32 + e)

/-- A brick is one of a region's (R358, R373). -/
def State.inRegion (s : State) (g : RegionId) (b : Nat) : Bool := (s.slot g).bricks.contains (BitVec.ofNat 14 b)

/-- DETAIL of FQRYFMT (R358): the lowest code that applies. -/
def packetDetail (s : State) (b : BrickId) (ws : List Word) (eng : Nat) : Option Nat :=
  let x := s.brick b
  let w0 := wordNat ws 0
  let w3 := wordNat ws 3
  let inl := bit w0 50
  let mem := bit w0 51
  let nep := bits w0 53 52
  let dirty : Bool := bits w0 63 55 ≠ 0 ||
    (if inl then bits (wordNat ws 2) 63 11 ≠ 0 else false) ||
    (if mem then false else bits w3 63 16 ≠ 0) ||
    bits (wordNat ws 4) 63 48 ≠ 0 || bits (wordNat ws 5) 63 16 ≠ 0 ||
    (nep < 1 && bits (wordNat ws 6) 63 32 ≠ 0) || (nep < 2 && bits (wordNat ws 7) 31 0 ≠ 0) ||
    (nep < 3 && bits (wordNat ws 7) 63 32 ≠ 0)
  let inside (c : Nat) : Bool := match x.region with
    | some g => s.inRegion g c
    | none => false
  if dirty then some 0x01
  else if bits w0 38 32 = 0 || bits w0 47 39 + 1 < bits w0 38 32 || bits w0 49 48 = 3 then some 0x02
  else if inl && bits (wordNat ws 2) 10 0 = 0 then some 0x03
  else if wordNat ws 1 % 64 ≠ 0 || (mem && w3 % 8 ≠ 0) then some 0x04
  else if !s.hasEngine x.tenancy eng then some 0x05
  else if (!mem && !inside (bits w3 13 0)) || !inside (bits (wordNat ws 5) 13 0) then some 0x06
  else none

/-- FQRY POST (R358). -/
def fqryPostBeat (x : XBody) : Beat := fun s b f r i =>
  let y := s.brick b
  let off := addrOf s b f r i
  let n := packetBytes y off
  if blockDenied y off 64 64 || blockDenied y off n 64 then { trap := bankAddrTrap i }
  else
    let ws := y.wordsAt off 8
    let w0 := wordNat ws 0
    let inline := if bit w0 50 then cellsRead y.bank (off + 64) ((wordNat ws 2) % 2048) else []
    let high : Bool := badGlobal (wordNat ws 1) || (!bit w0 50 && badGlobal (wordNat ws 2)) || (bit w0 51 && badGlobal (wordNat ws 3))
    effectsUnless (firstTrap
      [trapWhen high (gaddrTrap i), eccOf y off n i, (packetDetail s b ws x.b.toNat).bind (fqryTrap · i)])
      [.post x.b.toNat ws inline]
def execFqryPost (h : Head) (x : XBody) (s : State) : Outcome := fireRule (.fqryPost h x) (fqryPostBeat x) s

/-- FQRY CNCL (R360). -/
def fqryCnclBeat (x : XBody) : Beat := fun s b f r i =>
  { effects := [.cancel x.b.toNat (fieldValue s b f r r.au r.a i % 2 ^ 32)] }
def execFqryCncl (h : Head) (x : XBody) (s : State) : Outcome := fireRule (.fqryCncl h x) (fqryCnclBeat x) s

end Sys2Proof.Machine
end

