-- ==== Sys2Proof/Machine/Special.lean ====
section
/-! DEFINITION. The special functions (R145, R163, R164), correctly rounded: exact cases apart, a value is bracketed in fixed point with P fraction bits, P growing until both ends round alike. -/

namespace Sys2Proof.Machine

open Sys2Proof

/-! Fixed-point series; a value x stands for x / 2^P -/

/-- floor(sqrt n) among numbers of k bits above r. -/
def isqrtFrom (n : Nat) : Nat → Nat → Nat
  | 0, r => r
  | k + 1, r => if (r + 2 ^ k) * (r + 2 ^ k) ≤ n then isqrtFrom n k (r + 2 ^ k) else isqrtFrom n k r
def isqrt (n : Nat) : Nat := isqrtFrom n (Nat.log2 n / 2 + 1) 0

/-- z + z³/3 + z⁵/5 + … : the area tangent of z. -/
def atanhFix (P z : Nat) : Nat :=
  (go P z 1 0)
where
  go : Nat → Nat → Nat → Nat → Nat
    | 0, _, _, acc => acc
    | n + 1, t, k, acc => if t = 0 then acc else go n (((t * z) >>> P * z) >>> P) (k + 2) (acc + t / k)

/-- z - z³/3 + z⁵/5 - … : the arc tangent of 1/q. -/
def atanInvFix (P q : Nat) : Int :=
  go P (2 ^ P / q) 1 0
where
  go : Nat → Nat → Nat → Int → Int
    | 0, _, _, acc => acc
    | n + 1, t, k, acc =>
      if t = 0 then acc
      else go n (t / (q * q)) (k + 2) (if k % 4 = 1 then acc + (t / k : Nat) else acc - (t / k : Nat))

def ln2Fix (P : Nat) : Nat := 2 * atanhFix P (2 ^ P / 3)
def piFix (P : Nat) : Nat := (16 * atanInvFix P 5 - 4 * atanInvFix P 239).toNat

/-- 1 + y + y²/2 + … -/
def expFix (P y : Nat) : Nat :=
  go P (2 ^ P) 1 0
where
  go : Nat → Nat → Nat → Nat → Nat
    | 0, _, _, acc => acc
    | n + 1, t, k, acc => if t = 0 then acc else go n ((t * y) >>> P / k) (k + 1) (acc + t)

/-- y - y³/6 + … -/
def sinFix (P y : Nat) : Nat :=
  (go P y 1 0).toNat
where
  go : Nat → Nat → Nat → Int → Int
    | 0, _, _, acc => acc
    | n + 1, t, k, acc =>
      if t = 0 then acc
      else go n ((((t * y) >>> P) * y) >>> P / ((k + 1) * (k + 2))) (k + 2) (if k % 4 = 1 then acc + (t : Int) else acc - (t : Int))

/-- The error bound of a series, in units of 2^-P. -/
def fixErr : Nat := 2 ^ 40

/-- A value known to lie strictly above a and within one unit of it. -/
def justAbove (neg : Bool) (a : Nat) (e : Int) : Val := .fin neg (2 * a + 1) (e - 1)

/-- The value between the ends x - err and x + err in units of 2^-P, once both ends round alike under a mode. -/
def bracket (f : Fmt) (rm : Nat) (neg : Bool) (P : Nat) (sh : Int) (x : Nat) : Option Val :=
  let lo := justAbove neg (x - fixErr) (sh - P)
  let hi := justAbove neg (x + fixErr) (sh - P)
  if fixErr < x && (f.round rm lo).1 = (f.round rm hi).1 then some lo else none

/-- The first precision that decides; `arg` names the case no precision decides (log 9). -/
def settleFix (arg : Val) (at' : Nat → Option Val) : Val :=
  match [192, 512, 1024, 4096].findSome? at' with
  | some v => v
  | none =>
    match arg with
    | .fin s m e => .fin s (Config.hardCase m e) 0
    | v => v

/-- The fixed-point value of a nonnegative dyadic. -/
def fixOf (P m : Nat) (e : Int) : Nat := shiftBy m (e + P)

/-! Functions of a finite nonzero argument -/

/-- 2^x (R145, R164). -/
def exp2Val (f : Fmt) (rm : Nat) (x : Val) : Val :=
  match x with
  | .nan => .nan
  | .inf s => if s then .zero false else .inf false
  | .fin s m e =>
    let n : Int := if 0 ≤ e then x.units 0 else (if s then -(m : Int) else m) / 2 ^ (-e).toNat
    if 5000 < n then .fin false 1 5000
    else if n < -5000 then justAbove false 1 (-5000)
    else
      let frac : Nat := if 0 ≤ e then 0 else ((if s then -(m : Int) else m) % 2 ^ (-e).toNat).toNat
      if frac = 0 then .fin false 1 n
      else settleFix x fun P =>
        bracket f rm false P n (expFix P ((fixOf P frac e * ln2Fix P) >>> P))

/-- log2 of a positive finite value (R163). -/
def log2Val (f : Fmt) (rm : Nat) (m : Nat) (e : Int) : Val :=
  let l := Nat.log2 m
  let n : Int := l + e
  if m = 2 ^ l then Val.ofInt n
  else settleFix (.fin false m e) fun P =>
    let one := 2 ^ P
    let x := fixOf P m (-(l : Int))
    let fr := (2 * atanhFix P (((x - one) <<< P) / (x + one))) <<< P / ln2Fix P
    let t : Int := n * (one : Nat) + fr
    bracket f rm (t < 0) P 0 t.natAbs

/-- Square root of m · 2^e. -/
def sqrtVal (m : Nat) (e : Int) : Val :=
  let odd := (e % 2).toNat
  let m' := (m * 2 ^ odd) <<< 128
  let r := isqrt m'
  .fin false (2 * r + b2n (r * r ≠ m')) ((e - odd) / 2 - 64 - 1)

/-- Reciprocal square root of m · 2^e. -/
def rsqrtVal (m : Nat) (e : Int) : Val :=
  let odd := (e % 2).toNat
  let m' := m * 2 ^ odd
  let r := isqrt (2 ^ 256 / m')
  .fin false (2 * r + b2n (r * r * m' ≠ 2 ^ 256)) (-((e - odd) / 2) - 128 - 1)

/-- tanh of a nonzero finite value; a tiny one lies just below its argument, a great one just below 1. -/
def tanhVal (f : Fmt) (rm : Nat) (s : Bool) (m : Nat) (e : Int) : Val :=
  let l : Int := Nat.log2 m + e
  if l < -40 then .fin s (m * 2 ^ 100 - 1) (e - 100)
  else if 6 < l then .fin s (2 ^ 100 - 1) (-100)
  else settleFix (.fin s m e) fun P =>
    let y := 2 * fixOf P m e
    let q := y / ln2Fix P
    let g := expFix P (y - q * ln2Fix P) <<< q
    bracket f rm s P 0 (((g - 2 ^ P) <<< P) / (g + 2 ^ P))

/-- sin(π · t / 2^k) for 0 ≤ t < 2^k / 2, as a rounded value; t is nonzero. -/
def sinPiHalf (f : Fmt) (rm : Nat) (neg : Bool) (t k : Nat) : Val :=
  settleFix (.fin neg t (-(k : Int))) fun P =>
    bracket f rm neg P 0 (sinFix P ((shiftBy t (P - k) * piFix P) >>> P))

/-- sin(π x) of a nonnegative x = t / 2^k. -/
def sinPiOf (f : Fmt) (rm : Nat) (neg : Bool) (t k : Nat) : Val :=
  let t := t % 2 ^ (k + 1)
  let neg := neg != (2 ^ k ≤ t)
  let t := t % 2 ^ k
  if t = 0 then .zero neg
  else if 2 * t = 2 ^ k then .fin neg 1 0
  else sinPiHalf f rm neg (if 2 ^ k < 2 * t then 2 ^ k - t else t) k

/-! The sub-operations of SFU (R163): the value and the flags NV and DZ -/

def sfuExp2 (f : Fmt) (rm : Nat) (a : Val) : Val × Nat := (exp2Val f rm a, 0)

def sfuLog2 (f : Fmt) (rm : Nat) (a : Val) : Val × Nat :=
  match a with
  | .nan => (.nan, 0)
  | .inf s => if s then (.nan, flNV) else (a, 0)
  | .fin s m e => if m = 0 then (.inf true, flDZ) else if s then (.nan, flNV) else (log2Val f rm m e, 0)

def sfuRcp (_ : Fmt) (_ : Nat) (a : Val) : Val × Nat := (Val.one.div a, flagIf a.isZero flDZ)

def sfuRsqrt (_ : Fmt) (_ : Nat) (a : Val) : Val × Nat :=
  match a with
  | .nan => (.nan, 0)
  | .inf s => if s then (.nan, flNV) else (.zero false, 0)
  | .fin s m e => if m = 0 then (.inf s, flDZ) else if s then (.nan, flNV) else (rsqrtVal m e, 0)

def sfuSqrt (_ : Fmt) (_ : Nat) (a : Val) : Val × Nat :=
  match a with
  | .nan => (.nan, 0)
  | .inf s => if s then (.nan, flNV) else (a, 0)
  | .fin s m e => if m = 0 then (a, 0) else if s then (.nan, flNV) else (sqrtVal m e, 0)

def sfuTanh (f : Fmt) (rm : Nat) (a : Val) : Val × Nat :=
  match a with
  | .nan => (.nan, 0)
  | .inf s => (.fin s 1 0, 0)
  | .fin s m e => if m = 0 then (a, 0) else (tanhVal f rm s m e, 0)

/-- x = m · 2^e as t / 2^k. -/
def overPow (m : Nat) (e : Int) : Nat × Nat := if 0 ≤ e then (m * 2 ^ e.toNat, 0) else (m, (-e).toNat)

def sfuSinpi (f : Fmt) (rm : Nat) (a : Val) : Val × Nat :=
  match a with
  | .nan => (.nan, 0)
  | .inf _ => (.nan, flNV)
  | .fin s m e =>
    if m = 0 then (a, 0)
    else
      let (t, k) := overPow m e
      if t % 2 ^ k = 0 then (.zero s, 0) else (sinPiOf f rm s t k, 0)

def sfuCospi (f : Fmt) (rm : Nat) (a : Val) : Val × Nat :=
  match a with
  | .nan => (.nan, 0)
  | .inf _ => (.nan, flNV)
  | .fin _ m e =>
    let (t, k) := overPow m e
    match sinPiOf f rm false (2 * t + 2 ^ k) (k + 1) with
    | .fin _ 0 _ => (.zero false, 0)
    | v => (v, 0)

/-- `exp2_32` (R145). -/
def exp2x32 (x : Val) : Val := rne32 (exp2Val fp32 0 x)

end Sys2Proof.Machine
end

