-- ==== Sys2Proof/Machine/Float.lean ====
section
/-! DEFINITION. The floating-point group, opcodes 0x40 to 0x5E (R148-R173). -/

namespace Sys2Proof.Machine

open Sys2Proof

/-! Shapes of beats -/

/-- Decode a source and flush it (R151). -/
def readF (g : Fmt) (s : State) (b : BrickId) (f : Firing) (r : RuleInfo) (u : Use) (code i : Nat) : Val × Nat :=
  ftzIn (bit f.fmode 2) (g.dec (fieldValue s b f r u code i))

/-- NaN or infinite (R155). -/
def Val.nonFinite (v : Val) : Bool := !v.isFinite

/-- A NaN from operands that hold none (R153). -/
def invalidFlag (ops : List Val) (v : Val) : Nat := flagIf (v.isNan && !ops.any Val.isNan) flNV

/-- Round an exact result and write it (R151, R153). -/
def BeatOut.rounded (g : Fmt) (fmode : Nat) (ops : List Val) (v : Val) (fl : Nat) : BeatOut :=
  let (q, fq) := rndFm fmode g v
  .value (g.enc q) q.nonFinite (fl ||| fq ||| invalidFlag ops v)

/-- A two-operand operation, rounded once; a nonzero finite value over zero raises DZ. -/
def beatFF (wid : BitVec 3) (op : Nat → Val → Val → Val) : Beat := fun s b f r i =>
  let g := Fmt.ofWid wid.toNat
  let (a, fa) := readF g s b f r r.au r.a i
  let (c, fc) := readF g s b f r r.bu r.b i
  let v := op f.fmode a c
  .rounded g f.fmode [a, c] v (fa ||| fc ||| flagIf (v.isInf && a.isFinite && c.isFinite) flDZ)

/-- FFMA and FFMS: D is a source too. -/
def beatFFD (wid : BitVec 3) (op : Nat → Val → Val → Val → Val) : Beat := fun s b f r i =>
  let g := Fmt.ofWid wid.toNat
  let (a, fa) := readF g s b f r r.au r.a i
  let (c, fc) := readF g s b f r r.bu r.b i
  let (d, fd) := readF g s b f r r.du r.d i
  .rounded g f.fmode [a, c, d] (op f.fmode a c d) (fa ||| fc ||| fd)

/-- FMIN to FMAXM: `pref` says whether B is strictly preferred. -/
def beatPick (wid : BitVec 3) (pref : Val → Val → Bool) : Beat := fun s b f r i =>
  let g := Fmt.ofWid wid.toNat
  let (a, fa) := readF g s b f r r.au r.a i
  let (c, fc) := readF g s b f r r.bu r.b i
  if a.isNan || c.isNan then .value (g.enc .nan) false (fa ||| fc)
  else .value (g.enc (if pref a c then c else a)) (pref a c) (fa ||| fc)

/-- The compares. -/
def beatFCmp (wid : BitVec 3) (op : Val → Val → Bool) : Beat := fun s b f r i =>
  let g := Fmt.ofWid wid.toNat
  let (a, fa) := readF g s b f r r.au r.a i
  let (c, fc) := readF g s b f r r.bu r.b i
  { write := some (allOnes r.du.slices (op a c)), cmp := op a c, sticky := fa ||| fc }

/-- FABS and FNEG work on the raw encoding. -/
def beatSign (wid : BitVec 3) (op : Bool → Bool) : Beat := fun s b f r i =>
  let g := Fmt.ofWid wid.toNat
  let a := fieldValue s b f r r.au r.a i
  if (g.dec a).isNan then .value g.nan true
  else .value (cat (b2n (op (bit a (g.bits - 1)))) (g.bits - 1) a)

/-- SFU: `op` gives the value and the flags NV and DZ. -/
def beatSfu (wid : BitVec 3) (op : Fmt → Nat → Val → Val × Nat) : Beat := fun s b f r i =>
  let g := Fmt.ofWid wid.toNat
  let (a, fa) := readF g s b f r r.au r.a i
  let (v, fv) := op g (f.fmode % 4) a
  .rounded g f.fmode [a] v (fa ||| fv)

/-- The elements of packed words, from the low bits up, flushed (R169). -/
def unpackF (g : Fmt) (fmode : Nat) (ws : List Nat) : List Val × Nat :=
  let vs := ws.flatMap fun w => (List.range (64 / g.bits)).map fun j => ftzIn (bit fmode 2) (g.dec (bits w (g.bits * j + g.bits - 1) (g.bits * j)))
  (vs.map (·.1), (vs.map (·.2)).foldl (· ||| ·) 0)

/-- Split a, b, a, b, … -/
def unzipWords : List Nat → List Nat × List Nat
  | a :: b :: l => let (as, bs) := unzipWords l; (a :: as, b :: bs)
  | _ => ([], [])

/-- The end of FSUM and FDOT: dot32grp from D read as FP32, flushed under FTZ (R167, R169). OF comes from any group's rounding, UF from the last, and NX says that the delivered value is not the exact sum (log 15). -/
def reduced (s : State) (b : BrickId) (f : Firing) (r : RuleInfo) (as bs : List Val) (fl : Nat) : BeatOut :=
  let (d, fd) := readF fp32 s b f r r.du r.d 0
  let step := fun (p : Val × Nat) t =>
    let (v, fv) := fp32.round 0 (p.1.add t 0)
    (v, p.2 ||| (fv &&& flOF))
  let (v, fv) := (dotGroups as bs).foldl step (d, 0)
  let (z, fz) := ftzIn (bit f.fmode 2) v
  let exact := Val.sum (d :: List.zipWith Val.mul as bs) 0
  .value (fp32.enc z) z.nonFinite
    (fl ||| fd ||| fv ||| fz ||| invalidFlag (d :: as ++ bs) v ||| flagIf (v.tiny && !exact.isNan && !Val.eq v exact) flUF |||
      flagIf (!z.isNan && !exact.isNan && !Val.eq z exact) flNX)

/-- Pack elements of w bits into 64-bit words, from the low bits up (R171). -/
def packWords (w : Nat) (cs : List Nat) : List Nat :=
  (groupsOf (64 / w) cs.length cs).map fun g => g.foldr (fun c n => n <<< w ||| c) 0

/-- emax of R170. -/
def quantMax (g : Fmt) : Int := if g.ebits = 4 then 8 else if g.ebits = 5 then 15 else 2

/-- The block that QBLK forms: scale code, element words and flags (R170, R171). -/
def quantise (g : Fmt) (fmode : Nat) (xs : List Val) : Nat × List Nat × Nat :=
  let zeros := packWords g.bits (xs.map fun _ => 0)
  if xs.any Val.nonFinite then (0xFF, zeros, flagIf (!xs.any Val.isNan) flNV)
  else if xs.all Val.isZero then (0, zeros, 0)
  else
    let top := ((xs.filter fun v => !v.isZero).map Val.log2).foldl max (-4000)
    let k0 := top - quantMax g + 127
    let k := k0.toNat
    let qs := xs.map fun v =>
      let (q, fq) := g.round (fmode % 4) (v.scale (127 - (k : Int)))
      let (_, fz) := ftzIn (bit fmode 2) (q.scale ((k : Int) - 127))
      (g.enc (if fz ≠ 0 then .zero q.sign else q), fq ||| fz ||| flagIf (fz ≠ 0) flNX)
    (k, packWords g.bits (qs.map (·.1)), (qs.map (·.2)).foldl (· ||| ·) (flagIf (k0 < 0) flQUF))

/-- sf of DQBLK (R172). -/
def dqFormat (c : Nat) : Fmt :=
  match c with
  | 0 => e2m1
  | 1 => e4m3
  | _ => e5m2

/-- D[8i + j] := A[8j + 7 - i] (R173). -/
def planeSplit (a : Nat) : Nat :=
  (List.range 64).foldl (fun n k => n + b2n (bit a (8 * (k % 8) + 7 - k / 8)) * 2 ^ k) 0

/-- D[8j + 7 - i] := A[8i + j] for i below p (R173). -/
def planeJoin (p a : Nat) : Nat :=
  (List.range (8 * p)).foldl (fun n k => n + b2n (bit a k) * 2 ^ (8 * (k % 8) + 7 - k / 8)) 0

/-- The class of a raw encoding (R161), as a list of one bit number. -/
def classBits (g : Fmt) (x : Nat) : List Nat :=
  match g.dec x with
  | .nan => [0]
  | .inf s => [if s then 2 else 1]
  | .fin s m _ => [if m = 0 then 3 else if bits x (g.ebits + g.m - 1) g.m = 0 then 4 else if s then 6 else 5]

/-! Meanings -/

/-- FADD (R157). -/
def faddBeat (x : TBody) : Beat := beatFF x.wid fun m a b => Val.add a b (m % 4)
def execFadd (h : Head) (x : TBody) (s : State) : Outcome := fireRule (.fadd h x) (faddBeat x) s

/-- FSUB (R157). -/
def fsubBeat (x : TBody) : Beat := beatFF x.wid fun m a b => Val.add a b.neg (m % 4)
def execFsub (h : Head) (x : TBody) (s : State) : Outcome := fireRule (.fsub h x) (fsubBeat x) s

/-- FMUL (R157). -/
def fmulBeat (x : TBody) : Beat := beatFF x.wid fun _ a b => Val.mul a b
def execFmul (h : Head) (x : TBody) (s : State) : Outcome := fireRule (.fmul h x) (fmulBeat x) s

/-- FFMA (R157). -/
def ffmaBeat (x : TBody) : Beat := beatFFD x.wid fun m a b d => Val.add (Val.mul a b) d (m % 4)
def execFfma (h : Head) (x : TBody) (s : State) : Outcome := fireRule (.ffma h x) (ffmaBeat x) s

/-- FFMS (R157). -/
def ffmsBeat (x : TBody) : Beat := beatFFD x.wid fun m a b d => Val.add d (Val.mul a b).neg (m % 4)
def execFfms (h : Head) (x : TBody) (s : State) : Outcome := fireRule (.ffms h x) (ffmsBeat x) s

/-- FMIN (R159). -/
def fminBeat (x : TBody) : Beat := beatPick x.wid fun a b => Val.below b a
def execFmin (h : Head) (x : TBody) (s : State) : Outcome := fireRule (.fmin h x) (fminBeat x) s

/-- FMAX (R159). -/
def fmaxBeat (x : TBody) : Beat := beatPick x.wid fun a b => Val.below a b
def execFmax (h : Head) (x : TBody) (s : State) : Outcome := fireRule (.fmax h x) (fmaxBeat x) s

/-- FMINM (R159). -/
def fminmBeat (x : TBody) : Beat := beatPick x.wid fun a b => Val.lt b.abs a.abs || (Val.eq b.abs a.abs && Val.below b a)
def execFminm (h : Head) (x : TBody) (s : State) : Outcome := fireRule (.fminm h x) (fminmBeat x) s

/-- FMAXM (R159). -/
def fmaxmBeat (x : TBody) : Beat := beatPick x.wid fun a b => Val.lt a.abs b.abs || (Val.eq a.abs b.abs && Val.below a b)
def execFmaxm (h : Head) (x : TBody) (s : State) : Outcome := fireRule (.fmaxm h x) (fmaxmBeat x) s

/-- FCMPEQ (R160). -/
def fcmpeqBeat (x : TBody) : Beat := beatFCmp x.wid Val.eq
def execFcmpeq (h : Head) (x : TBody) (s : State) : Outcome := fireRule (.fcmpeq h x) (fcmpeqBeat x) s

/-- FCMPLT (R160). -/
def fcmpltBeat (x : TBody) : Beat := beatFCmp x.wid Val.lt
def execFcmplt (h : Head) (x : TBody) (s : State) : Outcome := fireRule (.fcmplt h x) (fcmpltBeat x) s

/-- FCMPLE (R160). -/
def fcmpleBeat (x : TBody) : Beat := beatFCmp x.wid fun a b => Val.lt a b || Val.eq a b
def execFcmple (h : Head) (x : TBody) (s : State) : Outcome := fireRule (.fcmple h x) (fcmpleBeat x) s

/-- FCMPUN (R160). -/
def fcmpunBeat (x : TBody) : Beat := beatFCmp x.wid fun a b => a.isNan || b.isNan
def execFcmpun (h : Head) (x : TBody) (s : State) : Outcome := fireRule (.fcmpun h x) (fcmpunBeat x) s

/-- FABS (R162). -/
def fabsBeat (x : UBody) : Beat := beatSign x.wid fun _ => false
def execFabs (h : Head) (x : UBody) (s : State) : Outcome := fireRule (.fabs h x) (fabsBeat x) s

/-- FNEG (R162). -/
def fnegBeat (x : UBody) : Beat := beatSign x.wid fun s => !s
def execFneg (h : Head) (x : UBody) (s : State) : Outcome := fireRule (.fneg h x) (fnegBeat x) s

/-- FSCB (R158). -/
def fscbBeat (x : TBody) : Beat := fun s b f r i =>
  let g := Fmt.ofWid x.wid.toNat
  let (a, fa) := readF g s b f r r.au r.a i
  .rounded g f.fmode [a] (a.scale (signed 8 (fieldValue s b f r r.bu r.b i % 256))) fa
def execFscb (h : Head) (x : TBody) (s : State) : Outcome := fireRule (.fscb h x) (fscbBeat x) s

/-- FDIV (R157). -/
def fdivBeat (x : TBody) : Beat := beatFF x.wid fun _ a b => Val.div a b
def execFdiv (h : Head) (x : TBody) (s : State) : Outcome := fireRule (.fdiv h x) (fdivBeat x) s

/-- SFU.EXP2 (R163). -/
def sfuExp2Beat (x : UBody) : Beat := beatSfu x.wid sfuExp2
def execSfuExp2 (h : Head) (x : UBody) (s : State) : Outcome := fireRule (.sfuExp2 h x) (sfuExp2Beat x) s

/-- SFU.LOG2 (R163). -/
def sfuLog2Beat (x : UBody) : Beat := beatSfu x.wid sfuLog2
def execSfuLog2 (h : Head) (x : UBody) (s : State) : Outcome := fireRule (.sfuLog2 h x) (sfuLog2Beat x) s

/-- SFU.RCP (R163). -/
def sfuRcpBeat (x : UBody) : Beat := beatSfu x.wid sfuRcp
def execSfuRcp (h : Head) (x : UBody) (s : State) : Outcome := fireRule (.sfuRcp h x) (sfuRcpBeat x) s

/-- SFU.RSQRT (R163). -/
def sfuRsqrtBeat (x : UBody) : Beat := beatSfu x.wid sfuRsqrt
def execSfuRsqrt (h : Head) (x : UBody) (s : State) : Outcome := fireRule (.sfuRsqrt h x) (sfuRsqrtBeat x) s

/-- SFU.SQRT (R163). -/
def sfuSqrtBeat (x : UBody) : Beat := beatSfu x.wid sfuSqrt
def execSfuSqrt (h : Head) (x : UBody) (s : State) : Outcome := fireRule (.sfuSqrt h x) (sfuSqrtBeat x) s

/-- SFU.TANH (R163). -/
def sfuTanhBeat (x : UBody) : Beat := beatSfu x.wid sfuTanh
def execSfuTanh (h : Head) (x : UBody) (s : State) : Outcome := fireRule (.sfuTanh h x) (sfuTanhBeat x) s

/-- SFU.SINPI (R163). -/
def sfuSinpiBeat (x : UBody) : Beat := beatSfu x.wid sfuSinpi
def execSfuSinpi (h : Head) (x : UBody) (s : State) : Outcome := fireRule (.sfuSinpi h x) (sfuSinpiBeat x) s

/-- SFU.COSPI (R163). -/
def sfuCospiBeat (x : UBody) : Beat := beatSfu x.wid sfuCospi
def execSfuCospi (h : Head) (x : UBody) (s : State) : Outcome := fireRule (.sfuCospi h x) (sfuCospiBeat x) s

/-- CVT (R166). -/
def cvtBeat (x : UBody) : Beat := fun s b f r i =>
  let g := Fmt.ofWid x.wid.toNat
  let (a, fa) := readF (Fmt.ofWid (x.imm7.toNat % 8)) s b f r r.au r.a i
  .rounded g f.fmode [a] a fa
def execCvt (h : Head) (x : UBody) (s : State) : Outcome := fireRule (.cvt h x) (cvtBeat x) s

/-- CVTFI (R166). -/
def cvtfiBeat (x : UBody) : Beat := fun s b f r i =>
  let (v, fv) := readF (Fmt.ofWid x.wid.toNat) s b f r r.au r.a i
  let w := intBits (x.imm7.toNat % 8)
  let sg := bit x.imm7.toNat 3
  let lo : Int := if sg then -(2 ^ (w - 1)) else 0
  let hi : Int := if sg then 2 ^ (w - 1) - 1 else 2 ^ w - 1
  match v with
  | .nan => .value 0 true (fv ||| flNV)
  | .inf neg => .value (lowBits w (if neg then lo else hi)) true (fv ||| flNV ||| flSAT ||| flNX)
  | .fin .. =>
    let t := toIntegral (if bit x.imm7.toNat 4 then 1 else f.fmode % 4) v
    let (n, bad) := saturate lo hi (t.units 0)
    .value (lowBits w n) bad (fv ||| flagIf bad (flNV ||| flSAT) ||| flagIf (!Val.eq (Val.ofInt n) v) flNX)
def execCvtfi (h : Head) (x : UBody) (s : State) : Outcome := fireRule (.cvtfi h x) (cvtfiBeat x) s

/-- CVTIF (R166). -/
def cvtifBeat (x : UBody) : Beat := fun s b f r i =>
  let w := intBits (x.imm7.toNat % 8)
  let a := fieldValue s b f r r.au r.a i
  .rounded (Fmt.ofWid x.wid.toNat) f.fmode [] (Val.ofInt (if bit x.imm7.toNat 3 then signed w a else a)) 0
def execCvtif (h : Head) (x : UBody) (s : State) : Outcome := fireRule (.cvtif h x) (cvtifBeat x) s

/-- FRND (R166). -/
def frndBeat (x : UBody) : Beat := fun s b f r i =>
  let g := Fmt.ofWid x.wid.toNat
  let (v, fv) := readF g s b f r r.au r.a i
  let t := toIntegral (if bit x.imm7.toNat 2 then x.imm7.toNat % 4 else f.fmode % 4) v
  let inexact := v.isFinite && !Val.eq t v
  .value (g.enc t) inexact (fv ||| flagIf inexact flNX)
def execFrnd (h : Head) (x : UBody) (s : State) : Outcome := fireRule (.frnd h x) (frndBeat x) s

/-- FSUM (R167). -/
def fsumBeat (x : TBody) : Beat := fun s b f r i =>
  let (_, fa) := readF (Fmt.ofWid x.wid.toNat) s b f r r.au r.a i
  let acc := f.acc ++ [fieldValue s b f r r.au r.a i]
  if i + 1 = r.beats then
    let as := acc.map fun c => (ftzIn (bit f.fmode 2) ((Fmt.ofWid x.wid.toNat).dec c)).1
    reduced s b f r as (as.map fun _ => Val.one) fa
  else { acc, sticky := fa }
def execFsum (h : Head) (x : TBody) (s : State) : Outcome := fireRule (.fsum h x) (fsumBeat x) s

/-- FMAXR (R168). -/
def fmaxrBeat (x : TBody) : Beat := fun s b f r i =>
  let g := Fmt.ofWid x.wid.toNat
  let (_, fa) := readF g s b f r r.au r.a i
  let acc := f.acc ++ [fieldValue s b f r r.au r.a i]
  if i + 1 = r.beats then
    let as := acc.map fun c => (ftzIn (bit f.fmode 2) (g.dec c)).1
    let (d, fd) := readF g s b f r r.du r.d 0
    let top := if d.isNan || as.any Val.isNan then Val.nan else as.foldl (fun m a => if Val.below m a then a else m) d
    .value (g.enc top) (as.any fun a => !a.isNan && !d.isNan && Val.below d a) (fa ||| fd)
  else { acc, sticky := fa }
def execFmaxr (h : Head) (x : TBody) (s : State) : Outcome := fireRule (.fmaxr h x) (fmaxrBeat x) s

/-- FDOT (R169). -/
def fdotBeat (x : TBody) : Beat := fun s b f r i =>
  let g := Fmt.ofWid x.wid.toNat
  let a := fieldValue s b f r r.au r.a i
  let c := fieldValue s b f r r.bu r.b i
  let (_, fa) := unpackF g f.fmode [a, c]
  let acc := f.acc ++ [a, c]
  if i + 1 = r.beats then
    let (as, bs) := unzipWords acc
    reduced s b f r (unpackF g f.fmode as).1 (unpackF g f.fmode bs).1 fa
  else { acc, sticky := fa }
def execFdot (h : Head) (x : TBody) (s : State) : Outcome := fireRule (.fdot h x) (fdotBeat x) s

/-- EXPD (R164). -/
def expdBeat (x : TBody) : Beat := fun s b f r i =>
  let g := Fmt.ofWid x.wid.toNat
  let (a, fa) := readF g s b f r r.au r.a i
  let (c, fc) := readF g s b f r r.bu r.b i
  .rounded g f.fmode [a, c] (exp2Val g (f.fmode % 4) (Val.sum [a, c.neg] 0)) (fa ||| fc)
def execExpd (h : Head) (x : TBody) (s : State) : Outcome := fireRule (.expd h x) (expdBeat x) s

/-- QBLK (R170, R171). -/
def qblkBeat (x : UBody) : Beat := fun s b f r i =>
  let src := Fmt.ofWid (x.imm7.toNat % 8)
  let (_, fa) := readF src s b f r r.au r.a i
  let acc := f.acc ++ [fieldValue s b f r r.au r.a i]
  if i + 1 = r.beats then
    let q := quantise (Fmt.ofWid x.wid.toNat) f.fmode (acc.map fun c => (ftzIn (bit f.fmode 2) (src.dec c)).1)
    { judge := q.1, flag := bit q.2.2 7, sticky := fa ||| q.2.2
      effects := [.qblk (x.d.toNat - 112) ((q.1 :: q.2.1).map (BitVec.ofNat 64)) (s.now + r.latency + 2)] }
  else { acc, sticky := fa }
def execQblk (h : Head) (x : UBody) (s : State) : Outcome := fireRule (.qblk h x) (qblkBeat x) s

/-- DQBLK (R172). -/
def dqblkBeat (x : TBody) : Beat := fun s b f r i =>
  let g := Fmt.ofWid x.wid.toNat
  let v := fieldValue s b f r r.bu r.b i
  let sf := dqFormat (bits v 13 12)
  let j := bits v 11 8 + i
  if bits v 13 12 = 3 ∨ bits v 15 14 ≠ 0 ∨ 64 / sf.bits ≤ j then .rounded g f.fmode [] .nan 0
  else
    let c := bits (fieldValue s b f r r.au r.a i) (sf.bits * j + sf.bits - 1) (sf.bits * j)
    let (e, fe) := ftzIn (bit f.fmode 2) (sf.decScaled c (v % 256))
    .rounded g f.fmode [e] e fe
def execDqblk (h : Head) (x : TBody) (s : State) : Outcome := fireRule (.dqblk h x) (dqblkBeat x) s

/-- BPSPL (R173). -/
def bpsplBeat (_x : TBody) : Beat := fun s b f r i => .value (planeSplit (fieldValue s b f r r.au r.a i))
def execBpspl (h : Head) (x : TBody) (s : State) : Outcome := fireRule (.bpspl h x) (bpsplBeat x) s

/-- BPJN (R173). -/
def bpjnBeat (_x : TBody) : Beat := fun s b f r i =>
  .value (planeJoin (min 8 (fieldValue s b f r r.bu r.b i)) (fieldValue s b f r r.au r.a i))
def execBpjn (h : Head) (x : TBody) (s : State) : Outcome := fireRule (.bpjn h x) (bpjnBeat x) s

/-- FCLS (R161). -/
def fclsBeat (x : UBody) : Beat := fun s b f r i =>
  { cmp := (classBits (Fmt.ofWid x.wid.toNat) (fieldValue s b f r r.au r.a i)).any fun k => bit x.imm7.toNat k }
def execFcls (h : Head) (x : UBody) (s : State) : Outcome := fireRule (.fcls h x) (fclsBeat x) s

end Sys2Proof.Machine
end

