-- ==== Sys2Proof/Machine/StreamRules.lean ====
section
/-! DEFINITION. STRM (R260), WPTR (R259), WATCH (R262) and SINK (R377). -/

namespace Sys2Proof.Machine

open Sys2Proof

/-- Word 7 of a shape record (R250). -/
def Shape.status (x : Shape) : Nat := x.state % 4 * 2 ^ 48 + x.tiles % 2 ^ 32 * 2 ^ 16 + x.credit % 2 ^ 16

/-- STRM ARM (R260). -/
def strmArmBeat (x : XBody) : Beat := fun _ _ _ _ _ => { effects := [.strm (x.sub.toNat / 8) 0] }
def execStrmArm (h : Head) (x : XBody) (s : State) : Outcome := fireRule (.strmArm h x) (strmArmBeat x) s

/-- STRM ABORT (R260). -/
def strmAbortBeat (x : XBody) : Beat := fun _ _ _ _ _ => { effects := [.strm (x.sub.toNat / 8) 1] }
def execStrmAbort (h : Head) (x : XBody) (s : State) : Outcome := fireRule (.strmAbort h x) (strmAbortBeat x) s

/-- STRM STAT (R260). -/
def strmStatBeat (x : XBody) : Beat := fun s b _ _ _ =>
  .value (((s.brick b).edge.shapes.getD (x.sub.toNat / 8) {}).status)
def execStrmStat (h : Head) (x : XBody) (s : State) : Outcome := fireRule (.strmStat h x) (strmStatBeat x) s

/-- SYS WPTR (R259). -/
def sysWptrBeat (x : XBody) : Beat := fun s b _ _ _ =>
  let p := x.b.toNat % 2
  { BeatOut.value ((s.brick b).wp.getD p 0) with effects := [.observe 1 ((s.brick b).wpTs.getD p 0)] }
def execSysWptr (h : Head) (x : XBody) (s : State) : Outcome := fireRule (.sysWptr h x) (sysWptrBeat x) s

/-- SYS WATCH (R262): an A of 116 disarms the watch. -/
def sysWatchBeat (x : XBody) : Beat := fun s b f r i =>
  let d := x.d.toNat
  let w : Option Watch :=
    if x.a = 116 then none
    else some { tag := Tag.ofCode (x.b.toNat % 4), target := fieldValue s b f r r.au r.a i, pred := d % 8 }
  { effects := [.watch (d / 8 % 4) w] }
def execSysWatch (h : Head) (x : XBody) (s : State) : Outcome := fireRule (.sysWatch h x) (sysWatchBeat x) s

/-- SYS SINK (R377). -/
def sysSinkBeat (x : XBody) : Beat := fun s b f r i =>
  { effects := [.sink (x.d.toNat % 4) (fieldValue s b f r r.au r.a i)] }
def execSysSink (h : Head) (x : XBody) (s : State) : Outcome := fireRule (.sysSink h x) (sysSinkBeat x) s

end Sys2Proof.Machine
end

