-- ==== Sys2Proof/Machine/Beats.lean ====
section
/-! DEFINITION. The beat of each rule, by which its later beats issue (R70): the same beat that its meaning fires with. -/

namespace Sys2Proof.Machine

open Sys2Proof

/-- What a beat of a rule computes; none for an instruction that is no rule. -/
def beatOf : Instr → Option Beat
  | .add _ x => some (addBeat x)
  | .sub _ x => some (subBeat x)
  | .adc _ x => some (adcBeat x)
  | .sbb _ x => some (sbbBeat x)
  | .addi _ x => some (addiBeat x)
  | .mul _ x => some (mulBeat x)
  | .mulh _ x => some (mulhBeat x)
  | .mulhu _ x => some (mulhuBeat x)
  | .mad _ x => some (madBeat x)
  | .divu _ x => some (divuBeat x)
  | .remu _ x => some (remuBeat x)
  | .divs _ x => some (divsBeat x)
  | .rems _ x => some (remsBeat x)
  | .adds _ x => some (addsBeat x)
  | .addsu _ x => some (addsuBeat x)
  | .subs _ x => some (subsBeat x)
  | .subsu _ x => some (subsuBeat x)
  | .min _ x => some (minBeat x)
  | .max _ x => some (maxBeat x)
  | .minu _ x => some (minuBeat x)
  | .maxu _ x => some (maxuBeat x)
  | .abs _ x => some (absBeat x)
  | .neg _ x => some (negBeat x)
  | .and _ x => some (andBeat x)
  | .or _ x => some (orBeat x)
  | .xor _ x => some (xorBeat x)
  | .andn _ x => some (andnBeat x)
  | .orn _ x => some (ornBeat x)
  | .xnor _ x => some (xnorBeat x)
  | .andi _ x => some (andiBeat x)
  | .ori _ x => some (oriBeat x)
  | .xori _ x => some (xoriBeat x)
  | .shl _ x => some (shlBeat x)
  | .shr _ x => some (shrBeat x)
  | .sar _ x => some (sarBeat x)
  | .rol _ x => some (rolBeat x)
  | .shli _ x => some (shliBeat x)
  | .shri _ x => some (shriBeat x)
  | .sari _ x => some (sariBeat x)
  | .roli _ x => some (roliBeat x)
  | .bext _ x => some (bextBeat x)
  | .bexts _ x => some (bextsBeat x)
  | .bins _ x => some (binsBeat x)
  | .sext _ x => some (sextBeat x)
  | .clz _ x => some (clzBeat x)
  | .ctz _ x => some (ctzBeat x)
  | .popc _ x => some (popcBeat x)
  | .brev _ x => some (brevBeat x)
  | .mov _ x => some (movBeat x)
  | .movw _ x => some (movwBeat x)
  | .movi _ x => some (moviBeat x)
  | .movhi _ x => some (movhiBeat x)
  | .sel _ x => some (selBeat x)
  | .cmpeq _ x => some (cmpeqBeat x)
  | .cmpne _ x => some (cmpneBeat x)
  | .cmplt _ x => some (cmpltBeat x)
  | .cmpltu _ x => some (cmpltuBeat x)
  | .cmple _ x => some (cmpleBeat x)
  | .cmpleu _ x => some (cmpleuBeat x)
  | .cmpeqi _ x => some (cmpeqiBeat x)
  | .cmplti _ x => some (cmpltiBeat x)
  | .cmpltui _ x => some (cmpltuiBeat x)
  | .btst _ x => some (btstBeat x)
  | .fadd _ x => some (faddBeat x)
  | .fsub _ x => some (fsubBeat x)
  | .fmul _ x => some (fmulBeat x)
  | .ffma _ x => some (ffmaBeat x)
  | .ffms _ x => some (ffmsBeat x)
  | .fmin _ x => some (fminBeat x)
  | .fmax _ x => some (fmaxBeat x)
  | .fminm _ x => some (fminmBeat x)
  | .fmaxm _ x => some (fmaxmBeat x)
  | .fcmpeq _ x => some (fcmpeqBeat x)
  | .fcmplt _ x => some (fcmpltBeat x)
  | .fcmple _ x => some (fcmpleBeat x)
  | .fcmpun _ x => some (fcmpunBeat x)
  | .fabs _ x => some (fabsBeat x)
  | .fneg _ x => some (fnegBeat x)
  | .fscb _ x => some (fscbBeat x)
  | .fdiv _ x => some (fdivBeat x)
  | .sfuExp2 _ x => some (sfuExp2Beat x)
  | .sfuLog2 _ x => some (sfuLog2Beat x)
  | .sfuRcp _ x => some (sfuRcpBeat x)
  | .sfuRsqrt _ x => some (sfuRsqrtBeat x)
  | .sfuSqrt _ x => some (sfuSqrtBeat x)
  | .sfuTanh _ x => some (sfuTanhBeat x)
  | .sfuSinpi _ x => some (sfuSinpiBeat x)
  | .sfuCospi _ x => some (sfuCospiBeat x)
  | .cvt _ x => some (cvtBeat x)
  | .cvtfi _ x => some (cvtfiBeat x)
  | .cvtif _ x => some (cvtifBeat x)
  | .frnd _ x => some (frndBeat x)
  | .fsum _ x => some (fsumBeat x)
  | .fmaxr _ x => some (fmaxrBeat x)
  | .fdot _ x => some (fdotBeat x)
  | .expd _ x => some (expdBeat x)
  | .qblk _ x => some (qblkBeat x)
  | .dqblk _ x => some (dqblkBeat x)
  | .bpspl _ x => some (bpsplBeat x)
  | .bpjn _ x => some (bpjnBeat x)
  | .fcls _ x => some (fclsBeat x)
  | .plog _ x => some (plogBeat x)
  | .psetv _ x => some (psetvBeat x)
  | .ptos _ x => some (ptosBeat x)
  | .stop _ x => some (stopBeat x)
  | .trap _ x => some (trapBeat x)
  | .bkpt _ x => some (bkptBeat x)
  | .idle _ x => some (idleBeat x)
  | .nop _ x => some (nopBeat x)
  | .ldb _ x => some (ldbBeat x)
  | .stb _ x => some (stbBeat x)
  | .ldbi _ x => some (ldbiBeat x)
  | .stbi _ x => some (stbiBeat x)
  | .atb _ x => some (atbBeat x)
  | .casb _ x => some (casbBeat x)
  | .spl _ x => some (splBeat x)
  | .fil _ x => some (filBeat x)
  | .ldpw _ x => some (ldpwBeat x)
  | .emit _ x => some (emitBeat x)
  | .eos _ x => some (eosBeat x)
  | .mark _ x => some (markBeat x)
  | .weep _ x => some (weepBeat x)
  | .drop _ x => some (dropBeat x)
  | .rtag _ x => some (rtagBeat x)
  | .steer _ x => some (steerBeat x)
  | .gld _ x => some (gldBeat x)
  | .gst _ x => some (gstBeat x)
  | .gat _ x => some (gatBeat x)
  | .strmArm _ x => some (strmArmBeat x)
  | .strmAbort _ x => some (strmAbortBeat x)
  | .strmStat _ x => some (strmStatBeat x)
  | .ttq _ x => some (ttqBeat x)
  | .ttqTid _ x => some (ttqTidBeat x)
  | .slfFire _ x => some (slfFireBeat x)
  | .slfHdrLaunch _ x => some (slfHdrLaunchBeat x)
  | .slfHdrRd _ x => some (slfHdrRdBeat x)
  | .slfHdrWr _ x => some (slfHdrWrBeat x)
  | .slfFin _ x => some (slfFinBeat x)
  | .slfRoute _ x => some (slfRouteBeat x)
  | .slfPin _ x => some (slfPinBeat x)
  | .slfUnpin _ x => some (slfUnpinBeat x)
  | .slfLook _ x => some (slfLookBeat x)
  | .fqryPost _ x => some (fqryPostBeat x)
  | .fqryCncl _ x => some (fqryCnclBeat x)
  | .sysXfence _ x => some (sysXfenceBeat x)
  | .sysHandover _ x => some (sysHandoverBeat x)
  | .sysRdbsr _ x => some (sysRdbsrBeat x)
  | .sysWrbsr _ x => some (sysWrbsrBeat x)
  | .sysWatch _ x => some (sysWatchBeat x)
  | .sysSink _ x => some (sysSinkBeat x)
  | .sysWptr _ x => some (sysWptrBeat x)
  | .sysRdts _ x => some (sysRdtsBeat x)
  | _ => none

end Sys2Proof.Machine
end

