-- ==== Sys2Proof/Machine/Nodes.lean ====
section
/-! DEFINITION. Truss nodes: fields, effective budgets and charges (R366-R368). -/

namespace Sys2Proof.Machine

open Sys2Proof

def State.nodeWord (s : State) (n i : Nat) : Nat := ((s.node n).getD i 0).toNat
def State.nodeLive (s : State) (n : Nat) : Bool := bit (s.nodeWord n 0) 0
def State.nodeTen (s : State) (n : Nat) : Nat := bits (s.nodeWord n 0) 39 34
def State.nodeParent (s : State) (n : Nat) : Option Nat :=
  let p := bits (s.nodeWord n 0) 51 40
  if p = 0xFFF then none else some p

/-- Field i in the order of INH (R366). -/
def State.nodeField (s : State) (n i : Nat) : Nat :=
  match i with
  | 0 => bits (s.nodeWord n 1) 5 0
  | 1 => bits (s.nodeWord n 1) 24 6
  | 2 => bits (s.nodeWord n 1) 51 25
  | 3 => bits (s.nodeWord n 2) 4 0
  | 4 => bits (s.nodeWord n 2) 14 5
  | 5 => bits (s.nodeWord n 2) 23 15
  | 6 => bits (s.nodeWord n 0) 33 26
  | 7 => bits (s.nodeWord n 0) 25 18
  | _ => bits (s.nodeWord n 3) 22 0

/-- The node and its ancestors; `fuel` bounds the depth. -/
def State.lineage (s : State) : Nat → Nat → List Nat
  | 0, _ => []
  | fuel + 1, n => n :: (match s.nodeParent n with
    | some p => s.lineage fuel p
    | none => [])

/-- The effective value of field i (R367): that of the first node of the line that does not inherit it. -/
def State.effective (s : State) (n i : Nat) : Nat :=
  match (s.lineage 4096 n).find? fun m => !bit (s.nodeWord m 0) (9 + i) with
  | some m => s.nodeField m i
  | none => 0

/-- Where the charge of a budget field stands: word, low bit and width (R366). -/
def chargePlace (i : Nat) : Nat × Nat × Nat :=
  match i with
  | 1 => (5, 0, 19)
  | 2 => (5, 19, 27)
  | 4 => (6, 0, 10)
  | _ => (6, 10, 9)

def State.charged (s : State) (n i : Nat) : Nat :=
  let (w, lo, k) := chargePlace i
  bits (s.nodeWord n w) (lo + k - 1) lo

/-- A charge fits the budget of the node and of every ancestor (R368). -/
def State.chargeFits (s : State) (n i add : Nat) : Bool :=
  (s.lineage 4096 n).all fun m => s.charged m i + add ≤ s.effective m i

/-- Change a charge at the node and at every ancestor. -/
def State.setCharges (s : State) (n i : Nat) (f : Nat → Nat) : State :=
  let (w, lo, k) := chargePlace i
  (s.lineage 4096 n).foldl (fun s m =>
    { s with nodes := s.nodes.set m (modifyAt (fun v => BitVec.ofNat 64 (insertBits v.toNat lo k (f (s.charged m i)))) w (s.node m)) }) s

def State.charge (s : State) (n i add : Nat) : State := if n = 0xFFF then s else s.setCharges n i (· + add)
def State.refund (s : State) (n i sub : Nat) : State := if n = 0xFFF then s else s.setCharges n i (· - sub)

/-- Pinned granules of a brick (R204). -/
def Brick.pinned (x : Brick) : List Nat := (List.range 16).filter fun g => x.part g = 1

end Sys2Proof.Machine
end

