-- ==== Sys2Proof/Machine/Crypto.lean ====
section
/-! DEFINITION. The ciphers and codes that the spec names: AES-256 (FIPS 197), its GCM (SP 800-38D) and XTS (IEEE 1619) modes, SHA-256 (FIPS 180-4), CRC-16 and CRC-32 (R394, R422, R428, R429, R437, R442). The algorithms are those of the named standards (log 6). -/

namespace Sys2Proof.Machine

open Sys2Proof

/-! Bytes -/

/-- The n bytes of a value, most significant first. -/
def beBytes (n v : Nat) : List Byte := (leBytes n v).reverse
def beValue (l : List Byte) : Nat := leValue l.reverse
def xorBytes (a b : List Byte) : List Byte := List.zipWith (· ^^^ ·) a b

/-! AES-256 -/

/-- The S-box and its inverse, entry i in bits [8i+7:8i]. -/
def sboxTable : Nat := 0x16bb54b00f2d99416842e6bf0d89a18cdf2855cee9871e9b948ed9691198f8e19e1dc186b95735610ef6034866b53e708a8bbd4b1f74dde8c6b4a61c2e2578ba08ae7a65eaf4566ca94ed58d6d37c8e779e4959162acd3c25c2406490a3a32e0db0b5ede14b8ee4688902a22dc4f816073195d643d7ea7c41744975fec130ccdd2f3ff1021dab6bcf5389d928f40a351a89f3c507f02f94585334d43fbaaefd0cf584c4a39becb6a5bb1fc20ed00d153842fe329b3d63b52a05a6e1b1a2c830975b227ebe28012079a059618c323c7041531d871f1e5a534ccf73f362693fdb7c072a49cafa2d4adf04759fa7dc982ca76abd7fe2b670130c56f6bf27b777c63
def sboxInvTable : Nat := 0x7d0c2155631469e126d677ba7e042b17619953833cbbebc8b0f52aae4d3be0a0ef9cc9939f7ae52d0d4ab519a97f51605fec8027591012b131c7078833a8dd1ff45acd78fec0db9a2079d2c64b3e56fc1bbe18aa0e62b76f89c5291d711af1476edf751ce837f9e28535ade72274ac9673e6b4f0cecff297eadc674f4111913a6b8a130103bdafc1020f3fca8f1e2cd00645b3b80558e4f70ad3bc8c00abd890849d8da75746155edab9edfd5048706c92b6655dcc5ca4d41698688664f6f87225d18b6d49a25b76b224d92866a12e084ec3fa420b954cee3d23c2a632947b54cbe9dec444438e3487ff2f9b8239e37cfbd7f3819ea340bf38a53630d56a0952
def tableByte (t : Nat) (x : Byte) : Byte := BitVec.ofNat 8 (t >>> (8 * x.toNat))

def xtime (a : Byte) : Byte := (a <<< 1) ^^^ (if a.msb then 0x1B else 0)
/-- Product in GF(2^8), by the n low bits of b. -/
def gfMul : Nat → Byte → Byte → Byte
  | 0, _, _ => 0
  | n + 1, a, b => (if b.getLsbD 0 then a else 0) ^^^ gfMul n (xtime a) (b >>> 1)

def subWord (t : Nat) (w : List Byte) : List Byte := w.map (tableByte t)

/-- The next key words from the last eight (most recent first). -/
def keyWords : Nat → Nat → Byte → List (List Byte) → List (List Byte)
  | 0, _, _, ws => ws
  | n + 1, i, rcon, ws =>
    let last := ws.getD 0 []
    let old := ws.getD 7 []
    let t := if i % 8 = 0 then xorBytes (subWord sboxTable (last.drop 1 ++ last.take 1)) [rcon, 0, 0, 0]
      else if i % 8 = 4 then subWord sboxTable last else last
    keyWords n (i + 1) (if i % 8 = 0 then xtime rcon else rcon) (xorBytes old t :: ws)

/-- Cut a list into pieces of four. -/
def quads : List Byte → List (List Byte)
  | a :: b :: c :: d :: l => [a, b, c, d] :: quads l
  | _ => []

/-- The fifteen round keys of a 256-bit key. -/
def roundKeys (key : List Byte) : List (List Byte) :=
  let ws := (keyWords 52 8 1 (quads key).reverse).reverse
  (List.range 15).map fun r => ((ws.drop (4 * r)).take 4).flatten

def shiftRows (k : Nat) (s : List Byte) : List Byte := (List.range 16).map fun i => s.getD (k * i % 16) 0
/-- A column times the circulant matrix whose first row is m. -/
def mixColumn (m : List Byte) (c : List Byte) : List Byte :=
  (List.range 4).map fun r => ((List.range 4).map fun j => gfMul 8 (c.getD j 0) (m.getD ((j + 4 - r) % 4) 0)).foldl (· ^^^ ·) 0
def mixColumns (m : List Byte) (s : List Byte) : List Byte := (quads s).flatMap (mixColumn m)

def aesRounds : List (List Byte) → List Byte → List Byte
  | [], s => s
  | [k], s => xorBytes (shiftRows 5 (subWord sboxTable s)) k
  | k :: ks, s => aesRounds ks (xorBytes (mixColumns [2, 3, 1, 1] (shiftRows 5 (subWord sboxTable s))) k)
def aesEncrypt (ks : List (List Byte)) (block : List Byte) : List Byte :=
  aesRounds (ks.drop 1) (xorBytes block (ks.getD 0 []))

def aesInvRounds : List (List Byte) → List Byte → List Byte
  | [], s => s
  | [k], s => xorBytes (subWord sboxInvTable (shiftRows 13 s)) k
  | k :: ks, s => aesInvRounds ks (mixColumns [14, 11, 13, 9] (xorBytes (subWord sboxInvTable (shiftRows 13 s)) k))
def aesDecrypt (ks : List (List Byte)) (block : List Byte) : List Byte :=
  let r := ks.reverse
  aesInvRounds (r.drop 1) (xorBytes block (r.getD 0 []))

/-! XTS -/

/-- The tweak times alpha, as a little-endian value. -/
def xtsNext (t : Nat) : Nat := (2 * t) % 2 ^ 128 ^^^ (if bit t 127 then 0x87 else 0)

def xtsBlocks (f : List Byte → List Byte) : Nat → Nat → List Byte → List Byte
  | 0, _, _ => []
  | n + 1, t, l => xorBytes (f (xorBytes (l.take 16) (leBytes 16 t))) (leBytes 16 t) ++ xtsBlocks f n (xtsNext t) (l.drop 16)

/-- A 64 B line under a 512-bit key pair, with its address divided by 64 as the tweak (R429). -/
def xtsLine (enc : Bool) (key : BitVec 512) (tweak : Nat) (l : List Byte) : List Byte :=
  let kb := beBytes 64 key.toNat
  let k1 := roundKeys (kb.take 32)
  let t := leValue (aesEncrypt (roundKeys (kb.drop 32)) (leBytes 16 tweak))
  xtsBlocks (if enc then aesEncrypt k1 else aesDecrypt k1) 4 t l

/-! GCM -/

/-- Product in GF(2^128) of GCM, over the n high bits of x still to come. -/
def ghashMul : Nat → Nat → Nat → Nat → Nat
  | 0, _, _, z => z
  | n + 1, x, v, z =>
    ghashMul n x (v / 2 ^^^ (if bit v 0 then 0xE1 * 2 ^ 120 else 0)) (if bit x n then z ^^^ v else z)

def ghash (h : Nat) : Nat → List Byte → Nat → Nat
  | 0, _, y => y
  | n + 1, l, y =>
    if l.isEmpty then y
    else
      let b := l.take 16 ++ List.replicate (16 - (l.take 16).length) 0
      ghash h n (l.drop 16) (ghashMul 128 (y ^^^ beValue b) h 0)

def gcmStream (ks : List (List Byte)) (nonce : List Byte) : Nat → Nat → List Byte → List Byte
  | 0, _, _ => []
  | n + 1, ctr, l =>
    if l.isEmpty then [] else xorBytes (l.take 16) (aesEncrypt ks (nonce ++ beBytes 4 ctr)) ++ gcmStream ks nonce n (ctr + 1) (l.drop 16)

/-- Counter-mode output for a text; the same for both directions. -/
def gcmCrypt (key : BitVec 256) (nonce : List Byte) (text : List Byte) : List Byte :=
  gcmStream (roundKeys (beBytes 32 key.toNat)) nonce text.length 2 text

/-- The tag over associated data and ciphertext. -/
def gcmTag (key : BitVec 256) (nonce aad cipher : List Byte) : List Byte :=
  let ks := roundKeys (beBytes 32 key.toNat)
  let h := beValue (aesEncrypt ks (List.replicate 16 0))
  let y := ghash h (cipher.length + 1) cipher (ghash h (aad.length + 1) aad 0)
  let s := ghashMul 128 (y ^^^ (8 * aad.length * 2 ^ 64 + 8 * cipher.length)) h 0
  xorBytes (beBytes 16 s) (aesEncrypt ks (nonce ++ beBytes 4 1))

/-! SHA-256 -/

/-- The round constants and the initial hash, word i in bits [32i+31:32i]. -/
def shaK : Nat := 0xc67178f2bef9a3f7a4506ceb90befffa8cc7020884c8781478a5636f748f82ee682e6ff35b9cca4f4ed8aa4a391c0cb334b0bcb52748774c1e376c0819a4c116106aa070f40e3585d6990624d192e819c76c51a3c24b8b70a81a664ba2bfe8a192722c8581c2c92e766a0abb650a735453380d134d2c6dfc2e1b213827b70a851429296706ca6351d5a79147c6e00bf3bf597fc7b00327c8a831c66d983e515276f988da5cb0a9dc4a7484aa2de92c6f240ca1cc0fc19dc6efbe4786e49b69c1c19bf1749bdc06a780deb1fe72be5d74550c7dc3243185be12835b01d807aa98ab1c5ed5923f82a459f111f13956c25be9b5dba5b5c0fbcf71374491428a2f98
def shaH : Nat := 0x5be0cd191f83d9ab9b05688c510e527fa54ff53a3c6ef372bb67ae856a09e667
def word32 (t i : Nat) : BitVec 32 := BitVec.ofNat 32 (t >>> (32 * i))

/-- The message schedule, most recent word first. -/
def shaSchedule : Nat → List (BitVec 32) → List (BitVec 32)
  | 0, w => w
  | n + 1, w =>
    let a := w.getD 14 0
    let b := w.getD 1 0
    let s0 := a.rotateRight 7 ^^^ a.rotateRight 18 ^^^ a >>> 3
    let s1 := b.rotateRight 17 ^^^ b.rotateRight 19 ^^^ b >>> 10
    shaSchedule n ((w.getD 15 0 + s0 + w.getD 6 0 + s1) :: w)

def shaRounds : Nat → List (BitVec 32) → List (BitVec 32) → List (BitVec 32)
  | i, w :: ws, [a, b, c, d, e, f, g, h] =>
    let t1 := h + (e.rotateRight 6 ^^^ e.rotateRight 11 ^^^ e.rotateRight 25) + ((e &&& f) ^^^ (~~~e &&& g)) + word32 shaK i + w
    let t2 := (a.rotateRight 2 ^^^ a.rotateRight 13 ^^^ a.rotateRight 22) + ((a &&& b) ^^^ (a &&& c) ^^^ (b &&& c))
    shaRounds (i + 1) ws [t1 + t2, a, b, c, d + t1, e, f, g]
  | _, _, v => v

def shaBlock (v : List (BitVec 32)) (block : List Byte) : List (BitVec 32) :=
  let w := (quads block).map fun q => BitVec.ofNat 32 (beValue q)
  List.zipWith (· + ·) v (shaRounds 0 (shaSchedule 48 w.reverse).reverse v)

def shaBlocks : Nat → List (BitVec 32) → List Byte → List (BitVec 32)
  | 0, v, _ => v
  | n + 1, v, l => if l.isEmpty then v else shaBlocks n (shaBlock v (l.take 64)) (l.drop 64)

def sha256 (l : List Byte) : BitVec 256 :=
  let pad := (119 - l.length % 64) % 64
  let m := l ++ [0x80] ++ List.replicate pad 0 ++ beBytes 8 (8 * l.length)
  let v := shaBlocks m.length ((List.range 8).map (word32 shaH)) m
  BitVec.ofNat 256 (v.foldl (fun n w => n * 2 ^ 32 + w.toNat) 0)

/-! Cyclic codes -/

def crcBits (w poly : Nat) : Nat → Nat → Nat
  | 0, r => r
  | n + 1, r => crcBits w poly n ((2 * r) % 2 ^ w ^^^ (if bit r (w - 1) then poly else 0))

/-- CRC-16 with polynomial 0x1021 from 0xFFFF, neither reflected nor inverted (R437). -/
def crc16 (l : List Byte) : Nat := l.foldl (fun r b => crcBits 16 0x1021 8 (r ^^^ b.toNat * 256)) 0xFFFF

def crcBitsR : Nat → Nat → Nat
  | 0, r => r
  | n + 1, r => crcBitsR n (r / 2 ^^^ (if bit r 0 then 0xEDB88320 else 0))

/-- CRC-32 of IEEE 802.3 (R442). -/
def crc32 (l : List Byte) : Nat := l.foldl (fun r b => crcBitsR 8 (r ^^^ b.toNat)) 0xFFFFFFFF ^^^ 0xFFFFFFFF

end Sys2Proof.Machine
end

