-- ==== Sys2Proof/Machine/Net.lean ====
section
/-! DEFINITION. The networks that carry tokens, gutters, alignment and weeping (R174-R192, R262, R263). -/

namespace Sys2Proof.Machine

open Sys2Proof

/-! Places and credit (R183, R185, R186, R246) -/

/-- Places of an input's queue that are neither taken nor reserved for a return. -/
def Input.queueFree (i : Input) : Nat := 32 - i.queue.length - i.ret

def Gutter.free (g : Gutter) : Nat := if g.stopped then 0 else g.capacity - g.count

/-- Places for arriving tokens: the gutter's alone while it is non-empty (R186). -/
def Input.places (i : Input) : Nat :=
  match i.gutter with
  | none => i.queueFree
  | some g => if g.count = 0 then i.queueFree + g.free else g.free

/-- A watch counts a token of its tag that is no WEEP (R263). -/
def Watch.counts (w : Watch) (t : Token) : Bool := w.tag = t.tag && !t.isWeep

/-- A watch drops a counted token past its target, but never a MARK (R263). -/
def Watch.drops (w : Watch) (t : Token) : Bool := w.counts t && w.target ≤ w.seen && !t.isMark

def Input.drops (i : Input) (t : Token) : Bool :=
  match i.watch with
  | some w => w.drops t
  | none => false

/-- The place that an input grants to a token now (R183, R186): the gutter's alone while it is non-empty. -/
def State.inputGrant (s : State) (b : BrickId) (ch : Nat) : Option Credit :=
  let i := (s.brick b).input ch
  let queue : Bool := s.credited (.input b ch) .queue < i.queueFree
  match i.gutter with
  | none => if queue then some .queue else none
  | some g =>
    if g.count = 0 && queue then some .queue
    else if s.credited (.input b ch) .gutter < g.free then some .gutter else none

/-- A destination discards what reaches it: it stands at a brick that has been ordered to weep (R191). -/
def State.discards (s : State) (d : Dest) : Bool :=
  match d with
  | .input b _ | .streamIn b _ | .draw b | .param b | .bank b _ | .ring b => (s.brick b).discard
  | .steer .. | .coll _ => false

/-- What a destination grants to a token now: a place that it has not credited to a token on its way (R183), or no place where it drops the token (R191, R263). The collective port and the ring port name no bound (log 13). -/
def State.grant (s : State) (d : Dest) (t : Token) : Option Credit :=
  let when (free : Bool) : Option Credit := if free then some .queue else none
  if s.discards d then some .none
  else match d with
  | .input b ch => if ((s.brick b).input ch).drops t then some .none else s.inputGrant b ch
  | .streamIn b m => when (s.credited d .queue + ((s.brick b).edge.si.getD m []).length < 32)
  | .draw b => when (s.credited d .queue + (s.brick b).edge.dp.length < 4)
  | .param b => when (s.credited d .queue = 0 && (s.brick b).edge.pp.isNone)
  | .steer die c => when (s.credited d .queue + (s.sched die c).port.length < 4)
  | .coll _ | .ring _ => some .none
  | .bank .. => none
def State.accepts (s : State) (d : Dest) (t : Token) : Bool := (s.grant d t).isSome

/-- The brick at which a destination stands; an identifier of a steer port or a collective port names column 0, or course 0 and column 0 (R386). -/
def Dest.brick : Dest → Option BrickId
  | .input b _ | .streamIn b _ | .draw b | .param b | .bank b _ | .ring b => some b
  | .steer .. | .coll _ => none
def Dest.place : Dest → BrickId
  | .input b _ | .streamIn b _ | .draw b | .param b | .bank b _ | .ring b => b
  | .steer die c => BrickId.mk die c 0
  | .coll die => BrickId.mk die 0 0

/-- Distance of two coordinates. -/
def apart (a b : Nat) : Nat := (a - b) + (b - a)

/-- Latency over the course network or the die mesh (R182); the path between dies that the ring ports and the package ring give has no figure of its own, and one cycle stands for it (log 1). -/
def farLatency (a b : BrickId) : Nat :=
  if BrickId.die a ≠ BrickId.die b then 1
  else if BrickId.course a = BrickId.course b then 3 + apart (BrickId.col a / 8) (BrickId.col b / 8)
  else 4 + apart (BrickId.course a) (BrickId.course b) + apart (BrickId.col a) (BrickId.col b)

/-- Bricks joined by a neighbour link. -/
def adjacent (a b : BrickId) : Bool :=
  BrickId.die a = BrickId.die b && apart (BrickId.course a) (BrickId.course b) + apart (BrickId.col a) (BrickId.col b) = 1

/-- Ring order of the dies (R327). -/
def ringPlace (die : Nat) : Nat :=
  match die with
  | 2 => 3
  | 3 => 2
  | d => d
/-- Distance around a ring of n. -/
def ringApart (n a b : Nat) : Nat := min ((a + n - b) % n) ((b + n - a) % n)

/-- Latency of the first flit, at least: the climb to the lowest ring level that joins two bricks, the level, and the descent (R327). No rule says where on a bay ring the package level joins it: the model takes course 0 of the bay (log 1). -/
def frameLatency (a b : BrickId) : Nat :=
  let bayA := BrickId.course a / 8
  let bayB := BrickId.course b / 8
  let dieA := ringPlace (BrickId.die a)
  let dieB := ringPlace (BrickId.die b)
  if BrickId.die a = BrickId.die b && BrickId.course a = BrickId.course b then 2 + apart (BrickId.col a) (BrickId.col b)
  else if BrickId.die a = BrickId.die b && bayA = bayB then
    (2 + BrickId.col a) + (6 + 2 * apart (BrickId.course a) (BrickId.course b)) + (2 + BrickId.col b)
  else (2 + BrickId.col a) + (6 + 2 * (BrickId.course a % 8)) + (6 + 2 * (BrickId.course b % 8)) + (2 + BrickId.col b) + 8 + 4 * ringApart 32 (8 * dieA + bayA) (8 * dieB + bayB) + 40 * ringApart 4 dieA dieB

/-- The latency of the first network that applies (R176, R182): inputs alone have neighbour links, and a ring port is reached over the ring, with its figures (R327). -/
def latencyTo (a : BrickId) (d : Dest) : Nat :=
  let neighbour : Bool := match d with
    | .input b _ => adjacent a b
    | _ => false
  if d.brick = some a then 1
  else if neighbour then 2
  else match d with
    | .ring b => frameLatency a b
    | _ => farLatency a d.place

/-- A party wall: the router port that it is, and the global bay behind it (R418, R419). -/
structure Wall where
  port : Nat
  bay : Nat
  deriving DecidableEq, Repr

/-- The party wall on the X-then-Y path between two bricks (R418): the port, in the target's column, of the first bay boundary whose far side is not the tenancy's; for a brick of another die a port of the die's edge, in the column of the named brick (log 13). -/
def State.wallBetween (s : State) (t : Nat) (b c : BrickId) : Option Wall :=
  let from' := BrickId.bay b
  let to' := BrickId.bay c
  let col := BrickId.col c
  if BrickId.die b ≠ BrickId.die c then some { port := 2 ^ 20 + 64 * BrickId.die b + col, bay := to' }
  else
    let path := (List.range (apart from' to')).map fun i =>
      if from' ≤ to' then { port := 4096 * (from' + i) + 64 * (from' + i + 1) + col, bay := from' + i + 1 : Wall }
      else { port := 4096 * (from' - i) + 64 * (from' - i - 1) + col, bay := from' - i - 1 }
    path.find? fun w => !bit (s.tenancy t).cfg.toNat w.bay

/-- TAKING A WALL DROP (R418, R419): the count, LBAY, and the first record of the region at the wall. -/
def State.wallDrop (s : State) (b : BrickId) (w : Wall) : State :=
  let t := (s.brick b).tenancy
  let s := s.modTenancy t fun x => { x with drops := min (x.drops + 1) (2 ^ 32 - 1), lbay := w.bay }
  match (s.brick b).region with
  | none => s
  | some g =>
    if (s.slot g).walls.contains w.port then s
    else (s.modSlot g fun x => { x with walls := x.walls ++ [w.port] }).noteAt b { code := 0x11, detail := w.bay, data := (s.tenancy t).drops }

/-- The wall that drops a channel token on its path (R182, R418); no rule says where on the die the collective port lies, and no wall stands before it (log 13), and the ring crosses none. -/
def State.channelWall (s : State) (src : BrickId) (d : Dest) : Option Wall :=
  match d with
  | .coll _ | .ring _ => none
  | _ => if BrickId.die src = BrickId.die d.place then s.wallBetween (s.brick src).tenancy src d.place else none

/-- A token leaves `src` for a destination and can enter at the end of the cycle `n` cycles on, in the place granted to it; a wall drops it and returns its credit at once (R418). -/
def State.launchIn (s : State) (n : Nat) (src : BrickId) (port : Nat) (d : Dest) (t : Token) : State :=
  match s.channelWall src d with
  | some w => s.wallDrop src w
  | none =>
    { s.sent src 1 with
      flights := s.flights ++ [{ tok := t, src, port, dest := d, due := s.now + n + 1, credit := (s.grant d t).getD .queue }] }

/-- A token leaves a brick over the network that its destination asks for. -/
def State.launch (s : State) (src : BrickId) (port : Nat) (d : Dest) (t : Token) : State := s.launchIn (latencyTo src d) src port d t

/-! Watches, the gutter and the queue -/

/-- Watches whose count is reached set their predicate, once it is not pending (R73, R263). -/
def Brick.settleWatches (x : Brick) : Brick :=
  (List.range 4).foldl (fun x ch =>
    match (x.input ch).watch with
    | some w =>
      if !w.fired && w.target ≤ w.seen && !x.pending w.pred then
        (x.modInput ch fun i => { i with watch := some { w with fired := true } }).wake
          |> fun x => { x with pval := setBit8 x.pval w.pred true, predTs := modifyAt (fun _ => w.ts) w.pred x.predTs }
      else x
    | none => x) x

/-- A gutter's entry k, counted from its head: byte address (R185). -/
def Gutter.addr (g : Gutter) (k : Nat) : Nat := g.off + 16 * ((g.head + k) % g.capacity)

/-- Append an entry to a channel: to the gutter's tail while it is non-empty or the queue is full (R186). -/
def Brick.enqueue (x : Brick) (ch : Nat) (t : Token) : Brick :=
  let i := x.input ch
  match i.gutter with
  | some g =>
    if g.count = 0 && 0 < i.queueFree then x.modInput ch fun i => { i with queue := i.queue ++ [t] }
    else (x.store (g.addr g.count) (leBytes 8 t.pay.toNat ++ leBytes 8 t.tag.code)).modInput ch fun i =>
      { i with gutter := some { g with count := g.count + 1, notes := g.notes ++ [(t.cls, t.ts, t.rng)] } }
  | none => x.modInput ch fun i => { i with queue := i.queue ++ [t] }

/-- `bsr.over` after n more tokens dropped, on channel `ch` where one is named (R264). -/
def overAfter (v : Word) (ch : Option Nat) (n : Nat) : Word :=
  let words := min (v.toNat % 2 ^ 32 + n) (2 ^ 32 - 1)
  let chs := v.toNat / 2 ^ 32 % 16 ||| (match ch with
    | some c => 2 ^ c
    | none => 0)
  BitVec.ofNat 64 (chs * 2 ^ 32 + words)

/-- A dropped token is counted, and the first one under a watch or a run is reported OVERCOUNT (R263, R402). -/
def State.overcount (s : State) (b : BrickId) (ch : Option Nat) (detail : Nat) (first : Bool) : State :=
  let s := s.modBrick b fun x => { x with overBsr := overAfter x.overBsr ch 1 }
  if first then s.noteAt b { code := 0x10, detail, data := (s.brick b).overBsr.toNat } else s

/-- A token enters an input (R186, R263). -/
def State.arriveInput (s : State) (b : BrickId) (ch : Nat) (t : Token) : State :=
  let x := s.brick b
  match (x.input ch).watch with
  | some w =>
    if w.drops t then
      (s.modBrick b fun x => x.modInput ch fun i => { i with watch := some { w with overSent := true } }).overcount b (some ch) ch !w.overSent
    else if w.counts t && w.seen < w.target then
      s.modBrick b fun x =>
        (((x.enqueue ch t).modInput ch fun i =>
          { i with watch := some { w with seen := w.seen + 1, ts := max w.ts t.ts } }).settleWatches).wake
    else s.modBrick b fun x => (x.enqueue ch t).wake
  | none => s.modBrick b fun x => (x.enqueue ch t).wake

/-- A token reaches its destination. A brick that has wept by order discards it (R191); the parameter port takes it by PARAM_PORT_TAKE, the collective port by GATEWAY_CONTRIBUTION; the ring port keeps it (log 13). -/
def State.arrive (s : State) (f : Flight) : State :=
  if s.discards f.dest then s
  else match f.dest with
  | .input b ch => s.arriveInput b ch f.tok
  | .streamIn b m => s.modBrick b fun x =>
      { x with edge := { x.edge with si := modifyAt (· ++ [f.tok]) m x.edge.si } }
  | .draw b => s.modBrick b fun x => { x with edge := { x.edge with dp := x.edge.dp ++ [f.tok] } }
  | .steer die c => s.modSched die c fun q => { q with port := q.port ++ [f.tok] }
  | .coll die => s.modGateway die fun g => { g with port := g.port ++ [(f.src, f.tok)] }
  | .ring b => s.modBrick b fun x => { x with ringPort := x.ringPort ++ [f.tok] }
  | .param _ | .bank .. => s

/-- Source numbers from here on name a footing engine, whose tokens keep one order whichever brick asked for them (R363). -/
def enginePort : Nat := 200

/-- No earlier token of the same source port is still on its way to the same destination (R183). -/
def firstOfItsPath (fs : List Flight) (n : Nat) (f : Flight) : Bool :=
  (fs.take n).all fun g => !((g.src = f.src || enginePort ≤ f.port) && g.port = f.port && g.dest = f.dest)

/-- A place is there for the token; an input that holds returns may still have to refill (R186). -/
def State.placeFor (s : State) (f : Flight) : Bool :=
  s.discards f.dest || match f.dest with
  | .input b ch => let x := s.brick b; (x.input ch).drops f.tok || 0 < (x.input ch).places
  | .param _ => false
  | _ => true

/-- A token comes to its destination in this cycle (R182, R183). -/
def State.arrivalDue (s : State) (n : Nat) (f : Flight) : Bool := f.due ≤ s.now && firstOfItsPath s.flights n f && s.placeFor f
/-- A token comes to a brick in this cycle. -/
def State.arriving (s : State) (b : BrickId) : Bool := s.flights.zipIdx.any fun (f, n) => f.dest.place = b && s.arrivalDue n f

/-- TOKEN_ARRIVAL (R183, R186, R263). -/
def execTokenArrival (n : Nat) (s : State) : Outcome :=
  match s.flights[n]? with
  | none => .next s
  | some f =>
    stepWhen (s.arrivalDue n f) s
      (({ s with flights := removeAt n s.flights }.arrive f).rcvd f.src 1)

/-- The heads of a brick's inputs, as a trap record takes them. -/
def Brick.headSnap (x : Brick) : List (Option Token) := x.inputs.map fun i => i.queue.head?

/-- A gutter's entry k, counted from its head, as a token (R185). -/
def Gutter.token (g : Gutter) (bank : List Host.Cell) (k : Nat) : Token :=
  let n := g.notes.getD k (none, 0, 0)
  { tag := Tag.ofCode (leValue (cellsRead bank (g.addr k + 8) 1) % 4), pay := BitVec.ofNat 64 (leValue (cellsRead bank (g.addr k) 8)), cls := n.1, ts := n.2.1, rng := n.2.2 }

/-- The gutter's head entry as a token. -/
def Brick.gutterHead (x : Brick) (g : Gutter) : Token :=
  g.token x.bank 0

/-- The brick traps ECCU for a gutter once every firing in flight has committed, and no trap arises while VALID is 1 (R89, R187). -/
def Brick.gutterTraps (x : Brick) (g : Gutter) : Bool := g.trap.isSome && x.firings.all (·.committed) && !x.trapValid

/-- GUTTER_REFILL (R186, R187): an entry moves to the queue; an uncorrectable word stops the gutter and the picker, and then the brick traps ECCU. -/
def execGutterRefill (b : BrickId) (ch : Nat) (s : State) : Outcome :=
  let x := s.brick b
  match (x.input ch).gutter with
  | none => .next s
  | some g =>
    let a := g.addr 0
    let enabled : Bool := 0 < g.count && !g.stopped && 0 < (x.input ch).queueFree
    let put (g : Gutter) : State := s.modBrick b fun x => x.modInput ch fun i => { i with gutter := some g }
    if g.trap.isSome then
      stepWhen (x.gutterTraps g) s ((put { g with trap := none }).takeTrap b 0x06 (g.trap.getD 0) 0 0 0 0 x.headSnap)
    else if x.wordUe (a / 8) || x.wordUe (a / 8 + 1) then
      stepWhen enabled s ((put { g with stopped := true, trap := some (a / 4096) }).modBrick b fun x => x.setPick false)
    else
      stepWhen enabled s (s.modBrick b fun x =>
        (x.modInput ch fun i =>
          { i with
            queue := i.queue ++ [x.gutterHead g]
            gutter := some { g with head := (g.head + 1) % g.capacity, count := g.count - 1, notes := g.notes.drop 1 } }).wake)

/-! Forwarding (R183, R184) -/

/-- A port by its name, and the number its tokens carry as their source. -/
def State.portOf (s : State) : PortRef → Port
  | .out b n => (s.brick b).out n
  | .so b n => (s.brick b).edge.so.getD n {}
def PortRef.source : PortRef → BrickId × Nat
  | .out b n => (b, n)
  | .so b n => (b, 8 + n)
def State.setPort (s : State) (r : PortRef) (p : Port) : State :=
  match r with
  | .out b n => s.modBrick b fun x => { x with outs := modifyAt (fun _ => p) n x.outs }
  | .so b n => s.modBrick b fun x => { x with edge := { x.edge with so := modifyAt (fun _ => p) n x.edge.so } }

/-- A firing in flight or a committed FIN, which has to complete before the capture (R340, R388, R389), still has tokens for an output port that has no room for one. -/
def Brick.completesThrough (x : Brick) (p : Nat) : Bool :=
  x.room p = 0 && (x.firings.any (fun f => f.port = some p && f.unissued) || x.docks.any fun d => match d.st with
    | .finishing q _ _ => q = p
    | _ => false)

/-- The wave has come to a brick's engines: an immediate one with its SETW message, a round-edge one once every brick has stopped (R389, R390). -/
def State.waveCame (s : State) (b : BrickId) : Bool :=
  match (s.brick b).region with
  | none => false
  | some g =>
    match (s.slot g).wave with
    | none => false
    | some w => if w.target.isNone then (s.brick b).wave = .stopped else (s.slot g).bricks.all fun c => (s.brick c).wave = .stopped

/-- A port's skid buffer and hold registers forward nothing more since the wave's arrival (R78, R389), unless a firing or a FIN could not otherwise complete (log 19). -/
def State.frozen (s : State) (r : PortRef) : Bool :=
  s.waveCame (PortRef.source r).1 && match r with
    | .out b p => !(s.brick b).completesThrough p
    | .so .. => true

/-- Entries retire in order once every branch has taken them (R184). -/
def Port.retire (p : Port) : Port := { p with skid := p.skid.dropWhile fun e => e.forked && e.todo.isEmpty }

/-- The brick is wept once its WEEPs have left its skid buffers (R191). -/
def Brick.settleWeep (x : Brick) : Brick :=
  if x.weep = .weeping && (x.outs.all fun p => p.skid.all fun e => !e.tok.isWeep) &&
      (x.firings.all fun f => f.wbs.all fun w => w.port.isNone) then { x with weep := .wept } else x

/-- Entry k's copy for one branch leaves for its destination. -/
def State.sendBranch (s : State) (r : PortRef) (k branch : Nat) : State :=
  let p := s.portOf r
  match p.skid[k]?, p.route[branch]? with
  | some e, some d =>
    (s.launch (PortRef.source r).1 (PortRef.source r).2 d e.tok).setPort r
      { p with skid := modifyAt (fun e => { e with todo := e.todo.filter (· ≠ branch) }) k p.skid }
  | _, _ => s

/-- An entry's copy for a branch may leave: no earlier entry still waits for that branch, and the destination accepts it. -/
def State.branchOpen (s : State) (r : PortRef) (k branch : Nat) : Bool :=
  let p := s.portOf r
  (p.skid.take k).all (fun e => !e.todo.contains branch) &&
  match p.skid[k]?, p.route[branch]? with
  | some e, some d => s.accepts d e.tok
  | _, _ => false

/-- Some copy of a port's entries may leave now. -/
def State.mayForward (s : State) (r : PortRef) : Bool :=
  let p := s.portOf r
  (List.range p.skid.length).any fun k => (List.range p.route.length).any fun br =>
    (match p.skid[k]? with
      | some e => e.todo.contains br
      | none => false) && s.branchOpen r k br

/-- After a branch has left: retire, free the room, and see whether the brick is wept. -/
def State.retirePort (s : State) (r : PortRef) : State :=
  (s.setPort r (s.portOf r).retire).modBrick (PortRef.source r).1 fun x => x.settleWeep.wake

/-- TOKEN_FORWARD (R183, R184): the oldest entry that has not forked forks; each branch that cannot take it keeps it in its hold register. -/
def execTokenForward (p : PortRef) (s : State) : Outcome :=
  match (s.portOf p).skid.findIdx? fun e => !e.forked with
  | none => .next s
  | some k =>
    let branches := ((s.portOf p).skid.getD k { tok := dataToken 0, todo := [] }).todo
    let t := branches.foldl (fun s br => if s.branchOpen p k br then s.sendBranch p k br else s) s
    let q := t.portOf p
    stepWhen (!s.frozen p) s
      ((t.setPort p { q with skid := modifyAt (fun e => { e with forked := true }) k q.skid }).retirePort p)

/-- BRANCH_HOLD_DELIVER (R184): the oldest copy that a branch holds leaves when space appears. -/
def execBranchHoldDeliver (p : PortRef) (branch : Nat) (s : State) : Outcome :=
  match (s.portOf p).skid.findIdx? fun e => e.forked && e.todo.contains branch with
  | none => .next s
  | some k => stepWhen (!s.frozen p && s.branchOpen p k branch) s ((s.sendBranch p k branch).retirePort p)

/-! Alignment and weeping (R188-R191) -/

/-- A brick whose round a round-edge wave waits for stops once it has reached it (R390). -/
def Brick.reachRound (x : Brick) : Brick :=
  match x.wave with
  | .target t => if x.round = t then { x.setPick false with wave := .stopped, picked := x.pick, life := .draining } else x
  | _ => x

/-- Remove the heads of connected inputs that satisfy p. -/
def Brick.dequeueHeads (x : Brick) (p : Token → Bool) : Brick :=
  { x with inputs := x.inputs.map fun i =>
      match i.connected, i.queue with
      | true, t :: q => if p t then { i with queue := q } else i
      | _, _ => i }

/-- BRICK_ALIGN (R188). -/
def Brick.align (x : Brick) : Brick :=
  let round := (x.round + 1) % 2 ^ 48
  let y := (x.dequeueHeads Token.isMark).pushConnected (markToken round)
  ({ y with round, edge := { y.edge with pp := y.edge.pp.map fun (p : Token × Bool) => (p.1, true) } }.reachRound).wake
def execBrickAlign (b : BrickId) (s : State) : Outcome :=
  stepWhen (alignReady s.now (s.brick b)) s (s.modBrick b fun x => { x.align with barrierAt := s.now + 1, roundAt := s.now })

/-- The steps of a weep (R191). -/
def Brick.doWeep (x : Brick) (gen : Nat) (heads : Bool) : Brick :=
  let y := if heads then x.dequeueHeads Token.isWeep else x
  ({ (y.setPick false).pushConnected (weepToken gen) with weep := .weeping }).settleWeep

/-- BRICK_WEEP (R191): every head is a WEEP, or the controller has ordered it and no firing is in flight. -/
def execBrickWeep (b : BrickId) (s : State) : Outcome :=
  let x := s.brick b
  let ordered : Bool := x.weep = .ordered && x.firings.isEmpty && x.outputsHaveRoom
  if ordered then .next (s.modBrick b fun x => x.doWeep (s.regionGen x) false)
  else stepWhen (weepReady s.now x) s (s.modBrick b fun x => x.doWeep (s.regionGen x) true)

/-- REGION_ROUND_UPDATE (R381): the least round of the region's bricks. -/
def State.leastRound (s : State) (g : RegionId) : Nat :=
  match (s.slot g).bricks with
  | [] => 0
  | b :: bs => bs.foldl (fun n c => min n (s.brick c).round) (s.brick b).round
def execRegionRoundUpdate (r : RegionId) (s : State) : Outcome :=
  let s' := s.modSlot r fun x => { x with round := s.leastRound r }
  stepWhen ((s.slot r).active && (s.slot r).round ≠ s.leastRound r) s ((s.slot r).bricks.foldl (fun s b => s.modBrick b Brick.wake) s')

end Sys2Proof.Machine
end

