-- ==== Sys2Proof/Machine/Loft.lean ====
section
/-! DEFINITION. Physical memory behind the loft: the physical map (R230, R231), loft lines with their masks and timestamps (R232-R235, R269), encryption between slice and stack (R429), the fills of their sectors with refresh and deadlines (R235-R237, R281), and the global requests that wait for them (R245-R249). -/

namespace Sys2Proof.Machine

open Sys2Proof

/-! The physical map (R230, R231) -/

def bayBytes : Nat := 24 * 2 ^ 30
def bayOf (pa : Nat) : Nat := pa / bayBytes
/-- The table reserve: the top 64 MiB of a bay range. -/
def inReserve (pa : Nat) : Bool := bayBytes - 2 ^ 26 ≤ pa % bayBytes
/-- Pseudo-channel of the bay, 0 to 23. -/
def bayChannel (pa : Nat) : Nat := pa % bayBytes / 256 % 24
def stackOf (pa : Nat) : Nat := 3 * (bayOf pa / 8) + bayChannel pa % 3
def channelOfPa (pa : Nat) : Nat := 8 * (bayOf pa % 8) + bayChannel pa / 3

/-- The live tenancy that holds a bay (R411). -/
def State.bayTenancy (s : State) (bay : Nat) : Option Nat :=
  (s.tenancies.find? fun e => bit e.2.cfg.toNat 63 && bit e.2.cfg.toNat bay).map (·.1)

/-- The XTS key of a line: the tenancy's, or the device key in a table reserve (R429, log 3). -/
def State.lineKey (s : State) (ln : Nat) : BitVec 512 :=
  if inReserve (64 * ln) then Config.deviceKey
  else match s.bayTenancy (bayOf (64 * ln)) with
    | some t => (s.tenancy t).xts
    | none => 0

/-- What the loft holds of a line as what HBM stores, and back (R233, R428, R429). -/
def State.toStored (s : State) (ln : Nat) (weights : Bool) (l : List Byte) : List Byte :=
  if weights then l else xtsLine true (s.lineKey ln) ln l
def State.fromStored (s : State) (ln : Nat) (weights : Bool) (l : List Byte) : List Byte :=
  if weights then l else xtsLine false (s.lineKey ln) ln l

/-- A line as the stack holds it, decrypted. -/
def State.stackLine (s : State) (ln : Nat) (weights : Bool) : List Byte :=
  s.fromStored ln weights (cellsRead s.hbm (64 * ln) 64)

/-- The stack that holds a line has tripped (R408). -/
def State.lineTripped (s : State) (ln : Nat) : Bool := (s.stack (stackOf (64 * ln))).tripped

/-- An 8 B word of a stack is uncorrectable: marked so, or its stack has tripped (R235, R408). -/
def State.stackUe (s : State) (word : Nat) : Bool := s.hbmUe.contains word || (s.stack (stackOf (8 * word))).tripped

/-! Loft lines (R232-R235) -/

def emptyLine : LoftLine := { valid := 0, mask := 0, data := List.replicate 64 0, ue := 0, wts := 0, rts := 0 }
def State.line (s : State) (ln : Nat) : LoftLine := s.loft.getD ln emptyLine
def State.setLine (s : State) (ln : Nat) (l : LoftLine) : State := { s with loft := s.loft.set ln l }

/-- A line is in the loft. -/
def LoftLine.present (l : LoftLine) : Bool := l.valid ≠ 0 || l.mask ≠ 0
/-- The loft holds byte j of the line. -/
def LoftLine.has (l : LoftLine) (j : Nat) : Bool := l.valid.getLsbD (j / 32) || l.mask.getLsbD j
/-- All eight bytes of word w are written. -/
def LoftLine.covers (l : LoftLine) (w : Nat) : Bool := (l.mask.toNat >>> (8 * w)) % 256 = 255
/-- Some byte of word w is written. -/
def LoftLine.touches (l : LoftLine) (w : Nat) : Bool := (l.mask.toNat >>> (8 * w)) % 256 ≠ 0

/-- Word w of the line is uncorrectable where it would be read. DEDUCED (log 18): a dirty line of a stack that has tripped cannot be written back and stays so marked as a whole from the trip on, while a clean one is served (R408). -/
def State.wordBad (s : State) (ln w : Nat) : Bool :=
  let l := s.line ln
  if s.lineTripped ln && l.mask ≠ 0 then true
  else if l.valid.getLsbD (w / 4) then l.ue.getLsbD w else !l.covers w && (l.ue.getLsbD w || s.stackUe (8 * ln + w))

/-- Words of a line that n bytes at pa touch. -/
def wordsOf (pa n : Nat) : List Nat := (List.range 8).filter fun w => 8 * w < pa % 64 + n && pa % 64 < 8 * w + 8

/-- n bytes at pa touch a word that is uncorrectable. -/
def State.rangeBad (s : State) (pa n : Nat) : Bool := (wordsOf pa n).any (s.wordBad (pa / 64))

/-- The 64 bytes of a line: the loft's where it has them, the stack's elsewhere. -/
def State.lineBytes (s : State) (ln : Nat) (weights : Bool) : List Byte :=
  let l := s.line ln
  if (List.range 64).all l.has then l.data
  else
    let m := s.stackLine ln weights
    (List.range 64).map fun j => if l.has j then l.data.getD j 0 else m.getD j 0

/-- The set of a line: its bay and address bits [17:6] (R232). -/
def sameSet (a b : Nat) : Bool := bayOf (64 * a) = bayOf (64 * b) && a % 4096 = b % 4096

/-- Ways of a line's set in service (R407). -/
def State.ways (s : State) (ln : Nat) : Nat :=
  16 - (s.keystone.disabledWays.filter fun w => w.1 = bayOf (64 * ln) && w.2.1 = ln % 4096).length

/-! Refresh and commands of a pseudo-channel (R237, R238) -/

/-- Refresh interval and blocking time, which are fixed in time (R9, R237): 3,900 ns, 1,950 ns when doubled, and 260 ns, the latter in units of time. -/
def State.refreshNs (s : State) (stack : Nat) : Nat := if (s.stack stack).doubled then 1950 else 3900
def refreshBlock : Nat := 260 * unitsPerNs

/-- Time since the last start of a refresh of a pseudo-channel, in units of time; the phases of one stack's channels differ (R237, log 8). Since the interval last changed, `grid` gives what had elapsed then. -/
def State.refreshElapsed (s : State) (stack pc : Nat) : Nat :=
  let x := s.stack stack
  let i := s.refreshNs stack
  match x.grid.2[pc]? with
  | some e => (e + (s.time - x.grid.1)) % (i * unitsPerNs)
  | none =>
    let phase := (Config.refreshPhase stack 0 % i + pc * (i / 64)) % i
    (s.time + (i - phase) * unitsPerNs) % (i * unitsPerNs)

/-- The cycle of that start. -/
def State.refreshStart (s : State) (stack pc : Nat) : Nat := s.now - s.refreshElapsed stack pc / s.cycleUnits

/-- The pseudo-channel is in a refresh. -/
def State.refreshBusy (s : State) (stack pc : Nat) : Bool :=
  s.refreshElapsed stack pc < refreshBlock || (s.stack stack).refreshing.any fun p => p.1 = pc

/-- Cycles until the refresh of a line's pseudo-channel ends. -/
def State.refreshLeft (s : State) (ln : Nat) : Nat :=
  (refreshBlock - s.refreshElapsed (stackOf (64 * ln)) (channelOfPa (64 * ln)) + s.cycleUnits - 1) / s.cycleUnits

/-- Cycles that requests waited for a refresh are counted (R237). -/
def State.addStall (s : State) (stack n : Nat) : State := s.modStack stack fun x => { x with stall := min (x.stall + n) (2 ^ 48 - 1) }

/-- The shortest time between two commands of a pseudo-channel of a throttled stack: 2 cycles at 2.7 GHz, fixed in time (R9, R238). -/
def commandSpacing : Nat := 2 * (10 * unitsPerNs / 27)

/-- A pseudo-channel of a throttled stack issues at most one command every 2 cycles (R238). -/
def State.commandFree (s : State) (stack pc : Nat) : Bool :=
  !(s.stack stack).throttled || (s.stack stack).issued.all fun p => p.1 ≠ pc || p.2 + commandSpacing ≤ s.time

/-- A pseudo-channel issues a command; one of a step that does not wait takes the next time that the spacing leaves it (log 1). -/
def State.command (s : State) (stack pc : Nat) : State :=
  let x := s.stack stack
  let at' := match x.issued.find? fun p => p.1 = pc with
    | some p => if x.throttled then max s.time (p.2 + commandSpacing) else s.time
    | none => s.time
  s.modStack stack fun x => { x with issued := (x.issued.filter fun p => p.1 ≠ pc) ++ [(pc, at')] }

/-- A deadline request that a pseudo-channel issued past its latest-service time (R236). -/
def State.addMiss (s : State) (pa : Nat) : State :=
  let u := UnitRef.hbm (stackOf pa) (channelOfPa pa)
  s.setUnit u { s.unit u with misses := (s.unit u).misses + 1 }

/-! Write-back and replacement (R232-R235) -/

/-- Write a dirty line back: its written bytes merge with the stack's, a word written whole takes fresh check bits, and one written in part keeps the stack's error (R235). The line leaves the loft; its timestamps stay (log 14). A dirty line whose stack has tripped stays (R408). -/
def State.writeBack (s : State) (ln : Nat) (drop : Bool) : State :=
  let l := s.line ln
  if s.lineTripped ln && l.mask ≠ 0 then s
  else
    let clear (w : Nat) : Bool := l.covers w && !l.ue.getLsbD w
    let bad := (List.range 8).filter fun w => l.touches w && l.ue.getLsbD w && !s.hbmUe.contains (8 * ln + w)
    let m := s.stackLine ln l.weights
    let merged := (List.range 64).map fun j => if l.mask.getLsbD j then l.data.getD j 0 else m.getD j 0
    let s' := if l.mask = 0 then s else
      { (s.addStall (stackOf (64 * ln)) (s.refreshLeft ln)).command (stackOf (64 * ln)) (channelOfPa (64 * ln)) with
        hbm := cellsWrite s.hbm (64 * ln) (s.toStored ln l.weights merged)
        hbmUe := (s.hbmUe.filter fun w => !(w / 8 = ln && clear (w % 8))) ++ bad.map (8 * ln + ·) }
    s'.setLine ln (if drop then { l with valid := 0, mask := 0, ue := 0, weights := false } else { l with mask := 0 })

/-- Lines of a line's set that take a way. -/
def State.setLines (s : State) (ln : Nat) : List Nat := (s.loft.filter fun e => e.2.present && sameSet e.1 ln).map (·.1)

/-- A line of the loft may leave it: no fill needs it, and it is clean or can be written back. -/
def State.canLeave (s : State) (v : Nat) : Bool := (s.fills.all fun f => f.sector / 2 ≠ v) && (!s.lineTripped v || (s.line v).mask = 0)

/-- Make room for a line in its set: R232 names no pseudo-LRU algorithm, and the victim is a free choice among the set's lines that no fill needs and that can be written back (log 8). -/
def State.makeRoom (s : State) (ln : Nat) : State :=
  let cand := s.setLines ln
  if (s.line ln).present || cand.length < s.ways ln then s
  else
    match cand.filter s.canLeave with
    | [] => s
    | v :: vs =>
      let (k, s) := s.draw
      s.writeBack ((v :: vs).getD (k % (vs.length + 1)) 0) true

/-- A line has a way, its own or a free one. -/
def State.hasRoom (s : State) (ln : Nat) : Bool := (s.line ln).present || (s.setLines ln).length < s.ways ln

/-- A write to a line may be performed: the line finds a way, or it goes to its stack at once, where no earlier read waits for a fill of it (R281). -/
def State.mayStore (s : State) (ln : Nat) : Bool :=
  s.hasRoom ln || (s.setLines ln).any s.canLeave || s.fills.all fun f => f.sector / 2 ≠ ln

/-- A line under a new content enters the loft; in a set with no way left it goes to its stack at once. -/
def State.putLine (s : State) (ln : Nat) (l : LoftLine) : State :=
  let t := s.makeRoom ln
  if t.hasRoom ln then t.setLine ln l else (t.setLine ln l).writeBack ln true

/-- Bytes of a line written at offset o, under the mask (R233). -/
def LoftLine.write (l : LoftLine) (o : Nat) (vs : List Byte) : LoftLine :=
  let mask := l.mask ||| BitVec.ofNat 64 ((2 ^ vs.length - 1) * 2 ^ o)
  let whole (w : Nat) : Bool := o ≤ 8 * w && 8 * w + 8 ≤ o + vs.length
  { l with
    mask
    data := (List.range 64).map fun j => if o ≤ j && j < o + vs.length then vs.getD (j - o) 0 else l.data.getD j 0
    ue := BitVec.ofNat 8 ((List.range 8).foldl (fun n w => if l.ue.getLsbD w && !whole w then n + 2 ^ w else n) 0) }

/-- Write bytes within one line through its home slice. -/
def State.writeLine (s : State) (pa : Nat) (vs : List Byte) (weights : Bool) : State :=
  s.putLine (pa / 64) { (s.line (pa / 64)).write (pa % 64) vs with weights }

/-- Pieces of a range of n bytes that lie in one line each: (address, length). -/
def linePieces : Nat → Nat → Nat → List (Nat × Nat)
  | 0, _, _ => []
  | fuel + 1, a, n =>
    if n = 0 then []
    else
      let k := min n (64 - a % 64)
      (a, k) :: linePieces fuel (a + k) (n - k)
def piecesOf (a n : Nat) : List (Nat × Nat) := linePieces (n / 64 + 2) a n

/-! Timestamps (R269) -/

/-- The lease of a tenancy (R272). -/
def State.lease (s : State) (t : Nat) : Nat := (s.tenancy t).lease

/-- A load's timestamp, and the line's `rts` after it. -/
def LoftLine.loadTs (l : LoftLine) (pts lease : Nat) : Nat × LoftLine :=
  let ts := max pts l.wts
  (ts, { l with rts := max l.rts (ts + lease) })
/-- A store's or an atomic's timestamp. -/
def LoftLine.storeTs (l : LoftLine) (pts : Nat) : Nat × LoftLine :=
  let ts := max pts (l.rts + 1)
  (ts, { l with wts := ts, rts := ts })

/-! Page-table entries (R223) and why an access fails (R225, R248) -/

def pteTen (e : Nat) : Nat := bits e 63 58
def pteKey (e : Nat) : Nat := bits e 57 50
def pteKw (e : Nat) : Bool := bit e 49
def pteDcls (e : Nat) : Bool := bit e 48
def pteFrame (e : Nat) : Nat := bits e 47 13 * 8192
def pteEng (e : Nat) : Nat := bits e 12 10
def pteW (e : Nat) : Bool := bit e 9
def pteFmt (e : Nat) : Nat := bits e 8 5
def pteGeo (e : Nat) : Nat := bits e 4 2
def pteLeaf (e : Nat) : Bool := bit e 1
def pteV (e : Nat) : Bool := bit e 0

/-- Why an access fails: a translation-fault cause of R225, an element that cannot be decoded, a misaligned atomic, an uncorrectable word, or a chunk that fails its tag (R248). -/
inductive Fail where
  | xlate (cause : Nat)
  | elem (cause : Nat)
  | align
  | memue
  | integ
  deriving DecidableEq, Repr

/-- The FAULT payload of R248. -/
def faultPayload (kind cause va : Nat) : Nat := 7 * 2 ^ 60 + kind % 16 * 2 ^ 56 + cause % 16 * 2 ^ 52 + bits va 53 3
def Fail.kind : Fail → Nat
  | .xlate _ => 1
  | .elem _ => 2
  | .align => 3
  | .memue => 4
  | .integ => 5
def Fail.cause : Fail → Nat
  | .xlate c | .elem c => c
  | _ => 0
def Fail.payload (f : Fail) (va : Nat) : Nat := faultPayload f.kind f.cause va

/-! Requests by number -/

def State.req (s : State) (n : Nat) : Option Req := s.reqs.find? fun r => r.id = n
def State.modReq (s : State) (n : Nat) (f : Req → Req) : State :=
  { s with reqs := s.reqs.map fun r => if r.id = n then f r else r }
def State.dropReq (s : State) (n : Nat) : State := { s with reqs := s.reqs.filter fun r => r.id ≠ n }

/-- Bytes that a request touches. -/
def Req.size (r : Req) : Nat :=
  match r.kind with
  | .load _ sz => 2 ^ sz
  | .store => r.data.length
  | .atomic _ w _ _ => w / 8
def Req.isStore (r : Req) : Bool := r.kind = .store
def Req.isLoad (r : Req) : Bool :=
  match r.kind with
  | .load .. => true
  | .store | .atomic .. => false
def Req.writes (r : Req) : Bool := !r.isLoad
/-- First and last 64 B line of a request. -/
def Req.lines (r : Req) : Nat × Nat := (r.va / 64, (r.va + r.size - 1) / 64)

/-- A request fails: a GLD or GAT returns a FAULT token, a GST raises GSTFAULT (R248). -/
def State.failReq (s : State) (r : Req) (f : Fail) (va : Nat) : State :=
  if r.isStore then
    ((s.dropReq r.id).rcvd r.brick 1).raiseAt r.brick { code := 0x02, detail := f.kind, data := f.payload va }
  else s.modReq r.id fun r => { r with stage := .done, fault := some (BitVec.ofNat 64 (f.payload va)) }

/-! Decoding loads (R247, R248) -/

/-- SZ of an element of a page format; 4-bit elements go by bytes. -/
def elemSz (fmt : Nat) : Nat :=
  match fmt with
  | 2 | 6 | 7 => 1
  | 3 | 5 => 2
  | 4 => 3
  | _ => 0

/-- Bytes of a MX32 unit before its scales, and elements' bytes per block (R138). -/
def mxData (fmt : Nat) : Nat := if fmt = 0xA then 7680 else 7936
def mxBlock (fmt : Nat) : Nat := if fmt = 0xA then 16 else 32
def mxBlocks (fmt : Nat) : Nat := if fmt = 0xA then 480 else 248
/-- Offset of the scale byte of the block that holds a byte of a unit. -/
def mxScale (fmt u : Nat) : Nat := mxData fmt + u / mxBlock fmt

/-- The ELEM cause of a decoding load, in the order 4, 3, 1, 2 (R248). -/
def elemCause (leaf va sz : Nat) : Option Nat :=
  let fmt := pteFmt leaf
  if fmt = 0 || fmt = 0xC then some 4
  else if pteGeo leaf = 1 && mxData fmt ≤ va % 8192 then some 3
  else if sz ≠ elemSz fmt then some 1
  else if va % 2 ^ sz ≠ 0 then some 2
  else none

/-- rne32 of an element's exact value, as bits. -/
def elem32 (fmt x scale : Nat) : Nat := fp32.enc (rne32 ((Fmt.ofPage fmt).decScaled x scale))

/-- The payload of a decoding load from the element's bytes and its scale code (R247); 0x7F where the page has no scales. -/
def decodeLoad (fmt raw scale : Nat) : Nat :=
  match fmt with
  | 1 => lowBits 64 (signed 8 raw)
  | 2 => lowBits 64 (signed 16 raw)
  | 3 => lowBits 64 (signed 32 raw)
  | 4 => raw
  | 0xA => elem32 0xA (raw % 16) scale + elem32 0xA (raw / 16 % 16) scale * 2 ^ 32
  | 0xB => lowBits 32 (signed 4 (raw % 16)) + lowBits 32 (signed 4 (raw / 16 % 16)) * 2 ^ 32
  | _ => elem32 fmt raw scale

/-- The leaf of a request's first page. -/
def Req.leaf (r : Req) : Nat := ((r.leaves.head?).map fun x => x.leaf.toNat).getD 0

/-- A decoding load that also reads a scale byte. -/
def Req.scaled (r : Req) : Bool :=
  match r.kind with
  | .load true _ => pteGeo r.leaf = 1
  | _ => false

/-- The result of a load whose parts are all read. -/
def Req.loadResult (r : Req) : Nat :=
  let got (ps : List Part) : Nat := leValue ((ps.flatMap (·.got)).map fun b => b.getD 0)
  match r.kind with
  | .load true _ =>
    if r.scaled then decodeLoad (pteFmt r.leaf) (got r.parts.dropLast) (got (r.parts.drop (r.parts.length - 1)))
    else decodeLoad (pteFmt r.leaf) (got r.parts) 0x7F
  | _ => got r.parts

/-- A load is done once every byte is there; an uncorrectable word gives MEMUE (R248). -/
def Req.settle (r : Req) : Req :=
  let ready : Bool := r.parts.all fun p => p.performed && p.got.all (·.isSome)
  match r.stage, r.kind with
  | .toLoft, .load .. =>
    if !ready then r
    else if r.parts.any (·.ue) then { r with stage := .done, fault := some (BitVec.ofNat 64 (Fail.memue.payload r.va)) }
    else { r with stage := .done, result := BitVec.ofNat 64 r.loadResult }
  | _, _ => r

/-! L1 copies (R204, R269) -/

/-- Lines of the L1 of an edge brick (R204). -/
def Brick.l1Lines (x : Brick) : Nat := ((List.range 16).filter fun g => x.part g = 2).length * 64

/-- The bytes of a line that its slice holds and can be read. -/
def State.readable (s : State) (ln : Nat) : BitVec 64 :=
  BitVec.ofNat 64 ((List.range 64).foldl (fun n j => if (s.line ln).has j && !s.wordBad ln (j / 8) then n + 2 ^ j else n) 0)

/-- An edge brick's L1 takes a copy of a line as its slice holds it now. -/
def State.refreshCopy (s : State) (e : BrickId) (t ln : Nat) : State :=
  let x := s.brick e
  if x.l1Lines = 0 then s
  else
    let l := s.line ln
    let c : L1Line := { line := ln, tenancy := t, data := l.data, bytes := s.readable ln, wts := l.wts, rts := l.rts }
    s.modBrick e fun x =>
      { x with edge := { x.edge with l1 := (c :: x.edge.l1.filter fun o => o.line ≠ ln || o.tenancy ≠ t).take x.l1Lines } }

/-- An owner's store to a line drops its own copy; copies of other edge bricks stay (R269). -/
def State.dropCopy (s : State) (e : BrickId) (t ln : Nat) : State :=
  s.modBrick e fun x => { x with edge := { x.edge with l1 := x.edge.l1.filter fun o => o.line ≠ ln || o.tenancy ≠ t } }

/-- An edge brick's L1 drops what it holds for a tenancy. -/
def State.dropCopies (s : State) (e : BrickId) (t : Nat) : State :=
  s.modBrick e fun x => { x with edge := { x.edge with l1 := x.edge.l1.filter fun o => o.tenancy ≠ t } }

/-! Fills (R233, R235-R237, R281) -/

/-- A read that meets words whose error HBM cannot correct is recorded once, at the stack's die, with the first such word's address; a tripped stack's own words are not recorded (R402, R408, log 19). The word weighs UEW in the window of the unit that holds it (R405). -/
def State.hbmUeRecord (s : State) (pa n : Nat) : State :=
  let a (w : Nat) : Nat := pa / 64 * 64 + 8 * w
  match (wordsOf pa n).find? fun w => s.hbmUe.contains (a w / 8) with
  | some w =>
    (s.writeRecord { code := 0x40, die := stackOf (a w) / 3, detail := stackOf (a w), count := channelOfPa (a w), data := a w }).meetBad
      (.hbm (stackOf (a w)) (channelOfPa (a w))) (a w)
  | none =>
    match (wordsOf pa n).find? fun w => (s.line (pa / 64)).ue.getLsbD w with
    | some w => s.meetBad (.loft (bayOf pa)) (a w)
    | none => s

/-- GAT's locked operation (R249). -/
def State.atomicPart (s : State) (r : Req) (p : Part) (op w v y : Nat) : State :=
  let ln := p.pa / 64
  if s.rangeBad p.pa p.len then (s.hbmUeRecord p.pa p.len).failReq r .memue r.va
  else
    let old := leValue (((s.lineBytes ln false).drop (p.pa % 64)).take p.len)
    let s := s.writeLine p.pa (leBytes p.len (atomicOp op w old v y)) false
    let (ts, l) := (s.line ln).storeTs r.pts
    ((s.setLine ln l).dropCopy r.owner r.tenancy ln).modReq r.id fun r => { r with stage := .done, result := BitVec.ofNat 64 old, ts }

/-- A GAT has taken its place at a line and waits for a fill: no later access to the line goes before it (R281). -/
def State.lineLocked (s : State) (ln : Nat) : Bool :=
  s.reqs.any fun r => !r.isLoad && !r.isStore && r.stage = .toLoft && r.parts.any fun p => p.performed && p.pa / 64 = ln

/-- Ask the pseudo-channel for a sector, once; the deadline class of any of its readers counts (R233, R236). -/
def State.askFill (s : State) (t sector : Nat) (dcl : Bool) : State :=
  let latest := if dcl then some (s.now + (s.tenancy t).dlwin) else none
  if s.fills.any fun f => f.sector = sector then
    { s with fills := s.fills.map fun f =>
        if f.sector ≠ sector then f
        else { f with latest := match f.latest, latest with
          | some a, some b => some (min a b)
          | none, b => b
          | a, none => a } }
  else { s with fills := s.fills ++ [{ sector, arrived := s.now, latest }] }

/-- The sectors of a part that still miss bytes. -/
def State.missingSectors (s : State) (pa n : Nat) : List Nat :=
  (((List.range n).map (pa + ·)).filter fun a => !(s.line (a / 64)).has (a % 64)).map (· / 32) |>.eraseDups

/-- A sector as its stack holds it, with its uncorrectable words. -/
def State.sectorData (s : State) (sector : Nat) : List Byte × Nat :=
  let ln := sector / 2
  (((s.stackLine ln (s.line ln).weights).drop (sector % 2 * 32)).take 32,
   (List.range 4).foldl (fun n w => if s.stackUe (4 * sector + w) then n + 2 ^ w else n) 0)

/-- A load's part takes the bytes it lacks from a filled sector. -/
def Part.fill (sector : Nat) (data : List Byte) (ue : Nat) (p : Part) : Part :=
  if p.performed && p.pa / 64 = sector / 2 then
    let fresh := (List.range p.len).filter fun j => (p.pa + j) / 32 = sector && (p.got.getD j none).isNone
    { p with
      got := (List.range p.len).map fun j => if fresh.contains j then some (data.getD ((p.pa + j) % 32) 0) else p.got.getD j none
      ue := p.ue || fresh.any fun j => bit ue ((p.pa + j) % 32 / 8) }
  else p

/-- A line with a sector that its fill has brought: the masked bytes stay (R281). -/
def LoftLine.filled (l : LoftLine) (h : Nat) (data : List Byte) (ue : Nat) : LoftLine :=
  { l with
    valid := l.valid ||| BitVec.ofNat 2 (1 <<< h)
    ue := l.ue ||| BitVec.ofNat 8 ((List.range 4).foldl (fun n w => if bit ue w && !l.covers (4 * h + w) then n + 2 ^ (4 * h + w) else n) 0)
    data := (List.range 64).map fun j => if j / 32 = h && !l.mask.getLsbD j then data.getD (j % 32) 0 else l.data.getD j 0 }

/-- A request whose part a sector completes. -/
def Req.awaits (sector : Nat) (r : Req) : Bool :=
  r.stage = .toLoft && r.parts.any fun p => p.performed && p.pa / 64 = sector / 2 &&
    (!r.isLoad && p.pa / 32 = sector || (List.range p.len).any fun j => (p.pa + j) / 32 = sector && (p.got.getD j none).isNone && r.isLoad)

/-- A sector's fill arrives (R281): the line takes it, the loads that wait take the bytes they lack, their owners' L1 copies follow, and a GAT that waits is performed. A set with no way left keeps no line of it. -/
def State.fillDone (s : State) (sector : Nat) (data : List Byte) (ue : Nat) : State :=
  let ln := sector / 2
  let waiting := s.reqs.filter (Req.awaits sector)
  let met := waiting.flatMap fun r => if r.isLoad then r.parts.filter fun p => !p.ue && (Part.fill sector data ue p).ue else []
  let s := met.foldl (fun s p =>
    s.hbmUeRecord (max p.pa (32 * sector)) (min (p.pa + p.len) (32 * sector + 32) - max p.pa (32 * sector))) s
  let s := { s with
    fills := s.fills.filter fun f => f.sector ≠ sector
    reqs := s.reqs.map fun (r : Req) => if r.isLoad then ({ r with parts := r.parts.map (Part.fill sector data ue) }).settle else r }
  let s := s.putLine ln ((s.line ln).filled (sector % 2) data ue)
  waiting.foldl (fun s r =>
    match r.kind, r.parts.find? fun p => p.pa / 32 = sector with
    | .atomic op w v y, some p => s.atomicPart r p op w v y
    | .load .., _ => if (s.line ln).present then s.refreshCopy r.owner r.tenancy ln else s
    | _, _ => s) s

/-- Cycles that a waiting fill has waited for a refresh of its pseudo-channel that is in progress (R237). -/
def State.fillWait (s : State) (f : Fill) : Nat :=
  match (s.stack (stackOf (32 * f.sector))).refreshing.find? fun p => p.1 = channelOfPa (32 * f.sector) with
  | some (_, start) => if f.served.isNone then s.now - max f.arrived start else 0
  | none => 0

/-- The fill of a sector that waits past its latest-service time (R236). -/
def State.fillLate (s : State) (sector : Nat) : Bool :=
  s.fills.any fun f => f.sector = sector && f.served.isNone && match f.latest with
    | some t => t < s.now
    | none => false

/-- A sector comes in at once for an access that is one step, and for the fill of it that may wait: the cycles that a refresh holds them are counted, and a deadline request that is held past its window is a miss (R236, R237, log 1). -/
def State.fillNow (s : State) (t sector : Nat) (dcl weights : Bool) : State :=
  let ln := sector / 2
  let waited := ((s.fills.filter fun f => f.sector = sector).map s.fillWait).foldl (· + ·) 0
  let miss : Bool := s.fillLate sector || (dcl && (s.tenancy t).dlwin < s.refreshLeft ln)
  let s := s.addStall (stackOf (64 * ln)) (s.refreshLeft ln + waited)
  let s := if miss then s.addMiss (64 * ln) else s
  let s := s.command (stackOf (64 * ln)) (channelOfPa (64 * ln))
  let s := if (s.line ln).present then s else s.setLine ln { s.line ln with weights }
  let (data, ue) := s.sectorData sector
  s.fillDone sector data ue

/-- What waits at a line ahead of an access that is one step is performed first (R281), also where a write of it would find no way. -/
def State.settleLine (s : State) (t ln : Nat) : State :=
  if s.lineLocked ln || !s.mayStore ln then ((s.fills.filter fun f => f.sector / 2 = ln).map (·.sector)).foldl (fun s x => s.fillNow t x false false) s else s

/-- The slice holds n bytes at pa, which lie in one line. -/
def State.fetchLine (s : State) (t pa n : Nat) (dcl weights : Bool) : State :=
  let s := s.settleLine t (pa / 64)
  (s.missingSectors pa n).foldl (fun s x => s.fillNow t x dcl weights) s

end Sys2Proof.Machine
end

