-- ==== Sys2Proof/Machine/Memory.lean ====
section
/-! DEFINITION. Translation (R221-R229) and the accesses of the engine classes (R274), with the flashing units (R428). -/

namespace Sys2Proof.Machine

open Sys2Proof

/-- An access that an engine makes as one step: its class and tenancy, its timestamp floor (R277), the region it serves, the edge brick whose TLB and flashing unit it uses (R243), and whether its engine marks it for the deadline class (R236). -/
structure Access where
  cls : EngClass
  tenancy : Nat
  floor : Nat := 0
  region : Option RegionId := none
  via : Option BrickId := none
  dcl : Bool := false
  deriving DecidableEq, Repr

/-- The access carries the deadline class of its engine or of its region's MODES (R236, R382). -/
def State.deadline (s : State) (q : Access) : Bool :=
  q.dcl || match q.region with
    | some g => bit (s.slot g).modes 6
    | none => false

/-! Page tables (R222-R225) -/

/-- Index of a virtual address at a level, and the bytes a leaf of that level maps. -/
def levelIndex (va level : Nat) : Nat :=
  match level with
  | 0 => bits va 53 43
  | 1 => bits va 42 33
  | 2 => bits va 32 23
  | _ => bits va 22 13
def leafBits (level : Nat) : Nat :=
  match level with
  | 0 => 43
  | 1 => 33
  | 2 => 23
  | _ => 13

/-- Format and geometry codes that a page may pair (R137-R139). -/
def fmtGeoOk (fmt geo : Nat) : Bool :=
  match geo with
  | 0 => fmt ≤ 7 || fmt = 0xB
  | 1 => fmt = 8 || fmt = 9 || fmt = 0xA
  | 2 => fmt = 0xC
  | _ => false

/-- Tables read their words through the home slice, each as one access (R228). -/
def State.readWord (s : State) (t pa : Nat) : (Nat × Bool) × State :=
  let s := s.fetchLine t pa 8 false false
  let bad := s.wordBad (pa / 64) (pa % 64 / 8)
  ((leValue ((s.lineBytes (pa / 64) false).drop (pa % 64 / 8 * 8) |>.take 8), bad), if bad then s.hbmUeRecord pa 8 else s)

/-- A non-leaf entry with a nonzero field other than V, LEAF and FRAME, or one at level 3; and a leaf at level 0, one whose FRAME is not aligned to its page, or one with a KEY and KW = 0 (R225). -/
def entryMalformed (level e : Nat) : Bool :=
  if pteLeaf e then level = 0 || pteFrame e % 2 ^ leafBits level ≠ 0 || (!pteKw e && pteKey e ≠ 0)
  else level = 3 || bits e 63 48 ≠ 0 || bits e 12 2 ≠ 0

/-- The page lies in the ranges of the tenancy's bays and outside the table reserves (R225, R230). -/
def State.frameInside (s : State) (t pa size : Nat) : Bool :=
  pa + size ≤ 32 * bayBytes &&
  ((List.range 32).filter fun bay => bay * bayBytes < pa + size && pa < (bay + 1) * bayBytes).all (bit (s.tenancy t).cfg.toNat ·) &&
  !(List.range 32).any fun bay => pa < (bay + 1) * bayBytes && (bay + 1) * bayBytes - 2 ^ 26 < pa + size

/-- The checks of R225 on the entries of a path, in its order, WPERM and EPERM apart. -/
def State.pathCause (s : State) (t : Nat) (path : List (Nat × Nat)) : Option Nat :=
  if path.any fun p => !pteV p.2 then some 2
  else if path.any fun p => entryMalformed p.1 p.2 then some 3
  else match path.getLast? with
    | none => some 3
    | some (level, e) =>
      if !fmtGeoOk (pteFmt e) (pteGeo e) then some 4
      else if pteTen e ≠ t then some 5
      else if !s.frameInside t (pteFrame e) (2 ^ leafBits level) then some 6
      else none

/-- The entries on the path of a walk from a table at a level, with their levels, up to a leaf, level 3 or an entry that is not valid (R222); none where a word is uncorrectable. `fuel` counts levels. -/
def State.walkPath (s : State) (t va : Nat) : Nat → Nat → Nat → Option (List (Nat × Nat)) × State
  | 0, _, _ => (some [], s)
  | fuel + 1, level, table =>
    match s.readWord t (table + 8 * levelIndex va level) with
    | ((_, true), s) => (none, s)
    | ((e, false), s) =>
      if !pteV e || pteLeaf e || level = 3 then (some [(level, e)], s)
      else match s.walkPath t va fuel (level + 1) (pteFrame e) with
        | (some rest, s) => (some ((level, e) :: rest), s)
        | (none, s) => (none, s)

/-- The entry that a TLB or a walk cache holds for an address. -/
def tlbEntry (t va : Nat) (p : Nat × Nat) : TlbEntry := { tenancy := t, level := p.1, page := va / 2 ^ leafBits p.1, leaf := BitVec.ofNat 64 p.2 }

/-- A walk from a table at a level: the leaf, and the non-leaf entries it read. -/
def State.walkFrom (s : State) (t va level table : Nat) : Except Fail (TlbEntry × List TlbEntry) × State :=
  match s.walkPath t va (4 - level) level table with
  | (none, s) => (.error .memue, s)
  | (some path, s) =>
    match s.pathCause t path, path.getLast? with
    | some c, _ => (.error (.xlate c), s)
    | none, none => (.error (.xlate 3), s)
    | none, some p => (.ok (tlbEntry t va p, path.dropLast.map (tlbEntry t va)), s)

/-- PTROOT (R224). -/
def Tenancy.rootLive (x : Tenancy) : Bool := x.root.getLsbD 0
def Tenancy.rootTable (x : Tenancy) : Nat := bits x.root.toNat 47 14 * 16384

/-- The walk of a unit that has no walk cache. -/
def State.walk (s : State) (t va : Nat) : Except Fail TlbEntry × State :=
  if !(s.tenancy t).rootLive then (.error (.xlate 1), s)
  else match s.walkFrom t va 0 (s.tenancy t).rootTable with
    | (.ok (x, _), s) => (.ok x, s)
    | (.error f, s) => (.error f, s)

/-- The deepest cached table of a share for an address: (level, table). -/
def State.cachedTable (s : State) (bay t va : Nat) : Option (Nat × Nat) :=
  let hits := (s.walkCache.getD bay []).filter fun x => x.tenancy = t && x.page = va / 2 ^ leafBits x.level
  match hits with
  | [] => none
  | x :: xs =>
    let d := xs.foldl (fun a b => if a.level < b.level then b else a) x
    some (d.level + 1, pteFrame d.leaf.toNat)

/-- The walk of an edge brick, through the walk cache of its bay's share, whose eight entries take the path (R228). DESIGN CHOICE (log 8): the share keeps the eight entries that entered it last, and a hit does not refresh one. -/
def State.walkShare (s : State) (bay t va : Nat) : Except Fail TlbEntry × State :=
  let (level, table) := (s.cachedTable bay t va).getD (0, (s.tenancy t).rootTable)
  if !(s.tenancy t).rootLive then (.error (.xlate 1), s)
  else match s.walkFrom t va level table with
    | (.ok (x, path), s) => (.ok x, { s with walkCache := s.walkCache.set bay ((path.reverse ++ s.walkCache.getD bay []).eraseDups.take 8) })
    | (.error f, s) => (.error f, s)

/-- The ENG bit of a class: none for BRK and CTL (R223, R274). -/
def engBit : EngClass → Option Nat
  | .stm | .slb => some 0
  | .rng | .ftg => some 1
  | .hst => some 2
  | .brk | .ctl => none

/-- WPERM and EPERM (R225). -/
def permCause (cls : EngClass) (write : Bool) (leaf : Nat) : Option Nat :=
  if write && (!pteW leaf || (pteKw leaf && cls ≠ .hst)) then some 7
  else match engBit cls with
    | some k => if bit (pteEng leaf) k then none else some 8
    | none => none

/-- The physical address of a virtual one under a leaf of a level. -/
def leafPa (leaf level va : Nat) : Nat := pteFrame leaf + va % 2 ^ leafBits level
def TlbEntry.pa (x : TlbEntry) (va : Nat) : Nat := leafPa x.leaf.toNat x.level va

/-- The checks that every access makes on its leaf (R225, R227), and what it translates to: address and leaf. -/
def TlbEntry.judge (x : TlbEntry) (cls : EngClass) (write : Bool) (va : Nat) : Except Fail (Nat × Nat) :=
  match permCause cls write x.leaf.toNat with
  | some c => .error (.xlate c)
  | none => .ok (x.pa va, x.leaf.toNat)

/-- A TLB's entry for an address. -/
def Edge.lookup (e : Edge) (t va : Nat) : Option TlbEntry :=
  e.tlb.find? fun x => x.tenancy = t && x.page = va / 2 ^ leafBits x.level
/-- Move or add an entry to the front; the least recently used of 256 leaves (R227). -/
def Edge.touch (e : Edge) (x : TlbEntry) : Edge := { e with tlb := (x :: e.tlb.filter (· ≠ x)).take 256 }
def State.touchTlb (s : State) (e : BrickId) (x : TlbEntry) : State := s.modBrick e fun b => { b with edge := b.edge.touch x }

/-- An engine's miss of a page has been seen to. -/
def State.endWalk (s : State) (e : BrickId) (t va : Nat) : State :=
  { s with walks := s.walks.filter fun w => !(w.edge = e && w.tenancy = t && w.va / 8192 = va / 8192) }

/-- Translate an engine's access: through the TLB of its edge brick, whose pages the step has waited for (`State.paged`), a page that faults being met here again (R227, R228, R243), or by a walk of its own. -/
def State.translate (s : State) (q : Access) (write : Bool) (va : Nat) : Except Fail (Nat × Nat) × State :=
  match q.via with
  | none => match s.walk q.tenancy va with
    | (.ok x, s) => (x.judge q.cls write va, s)
    | (.error f, s) => (.error f, s)
  | some e => match (s.brick e).edge.lookup q.tenancy va with
    | some x => (x.judge q.cls write va, s.touchTlb e x)
    | none => match (s.endWalk e q.tenancy va).walkShare (BrickId.bay e) q.tenancy va with
      | (.ok x, s) => (x.judge q.cls write va, s.touchTlb e x)
      | (.error f, s) => (.error f, s)

/-! Weight chunks (R424-R428) -/

/-- The nonce of chunk n. -/
def chunkNonce (n : Nat) : List Byte := beBytes 12 n

/-- The chunk that holds a virtual address. DEDUCED (log 22): an address below WBASE lies in no chunk of the slot, and its read takes INTEG. -/
def KeySlot.chunkOf (q : KeySlot) (va : Nat) : Option Nat := if va < q.wbase then none else some ((va - q.wbase) / 512)

/-- Slot k is bound for the reading region, and of its tenancy (R428). -/
def State.keyOk (s : State) (k : Nat) (t : Nat) (g : Option RegionId) : Bool :=
  (s.keySlot k).st = 2 && (s.keySlot k).tenancy = t && match g with
    | some r => (s.slot r).keys.contains k
    | none => false

/-- A verified chunk that an edge brick's flashing unit holds for a region (R428). -/
def State.heldChunk (s : State) (e : BrickId) (g : Option RegionId) (k n : Nat) : Option Chunk :=
  (s.brick e).edge.chunks.find? fun c => c.slot = k && c.n = n && some c.region = g

/-- A flashing unit keeps its 16 newest verified chunks while their region runs (R428). -/
def State.keepChunk (s : State) (via : Option BrickId) (g : Option RegionId) (k n : Nat) (data : List Byte) : State :=
  match via, g with
  | some e, some region =>
    if (s.slot region).st ≠ .run then s
    else s.modBrick e fun x => { x with edge := { x.edge with chunks := ({ slot := k, n, region, data } :: x.edge.chunks).take 16 } }
  | _, _ => s

/-- Bytes at a virtual address through the loft as they stand there, one piece per line: the first failure, or the bytes, the timestamp and the state. -/
def State.rawRead (s : State) (q : Access) : List (Nat × Nat) → Except (Fail × Nat) (List Byte × Nat) × State
  | [] => (.ok ([], q.floor), s)
  | (va, n) :: rest =>
    match s.translate q false va with
    | (.error f, s) => (.error (f, va), s)
    | (.ok (pa, leaf), s) =>
      let s := s.fetchLine q.tenancy pa n (s.deadline q || pteDcls leaf) (pteKw leaf)
      let ln := pa / 64
      if s.rangeBad pa n then (.error (.memue, va), s.hbmUeRecord pa n)
      else
        let bytes := ((s.lineBytes ln (pteKw leaf)).drop (pa % 64)).take n
        let (ts, l) := (s.line ln).loadTs q.floor (s.lease q.tenancy)
        match (s.setLine ln l).rawRead { q with floor := max q.floor ts } rest with
        | (.ok (bs, ts'), s') => (.ok (bytes ++ bs, max ts ts'), s')
        | (.error f, s') => (.error f, s')

/-- Plaintext of weight chunk n of slot k: the chunk and its tag are read in the class of the access, and the tag is checked, unless the flashing unit holds the chunk (R428). -/
def State.readChunk (s : State) (q : Access) (k n : Nat) : Except Fail (List Byte) × State :=
  let slot := s.keySlot k
  if !s.keyOk k q.tenancy q.region then (.error .integ, s)
  else match q.via.bind fun e => s.heldChunk e q.region k n with
    | some c => (.ok c.data, s)
    | none =>
      match s.rawRead q (piecesOf (slot.wbase + 512 * n) 512) with
      | (.error (f, _), s) => (.error f, s)
      | (.ok (cipher, _), s) =>
        match s.rawRead q (piecesOf (slot.tva + 16 * n) 16) with
        | (.error (f, _), s) => (.error f, s)
        | (.ok (tag, _), s) =>
          if gcmTag slot.key (chunkNonce n) [] cipher = tag then
            let data := gcmCrypt slot.key (chunkNonce n) cipher
            (.ok data, s.keepChunk q.via q.region k n data)
          else (.error .integ, s)

/-! Accesses of the engine classes -/

/-- Read pieces at virtual addresses: weight pages are decrypted, every other byte is as the loft holds it (R226, R428). -/
def State.readPieces (s : State) (q : Access) : List (Nat × Nat) → Except (Fail × Nat) (List Byte × Nat) × State
  | [] => (.ok ([], q.floor), s)
  | (va, n) :: rest =>
    match s.translate q false va with
    | (.error f, s) => (.error (f, va), s)
    | (.ok (_, leaf), s) =>
      match s.rawRead q [(va, n)] with
      | (.error f, s) => (.error f, s)
      | (.ok (raw, ts), s) =>
        let k := pteKey leaf
        let o := va - (s.keySlot k).wbase
        let (got, s) : Except Fail (List Byte) × State :=
          if !pteKw leaf then (.ok raw, s)
          else
            match (s.keySlot k).chunkOf va with
            | none => (.error .integ, s)
            | some m => match s.readChunk q k m with
              | (.ok bs, s) => (.ok ((bs.drop (o % 512)).take n), s)
              | (.error f, s) => (.error f, s)
        match got with
        | .error f => (.error (f, va), s)
        | .ok bytes =>
          match s.readPieces { q with floor := max q.floor ts } rest with
          | (.ok (bs, ts'), s') => (.ok (bytes ++ bs, max ts ts'), s')
          | (.error f, s') => (.error f, s')

/-- A region hears of the timestamp of an access of any class, which its completion word is to exceed (R282). -/
def State.noteRegion (s : State) (g : Option RegionId) (ts : Nat) : State :=
  match g with
  | some r => s.modSlot r fun x => { x with maxTs := max x.maxTs ts }
  | none => s

/-- Read n bytes at a virtual address: the first failure, or the bytes and the greatest timestamp. -/
def State.classRead (s : State) (q : Access) (va n : Nat) : Except (Fail × Nat) (List Byte × Nat) × State :=
  match s.readPieces q (piecesOf va n) with
  | (.ok (bs, ts), s) => (.ok (bs, ts), s.noteRegion q.region ts)
  | (.error f, s) => (.error f, s)

/-- The first piece of a range that a write may not reach: its page does not allow it, or its line would have to come from a stack that has tripped (R225, R408). -/
def State.writeFaultAt (s : State) (q : Access) : List (Nat × Nat) → Option (Fail × Nat) × State
  | [] => (none, s)
  | (va, _) :: rest =>
    match s.translate q true va with
    | (.error f, s) => (some (f, va), s)
    | (.ok (pa, _), s) =>
      if s.lineTripped (pa / 64) && !(s.line (pa / 64)).present then (some (.memue, va), s) else s.writeFaultAt q rest
def State.writeFault (s : State) (q : Access) (va n : Nat) : Option (Fail × Nat) × State := s.writeFaultAt q (piecesOf va n)

/-- Write pieces of a range that translates: the greatest timestamp. -/
def State.writePieces (s : State) (q : Access) (base : Nat) (vs : List Byte) : List (Nat × Nat) → Nat × State
  | [] => (q.floor, s)
  | (va, n) :: rest =>
    match s.translate q true va with
    | (.error _, s) => s.writePieces q base vs rest
    | (.ok (pa, leaf), s) =>
      let s := (s.settleLine q.tenancy (pa / 64)).writeLine pa ((vs.drop (va - base)).take n) (pteKw leaf)
      let s := if q.cls = .brk then (q.via.map fun e => s.dropCopy e q.tenancy (pa / 64)).getD s else s
      let (ts, l) := (s.line (pa / 64)).storeTs q.floor
      let (ts', s) := (s.setLine (pa / 64) l).writePieces q base vs rest
      (max ts ts', s)

/-- Write bytes at a virtual address, line by line, once the whole range may be written (R225). -/
def State.classWrite (s : State) (q : Access) (va : Nat) (vs : List Byte) : Except (Fail × Nat) Nat × State :=
  match s.writeFault q va vs.length with
  | (some f, s) => (.error f, s)
  | (none, s) =>
    let (ts, s) := s.writePieces q va vs (piecesOf va vs.length)
    (.ok ts, s.noteRegion q.region ts)

/-- A 64-bit word at a virtual address. -/
def State.classReadWord (s : State) (q : Access) (va : Nat) : Except (Fail × Nat) (Nat × Nat) × State :=
  match s.classRead q va 8 with
  | (.ok (bs, ts), s) => (.ok (leValue bs, ts), s)
  | (.error f, s) => (.error f, s)

end Sys2Proof.Machine
end

