-- ==== Sys2Proof/Machine/Requests.lean ====
section
/-! DEFINITION. The global requests of class BRK from their commit to their return (R240-R249, R265-R269, R281), page walks (R228), HBM service and refresh (R235-R237), ownership handover (R280), rebase (R273) and invalidation (R229). -/

namespace Sys2Proof.Machine

open Sys2Proof

/-! From the brick to the owner -/

/-- A request takes its place among its brick's, at the commit (R245). -/
def State.issueGlobal (s : State) (b : BrickId) (kind : ReqKind) (va : Nat) (data : List Byte) (rch : Nat) (dcl : Bool) : State :=
  let x := s.brick b
  let mode : Bool := match x.region with
    | some g => bit (s.slot g).modes 6
    | none => false
  let r : Req := { id := s.nextId, brick := b, seq := x.reqSeq, kind, va, data, rch, dcl := dcl || mode, tenancy := x.tenancy, pts := x.pts }
  ({ s with reqs := s.reqs ++ [r], nextId := s.nextId + 1 }.modBrick b fun x => { x with reqSeq := x.reqSeq + 1 }).sent b 1

/-! Ownership (R240, R241, R280, R372) -/

/-- Edge bricks of a region in service on a die, ascending. -/
def State.edgesOn (s : State) (g : RegionId) (die : Nat) : List BrickId :=
  (s.slot g).bricks.filter fun b => BrickId.isEdge b && BrickId.die b = die && s.inService b

/-- The owner by the explicit map, or by the default one. -/
def State.baseOwner (s : State) (g : RegionId) (die page : Nat) : BrickId :=
  match (s.slot g).owners.find? fun e => e.1 ≤ page && page < e.1 + e.2.1 && BrickId.die e.2.2 = die with
  | some e => e.2.2
  | none =>
    let es := s.edgesOn g die
    es.getD (page % es.length) 0

/-- The owner after the handovers, the newest first. -/
def ownerThrough (base : BrickId) (page die : Nat) : List (Nat × Nat × BrickId × BrickId) → BrickId
  | [] => base
  | (first, n, old, new) :: rest =>
    let o := ownerThrough base page die rest
    if first ≤ page && page < first + n && o = old && BrickId.die new = die then new else o

def State.ownerOf (s : State) (g : RegionId) (die page : Nat) : BrickId :=
  ownerThrough (s.baseOwner g die page) page die (s.slot g).moved

/-- An access of a class that a brick's ring port or slate map makes through the owner of its page on the brick's die (R240, R310, R328, R334). -/
def State.ownerAccess (s : State) (b : BrickId) (cls : EngClass) (floor va : Nat) : Access :=
  let x := s.brick b
  { cls, tenancy := x.tenancy, floor, region := x.region, via := x.region.map fun g => s.ownerOf g (BrickId.die b) (va / 8192) }

/-! At the owner (R227, R240, R242, R248) -/

/-- Every buffered store of an owner that touches a line leaves for its home slice (R242). -/
def State.flushLine (s : State) (e : BrickId) (line : Nat) : State :=
  { s with reqs := s.reqs.map fun r =>
      if r.owner = e && r.stage = .buffered && r.lines.1 ≤ line && line ≤ r.lines.2 then { r with stage := .toLoft } else r }

/-- Lines in an owner's coalescing buffer, oldest first. -/
def State.bufferedLines (s : State) (e : BrickId) : List Nat :=
  ((s.reqs.filter fun r => r.owner = e && r.stage = .buffered).flatMap fun r => [r.lines.1, r.lines.2]).eraseDups

/-- The buffer holds 16 lines: the oldest leave when their places are needed (R242). -/
def State.trimBuffer (s : State) (e : BrickId) : State :=
  let ls := s.bufferedLines e
  (ls.take (ls.length - 16)).foldl (fun s l => s.flushLine e l) s

/-- The parts of a request under its leaves: the pieces by line, and the scale byte of a decoding load; from `bound` on they lie on the second page. -/
def Req.partsUnder (r : Req) (x : TlbEntry) (second : Option TlbEntry) (bound : Nat) : List Part :=
  let at' (va n : Nat) : Part :=
    let z := if bound ≤ va then second.getD x else x
    { va, len := n, pa := z.pa va, key := if pteKw z.leaf.toNat then some (pteKey z.leaf.toNat) else none }
  let data := (piecesOf r.va r.size).map fun p => at' p.1 p.2
  let fmt := pteFmt x.leaf.toNat
  if ({ r with leaves := [x] } : Req).scaled then data ++ [at' (r.va / 8192 * 8192 + mxScale fmt (r.va % 8192)) 1] else data

/-- A translated request goes on: a store into the buffer; a load or an atomic to its lines, which the buffer's stores to them leave first (R242). -/
def State.routeReq (s : State) (r : Req) : State :=
  if r.isStore then (s.modReq r.id fun _ => { r with stage := .buffered, since := s.now }).trimBuffer r.owner
  else ((s.flushLine r.owner r.lines.1).flushLine r.owner r.lines.2).modReq r.id fun _ => { r with stage := .toLoft }

/-- The checks of every hit on a page's leaf (R225, R248). -/
def Req.leafFail (r : Req) (x : TlbEntry) (va : Nat) : Option Fail :=
  match permCause .brk r.writes x.leaf.toNat with
  | some c => some (.xlate c)
  | none => match r.kind with
    | .load true sz => (elemCause x.leaf.toNat va sz).map .elem
    | _ => none

/-- A request goes through the TLB of its owner: its first page, then the second where it crosses into one; a miss waits for a walk (R227, R228). DESIGN CHOICE (log 23): bytes past 2^54 - 1 are walked on with the indices of virtual address 0, under a page of their own. -/
def State.onward (s : State) (r : Req) : State :=
  let missing (va : Nat) (s : State) : State := s.modReq r.id fun _ => { r with stage := .miss, miss := va }
  match (s.brick r.owner).edge.lookup r.tenancy r.va with
  | none => missing r.va s
  | some x =>
    let s := s.touchTlb r.owner x
    let last := r.va + r.size - 1
    let bound := last / 8192 * 8192
    let go (second : Option TlbEntry) (s : State) : State :=
      let leaves := x :: second.toList
      s.routeReq { r with
        leaves
        parts := r.partsUnder x second (if second.isSome then bound else last + 8192)
        dcl := r.dcl || leaves.any fun y => pteDcls y.leaf.toNat }
    match r.leafFail x r.va with
    | some f => s.failReq r f r.va
    | none =>
      if last / 2 ^ leafBits x.level = r.va / 2 ^ leafBits x.level then go none s
      else match (s.brick r.owner).edge.lookup r.tenancy bound with
        | none => missing bound s
        | some y =>
          let s := s.touchTlb r.owner y
          match permCause .brk r.writes y.leaf.toNat with
          | some c => s.failReq r (.xlate c) bound
          | none => go (some y) s

/-- The owner takes a request: alignment of a GAT, then its TLB (R227, R248). -/
def State.ownerTake (s : State) (r : Req) : State :=
  let misaligned : Bool := match r.kind with
    | .atomic .. => r.va % r.size ≠ 0
    | _ => false
  if misaligned then s.failReq r .align r.va else s.onward r

/-- Misses of a bay's share, and the four walks that its walkers make for the oldest of them (R228). -/
def State.bayMisses (s : State) (bay : Nat) : List Req :=
  (s.reqs.filter fun r => r.stage = .miss && BrickId.bay r.owner = bay).mergeSort fun p q => decide (p.order ≤ q.order)
def Req.walkPage (r : Req) : Nat × Nat := (r.tenancy, r.miss / 8192)
def Walk.page (w : Walk) : Nat × Nat := (w.tenancy, w.va / 8192)
/-- Misses of engines in a bay's share. -/
def State.bayEngines (s : State) (bay : Nat) : List Walk := s.walks.filter fun w => !w.answered && BrickId.bay w.edge = bay
/-- The pages that a share's misses ask for, in the order in which they came. -/
def State.bayPages (s : State) (bay : Nat) : List (Nat × Nat) :=
  ((((s.bayMisses bay).map fun r => (r.order, r.walkPage)) ++ (s.bayEngines bay).map fun w => (w.id, w.page)).mergeSort fun p q => decide (p.1 ≤ q.1)).map (·.2)
def State.bayWalks (s : State) (bay : Nat) : List (Nat × Nat) := ((s.bayPages bay).eraseDups).take 4

/-- An edge brick's port takes an access that hits its TLB, one that joins a walk, and one for which a walker or a place of the queue is free (R228). -/
def State.missRoom (s : State) (e : BrickId) (t va : Nat) : Bool :=
  let walks := s.bayWalks (BrickId.bay e)
  ((s.brick e).edge.lookup t va).isSome || walks.contains (t, va / 8192) || walks.length < 4 ||
  ((s.bayPages (BrickId.bay e)).filter fun p => !walks.contains p).length < 32

/-- The port takes a request whose first miss finds room. DEDUCED (log 1): one whose second page misses after its first has been walked, or that a handover releases, stands at the port in its order where the queue is full. -/
def State.portRoom (s : State) (e : BrickId) (r : Req) : Bool :=
  s.missRoom e r.tenancy r.va && (((s.brick e).edge.lookup r.tenancy r.va).isNone || s.missRoom e r.tenancy (r.va + r.size - 1))

/-- The first page of a list of accesses, each with its address and length, that the TLB of its edge brick misses and no walk has answered (R228). -/
def State.missing (s : State) (l : List (Access × Nat × Nat)) : Option (BrickId × Nat × Nat) :=
  l.findSome? fun (q, va, n) =>
    match q.via with
    | none => none
    | some e =>
      ((List.range ((va + n - 1) / 8192 + 1 - va / 8192)).find? fun i =>
        ((s.brick e).edge.lookup q.tenancy (8192 * (va / 8192 + i))).isNone &&
          !s.walks.any fun w => w.edge = e && w.page = (q.tenancy, va / 8192 + i) && w.answered).map fun i => (e, q.tenancy, 8192 * (va / 8192 + i))

/-- An engine's step waits for the pages of its accesses: one that misses joins a walk of the bay's share, takes a walker or a place of the queue, or stands at its port (R228). -/
def State.paged (s : State) (l : List (Access × Nat × Nat)) (t : Outcome) : Outcome :=
  match s.missing l with
  | none => t
  | some (e, ten, va) =>
    stepWhen (!(s.walks.any fun w => w.edge = e && w.page = (ten, va / 8192)) && s.missRoom e ten va) s
      { s with walks := s.walks ++ [{ id := s.nextId, edge := e, tenancy := ten, va }], nextId := s.nextId + 1 }

/-- Requests that count against the owner's window (R194). -/
def State.outstanding (s : State) (e : BrickId) : Nat := (s.reqs.filter fun r => r.owner = e && r.net).length

/-- The largest timestamp before a rebase (R273). -/
def tsLimit : Nat := 2 ^ 48 - 2 ^ 16

/-- R267: every earlier request of the brick to a different line has returned, and those to the same line have gone ahead; a slate-map operation's accesses count. -/
def State.mayLeave (s : State) (r : Req) : Bool :=
  (s.reqs.all fun q => !(q.brick = r.brick && q.seq < r.seq) ||
    (q.lines = r.lines && q.lines.1 = q.lines.2 && q.stage ≠ .waiting)) &&
  s.maps.all fun m => !(m.brick = r.brick && m.seq < r.seq)

/-- A handover holds requests for its pages at the new owner (R280). -/
def State.handoverHolds (s : State) (g : RegionId) (e : BrickId) (page : Nat) : Bool :=
  s.handovers.any fun h => h.region = g && h.new = e && h.first ≤ page && page < h.first + h.count

/-- OWNER_REQUEST (R228, R240, R242, R267). -/
def execOwnerRequest (n : Nat) (s : State) : Outcome :=
  match s.req n with
  | none => .next s
  | some r =>
    match (s.brick r.brick).region with
    | none => .next s
    | some g =>
      let page := r.va / 8192
      let e := s.ownerOf g (BrickId.die r.brick) page
      let pts := (s.brick r.brick).pts
      let r' := { r with owner := e, pts, order := s.nextId }
      let t := { s with nextId := s.nextId + 1 }
      let ready : Bool := r.stage = .waiting && !(s.tenancy r.tenancy).rebasing && pts ≤ tsLimit && s.mayLeave r && s.portRoom e r
      stepWhen ready s (if s.handoverHolds g e page then t.modReq n fun _ => { r' with stage := .held } else t.ownerTake r')

/-- COALESCE_TIMEOUT (R242): a line that has waited 64 cycles leaves. -/
def execCoalesceTimeout (e : BrickId) (line : Nat) (s : State) : Outcome :=
  stepWhen (s.reqs.any fun r => r.owner = e && r.stage = .buffered && r.lines.1 ≤ line && line ≤ r.lines.2 && r.since + 64 ≤ s.now)
    s (s.flushLine e line)

/-! Page walks (R228) -/

/-- The miss with a number, of a request or of an engine: its edge brick, tenancy and address. -/
def State.missOf (s : State) (n : Nat) : Option (BrickId × Nat × Nat) :=
  match s.req n with
  | some r => if r.stage = .miss then some (r.owner, r.tenancy, r.miss) else none
  | none => (s.walks.find? fun w => w.id = n && !w.answered).map fun w => (w.edge, w.tenancy, w.va)

/-- A walk's result reaches a request that waits for it: its TLB takes the leaf, or the request fails. -/
def State.takeWalk (res : Except Fail TlbEntry) (s : State) (q : Req) : State :=
  match res with
  | .error f => s.failReq q f q.miss
  | .ok x => (s.touchTlb q.owner x).onward q

/-- A walk's result reaches an engine's miss. -/
def State.answerWalk (res : Except Fail TlbEntry) (s : State) (w : Walk) : State :=
  match res with
  | .error _ => { s with walks := s.walks.map fun u => if u.id = w.id then { u with answered := true } else u }
  | .ok x => { s with walks := s.walks.filter fun u => u.id ≠ w.id }.touchTlb w.edge x

/-- PAGE_WALK (R228): one of a share's four walkers walks, and every miss of the same tenancy and page in the share takes its result. -/
def execPageWalk (n : Nat) (s : State) : Outcome :=
  match s.missOf n with
  | none => .next s
  | some (e, t, va) =>
    let bay := BrickId.bay e
    let page := (t, va / 8192)
    let (res, u) := s.walkShare bay t va
    let u := ((s.bayMisses bay).filter fun q => q.walkPage = page).foldl (State.takeWalk res) u
    stepWhen ((s.bayWalks bay).contains page) s (((s.bayEngines bay).filter fun w => w.page = page).foldl (State.answerWalk res) u)

/-! At the home slice (R232, R233, R269, R281) -/

/-- The next part of a request to perform. -/
def Req.nextPart (r : Req) : Option Nat := r.parts.findIdx? fun p => !p.performed

/-- A request has still to be performed at the line of a part: one that waits for its walk by its virtual lines. -/
def Req.pendsAt (q r : Req) (p : Part) : Bool :=
  match q.stage with
  | .miss => q.tenancy = r.tenancy && q.lines.1 ≤ p.va / 64 && p.va / 64 ≤ q.lines.2
  | .toLoft | .buffered | .flash => q.parts.any fun u => !u.performed && u.pa / 64 = p.pa / 64
  | .waiting | .held | .done => false

/-- Requests of one owner reach a line in the order in which it took them (R267), and none goes before a GAT that waits there for its fill (R281). -/
def State.lineTurn (s : State) (r : Req) (p : Part) : Bool :=
  !s.lineLocked (p.pa / 64) && s.reqs.all fun q => !(q.owner = r.owner && q.order < r.order && q.pendsAt r p)

/-- The L1 copy that serves a load: present, not past its lease, and with every byte of the part (R269). -/
def State.l1Hit (s : State) (r : Req) (p : Part) : Option L1Line :=
  (s.brick r.owner).edge.l1.find? fun c => c.line = p.pa / 64 && c.tenancy = r.tenancy && r.pts ≤ c.rts &&
    (List.range p.len).all fun j => c.bytes.getLsbD (p.pa % 64 + j)

/-- A part of a load is performed with its bytes and its timestamp. -/
def Req.perform (r : Req) (k : Nat) (got : List (Option Byte)) (bad : Bool) (ts : Nat) : Req :=
  ({ r with parts := modifyAt (fun p => { p with performed := true, got, ue := bad }) k r.parts, ts := max r.ts ts }).settle

/-- A load's part is performed at its slice: the bytes that the slice holds are fixed, the fill supplies the rest, and the L1 takes a copy (R269, R281). -/
def State.loadPart (s : State) (r : Req) (k : Nat) (p : Part) : State :=
  let ln := p.pa / 64
  let l := s.line ln
  let (ts, l') := l.loadTs r.pts (s.lease r.tenancy)
  let got := (List.range p.len).map fun j => if l.has (p.pa % 64 + j) then some (l.data.getD (p.pa % 64 + j) 0) else none
  let missing := s.missingSectors p.pa p.len
  let s := missing.foldl (fun s x => s.askFill r.tenancy x r.dcl) (s.setLine ln l')
  let bad := (wordsOf p.pa p.len).any fun w => l.valid.getLsbD (w / 4) && l.ue.getLsbD w
  let s := (if bad then s.hbmUeRecord p.pa p.len else s).modReq r.id fun r => r.perform k got bad ts
  if missing.isEmpty && !bad then s.refreshCopy r.owner r.tenancy ln else s

/-- GLDs of one owner to one line that meet no store between them share the read (R242): those that wait behind this one. -/
def State.shareLoads (s : State) (e : BrickId) (ln : Nat) : State :=
  (s.reqs.mergeSort fun p q => decide (p.order ≤ q.order)).foldl (fun s r =>
    match r.nextPart with
    | none => s
    | some k =>
      let p := r.parts.getD k { va := 0, len := 0 }
      if r.isLoad && r.owner = e && r.stage = .toLoft && p.pa / 64 = ln && p.key.isNone && (s.l1Hit r p).isNone && s.lineTurn r p then s.loadPart r k p
      else s) s

/-- A load's part on a weight page, from a verified chunk (R428). -/
def State.chunkPiece (s : State) (r : Req) (k : Nat) (p : Part) (slot : Nat) (data : List Byte) : State :=
  let o := p.va - (s.keySlot slot).wbase
  let (ts, l) := (s.line (p.pa / 64)).loadTs r.pts (s.lease r.tenancy)
  (s.setLine (p.pa / 64) l).modReq r.id fun r =>
    { r with stage := .toLoft }.perform k (((data.drop (o % 512)).take p.len).map some) false ts

/-- The load's parts that one verified chunk holds take their bytes together, so that a slot dropped after the tag check reaches none of them (R433). -/
def State.chunkPart (s : State) (r : Req) (slot n : Nat) (data : List Byte) : State :=
  r.parts.zipIdx.foldl (fun s (p, k) =>
    if !p.performed && p.key = some slot && (s.keySlot slot).chunkOf p.va = some n then s.chunkPiece r k p slot data else s) s

/-- A store's part is written at its home slice. One whose line would have to come from a stack that has tripped fails before it writes anything (R408). -/
def State.storePart (s : State) (r : Req) (k : Nat) (p : Part) : State :=
  if r.parts.any fun u => s.lineTripped (u.pa / 64) && !(s.line (u.pa / 64)).present then s.failReq r .memue r.va
  else
    let s := s.writeLine p.pa ((r.data.drop (p.va - r.va)).take p.len) false
    let (ts, l) := (s.line (p.pa / 64)).storeTs r.pts
    ((s.setLine (p.pa / 64) l).dropCopy r.owner r.tenancy (p.pa / 64)).modReq r.id fun r =>
      let ps := modifyAt (fun p => { p with performed := true }) k r.parts
      { r with parts := ps, ts := max r.ts ts, stage := if ps.all (·.performed) then .done else r.stage }

/-- A request counts in its owner's window from now on; whether it was marked on its way is a free choice (R193, R194, log 8). -/
def State.sendOut (s : State) (n : Nat) : State :=
  let (d, s) := s.draw
  s.modReq n fun r => { r with net := true, marked := r.marked || d % 2 = 1 }

/-- LOFT_ACCESS (R232, R269): the next part of a request is performed, at the owner's L1 where a copy serves it (R269), from a chunk of its flashing unit (R428), or at its home slice within the owner's window (R194). A GAT whose bytes are not there takes its place and waits for them (R281). -/
def execLoftAccess (n : Nat) (s : State) : Outcome :=
  match s.req n with
  | none => .next s
  | some r =>
    match r.nextPart with
    | none => .next s
    | some k =>
      let p := r.parts.getD k { va := 0, len := 0 }
      let turn : Bool := r.stage = .toLoft && s.lineTurn r p && (r.isLoad || s.mayStore (p.pa / 64))
      match r.kind, p.key, (if r.isLoad && p.key.isNone then s.l1Hit r p else none) with
      | .load .., some slot, _ =>
        let held := ((s.keySlot slot).chunkOf p.va).bind fun m => (s.heldChunk r.owner (s.brick r.brick).region slot m).map fun c => (m, c)
        stepWhen turn s (match held with
          | some (m, c) => s.chunkPart r slot m c.data
          | none => s.modReq n fun r => { r with stage := .flash })
      | .load .., none, some c =>
        stepWhen turn s (s.modReq n fun r => r.perform k (((c.data.drop (p.pa % 64)).take p.len).map some) false (max r.pts c.wts))
      | kind, _, _ =>
        let u := s.sendOut n
        let need := s.missingSectors p.pa p.len
        let done := match kind with
          | .load .. => (u.loadPart r k p).shareLoads r.owner (p.pa / 64)
          | .store => u.storePart r k p
          | .atomic op w v y =>
            if need.isEmpty then u.atomicPart r p op w v y
            else need.foldl (fun s x => s.askFill r.tenancy x r.dcl)
              (u.modReq n fun r => { r with parts := modifyAt (fun p => { p with performed := true }) k r.parts })
        stepWhen (turn && (r.net || s.outstanding r.owner < (s.brick r.owner).edge.window)) s done

/-- WEIGHT_CHUNK_READ (R428): the flashing unit reads and verifies the chunk that holds `va` for a request that waits for it, or it faults. -/
def execWeightChunkRead (b : BrickId) (va : Nat) (s : State) : Outcome :=
  match s.reqs.find? fun r => r.owner = b && r.stage = .flash && r.parts.any fun p => !p.performed && p.va ≤ va && va < p.va + p.len with
  | none => .next s
  | some r =>
    let k := r.nextPart.getD 0
    let p := r.parts.getD k { va := 0, len := 0 }
    let slot := p.key.getD 0
    let q : Access := { cls := .brk, tenancy := r.tenancy, floor := r.pts, region := (s.brick r.brick).region, via := some b, dcl := r.dcl }
    match (s.keySlot slot).chunkOf p.va with
    | none => .next (s.failReq r .integ va)
    | some m => match s.readChunk q slot m with
      | (.error f, s) => .next (s.failReq r f va)
      | (.ok data, s) => .next (s.chunkPart r slot m data)

/-! HBM (R235-R237) -/

/-- A fill's pseudo-channel serves it: the sector as the stack holds it, with its uncorrectable words. One served past its latest-service time is a deadline miss (R236). -/
def State.serveFill (s : State) (sector : Nat) : State :=
  let s := if s.fillLate sector then s.addMiss (32 * sector) else s
  let out := s.sectorData sector
  let t := { s with fills := s.fills.map fun (f : Fill) => if f.sector = sector then { f with served := some out } else f }
  t.command (stackOf (32 * sector)) (channelOfPa (32 * sector))

/-- A fill that its pseudo-channel may serve now. -/
def State.fillReady (s : State) (sector : Nat) : Bool :=
  s.fills.any fun f => f.sector = sector && f.served.isNone &&
    !s.refreshBusy (stackOf (32 * sector)) (channelOfPa (32 * sector)) && s.commandFree (stackOf (32 * sector)) (channelOfPa (32 * sector))

/-- HBM_REQUEST (R235): the order among ready requests depends on the rows that are open, which the spec does not lay out (log 1). -/
def execHbmRequest (line : Nat) (s : State) : Outcome := stepWhen (s.fillReady line) s (s.serveFill line)

/-- DEADLINE_SERVICE (R236): at its latest-service time a deadline request is issued. -/
def execDeadlineService (line : Nat) (s : State) : Outcome :=
  match s.fills.find? fun f => f.sector = line with
  | none => .next s
  | some f =>
    match f.latest with
    | none => .next s
    | some t => stepWhen (s.fillReady line && t ≤ s.now) s (s.serveFill line)

/-- REFRESH_START (R237). -/
def execRefreshStart (stack pc : Nat) (s : State) : Outcome :=
  stepWhen (stack < 12 && pc < 64 && s.refreshElapsed stack pc < refreshBlock && (s.stack stack).refreshing.all fun p => p.1 ≠ pc) s
    (s.modStack stack fun x => { x with refreshing := x.refreshing ++ [(pc, s.refreshStart stack pc)] })

/-- REFRESH_END (R237): the requests that waited are counted into RSTALL. -/
def execRefreshEnd (stack pc : Nat) (s : State) : Outcome :=
  match (s.stack stack).refreshing.find? fun p => p.1 = pc with
  | none => .next s
  | some _ =>
    let waits := (s.fills.filter fun f => stackOf (32 * f.sector) = stack && channelOfPa (32 * f.sector) = pc).map s.fillWait
    stepWhen (refreshBlock ≤ s.refreshElapsed stack pc) s
      ((s.modStack stack fun x => { x with refreshing := x.refreshing.filter fun p => p.1 ≠ pc }).addStall stack (waits.foldl (· + ·) 0))

/-- LOFT_FILL_DONE (R281). -/
def execLoftFillDone (line : Nat) (s : State) : Outcome :=
  match s.fills.find? fun f => f.sector = line with
  | some f => match f.served with
    | some (data, ue) => .next (s.fillDone line data ue)
    | none => .next s
  | none => .next s

/-! Returns (R194, R246-R248, R267) -/

/-- The owner's window after a reply (R194). -/
def Edge.reply (e : Edge) (marked : Bool) : Edge :=
  if marked then
    if e.window ≤ e.sinceHalve + 1 then { e with window := max 1 (e.window / 2), sinceHalve := 0, unmarked := 0 }
    else { e with sinceHalve := e.sinceHalve + 1, unmarked := 0 }
  else if e.window ≤ e.unmarked + 1 then { e with window := min 256 (e.window + 1), unmarked := 0, sinceHalve := e.sinceHalve + 1 }
  else { e with unmarked := e.unmarked + 1, sinceHalve := e.sinceHalve + 1 }

/-- The reply of a request that went out reaches its owner (R194). -/
def State.replyTo (s : State) (r : Req) : State :=
  if r.net then s.modBrick r.owner fun x => { x with edge := x.edge.reply r.marked } else s

/-- Returns to one channel arrive in issue order (R246). -/
def State.returnTurn (s : State) (b : BrickId) (rch seq : Nat) : Bool :=
  (s.reqs.all fun q => !(q.brick = b && q.rch = rch && q.seq < seq && !q.isStore)) &&
  s.maps.all fun m => !(m.brick = b && m.rch = rch && m.seq < seq)

/-- A return takes its reserved place in the queue; a watch counts it (R246, R263, R278), and a brick that was ordered to weep discards it (R191). -/
def State.landReturn (s : State) (b : BrickId) (rch : Nat) (t : Token) : State :=
  let s := s.modBrick b fun x => x.modInput rch fun i => { i with ret := i.ret - 1 }
  if (s.brick b).discard then s
  else match ((s.brick b).input rch).gutter with
  | some g =>
    let s' := (s.modBrick b fun x => x.modInput rch fun i => { i with gutter := none }).arriveInput b rch t
    s'.modBrick b fun x => x.modInput rch fun i => { i with gutter := some g }
  | none => s.arriveInput b rch t

/-- GLOBAL_RETURN (R246-R248): a load's or an atomic's token, or a slate-map operation's. -/
def execGlobalReturn (n : Nat) (s : State) : Outcome :=
  match s.req n with
  | some r =>
    let tok : Token := match r.fault with
      | some p => { tag := .ctrl, pay := p, cls := some .brk, ts := r.ts }
      | none => { tag := .data, pay := r.result, cls := some .brk, ts := r.ts }
    let s' := ((s.dropReq n).replyTo r).modBrick r.brick fun x => x.raisePts r.ts
    stepWhen (r.stage = .done && !r.isStore && s.returnTurn r.brick r.rch r.seq) s
      (((s'.landReturn r.brick r.rch tok).rcvd r.brick 1).noteTs r.brick r.ts)
  | none =>
    match s.maps.find? fun m => m.id = n with
    | none => .next s
    | some m =>
      let s' := { s with maps := s.maps.filter fun q => q.id ≠ n }.modBrick m.brick fun x => x.raisePts m.ts
      stepWhen (m.phase = .done && s.returnTurn m.brick m.rch m.seq) s
        ((((m.out.foldl (fun s t => s.landReturn m.brick m.rch t) s').modBrick m.brick fun x =>
            x.modInput m.rch fun i => { i with ret := i.ret - (if m.kind = .look then 3 - m.out.length else 1 - m.out.length) }).rcvd
          m.brick 1).noteTs m.brick m.ts)

/-- INTERNAL_ACKNOWLEDGEMENT (R194, R267). -/
def execInternalAcknowledgement (n : Nat) (s : State) : Outcome :=
  match s.req n with
  | none => .next s
  | some r =>
    stepWhen (r.stage = .done && r.isStore) s
      (((((s.dropReq n).replyTo r).modBrick r.brick fun x => x.raisePts r.ts).rcvd r.brick 1).noteTs r.brick r.ts)

/-! Handover (R280) -/

/-- HANDOVER at its commit: the map change and the flush. -/
def State.startHandover (s : State) (b owner : BrickId) (va k : Nat) : State :=
  match (s.brick b).region with
  | none => s
  | some g =>
    let first := va / 8192
    let n := 2 ^ k
    let mine (r : Req) : Bool := r.owner = b && r.stage = .buffered && first ≤ r.va / 8192 && r.va / 8192 < first + n
    let s := { s with reqs := s.reqs.map fun r => if mine r then { r with stage := .toLoft } else r }
    if owner = b || !(s.edgesOn g (BrickId.die b)).contains owner then s
    else
      let s := s.modSlot g fun x => { x with moved := (first, n, b, owner) :: x.moved }
      { s with
        handovers := s.handovers ++ [{ region := g, old := b, new := owner, first, count := n, before := s.nextId }]
        nextId := s.nextId + 1 }

/-- HANDOVER_MESSAGE (R280): the old owner has performed what it holds and its flushed lines are home. -/
def execHandoverMessage (n : Nat) (s : State) : Outcome :=
  match s.handovers[n]? with
  | none => .next s
  | some h =>
    let open' := s.reqs.any fun r => r.owner = h.old && r.order < h.before && r.stage ≠ .waiting && r.stage ≠ .done &&
      h.first ≤ r.va / 8192 && r.va / 8192 < h.first + h.count
    stepWhen (!h.sent && !open') s
      ({ s with handovers := modifyAt (fun h => { h with sent := true }) n s.handovers }.modBrick h.old Brick.wake)

/-- HANDOVER_RELEASE (R280): the new owner performs the held requests, in arrival order. -/
def execHandoverRelease (n : Nat) (s : State) : Outcome :=
  match s.handovers[n]? with
  | none => .next s
  | some h =>
    let held := s.reqs.filter fun r => r.stage = .held && r.owner = h.new && h.first ≤ r.va / 8192 && r.va / 8192 < h.first + h.count
    let s' := { s with handovers := removeAt n s.handovers }.dropCopies h.new (s.slot h.region).tenancy
    let order := held.foldr (fun r acc => (acc.takeWhile fun q => q.order < r.order) ++ [r] ++ acc.dropWhile fun q => q.order < r.order) []
    stepWhen h.sent s (order.foldl (fun s r =>
      if s.handoverHolds h.region r.owner (r.va / 8192) then s else s.ownerTake r) s')

/-! Rebase (R273) -/

/-- A line that a tenancy's bays home. -/
def State.lineOf (s : State) (t ln : Nat) : Bool := s.bayTenancy (bayOf (64 * ln)) = some t

/-- The timestamp that the next part of a request at its line would take (R269). -/
def State.nextTs (s : State) (r : Req) : Nat :=
  match r.nextPart with
  | none => 0
  | some k =>
    let l := s.line ((r.parts.getD k { va := 0, len := 0 }).pa / 64)
    if r.isLoad then (l.loadTs r.pts (s.lease r.tenancy)).2.rts else (l.storeTs r.pts).1

/-- A timestamp of the tenancy would pass the limit: one that a request at its line is to take, or one of a brick, of a line or of a region's engines. -/
def State.nearLimit (s : State) (t : Nat) : Bool :=
  s.reqs.any (fun r => r.tenancy = t && r.stage = .toLoft && tsLimit < s.nextTs r) ||
  s.bricks.any (fun e => e.2.tenancy = t && tsLimit < e.2.pts) ||
  s.loft.any (fun e => s.lineOf t e.1 && tsLimit < e.2.rts) ||
  s.slots.any fun e => e.2.tenancy = t && e.2.active && tsLimit < e.2.maxTs

/-- What carries a timestamp, after a rebase (R273). -/
def Token.rebased (t : Token) : Token := { t with ts := 0, rng := 0 }
def Task.rebased (t : Task) : Task := { t with floor := 0, ts := 0 }
def Input.rebased (i : Input) : Input :=
  { i with
    queue := i.queue.map Token.rebased
    gutter := i.gutter.map fun (g : Gutter) => { g with notes := g.notes.map fun (n : Option EngClass × Nat × Nat) => (n.1, 0, 0) }
    watch := i.watch.map fun (w : Watch) => { w with ts := 0 } }
def Port.rebased (p : Port) : Port := { p with skid := p.skid.map fun e => { e with tok := e.tok.rebased } }
def Edge.rebased (e : Edge) : Edge :=
  { e with
    l1 := []
    si := e.si.map (·.map Token.rebased)
    so := e.so.map Port.rebased
    dp := e.dp.map Token.rebased
    shapes := e.shapes.map fun x => { x with ts := 0, outq := x.outq.map Token.rebased, notes := x.notes.map Token.rebased } }
def Acc.rebased (a : Acc) : Acc :=
  { a with work := match a.work with
    | .idle => .idle
    | .computing t e => .computing t.rebased e
    | .waiting t e => .waiting t.rebased e
    | .draining t r w n l h => .draining t.rebased r w n l h
    | .ending t e d => .ending t.rebased e d }
def Effect.rebased : Effect → Effect
  | .observe c _ => .observe c 0
  | e => e
def Firing.rebased (f : Firing) : Firing := { f with heads := f.heads.map (·.map Token.rebased), effects := f.effects.map Effect.rebased, carry := 0 }
def Brick.rebased (x : Brick) : Brick :=
  { x with
    pts := 0
    fence := 0
    seen := List.replicate 6 0
    predTs := List.replicate 8 0
    firings := x.firings.map Firing.rebased
    inputs := x.inputs.map Input.rebased
    outs := x.outs.map Port.rebased
    taskPort := x.taskPort.map Task.rebased
    accs := x.accs.map Acc.rebased
    wpTs := [0, 0]
    docks := x.docks.map fun d => { d with stm := d.stm.map fun _ => 0, ts := 0, floor := 0 }
    ringPort := x.ringPort.map Token.rebased
    edge := x.edge.rebased }

/-- Every timestamp of a tenancy resets, and its L1 copies are dropped (R273). -/
def State.resetTs (s : State) (t : Nat) : State :=
  let mine (b : BrickId) : Bool := (s.brick b).tenancy = t
  let ours (r : Option RegionId) : Bool := match r with
    | some g => (s.slot g).tenancy = t
    | none => false
  let query (q : Query) : Query :=
    if q.tenancy = t then { q with floor := 0, ts := 0, out := q.out.map fun p => (p.1, p.2.1, p.2.2.rebased) } else q
  { s with
    bricks := s.bricks.map fun (e : Nat × Brick) => if e.2.tenancy = t then (e.1, e.2.rebased) else e
    flights := s.flights.map fun (f : Flight) => if mine f.src then { f with tok := f.tok.rebased } else f
    frames := s.frames.map fun (f : Frame) => if mine f.src then { f with ts := 0, floor := 0 } else f
    reqs := s.reqs.map fun (r : Req) => if r.tenancy = t then { r with pts := 0, ts := 0 } else r
    maps := s.maps.map fun (m : MapOp) => if m.tenancy = t then { m with ts := 0, out := m.out.map Token.rebased } else m
    scheds := s.scheds.map fun (e : Nat × Sched) =>
      if ours e.2.region then (e.1, { e.2 with ring := e.2.ring.map Task.rebased, window := e.2.window.map Task.rebased, port := e.2.port.map Token.rebased, ends := e.2.ends.map fun p => (p.1.rebased, p.2) }) else e
    slots := s.slots.map fun (e : Nat × Slot) => if e.2.tenancy = t then (e.1, { e.2 with maxTs := 0 }) else e
    footings := s.footings.map fun (e : Nat × Footing) => (e.1, { posts := e.2.posts.map query, contexts := e.2.contexts.map query })
    loft := s.loft.map fun (e : Nat × LoftLine) => if s.lineOf t e.1 then (e.1, { e.2 with wts := 0, rts := 0 }) else e }

/-- Every request in flight of the tenancy has returned. -/
def State.drained (s : State) (t : Nat) : Bool :=
  (s.reqs.all fun r => r.tenancy ≠ t || r.stage = .waiting) && s.maps.all fun m => m.tenancy ≠ t || m.phase = .desc

/-- A rebase of some tenancy is to begin or to end now (R273). -/
def State.rebaseDue (s : State) : Bool := s.tenancies.any fun e => if e.2.rebasing then s.drained e.1 else s.nearLimit e.1

/-- REBASE (R273): first the tenancy's new requests are held; once every request in flight has returned, its timestamps reset. -/
def execRebase (t : Nat) (s : State) : Outcome :=
  if (s.tenancy t).rebasing then
    stepWhen (s.drained t) s
      ((s.resetTs t).modTenancy t fun x => { x with rebasing := false, rebase := (x.rebase + 1) % 65536 })
  else stepWhen (s.nearLimit t) s (s.modTenancy t fun x => { x with rebasing := true })

/-! Invalidation (R229) -/

/-- An invalidation that drops the entries for which `hit` holds and marks the accesses translated through them. -/
def State.invalidate (s : State) (die : Nat) (cmd : Nat) (hit : TlbEntry → Bool) : State :=
  let marks := (s.reqs.filter fun r => r.leaves.any hit &&
    (r.stage = .buffered || r.stage = .toLoft || r.stage = .flash || r.stage = .done)).map (·.id)
  let s := { s with
    bricks := s.bricks.map fun (e : Nat × Brick) => (e.1, { e.2 with edge := { e.2.edge with tlb := e.2.edge.tlb.filter fun x => !hit x } })
    walkCache := s.walkCache.map fun (e : Nat × List TlbEntry) => (e.1, e.2.filter fun x => !hit x) }
  s.modDie die fun d => { d with invcmd := BitVec.ofNat 64 (2 ^ 63 + cmd), invMarks := marks }

def Die.invBusy (d : Die) : Bool := d.invcmd.getLsbD 63

/-- INVCMD with KIND 00 (R229). -/
def execInvcmdVa (die t page : Nat) (s : State) : Outcome :=
  let va := page * 8192
  stepWhen (!(s.die die).invBusy) s
    (s.invalidate die (t * 2 ^ 55 + va) fun x => x.tenancy = t && x.page = va / 2 ^ leafBits x.level)

/-- INVCMD with KIND 01 (R229). -/
def execInvcmdTenancy (die t : Nat) (s : State) : Outcome :=
  stepWhen (!(s.die die).invBusy) s
    (s.invalidate die (2 ^ 61 + t * 2 ^ 55) fun x => x.tenancy = t)

/-- A write of INVCMD (R229): ignored while GO reads 1 and with KIND = 10 or 11; it sets the fields, and with GO = 1 starts the command. -/
def State.writeInvcmd (s : State) (die : Nat) (value : Word) : State :=
  let v := value.toNat
  let t := bits v 60 55
  let va := bits v 53 13 * 8192
  let fields := bits v 62 55 * 2 ^ 55 + va
  if (s.die die).invBusy || 2 ≤ bits v 62 61 then s
  else if bit v 63 then
    s.invalidate die fields fun x => x.tenancy = t && (bits v 62 61 = 1 || x.page = va / 2 ^ leafBits x.level)
  else s.modDie die fun d => { d with invcmd := BitVec.ofNat 64 fields }

/-- INVCMD_COMPLETE (R229): GO clears once every marked access has finished. -/
def execInvcmdComplete (die : Nat) (s : State) : Outcome :=
  let d := s.die die
  let finished (n : Nat) : Bool := match s.req n with
    | none => true
    | some r => r.isStore && r.stage = .done
  stepWhen (d.invBusy && d.invMarks.all finished) s
    (s.modDie die fun d => { d with invcmd := d.invcmd &&& ~~~(0x8000_0000_0000_0000 : Word), invMarks := [] })

end Sys2Proof.Machine
end

