-- ==== Sys2Proof/Machine/Footing.lean ====
section
/-! DEFINITION. The footing engines (R345-R365). -/

namespace Sys2Proof.Machine

open Sys2Proof

/-! Packets and descriptors (R347, R356) -/

def Query.p (q : Query) (i : Nat) : Nat := wordNat q.packet i
def Query.qid (q : Query) : Nat := bits (q.p 0) 31 0
def Query.k (q : Query) : Nat := bits (q.p 0) 38 32
def Query.ef (q : Query) : Nat := bits (q.p 0) 47 39 + 1
def Query.metric (q : Query) : Nat := bits (q.p 0) 49 48
def Query.inline (q : Query) : Bool := bit (q.p 0) 50
def Query.toMemory (q : Query) : Bool := bit (q.p 0) 51
def Query.entries (q : Query) : List Nat :=
  ([bits (q.p 6) 31 0, bits (q.p 6) 63 32, bits (q.p 7) 31 0, bits (q.p 7) 63 32]).take (bits (q.p 0) 53 52 + 1)
def Query.hops (q : Query) : Nat := bits (q.p 4) 31 0

def Query.dw (q : Query) (i : Nat) : Nat := wordNat q.desc i
def Query.pmap (q : Query) : Nat := q.dw 0
def Query.nnode (q : Query) : Nat := bits (q.dw 1) 31 0
def Query.dim (q : Query) : Nat := bits (q.dw 1) 41 32 + 1
def Query.fmt (q : Query) : Nat := bits (q.dw 1) 45 42
def Query.psh (q : Query) : Nat := bits (q.dw 1) 52 48
def Query.rstride (q : Query) : Nat := bits (q.dw 2) 15 0
def Query.emask (q : Query) : Nat := bits (q.dw 2) 27 16
def Query.nbase (q : Query) : Nat := q.dw 3
def Query.norm (q : Query) : Nat := q.dw 4
/-- Bytes of a vector. -/
def Query.vecBytes (q : Query) : Nat := q.dim * (if q.fmt = 1 then 1 else 2)

/-- A malformed descriptor (R347). -/
def Query.badDesc (q : Query) : Bool :=
  2 ^ 54 ≤ q.dw 0 || q.nnode = 0 || (q.fmt ≠ 1 && q.fmt ≠ 6) || bits (q.dw 1) 47 46 ≠ 0 || bits (q.dw 1) 63 53 ≠ 0 ||
  q.rstride % 64 ≠ 0 || q.rstride < 320 + q.vecBytes || bits (q.dw 2) 63 28 ≠ 0 || 2 ^ 54 ≤ q.dw 3 || q.dw 3 % 64 ≠ 0 ||
  2 ^ 54 ≤ q.dw 4 || (q.desc.drop 5).any (fun w => w ≠ 0) || 1024 < q.vecBytes

/-- Statuses of R362. -/
def fqCancel : Nat := 1
def fqDupqid : Nat := 2
def fqBaddesc : Nat := 3
def fqXlate : Nat := 4
def fqMemue : Nat := 5
def fqInteg : Nat := 6
def fqEngine : Nat := 7
def fqFmt : Nat := 8
def fqBadrec : Nat := 9

def failStatus : Fail → Nat
  | .memue => fqMemue
  | .integ => fqInteg
  | _ => fqXlate

/-! Reads of class FTG -/

/-- The accesses of a query, at the deadline class where its packet asks for it (R356, R364). -/
def Query.access (q : Query) : Access := { cls := .ftg, tenancy := q.tenancy, floor := q.floor, region := some q.region, dcl := bit (q.p 0) 54 }

/-- Some page of a range has a format other than f, or a geometry other than FLAT. -/
def State.formatOff (s : State) (q : Query) (va n f : Nat) : Bool :=
  (piecesOf va n).any fun p => match (s.translate q.access false p.1).1 with
    | .ok (_, leaf) => pteFmt leaf ≠ f || pteGeo leaf ≠ 0
    | .error _ => false

/-- Read bytes; with a format, each page's has to equal it with geometry FLAT (R226, R348). -/
def State.footRead (s : State) (q : Query) (va n : Nat) (fmt : Option Nat) : Except Nat (List Byte × Nat) × State :=
  let off : Bool := match fmt with
    | none => false
    | some f => s.formatOff q va n f
  match s.classRead q.access va n with
  | (.error (f, _), s) => (.error (failStatus f), s)
  | (.ok r, s) => if off then (.error fqFmt, s) else (.ok r, s)

/-- A vector's elements as exact values. -/
def Query.values (q : Query) (bs : List Byte) : List Val :=
  (List.range q.dim).map fun i =>
    if q.fmt = 1 then Val.ofInt (signed 8 (bs.getD i 0).toNat) else bf16.dec (leValue ((bs.drop (2 * i)).take 2))

/-- The address of a node's record. -/
def Query.record (q : Query) (x : Nat) : Nat := (q.nbase + x * q.rstride) % 2 ^ 54

/-! Distances and their order (R350, R351) -/

def Query.distance (q : Query) (v : List Val) (norm : Option Val) : Nat :=
  let w := q.values q.vector
  let zero := Val.zero false
  let d := match q.metric with
    | 0 =>
      let diff := List.zipWith (fun a b => Val.add a (Val.neg b) 0) w v
      dot32grp diff diff zero
    | 1 => (dot32grp w v zero).neg
    | _ =>
      let ip := dot32grp w v zero
      let nv := norm.getD (dot32grp v v zero)
      let nq := dot32grp w w zero
      if nq.isZero || nv.isZero then Val.one
      else rne32 (Val.one.add (rne32 (ip.div (rne32 (sfuSqrt fp32 0 (rne32 (nq.mul nv))).1))).neg 0)
  fp32.enc (if d.isNan then .inf false else d)

def distBefore (a b : Nat × Nat) : Bool :=
  let x := fp32.dec a.1
  let y := fp32.dec b.1
  Val.lt x y || (Val.eq x y && a.2 < b.2)

/-- Insert into an ascending list. -/
def insertDist (l : List (Nat × Nat)) (e : Nat × Nat) : List (Nat × Nat) :=
  (l.takeWhile fun a => distBefore a e) ++ [e] ++ l.dropWhile fun a => distBefore a e

/-- offer(x, d) of R352. -/
def Query.offer (q : Query) (e : Nat × Nat) : Query :=
  let better : Bool := match q.best.getLast? with
    | some g => distBefore e g
    | none => true
  if q.best.length < q.ef || better then
    { q with cands := (insertDist q.cands e).take q.ef, best := (insertDist q.best e).take q.ef }
  else q

/-! The visited set (R353) -/

def bloomBits (x : Nat) : List Nat :=
  [0x9E37_79B1, 0x85EB_CA77, 0xC2B2_AE3D].map fun m => x * m % 2 ^ 32 / 2 ^ 16
def Query.seen (q : Query) (x : Nat) : Bool :=
  match q.bloom with
  | some f => (bloomBits x).all f.contains
  | none => q.visited.contains x
def Query.mark (q : Query) (x : Nat) : Query :=
  match q.bloom with
  | some f => { q with bloom := some (f ++ bloomBits x).eraseDups }
  | none =>
    if q.visited.length < 4096 then { q with visited := q.visited ++ [x] }
    else { q with bloom := some ((q.visited ++ [x]).flatMap bloomBits).eraseDups, visited := [] }

/-- visit(x) of R352: the partition-map byte is read first, and its fault stands in the request's place (R354). -/
def State.visit (s : State) (q : Query) (x : Nat) : Query × State :=
  if q.nnode ≤ x then ({ q with badref := true }, s)
  else
    match s.footRead q ((q.pmap + x / 2 ^ q.psh) % 2 ^ 54) 1 none with
    | (.error st, s) => ({ q with reqs := q.reqs ++ [{ node := x, record := false, status := st }] }, s)
    | (.ok (bs, ts), s) =>
      let home := leValue bs
      let q := { q with ts := max q.ts ts }
      if 12 ≤ home || !bit q.emask home then ({ q with badref := true }, s)
      else if q.seen x then (q, s)
      else
        ({ q.mark x with
          reqs := q.reqs ++ [{ node := x, record := false, home }]
          homes := q.homes ++ [(x, home)]
          copies := if home = q.eng || q.copies.contains home then q.copies else q.copies ++ [home] }, s)

def State.visitAll (s : State) (q : Query) (xs : List Nat) : Query × State :=
  xs.foldl (fun p x => p.2.visit p.1 x) (q, s)

/-! Queries of an engine -/

def State.query (s : State) (eng id : Nat) : Option Query := (s.footing eng).contexts.find? fun q => q.id = id
def State.modQuery (s : State) (eng id : Nat) (f : Query → Query) : State :=
  s.modFooting eng fun e => { e with contexts := e.contexts.map fun q => if q.id = id then f q else q }

/-- Contexts that started queries hold (R346). -/
def Footing.used (e : Footing) : Nat := (e.contexts.filter (·.started)).length

/-- FOOTING_PACKET_ARRIVAL (R346, R358). -/
def execFootingPacketArrival (b : BrickId) (s : State) : Outcome :=
  let x := s.brick b
  match x.footPort, x.region with
  | (eng, packet, inline) :: rest, some region =>
    let q : Query := { id := s.nextId, region, brick := b, eng, tenancy := x.tenancy, packet, vector := inline, floor := x.fence, node := (s.slot region).node }
    stepWhen ((s.footing eng).posts.length < 16) s
      ((({ s with nextId := s.nextId + 1 }.modBrick b fun x => { x with footPort := rest }.wake).modFooting eng fun e =>
        { e with posts := e.posts ++ [q] }).returned b 1)
  | _, _ => .next s

/-- A query ends with a status. -/
def Query.finish (q : Query) (status : Nat) : Query := { q with status, finished := true, reqs := [] }

/-- The checks of R359 from the descriptor on, and step 0. -/
def State.openQuery (s : State) (q : Query) : Query × State :=
  match s.footRead q (bits (q.p 1) 53 0) 64 none with
  | (.error st, s) => (q.finish st, s)
  | (.ok (bs, ts), s) =>
    let q := { q with ts := max q.ts ts, desc := (List.range 8).map fun i => BitVec.ofNat 64 (leValue ((bs.drop (8 * i)).take 8)) }
    if q.badDesc || (q.inline && q.vector.length ≠ q.vecBytes) then (q.finish fqBaddesc, s)
    else
      let (got, s) : Except Nat (List Byte × Nat) × State :=
        if q.inline then (.ok (q.vector, q.ts), s) else s.footRead q (bits (q.p 2) 53 0) q.vecBytes (some q.fmt)
      match got with
      | .error st => (q.finish st, s)
      | .ok (v, ts) =>
        if (List.range 12).any fun e => bit q.emask e && !s.hasEngine q.tenancy e then (q.finish fqEngine, s)
        else s.visitAll { q with vector := v, ts := max q.ts ts } q.entries

/-- QUERY_START (R346, R359). -/
def execQueryStart (eng : Nat) (s : State) : Outcome :=
  let e := s.footing eng
  match e.posts with
  | [] => .next s
  | q :: rest =>
    let dup : Bool := e.contexts.any fun o => o.qid = q.qid
    let q1 := { q with started := true }
    let s1 := s.charge q.node 4 1
    let (q2, s2) := if dup then (q1.finish fqDupqid, s1) else s1.openQuery q1
    stepWhen (e.used < 64 && s.chargeFits q.node 4 1) s
      (s2.modFooting eng fun e => { e with posts := rest, contexts := e.contexts ++ [q2] })

/-- What a home engine answers (R348, R350, R354): of a record it reads bytes 0 to 7 + 4·DEG alone; a norm is read as FP32 from a page of that format (R226, log 17). -/
def State.answer (s : State) (q : Query) (r : FootReq) : FootReq × Nat × State :=
  let a := q.record r.node
  if r.record then
    match s.footRead q a 8 none with
    | (.error st, s) => ({ r with status := st }, q.ts, s)
    | (.ok (bs, ts), s) =>
      let deg := (bs.getD 0 0).toNat
      if 64 < deg then ({ r with status := fqBadrec }, ts, s)
      else match s.footRead q (a + 8) (4 * deg) none with
        | (.error st, s) => ({ r with status := st }, ts, s)
        | (.ok (bs, ts'), s) =>
          ({ r with reply := some (deg, (List.range deg).map fun i => leValue ((bs.drop (4 * i)).take 4)) }, max ts ts', s)
  else
    match s.footRead q (a + 320) q.vecBytes (some q.fmt) with
    | (.error st, s) => ({ r with status := st }, q.ts, s)
    | (.ok (bs, ts), s) =>
      let v := q.values bs
      if q.metric = 2 && q.norm ≠ 0 then
        match s.footRead q ((q.norm + 4 * r.node) % 2 ^ 54) 4 (some 5) with
        | (.error st, s) => ({ r with status := st }, q.ts, s)
        | (.ok (n, ts'), s) => ({ r with reply := some (q.distance v (some (fp32.dec (leValue n))), []) }, max ts ts', s)
      else ({ r with reply := some (q.distance v none, []) }, ts, s)

/-- DISTANCE_REQUEST (R348, R350, R355): request k of a query is answered. -/
def execDistanceRequest (eng q k : Nat) (s : State) : Outcome :=
  match s.query eng q with
  | none => .next s
  | some qu =>
    match qu.reqs[k]? with
    | none => .next s
    | some r =>
      let (r', ts, t) := s.answer qu r
      stepWhen (r.reply.isNone && r.status = 0) s
        (t.modQuery eng q fun x => { x with reqs := modifyAt (fun _ => r') k x.reqs, ts := max x.ts ts })

/-- The engine at which a visited node is homed, as its visit found it (R354). -/
def Query.homeOf (q : Query) (x : Nat) : Nat := ((q.homes.find? fun e => e.1 = x).map (·.2)).getD q.eng

/-- The search chooses what to expand next, or stops (R352, R360). -/
def Query.advance (q : Query) : Query :=
  if q.cancelled then q.finish fqCancel
  else
    match q.cands with
    | [] => q.finish 0
    | c :: rest =>
      let full : Bool := q.best.length = q.ef && (match q.best.getLast? with
        | some g => distBefore g c
        | none => false)
      if full then { q with cands := rest }.finish 0
      else if q.hops ≠ 0 && q.steps = q.hops then { q with cands := rest, hoplim := true }.finish 0
      else { q with cands := rest, phase := 1, reqs := [{ node := c.2, record := true, home := q.homeOf c.2 }] }

/-- EXPANSION_STEP (R352-R354): every request of the step is answered. -/
def execExpansionStep (eng q : Nat) (s : State) : Outcome :=
  match s.query eng q with
  | none => .next s
  | some qu =>
    let enabled : Bool := qu.started && !qu.finished && qu.reqs.all fun r => r.reply.isSome || r.status ≠ 0
    let (next, t) : Query × State :=
      match qu.reqs.find? fun r => r.status ≠ 0 with
      | some r => (qu.finish r.status, s)
      | none =>
        if qu.phase = 1 then
          let ids := qu.reqs.flatMap fun r => match r.reply with
            | some (_, l) => l
            | none => []
          s.visitAll { qu with phase := 2, reqs := [] } ids
        else
          let offered := qu.reqs.foldl (fun q r => match r.reply with
            | some (d, _) => q.offer (d, r.node)
            | none => q) qu
          ({ offered with reqs := [], steps := if qu.phase = 2 then qu.steps + 1 else qu.steps }.advance, s)
    stepWhen enabled s (t.modQuery eng q fun _ => next)

/-! Completion (R361-R363) -/

/-- Source number of an engine's records, and of the result tokens of one query. -/
def footPortOf (eng : Nat) : Nat := enginePort + eng
def resultPort (eng id : Nat) : Nat := enginePort + 12 + 12 * id + eng

/-- The results: written, or queued as tokens with their EOS (R361, R362). -/
def State.prepareQuery (s : State) (q : Query) : Query × State :=
  let good : Bool := q.status = 0 || q.status = fqCancel
  let res := if good then (q.best.take q.k).map fun e => e.2 + e.1 * 2 ^ 32 else []
  let dst := bits (q.p 3) 53 0
  if q.toMemory then
    match s.classWrite q.access dst (res.flatMap (leBytes 8)) with
      | (.error (f, _), s) => ({ q with prepared := true, status := failStatus f }, s)
      | (.ok ts, s) => ({ q with prepared := true, nres := res.length, ts := max q.ts ts }, s)
  else
    let b : BrickId := BitVec.ofNat 14 (bits dst 13 0)
    let ch := bits dst 15 14
    let toks := res.map dataToken ++ [eosToken (q.qid % 2048) (!good) false res.length]
    ({ q with prepared := true, nres := res.length, out := toks.map fun t => (b, ch, { t with cls := some .ftg, ts := q.ts }) }, s)

/-- The completion record (R362). -/
def Query.record2 (q : Query) (eng : Nat) : List (BrickId × Nat × Token) :=
  let b : BrickId := BitVec.ofNat 14 (bits (q.p 5) 13 0)
  let ch := bits (q.p 5) 15 14
  let done : Token :=
    { ctrlToken 5 (q.status * 2 ^ 56 + b2n q.bloom.isSome * 2 ^ 55 + b2n q.hoplim * 2 ^ 54 + b2n q.badref * 2 ^ 53 + q.nres * 2 ^ 46 + q.qid) with
      cls := some .ftg, ts := q.ts }
  [(b, ch, done), (b, ch, dataToken (bits (q.p 4) 47 32 + q.steps % 2 ^ 32 * 2 ^ 16 + eng * 2 ^ 48))]

/-- Tokens of the query's results are still on their way. -/
def State.resultsFlying (s : State) (eng : Nat) (q : Query) : Bool :=
  s.flights.any fun f => f.port = resultPort eng q.id

/-- A query has reached the point that gives it its place in the completion order (R363). -/
def State.queryReached (s : State) (eng : Nat) (q : Query) : Bool :=
  q.prepared && q.out.isEmpty && q.copies.isEmpty && q.recOrder.isNone && (q.toMemory || !s.resultsFlying eng q)

/-- A query's record may go: no other query of the engine reached its point in an earlier cycle, or in the same one and started earlier (R363). -/
def Footing.turn (e : Footing) (now : Nat) (q : Query) : Bool :=
  match q.recOrder with
  | none => true
  | some n => n < now && (e.contexts.all fun o => match o.recOrder with
      | some m => n ≤ m
      | none => true) &&
    (e.contexts.takeWhile fun o => o.id ≠ q.id).all fun o => o.recOrder ≠ some n

/-- QUERY_COMPLETE (R346, R361-R363): the results, the release of its copies, then the record in completion order, and in the cycle after it the context is free. -/
def execQueryComplete (eng q : Nat) (s : State) : Outcome :=
  match s.query eng q with
  | none => .next s
  | some qu =>
    if !qu.finished then .next s
    else if !qu.prepared then
      let (q', t) := s.prepareQuery qu
      .next (t.modQuery eng q fun _ => q')
    else
      match qu.out with
      | (b, ch, t) :: rest =>
        stepWhen ((s.footing eng).turn s.now qu && s.accepts (.input b ch) t) s
          ((s.launch qu.brick (if qu.recOrder.isSome then footPortOf eng else resultPort eng qu.id) (.input b ch) t).modQuery eng q fun x => { x with out := rest, doneAt := s.now })
      | [] =>
        match qu.recOrder, qu.copies with
        | none, _ :: rest => .next (s.modQuery eng q fun x => { x with copies := rest })
        | none, [] =>
          stepWhen (s.queryReached eng qu) s (s.modQuery eng q fun x => { x with recOrder := some s.now, out := x.record2 eng })
        | some _, _ =>
          let t := s.modFooting eng fun e => { e with contexts := e.contexts.filter fun x => x.id ≠ q }
          stepWhen (qu.doneAt < s.now) s (((if qu.started then t.refund qu.node 4 1 else t).rcvd qu.brick 1).noteTs qu.brick qu.ts)

/-! Cancelling (R360, R365) -/

/-- Cancel the queries that satisfy `p`: a queued one completes at once, a started one after its step. -/
def Footing.cancel (e : Footing) (p : Query → Bool) : Footing :=
  { posts := e.posts.filter fun q => !p q
    contexts := (e.contexts.map fun q => if p q && !q.finished then { q with cancelled := true } else q) ++
      (e.posts.filter p).map fun q => q.finish fqCancel }

/-- CNCL at its commit. -/
def State.cancelQuery (s : State) (b : BrickId) (eng qid : Nat) : State :=
  match (s.brick b).region with
  | none => s
  | some g => s.modFooting eng fun e => e.cancel fun q => q.region = g && q.qid = qid

/-- Every live query of a region is cancelled (R365). -/
def State.cancelRegion (s : State) (g : RegionId) : State :=
  (List.range 12).foldl (fun s eng => s.modFooting eng fun e => e.cancel fun q => q.region = g) s

end Sys2Proof.Machine
end

