-- ==== Sys2Proof/Machine/Slates.lean ====
section
/-! DEFINITION. The slate map (R305-R318): binding at the commit of PIN, the accesses of each operation, and releases. -/

namespace Sys2Proof.Machine

open Sys2Proof

/-! Descriptors, keys and entries (R307-R309) -/

/-- A malformed descriptor (R307). -/
def descMalformed (d : List Word) : Bool :=
  let w0 := wordNat d 0
  let w1 := wordNat d 1
  bits w0 63 54 ≠ 0 || w0 % 8192 ≠ 0 || bits w1 63 40 = 0 || bits w1 23 8 = 0 || !isHalf (bits w1 5 2) || w1 % 4 ≠ 0 ||
  (d.drop 2).any fun w => w ≠ 0

def descDir (d : List Word) : Nat := wordNat d 0
def descDc (d : List Word) : Nat := bits (wordNat d 1) 7 6
def descFmt (d : List Word) : Nat := bits (wordNat d 1) 5 2

/-- A key is in range, and its entry index (R308). -/
def keyInRange (d : List Word) (key : Nat) : Bool :=
  let w1 := wordNat d 1
  bits key 63 40 < bits w1 63 40 && bits key 39 32 ≤ bits w1 39 32 && bits key 31 24 ≤ bits w1 31 24 && bits key 23 8 < bits w1 23 8
def entryIndex (d : List Word) (key : Nat) : Nat :=
  let w1 := wordNat d 1
  ((bits key 63 40 * (bits w1 39 32 + 1) + bits key 39 32) * (bits w1 31 24 + 1) + bits key 31 24) * bits w1 23 8 + bits key 23 8

def entState (e : List Word) : Nat := bits (wordNat e 0) 63 61
def entCount (e : List Word) : Nat := bits (wordNat e 0) 60 54
def entLoc (e : List Word) : Nat := bits (wordNat e 0) 53 0
def entRef (e : List Word) : Nat := bits (wordNat e 1) 63 54
def entBack (e : List Word) : Nat := bits (wordNat e 1) 53 0
def mkEntry (st count loc ref back : Nat) : List Word :=
  [BitVec.ofNat 64 (st * 2 ^ 61 + count % 128 * 2 ^ 54 + loc % 2 ^ 54), BitVec.ofNat 64 (ref % 1024 * 2 ^ 54 + back % 2 ^ 54)]
def entEmpty : List Word := [0, 0]
def stResident : Nat := 1
def stStored : Nat := 2
def stEvicting : Nat := 3
def stShared : Nat := 4
def withRef (e : List Word) (ref : Nat) : List Word := mkEntry (entState e) (entCount e) (entLoc e) ref (entBack e)
def withState (e : List Word) (st : Nat) : List Word := mkEntry st (entCount e) (entLoc e) (entRef e) (entBack e)

/-! Statuses (R317) -/

def slBadmap : Nat := 1
def slRange : Nat := 2
def slNoshard : Nat := 3
def slGeom : Nat := 4
def slBusy : Nat := 5
def slShared : Nat := 6
def slNothold : Nat := 7
def slGran : Nat := 8
def slBudget : Nat := 9
def slChain : Nat := 10

/-- The status word. -/
def statusWord (status : Nat) (aliased : Bool) (e : List Word) : Nat :=
  b2n aliased * 2 ^ 24 + entRef e * 2 ^ 14 + entCount e * 2 ^ 7 + entState e * 16 + status

/-! Operations -/

def State.modMap (s : State) (n : Nat) (f : MapOp → MapOp) : State :=
  { s with maps := s.maps.map fun m => if m.id = n then f m else m }

/-- Granules that a resident slate takes (R305). -/
def MapOp.granules (dc gran : Nat) : List Nat := (List.range (slateGranules dc)).map (gran + ·)

/-- Granules return to SCRATCH and their charge returns (R312, R316). -/
def State.releaseGranules (s : State) (b : BrickId) (gs : List Nat) (toPinned : Bool) : State :=
  let x := s.brick b
  let y := gs.foldl (fun (x : Brick) g => if toPinned then x.setBound g false else (x.setBound g false).setPart g 0) x
  (s.setBrick b y).refund x.pinNode 1 (x.pinned.length - y.pinned.length)

/-- The operation's tokens are ready: DATA words. -/
def State.finishWords (s : State) (m : MapOp) (ws : List Nat) : State :=
  s.modMap m.id fun m => { m with phase := .done, out := ws.map fun w => { dataToken w with cls := some .brk, ts := m.ts } }

/-- A status other than OK stops the operation (R316): a PIN resident unbinds its granules first, to what they were (log 17). -/
def State.undoBinding (s : State) (m : MapOp) : State :=
  if m.kind = .pinResident then
    s.releaseGranules m.brick (MapOp.granules (pinDc (wordNat m.block 2)) (pinGran (wordNat m.block 2))) m.wasPinned
  else s

/-- Words of an operation that has a status: one, and for LOOK the entry's two. -/
def MapOp.words (m : MapOp) (status : Nat) (aliased : Bool) (e : List Word) : List Nat :=
  statusWord status aliased e :: (if m.kind = .look then [wordNat e 0, wordNat e 1] else [])

/-- Stop with a status before any entry was read: the fields of the entry are free values (log 17). -/
def State.stopMap (s : State) (m : MapOp) (status : Nat) : State :=
  let (d, s) := s.draw
  let (d', s) := s.draw
  (s.undoBinding m).finishWords m (m.words status false [BitVec.ofNat 64 d, BitVec.ofNat 64 d'])
/-- Stop with a status at an entry. -/
def State.stopAt (s : State) (m : MapOp) (status : Nat) (e : List Word) : State :=
  (s.undoBinding m).finishWords m (m.words status false e)
/-- Complete with OK. -/
def State.okMap (s : State) (m : MapOp) (aliased : Bool) (e : List Word) : State := s.finishWords m (m.words 0 aliased e)

/-- A map access fails: the FAULT token takes the place of the words (R317). -/
def State.failMap (s : State) (m : MapOp) (f : Fail) (va : Nat) : State :=
  (s.undoBinding m).modMap m.id fun m =>
    { m with phase := .done, out := [{ tag := .ctrl, pay := BitVec.ofNat 64 (f.payload va), cls := some .brk, ts := m.ts }] }

/-- The brick that makes an operation's accesses: the one that fired it, and for a release the holder (R316). DEDUCED (log 17): a HELD holder serves no region whose owner map would name an owner, and the entry is then written through the requester's. -/
def State.mapAgent (s : State) (m : MapOp) : BrickId :=
  let h : BrickId := BitVec.ofNat 14 (entLoc m.entry)
  if m.phase = .release && (s.brick h).region.isSome then h else m.brick

/-- The BRK accesses of an operation: each goes to the owner of its page (R240, R310). -/
def State.mapAccessTo (s : State) (m : MapOp) (va : Nat) : Access := { s.ownerAccess (s.mapAgent m) .brk m.ts va with tenancy := m.tenancy }

/-- Bytes at the home slice, of which the owner's L1 takes a copy (R269). -/
def State.homeRead (s : State) (q : Access) (va n : Nat) : Except (Fail × Nat) (List Byte × Nat) × State :=
  match s.classRead q va n, q.via with
  | (.ok r, s), some e => match s.translate q false va with
    | (.ok (pa, _), s) => (.ok r, s.refreshCopy e q.tenancy (pa / 64))
    | (.error _, s) => (.ok r, s)
  | r, _ => r

/-- The owner's L1 copy that serves a read within one line (R269). -/
def State.copyHit (s : State) (q : Access) (va n : Nat) : Option (List Byte × Nat) :=
  match q.via, (s.translate q false va).1 with
  | some e, .ok (pa, leaf) =>
    if 64 < pa % 64 + n || pteKw leaf then none
    else ((s.brick e).edge.l1.find? fun c => c.line = pa / 64 && c.tenancy = q.tenancy && q.floor ≤ c.rts &&
      (List.range n).all fun j => c.bytes.getLsbD (pa % 64 + j)).map fun c => ((c.data.drop (pa % 64)).take n, max q.floor c.wts)
  | _, _ => none

/-- Read words as an ordinary access (R310). -/
def State.mapRead (s : State) (m : MapOp) (va n : Nat) : Except (Fail × Nat) (List Word × Nat) × State :=
  let q := s.mapAccessTo m va
  let words (bs : List Byte) : List Word := (List.range n).map fun i => BitVec.ofNat 64 (leValue ((bs.drop (8 * i)).take 8))
  match s.copyHit q va (8 * n) with
  | some (bs, ts) => (.ok (words bs, ts), (s.translate q false va).2)
  | none => match s.homeRead q va (8 * n) with
    | (.ok (bs, ts), s) => (.ok (words bs, ts), s)
    | (.error f, s) => (.error f, s)

/-- One locked access to an entry, which never crosses a line: read, operate, write in one place of the order, with an atomic's timestamp (R269, R310). `f` gives the new words, or none to leave them, and what follows. -/
def State.lockEntry (s : State) (m : MapOp) (va : Nat) (f : List Word → Option (List Word) × (State → MapOp → State)) : State :=
  let q := s.mapAccessTo m va
  match s.translate q true va with
  | (.error e, s) => s.failMap m e va
  | (.ok (pa, leaf), s) =>
    let s := s.fetchLine q.tenancy pa 16 (s.deadline q || pteDcls leaf) false
    if s.rangeBad pa 16 then (s.hbmUeRecord pa 16).failMap m .memue va
    else
      let bs := ((s.lineBytes (pa / 64) false).drop (pa % 64)).take 16
      let old := [BitVec.ofNat 64 (leValue (bs.take 8)), BitVec.ofNat 64 (leValue (bs.drop 8))]
      let s := s.writeLine pa (((f old).1.getD old).flatMap fun w => leBytes 8 w.toNat) false
      let s := (q.via.map fun e => s.dropCopy e q.tenancy (pa / 64)).getD s
      let (ts, l) := (s.line (pa / 64)).storeTs q.floor
      let m1 := { m with ts := max m.ts ts }
      (f old).2 (((s.setLine (pa / 64) l).noteRegion q.region ts).modMap m.id fun _ => m1) m1

/-- Address of an entry from its shard and index. -/
def entryVa (shard x : Nat) : Nat := shard + 16 * (x % 512)
def MapOp.key (m : MapOp) : Nat := wordNat m.block 1
def MapOp.index (m : MapOp) : Nat := entryIndex m.desc m.key

/-- Go on to a phase. -/
def toPhase (p : MapPhase) (s : State) (m : MapOp) : State := s.modMap m.id fun m => { m with phase := p }

/-- Read a directory word: the shard's page, or NOSHARD with what the operation has read of its own entry (R317). -/
def State.readDir (s : State) (m : MapOp) (x : Nat) (e : Option (List Word)) (k : State → MapOp → Nat → State) : State :=
  match s.mapRead m (descDir m.desc + 8 * (x / 512)) 1 with
  | (.error (e, a), s) => s.failMap m e a
  | (.ok (ws, ts), s) =>
    let m := { m with ts := max m.ts ts }
    let w := wordNat ws 0
    if bit w 0 then k s m (bits w 53 13 * 8192)
    else match e with
      | some e => s.stopAt m slNoshard e
      | none => s.stopMap m slNoshard

/-- PIN resident or stored at entry e (R316). -/
def MapOp.pinned (m : MapOp) : List Word :=
  let w2 := wordNat m.block 2
  let loc := if m.kind = .pinResident then m.brick.toNat + pinGran w2 * 2 ^ 14 else 0
  mkEntry (if m.kind = .pinResident then stResident else stStored) (pinCount w2) loc 0 (wordNat m.block 3)

/-- UNPIN at entry e (R316). -/
def unpinEntry (m : MapOp) (e : List Word) : Option (List Word) × (State → MapOp → State) :=
  let stop (st : Nat) : Option (List Word) × (State → MapOp → State) := (none, fun s m => s.stopAt m st e)
  let st := entState e
  if st = 0 || st = stEvicting then stop slBusy
  else if st ≠ stShared && 0 < entRef e then stop slShared
  else if st = stShared then
    (some entEmpty, fun s m => s.modMap m.id fun m => { m with phase := .untargetDir, tindex := entLoc e, entry := entEmpty })
  else if st = stStored then
    match m.kind with
    | .unpinDrop => (none, fun s m => s.okMap m false e)
    | .unpinErase => (some entEmpty, fun s m => s.okMap m false entEmpty)
    | _ => stop slNothold
  else if m.kind = .unpinKeep then
    if entLoc e % 2 ^ 14 ≠ m.brick.toNat then stop slNothold
    else (some entEmpty, fun s m =>
      (s.releaseGranules m.brick (MapOp.granules (descDc m.desc) (bits (entLoc e) 17 14)) false).okMap m false entEmpty)
  else (some (withState e stEvicting), fun s m => s.modMap m.id fun m => { m with phase := .release, entry := withState e stEvicting })

/-- The access that an operation makes next (R316). -/
def State.mapAccess (s : State) (m : MapOp) : State :=
  match m.phase with
  | .desc =>
    match s.mapRead m (wordNat m.block 0) 8 with
    | (.error (e, a), s) => s.failMap m e a
    | (.ok (d, ts), s) =>
      let m := { m with desc := d, ts := max m.ts ts }
      let placed : Bool := m.kind = .pinResident || m.kind = .pinStored
      let w2 := wordNat m.block 2
      if descMalformed d then s.stopMap m slBadmap
      else if !keyInRange d m.key then s.stopMap m slRange
      else if placed && (pinDc w2 ≠ descDc d || pinFmt w2 ≠ descFmt d) then s.stopMap m slGeom
      else s.modMap m.id fun _ => { m with phase := .dir }
  | .dir => s.readDir m m.index none fun s m shard =>
      if m.kind = .pinShare && !keyInRange m.desc (wordNat m.block 2) then s.stopMap m slRange
      else s.modMap m.id fun _ => { m with shard, phase := if m.kind = .pinShare then .targetDir else .entry, tindex := entryIndex m.desc (wordNat m.block 2) }
  | .entry =>
    let va := entryVa m.shard m.index
    match m.kind with
    | .pinResident | .pinStored =>
      s.lockEntry m va fun e => if entState e ≠ 0 then (none, fun s m => s.stopAt m slBusy e) else (some m.pinned, fun s m' => s.okMap m' false m.pinned)
    | .unpinDrop | .unpinKeep | .unpinErase => s.lockEntry m va (unpinEntry m)
    | .pinShare | .look =>
      match s.mapRead m va 2 with
      | (.error (e, a), s) => s.failMap m e a
      | (.ok (e, ts), s) =>
        let m := { m with ts := max m.ts ts }
        if entState e = stShared then s.modMap m.id fun _ => { m with phase := .aliasDir, tindex := entLoc e, entry := e }
        else (s.modMap m.id fun _ => m).okMap m false e
  | .targetDir => s.readDir m m.tindex none fun s m shard => s.modMap m.id fun _ => { m with tshard := shard, phase := .target }
  | .target => s.lockEntry m (entryVa m.tshard m.tindex) fun t =>
      if (entState t ≠ stResident && entState t ≠ stStored) || entRef t = 1023 then (none, fun s m => s.stopMap m slChain)
      else (some (withRef t (entRef t + 1)), fun s m => s.modMap m.id fun m => { m with phase := .entryShare, entry := t })
  | .entryShare => s.lockEntry m (entryVa m.shard m.index) fun e =>
      let made := mkEntry stShared (entCount m.entry) m.tindex 0 0
      if entState e ≠ 0 then (none, fun s m => s.modMap m.id fun m => { m with phase := .undo, entry := e })
      else (some made, fun s m => s.okMap m false made)
  | .undo => s.lockEntry m (entryVa m.tshard m.tindex) fun t =>
      (some (withRef t (entRef t - 1)), fun s m => s.stopAt m slBusy m.entry)
  | .untargetDir => s.readDir m m.tindex (some (mkEntry stShared 0 0 0 0)) fun s m shard => s.modMap m.id fun _ => { m with tshard := shard, phase := .untarget }
  | .untarget => s.lockEntry m (entryVa m.tshard m.tindex) fun t =>
      (some (withRef t (entRef t - 1)), fun s m => s.okMap m false m.entry)
  | .aliasDir => s.readDir m m.tindex (some m.entry) fun s m shard => s.modMap m.id fun _ => { m with tshard := shard, phase := .aliasEntry }
  | .aliasEntry =>
    match s.mapRead m (entryVa m.tshard m.tindex) 2 with
    | (.error (e, a), s) => s.failMap m e a
    | (.ok (t, ts), s) =>
      let m := { m with ts := max m.ts ts }
      -- COUNT, REF and STATE are the entry's own; the words are the target's
      (s.modMap m.id fun _ => m).finishWords m [statusWord 0 true m.entry, wordNat t 0, wordNat t 1]
  | .release | .done => s

/-- The virtual address of the operation's next access. -/
def MapOp.nextVa (m : MapOp) : Nat :=
  match m.phase with
  | .desc => wordNat m.block 0
  | .dir => descDir m.desc + 8 * (m.index / 512)
  | .targetDir | .untargetDir | .aliasDir => descDir m.desc + 8 * (m.tindex / 512)
  | .target | .undo | .untarget | .aliasEntry => entryVa m.tshard m.tindex
  | .entry | .entryShare | .release | .done => entryVa m.shard m.index

/-- Requests of the owner that come first at a line (R266): those it has taken and not yet performed. -/
def State.aheadAt (s : State) (e : BrickId) (t line : Nat) : List Req :=
  s.reqs.filter fun r => r.owner = e && r.tenancy = t && r.lines.1 ≤ line && line ≤ r.lines.2 &&
    (r.stage = .miss || r.stage = .buffered || r.stage = .toLoft || r.stage = .flash)

/-- The length of that access. -/
def MapOp.nextLen (m : MapOp) : Nat :=
  match m.phase with
  | .desc => 64
  | .dir | .targetDir | .untargetDir | .aliasDir => 8
  | .target | .undo | .untarget | .aliasEntry | .entry | .entryShare | .release | .done => 16

/-- An operation's next access takes its turn at its owner: none of the buffer's stores to the line waits (R242), nothing that the owner took before is to be performed there (R266), and no handover holds the page (R280). -/
def State.mapTurn (s : State) (m : MapOp) (k : State → State) (t : State) : Outcome :=
  match (s.mapAccessTo m m.nextVa).via with
  | none => .next (k t)
  | some e =>
    let line := m.nextVa / 64
    let held : Bool := match (s.brick (s.mapAgent m)).region with
      | some g => s.handoverHolds g e (m.nextVa / 8192)
      | none => false
    if held then .next s
    else if (s.aheadAt e m.tenancy line).isEmpty then s.paged [(s.mapAccessTo m m.nextVa, m.nextVa, m.nextLen)] (.next (k t))
    else .next (s.flushLine e line)

/-- Every earlier request of the brick has returned (R267), and the tenancy is not draining for a rebase (R273). -/
def State.mapMayStep (s : State) (m : MapOp) : Bool :=
  (s.reqs.all fun q => !(q.brick = m.brick && q.seq < m.seq)) &&
  (s.maps.all fun q => !(q.brick = m.brick && q.seq < m.seq)) &&
  !(m.phase = .desc && (s.tenancy m.tenancy).rebasing)

/-- SLATE_MAP_OPERATION (R310, R316). -/
def execSlateMapOperation (n : Nat) (s : State) : Outcome :=
  match s.maps.find? fun m => m.id = n with
  | none => .next s
  | some m =>
    let m' := { m with ts := max m.ts (s.brick m.brick).pts }
    if s.mapMayStep m && m.phase ≠ .release && m.phase ≠ .done then s.mapTurn m (fun t => t.mapAccess m') s else .next s

/-- A dock holds a visit to a slate of the bank that has begun (R338): from the landing until the dock leaves LEAVING. -/
def Brick.visiting (x : Brick) (gran : Nat) : Bool :=
  x.docks.any fun d =>
    match d.stop with
    | .entry w0 _ => d.st ≠ .empty && !bit w0.toNat 31 && bits w0.toNat 23 20 = gran
    | _ => false

/-- SLATE_RELEASE (R316, R23): the holder frees the granules, then writes the entry. -/
def execSlateRelease (n : Nat) (s : State) : Outcome :=
  match s.maps.find? fun m => m.id = n with
  | none => .next s
  | some m =>
    let h : BrickId := BitVec.ofNat 14 (entLoc m.entry)
    let x := s.brick h
    let gran := bits (entLoc m.entry) 17 14
    let firing : Bool := x.firings.any fun f => match f.instr with
      | .slfFire .. => !f.committed
      | _ => false
    let inDocks : Bool := x.docks.any fun d => match d.st with
      | .firing _ _ => true
      | _ => false
    let s1 := s.releaseGranules h (MapOp.granules (descDc m.desc) gran) false
    let s2 := if x.life = .held && (s1.brick h).pinned.isEmpty then s1.modBrick h fun x => { x with life := .free } else s1
    let keep : Bool := m.kind = .unpinDrop && entBack m.entry ≠ 0
    let write (t : State) : State := t.lockEntry m (entryVa m.shard m.index) fun e =>
      let new := if keep then mkEntry stStored (entCount e) 0 (entRef e) (entBack e) else mkEntry 0 0 0 (entRef e) (if m.kind = .unpinErase then 0 else entBack e)
      (some new, fun s m => s.okMap m false new)
    if m.phase = .release && (x.life = .held || (!firing && !inDocks && !x.visiting gran)) then s.mapTurn m write s2 else .next s

/-! PIN, UNPIN and LOOK at their commit (R315) -/

/-- A granule lies in one of the gutter ranges. -/
def inGutters (gs : List (Option Gutter)) (g : Nat) : Bool :=
  gs.any fun q => match q with
    | some q => q.off / 4096 ≤ g && g ≤ (q.off + q.size - 1) / 4096
    | none => false

/-- A granule that something else writes now, or will once the reconfiguration that the brick holds applies: a gutter or a dock. R315 names the gutters; the rest is DEDUCED (log 17) from R318, by which a bound granule's bytes do not change. -/
def Brick.granTaken (x : Brick) (g : Nat) : Bool :=
  inGutters (x.inputs.map (·.gutter)) g || (x.dockBrick && g < 6) || match x.hold with
    | some h => inGutters h.gutters g || (h.pool.any isDockWord && g < 6)
    | none => false

/-- The checks of PIN resident and its binding; the status that fails, if any. -/
def State.bindSlate (s : State) (b : BrickId) (block : List Word) : Except Nat (Bool × State) :=
  let x := s.brick b
  let w2 := wordNat block 2
  let gs := MapOp.granules (pinDc w2) (pinGran w2)
  let scratch : Bool := gs.all fun g => x.part g = 0
  let unbound : Bool := gs.all fun g => x.part g = 1 && !x.isBound g
  let fresh := if scratch then gs.length else 0
  if !(scratch || unbound) || gs.any x.granTaken then .error slGran
  else if x.pinAllow < x.pinned.length + fresh || !s.chargeFits x.pinNode 1 fresh then .error slBudget
  else
    let y := gs.foldl (fun (x : Brick) g => (x.setPart g 1).setBound g true) x
    .ok (unbound, (s.setBrick b y).charge x.pinNode 1 fresh)

/-- An operation starts at its commit. -/
def State.startMap (s : State) (b : BrickId) (k : MapKind) (rch : Nat) (block : List Word) : State :=
  let x := s.brick b
  let m : MapOp := { id := s.nextId, brick := b, seq := x.reqSeq, kind := k, rch, block, tenancy := x.tenancy, ts := x.pts }
  let s := ({ s with nextId := s.nextId + 1 }.modBrick b fun x => { x with reqSeq := x.reqSeq + 1 }).sent b 1
  let add (m : MapOp) (s : State) : State := { s with maps := s.maps ++ [m] }
  if k = .pinResident then
    match s.bindSlate b block with
    | .ok (was, s) => add { m with wasPinned := was } s
    | .error st =>
      let (d, s) := s.draw
      add { m with phase := .done, out := [{ dataToken (d % 2 ^ 24 / 16 * 16 + st) with cls := some .brk }] } s
  else add m s

end Sys2Proof.Machine
end

