-- ==== Sys2Proof/Machine/Streams.lean ====
section
/-! DEFINITION. The stream engine of an edge brick (R250-R261, R511): shape records, draw and parameter ports, and the effects of STRM at its commit. -/

namespace Sys2Proof.Machine

open Sys2Proof

/-! Fields of a shape record (R250) -/

def Shape.w (x : Shape) (i : Nat) : Nat := (x.words.getD i 0).toNat
def Shape.src (x : Shape) : Nat := bits (x.w 0) 53 0
def Shape.dst (x : Shape) : Nat := bits (x.w 1) 53 0
def Shape.fovFmt (x : Shape) : Nat := bits (x.w 3) 35 32
def Shape.fov (x : Shape) : Bool := bit (x.w 3) 36
def Shape.skind (x : Shape) : Nat := bits (x.w 3) 38 37
def Shape.dkind (x : Shape) : Nat := bits (x.w 3) 40 39
def Shape.ndim (x : Shape) : Nat := bits (x.w 3) 44 42
def Shape.eosm (x : Shape) : Nat := bits (x.w 3) 46 45
def Shape.weepBit (x : Shape) : Bool := bit (x.w 3) 47
def Shape.dcl (x : Shape) : Bool := bit (x.w 3) 41
def Shape.nen (x : Shape) : Bool := bit (x.w 3) 48
def Shape.nrt (x : Shape) : Nat := bits (x.w 3) 51 49
def Shape.tile (x : Shape) : Nat := bits (x.w 3) 31 16 + 1
def Shape.ext (x : Shape) (k : Nat) : Nat := (if k < 4 then bits (x.w 2) (16 * k + 15) (16 * k) else bits (x.w 3) 15 0) + 1
def Shape.stride (x : Shape) (k : Nat) : Int :=
  signed 32 (if k < 4 then bits (x.w (4 + k / 2)) (32 * (k % 2) + 31) (32 * (k % 2)) else bits (x.w 6) 31 0)
def Shape.sid (x : Shape) : Nat := bits (x.w 6) 42 32
def Shape.urec (x : Shape) : Nat := bits (x.w 6) 45 43
/-- A bank destination: brick, offset and pointer. -/
def Shape.bankBrick (x : Shape) : BrickId := BitVec.ofNat 14 (bits (x.w 1) 13 0)
def Shape.bankOff (x : Shape) : Nat := bits (x.w 1) 29 14
def Shape.bankPtr (x : Shape) : Nat := bits (x.w 1) 30 30

/-- A malformed record (R250). -/
def Shape.malformed (x : Shape) : Bool :=
  x.eosm = 3 || 4 < x.ndim || x.dkind = 3 || 2 ≤ x.skind || bits (x.w 3) 63 52 ≠ 0 || bits (x.w 6) 63 46 ≠ 0 ||
  (x.skind = 0 && x.dkind = 0) || (x.skind = 1 && x.dkind ≠ 0 && !x.fov)

/-- Elements of a run, E (R251). -/
def Shape.length (x : Shape) : Nat := (List.range (x.ndim + 1)).foldl (fun n k => n * x.ext k) 1

/-- off(n) (R251): dimension 0 is the fastest. -/
def Shape.offset (x : Shape) (n : Nat) : Int :=
  ((List.range (x.ndim + 1)).foldl (fun (p : Nat × Int) k => (p.1 / x.ext k, p.2 + (p.1 % x.ext k : Nat) * x.stride k)) (n, 0)).2

/-- Bits of an element (R137); a plane block moves as raw bytes (R251). -/
def elemBits (fmt : Nat) : Nat :=
  match fmt with
  | 2 | 6 | 7 => 16
  | 3 | 5 => 32
  | 4 => 64
  | 0xA | 0xB => 4
  | _ => 8

/-- Format and geometry by which a record goes: the page's, or FMT's. -/
def Shape.form (x : Shape) : Nat × Nat := x.page.getD (x.fovFmt, 0)
def Shape.perWord (x : Shape) : Nat := 64 / elemBits x.form.1

/-- Where element n lies from a base (R251): byte address, and the high nibble for an odd 4-bit element. DESIGN CHOICE (log 23): an address that leaves the 54-bit virtual space wraps modulo 2^54. -/
def Shape.place (x : Shape) (base n : Nat) : Nat × Bool :=
  let (fmt, geo) := x.form
  let o := x.offset n
  let raw (units : Int) (p : Int) : Nat × Bool :=
    if elemBits fmt = 4 then ((((base : Int) + 8192 * units + p / 2) % 2 ^ 54).toNat, p % 2 = 1)
    else ((((base : Int) + 8192 * units + p * (elemBits fmt / 8 : Nat)) % 2 ^ 54).toNat, false)
  if geo = 1 then
    let per : Int := (mxBlocks fmt * 32 : Nat)
    raw (o / per) (o % per)
  else raw 0 o

/-- The block of element n, counted from base's unit, and its scale byte (R138). -/
def Shape.block (x : Shape) (base n : Nat) : Int × Nat :=
  let fmt := x.form.1
  let per : Int := (mxBlocks fmt * 32 : Nat)
  let o := x.offset n
  let blk := o % per / 32
  (o / per * per + blk, (((base : Int) + 8192 * (o / per) + (mxData fmt : Nat) + blk) % 2 ^ 54).toNat)

/-- R251's demands on a geometry are broken. -/
def Shape.geoBroken (x : Shape) (base geo : Nat) : Bool :=
  match geo with
  | 1 => base % 8192 ≠ 0 || x.stride 0 ≠ 1 || x.ext 0 % 32 ≠ 0
  | 2 => base % 8192 ≠ 0 || x.stride 0 ≠ 1 || x.ext 0 % 512 ≠ 0 || x.tile % 512 ≠ 0
  | _ => false

/-! Shape records in the state -/

def State.shape (s : State) (b : BrickId) (r : Nat) : Shape := (s.brick b).edge.shapes.getD r {}
def State.modShape (s : State) (b : BrickId) (r : Nat) (f : Shape → Shape) : State :=
  s.modBrick b fun x => { x with edge := { x.edge with shapes := modifyAt f r x.edge.shapes } }

/-- DATA words since the last EOS, those not yet sent among them. -/
def Shape.wordsOpen (x : Shape) : Nat :=
  let tail := (x.outq.reverse.takeWhile fun t => t.tag ≠ .eos)
  (tail.filter fun t => t.tag = .data).length + (if tail.length = x.outq.length then x.sent else 0)

/-- What a token of a memory source reports: the class and timestamp of the accesses so far (R277). -/
def Shape.reports (x : Shape) (t : Token) : Token := if x.skind = 0 && x.count ≠ 0 then { t with cls := some .stm, ts := x.ts } else t

/-- The record's own EOS. -/
def Shape.eos (x : Shape) (abort : Bool) : Token := x.reports (eosToken x.sid abort false x.wordsOpen)

/-- The end of a run: EOS as EOSM gives and the record's own WEEP (R250, R256, R257). A tile's EOS is not sent twice. -/
def Shape.close (x : Shape) (abort : Bool) (gen : Nat) : Shape :=
  let eos : Bool := x.dkind = 1 && (x.eosm = 1 || (x.eosm = 2 && (x.tileLeft ≠ 0 || x.wordsOpen ≠ 0)))
  { x with
    fin := true
    outq := x.outq ++ (if eos then [x.eos abort] else []) ++ (if x.dkind = 1 && x.weepBit then [weepToken gen] else []) }

/-- A record faults (R253): on its stream route, or as GSTFAULT. -/
def State.streamFault (s : State) (b : BrickId) (r payload : Nat) : State :=
  let x := s.shape b r
  let fault : Token := { tag := .ctrl, pay := BitVec.ofNat 64 payload }
  let s := s.modBrick b Brick.wake
  if x.skind = 0 && x.dkind = 1 then
    s.modShape b r fun x =>
      { x with state := 2, tileLeft := 0, fin := false
               outq := x.outq ++ [fault] ++ (if x.eosm ≠ 0 then [x.eos true] else []) }
  else
    (s.modShape b r fun x => { x with state := 2, tileLeft := 0, fin := false }).raiseAt b
      { code := 0x02, detail := bits payload 59 56, data := payload }

/-! Memory sides (R251-R253) -/

/-- The accesses of a record of an edge brick: class STM, through that brick's own TLB and flashing unit (R236, R243, R277). -/
def Brick.access (y : Brick) (b : BrickId) (x : Shape) : Access :=
  { cls := .stm, tenancy := y.tenancy, floor := x.ts, region := y.region, via := some b, dcl := x.dcl }

/-- The page of an access of class STM: translation, then format and geometry (R253). -/
def State.streamPage (s : State) (q : Access) (x : Shape) (base : Nat) (write : Bool) (va : Nat) : Except Nat (Nat × Nat) × State :=
  match s.translate q write va with
  | (.error f, s) => (.error (f.payload va), s)
  | (.ok (pa, leaf), s) =>
    let fmtOff : Bool := if x.fov then pteFmt leaf ≠ x.fovFmt else match x.page with
      | some (f, _) => pteFmt leaf ≠ f
      | none => false
    let geoOff : Bool := !x.fov && match x.page with
      | some (_, g) => pteGeo leaf ≠ g
      | none => false
    if fmtOff then (.error (faultPayload 6 1 va), s)
    else if geoOff || x.geoBroken base (pteGeo leaf) then (.error (faultPayload 6 2 va), s)
    else if va % (max 1 (elemBits (pteFmt leaf) / 8)) ≠ 0 then (.error ((Fail.elem 2).payload va), s)
    else (.ok (pa, leaf), s)

/-- The first page that a run touches sets its format and geometry (R253). -/
def State.withPage (s : State) (q : Access) (x : Shape) (base : Nat) (write : Bool) : Except Nat Shape × State :=
  match x.page with
  | some _ => (.ok x, s)
  | none => match s.streamPage q x base write (x.place base 0).1 with
    | (.error p, s) => (.error p, s)
    | (.ok (_, leaf), s) => (.ok { x with page := some (pteFmt leaf, pteGeo leaf) }, s)

/-- Elements n, n + 1, … of a memory source, packed from bit 0 (R252). -/
def State.readElems (s : State) (q : Access) (x : Shape) : Nat → Nat → Except Nat (Nat × Nat) × State
  | 0, _ => (.ok (0, q.floor), s)
  | m + 1, n =>
    let (va, high) := x.place x.src n
    match s.streamPage q x x.src false va with
    | (.error p, s) => (.error p, s)
    | (.ok _, s) =>
      match s.classRead q va (max 1 (elemBits x.form.1 / 8)) with
      | (.error (f, a), s) => (.error (f.payload a), s)
      | (.ok (bs, ts), s) =>
        let v := if elemBits x.form.1 = 4 then (if high then leValue bs / 16 else leValue bs % 16) else leValue bs
        match s.readElems q x m (n + 1) with
        | (.error p, s) => (.error p, s)
        | (.ok (rest, ts'), s) => (.ok (v + 2 ^ elemBits x.form.1 * rest, max ts ts'), s)

/-- The SCALE tokens that go before a word (R252). -/
def State.readScales (s : State) (q : Access) : List (Int × Nat) → Except Nat (List Token) × State
  | [] => (.ok [], s)
  | (_, a) :: rest =>
    match s.classRead q a 1 with
    | (.error (f, va), s) => (.error (f.payload va), s)
    | (.ok (bs, ts), s) =>
      match s.readScales q rest with
      | (.error p, s) => (.error p, s)
      | (.ok toks, s) => (.ok ({ ctrlToken 8 (leValue bs) with cls := some .stm, ts } :: toks), s)

/-- Write one element to a memory destination. -/
def State.writeElem (s : State) (q : Access) (x : Shape) (n v : Nat) : Except Nat Nat × State :=
  let (va, high) := x.place x.dst n
  match s.streamPage q x x.dst true va with
  | (.error p, s) => (.error p, s)
  | (.ok _, s) =>
    if elemBits x.form.1 = 4 then
      match s.classRead q va 1 with
      | (.error (f, a), s) => (.error (f.payload a), s)
      | (.ok (bs, _), s) =>
        match s.classWrite q va [BitVec.ofNat 8 (insertBits (leValue bs) (if high then 4 else 0) 4 v)] with
        | (.error (f, a), s) => (.error (f.payload a), s)
        | (.ok ts, s) => (.ok ts, s)
    else
      match s.classWrite q va (leBytes (elemBits x.form.1 / 8) v) with
      | (.error (f, a), s) => (.error (f.payload a), s)
      | (.ok ts, s) => (.ok ts, s)

/-- Elements n, n + 1, … of a word to a memory destination, in element order. -/
def State.writeElems (s : State) (q : Access) (x : Shape) : Nat → Nat → Nat → Except Nat Nat × State
  | 0, _, _ => (.ok q.floor, s)
  | m + 1, n, v =>
    match s.writeElem q x n (v % 2 ^ elemBits x.form.1) with
    | (.error p, s) => (.error p, s)
    | (.ok ts, s) =>
      match s.writeElems q x m (n + 1) (v / 2 ^ elemBits x.form.1) with
      | (.error p, s) => (.error p, s)
      | (.ok ts', s) => (.ok (max ts ts'), s)

/-- The FAULT payload of KIND BANK (R248). -/
def bankFault (cause : Nat) (b : BrickId) (off : Nat) : Nat := 7 * 2 ^ 60 + 8 * 2 ^ 56 + cause * 2 ^ 52 + off % 65536 * 2 ^ 14 + b.toNat

/-- Word k of a bank destination lands, and its pointer follows (R258); a wall drops it instead (R470), and a bank that is powered off takes nothing (R18; the run goes on, log 18). -/
def State.landWord (s : State) (b : BrickId) (x : Shape) (v : Nat) : Except Nat State :=
  let c := x.bankBrick
  let o := x.bankOff + 8 * x.count
  match s.wallBetween (s.brick b).tenancy b c with
  | some w => .ok (s.wallDrop b w)
  | none =>
  if !s.inService c then .ok s
  else if 65535 < o + 7 then .error (bankFault 1 c o)
  else if !(s.brick c).scratchRange o 8 then .error (bankFault 2 c o)
  else .ok (s.modBrick c fun y => 
      { y.store o (leBytes 8 v) with wp := modifyAt (fun _ => o + 8) x.bankPtr y.wp, wpTs := modifyAt (max x.ts) x.bankPtr y.wpTs })

/-- A run after a DATA word of m elements: tiles, their EOS, and the run's end (R252, R256, R257). -/
def Shape.step (x : Shape) (m gen : Nat) : Shape :=
  let y := { x with next := x.next + m, tileLeft := x.tileLeft - m, count := x.count + 1 }
  let z := if y.tileLeft ≠ 0 then y else
    { y with
      tiles := (y.tiles + 1) % 2 ^ 32
      scaled := []
      outq := if y.dkind = 1 && y.eosm = 2 then y.outq ++ [y.eos false] else y.outq }
  if z.next = z.length then { z.close false gen with surplus := z.skind = 1 } else z

/-! Steps of the stream engine -/

/-- Room on a stream route (R256, R511). -/
def State.routeRoom (s : State) (b : BrickId) (n : Nat) : Bool :=
  !(s.portOf (.so b n)).connected || (s.portOf (.so b n)).skid.length < 4

/-- A memory source goes on only as its route has room, as a stream source takes a token for its route only then, so that TILES and CREDIT follow what has been sent (R511, log 17). -/
def State.sourceRoom (s : State) (b : BrickId) (x : Shape) : Bool := x.skind ≠ 0 || x.dkind ≠ 1 || x.outq.isEmpty && s.routeRoom b (x.dst % 8)

/-- STREAM_TILE_START (R254). -/
def execStreamTileStart (b : BrickId) (r : Nat) (s : State) : Outcome :=
  let x := s.shape b r
  stepWhen (x.state = 1 && x.dkind ≠ 0 && x.tileLeft = 0 && !x.fin && 0 < x.credit && x.next < x.length && s.sourceRoom b x && !s.waveCame b) s
    (s.modShape b r fun x => { x with credit := x.credit - 1, tileLeft := min x.tile (x.length - x.next) })

def State.pushRoute (s : State) (b : BrickId) (n : Nat) (t : Token) : State :=
  s.setPort (.so b n) ((s.portOf (.so b n)).push (.tok t))

/-- The next word of a memory source: read, with its SCALE tokens, and queued for the route or written to the bank. -/
def State.nextWord (s : State) (b : BrickId) (r : Nat) : State :=
  let y := s.brick b
  let q := y.access b (s.shape b r)
  let gen := s.regionGen y
  match s.withPage q (s.shape b r) (s.shape b r).src false with
  | (.error p, s) => s.streamFault b r p
  | (.ok x, s) =>
    let m := min x.perWord x.tileLeft
    let blocks : List (Int × Nat) := if x.form.2 = 1 then (((List.range m).map fun i => x.block x.src (x.next + i)).eraseDups).filter fun q => !x.scaled.contains q.2 else []
    if x.dkind = 2 && x.form.2 = 1 then s.streamFault b r (faultPayload 6 2 (x.place x.src x.next).1)
    else
    match s.readElems q x m x.next with
    | (.error p, s) => s.streamFault b r p
    | (.ok (v, ts), s) =>
      match s.readScales q blocks with
      | (.error p, s) => s.streamFault b r p
      | (.ok scales, s) =>
        let x := { x with ts := max x.ts ts, sendAt := s.now + 1 }
        if x.dkind = 2 then
          match s.landWord b x v with
          | .error p => s.streamFault b r p
          | .ok s => s.modShape b r fun _ => x.step m gen
        else
          s.modShape b r fun _ =>
            ({ x with scaled := x.scaled ++ blocks.map (fun (q : Int × Nat) => q.2), outq := x.outq ++ scales ++ [{ dataToken v with cls := some .stm, ts }] }).step m gen

/-- What the record may send now: a token for NRT, the oldest token for its route, or a new word. -/
inductive SendChoice where
  | none
  | note (t : Token)
  | word (t : Token)
  | read
  deriving DecidableEq, Repr

/-- The choice of what goes next (R256, R257). DESIGN CHOICE (log 17): a token for NRT that waits for its route goes before the record's own words and holds them back. -/
def State.sendChoice (s : State) (b : BrickId) (r : Nat) : SendChoice :=
  let x := s.shape b r
  match x.notes, x.outq with
  | t :: _, _ => if s.routeRoom b x.nrt then .note t else .none
  | [], t :: _ => if s.routeRoom b (x.dst % 8) && (t.tag ≠ .data || x.sendAt ≤ s.now) then .word t else .none
  | [], [] => if x.state = 1 && x.skind = 0 && x.tileLeft ≠ 0 && !x.fin && x.sendAt ≤ s.now && s.sourceRoom b x then .read else .none

/-- The accesses of a record's next word on its memory side: the run's first page, which gives its form, then each element and, with the block scales, each scale. -/
def State.wordAccesses (s : State) (b : BrickId) (x : Shape) (base : Nat) (write : Bool) : List (Access × Nat × Nat) :=
  let q := (s.brick b).access b x
  let first := if x.page.isNone then [(q, (x.place base 0).1, 1)] else []
  match (s.withPage q x base write).1 with
  | .error _ => first
  | .ok y =>
    first ++ (List.range (min y.perWord (if x.tileLeft = 0 then y.perWord else x.tileLeft))).flatMap fun i =>
      (q, (y.place base (x.next + i)).1, 1) :: if y.form.2 = 1 then [(q, (y.block base (x.next + i)).2, 1)] else []

/-- STREAM_WORD_SEND (R251-R253, R511). -/
def execStreamWordSend (b : BrickId) (r : Nat) (s : State) : Outcome :=
  if s.waveCame b then .next s
  else match s.sendChoice b r with
    | .none => .next s
    | .note t => .next ((s.pushRoute b (s.shape b r).nrt t).modShape b r fun x => { x with notes := x.notes.drop 1 })
    | .word t =>
      .next ((s.pushRoute b ((s.shape b r).dst % 8) t).modShape b r fun x =>
        { x with
          outq := x.outq.drop 1
          sent := if t.tag = .data then x.sent + 1 else if t.tag = .eos then 0 else x.sent
          sendAt := if t.tag = .data then s.now + 1 else x.sendAt })
    | .read => s.paged (s.wordAccesses b (s.shape b r) (s.shape b r).src false) (.next (s.nextWord b r))

/-- A token leaves a stream input port. -/
def State.popInput (s : State) (b : BrickId) (r : Nat) (m : Nat) : State :=
  (s.modBrick b fun x => { x with edge := { x.edge with si := modifyAt (·.drop 1) m x.edge.si } }).modShape b r fun x =>
    { x with takeAt := s.now + 1 }

/-- The record can take the oldest token of its stream input port, a cycle after its last (R255-R258, R511): a token that passes on needs room on the record's route. -/
def State.canTake (s : State) (b : BrickId) (r : Nat) : Bool :=
  let x := s.shape b r
  let live : Bool := x.state = 1 && !x.fin
  let room : Bool := x.dkind ≠ 1 || s.routeRoom b (x.dst % 8)
  x.skind = 1 && x.outq.isEmpty && x.state ≠ 2 && !s.waveCame b &&
    match ((s.brick b).edge.si.getD (x.src % 8) []).head? with
    | none => false
    | some t =>
      if t.isMark then room
      else if t.isWeep then room && !(x.state = 1 && x.fin)
      else x.surplus || (room && live && (t.tag = .eos || x.dkind = 0 || x.tileLeft ≠ 0))

/-- A DATA word beyond the record's length is dropped and counted (R257, R263, R264). -/
def State.dropWord (s : State) (b : BrickId) (r : Nat) : State :=
  let first := !(s.shape b r).overSent
  (s.modShape b r fun x => { x with overSent := true }).overcount b none (0x10 + r) first

/-- A DATA word reaches a LIVE run (R255, R256, R258). -/
def State.dataWord (s : State) (b : BrickId) (r : Nat) (tok : Token) : State :=
  let y := s.brick b
  let v := tok.pay.toNat
  let gen := s.regionGen y
  let x0 := s.shape b r
  let x0 := if x0.tileLeft = 0 then { x0 with tileLeft := min x0.tile (x0.length - x0.next) } else x0
  match x0.dkind with
  | 0 =>
    match s.withPage (y.access b x0) x0 x0.dst true with
    | (.error p, s) => s.streamFault b r p
    | (.ok x, s) =>
      let m := min x.perWord x.tileLeft
      match s.writeElems (y.access b x0) x m x.next v with
      | (.error p, s) => s.streamFault b r p
      | (.ok ts, s) => s.modShape b r fun x' => ({ x with ts := max x.ts ts, takeAt := x'.takeAt }).step m gen
  | 1 => s.modShape b r fun _ => ({ x0 with outq := x0.outq ++ [tok] }).step (min x0.perWord x0.tileLeft) gen
  | _ =>
    match s.landWord b x0 v with
    | .error p => s.streamFault b r p
    | .ok s => s.modShape b r fun _ => x0.step (min x0.perWord x0.tileLeft) gen

/-- A SCALE token reaches a LIVE run (R252, R253). DESIGN CHOICE (log 17): where the record writes a bank there is no faulting address, and the VA field of its SHAPEFMT fault is 0. -/
def State.scaleWord (s : State) (b : BrickId) (r : Nat) (tok : Token) : State :=
  let y := s.brick b
  let x0 := s.shape b r
  match x0.dkind with
  | 0 =>
    match s.withPage (y.access b x0) x0 x0.dst true with
    | (.error p, s) => s.streamFault b r p
    | (.ok x, s) =>
      let a := (x.block x.dst x.next).2
      if x.form.2 ≠ 1 then s.streamFault b r (faultPayload 6 2 (x.place x.dst x.next).1)
      else match s.streamPage (y.access b x0) x x.dst true a with
        | (.error p, s) => s.streamFault b r p
        | (.ok _, s) =>
          match s.classWrite (y.access b x0) a [BitVec.ofNat 8 tok.pay.toNat] with
          | (.error (f, va), s) => s.streamFault b r (f.payload va)
          | (.ok ts, s) => s.modShape b r fun x' => { x with ts := max x.ts ts, takeAt := x'.takeAt }
  | 1 => s.modShape b r fun x => { x with outq := x.outq ++ [tok] }
  | _ => s.streamFault b r (faultPayload 6 2 0)

/-- What a stream input token does when its record takes it: a MARK or a WEEP passes on, a WEEP ends the run, a token after the run's end is dropped, an EOS closes it, and a word goes where the record sends it (R255-R258, R263). -/
def State.takeInput (s : State) (b : BrickId) (r : Nat) (t : Token) : State :=
  let x := s.shape b r
  let gen := s.regionGen (s.brick b)
  let t' := (s.popInput b r (x.src % 8)).returned b 1
  let live : Bool := x.state = 1 && !x.fin
  let pass (s : State) : State := if x.dkind = 1 then s.modShape b r fun x => { x with outq := x.outq ++ [t] } else s
  if t.isMark then pass t'
  else if t.isWeep then
    let ended := if live && !x.surplus then t'.modShape b r fun x => x.close false gen else t'
    (if x.weepBit then ended else pass ended).modShape b r fun x => { x with surplus := false }
  else if x.surplus then
    if t.tag = .data then t'.dropWord b r else if t.tag = .eos then t'.modShape b r fun x => { x with surplus := false } else t'
  else if t.tag = .eos then t'.modShape b r fun x => x.close (bit t.pay.toNat 33) gen
  else if t.tag = .data then t'.dataWord b r t
  else if t.subtype = 8 then t'.scaleWord b r t
  else pass t'

/-- A token that a record writes to memory: a word, or a scale, of a run that goes on (R256). -/
def Shape.writesToken (x : Shape) (t : Token) : Bool :=
  x.dkind = 0 && !x.surplus && !t.isMark && !t.isWeep && (t.tag = .data || (t.tag ≠ .eos && t.subtype = 8))

/-- STREAM_INPUT_TAKE (R255-R258, R263): one token a cycle; a token that is written waits for the pages of its places (R228). -/
def execStreamInputTake (b : BrickId) (r : Nat) (s : State) : Outcome :=
  let x := s.shape b r
  match (s.brick b).edge.si.getD (x.src % 8) [] with
  | [] => .next s
  | t :: _ =>
    if s.canTake b r && x.takeAt ≤ s.now then
      s.paged (if x.writesToken t then s.wordAccesses b x x.dst true else []) (.next (s.takeInput b r t))
    else .next s

/-- STREAM_RUN_END (R257): the tokens of the run have gone to the route and its writes have landed. -/
def execStreamRunEnd (b : BrickId) (r : Nat) (s : State) : Outcome :=
  let x := s.shape b r
  let done : Token := { ctrlToken 5 (r * 2 ^ 57 + b2n (x.next < x.length) * 2 ^ 56 + x.next % 2 ^ 32) with cls := some .stm, ts := x.ts }
  stepWhen (x.state = 1 && x.fin && x.outq.isEmpty && !s.waveCame b) s
    ((s.modShape b r fun x =>
      { x with state := 0, fin := false, tileLeft := 0
               notes := if x.dkind ≠ 1 && x.nen then x.notes ++ [done] else x.notes }).modBrick b Brick.wake)

/-- DRAW_PORT_TAKE (R254, R255). -/
def execDrawPortTake (b : BrickId) (s : State) : Outcome :=
  let e := (s.brick b).edge
  match e.dp with
  | [] => .next s
  | t :: rest =>
    let s' := (s.modBrick b fun x => { x with edge := { x.edge with dp := rest, dpAt := s.now + 1 } }).returned b 1
    let v := t.pay.toNat
    let r := bits v 59 57
    stepWhen (e.dpAt ≤ s.now && !s.waveCame b) s
      (if t.tag = .ctrl && t.subtype = 4 then
        s'.modShape b r fun x =>
          { x with
            credit := min 65535 (x.credit + bits v 15 0)
            notes := if x.skind = 1 && x.dkind = 1 && x.nen then x.notes ++ [ctrlToken 4 (x.urec * 2 ^ 57 + bits v 56 0)] else x.notes }
       else s')

/-- PARAM_PORT_TAKE (R261): a PARAM enters the hold register, and any other token is discarded, as every token is at a brick that discards (R191). -/
def execParamPortTake (b : BrickId) (s : State) : Outcome :=
  match s.flights.findIdx? fun f => f.dest = .param b && f.due ≤ s.now with
  | none => .next s
  | some n =>
    match s.flights[n]? with
    | none => .next s
    | some f =>
      let s' := ({ s with flights := removeAt n s.flights }.rcvd f.src 1).returned b 1
      let param : Bool := f.tok.tag = .ctrl && f.tok.subtype = 3 && !(s.brick b).discard
      stepWhen (!param || (s.brick b).edge.pp.isNone) s
        (if param then s'.modBrick b fun x => { x with edge := { x.edge with pp := some (f.tok, false) } } else s')

/-- A record's words under a PARAM (R261). -/
def Shape.param (x : Shape) (field v : Nat) : Shape :=
  let put (i lo n : Nat) : Shape := { x with words := modifyAt (fun w => BitVec.ofNat 64 (insertBits w.toNat lo n v)) i x.words }
  match field with
  | 0 => put 0 0 54
  | 1 => put 1 0 54
  | 6 => put 3 0 16
  | k => put 2 (16 * (k - 2)) 16

/-- PARAM_APPLY (R261). DESIGN CHOICE (log 17): no address is named for the FAULT of KIND PARAM, and its VA field is 0. -/
def execParamApply (b : BrickId) (s : State) : Outcome :=
  match (s.brick b).edge.pp with
  | none => .next s
  | some (t, aligned) =>
    let v := t.pay.toNat
    let r := bits v 59 57
    let x := s.shape b r
    let y := x.param (bits v 56 54) (bits v 53 0)
    let s' := s.modBrick b fun x => { x with edge := { x.edge with pp := none } }
    let fault := 7 * 2 ^ 60 + 7 * 2 ^ 56
    stepWhen (aligned && x.state = 0) s
      (if bits v 56 54 = 7 || y.malformed then
        (if x.dkind = 1 then s'.modShape b r fun x => { x with outq := x.outq ++ [{ tag := .ctrl, pay := BitVec.ofNat 64 fault }] }
         else s'.raiseAt b { code := 0x02, detail := 7, data := fault })
       else s'.modShape b r fun _ => y)

/-! STRM at its commit (R260) -/

/-- ARM: a bank destination's pointer returns to O (R258), and the run's accesses take the fence's floor (R277). -/
def State.armShape (s : State) (b : BrickId) (r : Nat) : State :=
  let x := s.shape b r
  let s := if x.dkind ≠ 2 then s
    else match s.wallBetween (s.brick b).tenancy b x.bankBrick with
      | some w => s.wallDrop b w
      | none => if !s.inService x.bankBrick then s else s.modBrick x.bankBrick fun y =>
        { y with wp := modifyAt (fun _ => x.bankOff) x.bankPtr y.wp, wpTs := modifyAt (fun _ => 0) x.bankPtr y.wpTs }
  s.modShape b r fun x =>
    { x with state := 1, credit := 0, next := 0, tiles := 0, tileLeft := 0, count := 0, page := none, scaled := [], fin := false
             overSent := false, ts := (s.brick b).fence }

/-- ABORT: words of the run that have not gone are dropped, those of a run that has ended are not. -/
def State.abortShape (s : State) (b : BrickId) (r : Nat) : State :=
  (s.modBrick b Brick.wake).modShape b r fun x =>
    if x.state = 1 then
      let y := { x with outq := (x.outq.reverse.dropWhile fun (t : Token) => t.tag = Tag.data || (t.tag = Tag.ctrl && t.subtype = 8)).reverse }
      { y with state := 0, fin := false, tileLeft := 0
               outq := if y.dkind = 1 && y.eosm ≠ 0 && !y.fin then y.outq ++ [y.eos true] else y.outq }
    else { x with state := 0 }

end Sys2Proof.Machine
end

