-- ==== Sys2Proof/Machine/Links.lean ====
section
/-! DEFINITION. The link layer of a scale-out port (R441, R442): sequence numbers, CRC, acknowledgement, replay and credit. What R442 leaves to the layer is log 20. -/

namespace Sys2Proof.Machine

open Sys2Proof

/-- Types of a flit (R442). -/
def flFrame : Nat := 1
def flCkpt : Nat := 3
def flCredit : Nat := 4
def flAck : Nat := 5

/-- A flit: header, 240 B of payload, trailer (R442). -/
def linkFlit (kind ten seq : Nat) (payload : List Byte) : List Byte :=
  let used := payload.take 240
  let l := leBytes 8 (kind % 16 + ten % 64 * 2 ^ 4 + seq % 4096 * 2 ^ 10 + used.length * 2 ^ 22) ++ used ++ List.replicate (240 - used.length) 0
  l ++ leBytes 8 (crc32 l)

/-- An acknowledgement of everything up to `seq`; it takes no place in the sequence itself. -/
def ScalePort.sendAck (p : ScalePort) (ten : Nat) : ScalePort := { p with tx := p.tx ++ [linkFlit flAck ten p.acked []] }

/-- Send what waits, oldest first, while the replay buffer has a place among its 512 and the tenancy a credit; credits themselves need none. -/
def ScalePort.pump : Nat → ScalePort → ScalePort
  | 0, p => p
  | n + 1, p =>
    match p.queue with
    | [] => p
    | (kind, ten, payload) :: rest =>
      let credit := p.credit.getD ten 0
      if p.replay.length < 512 && (kind = flCredit || 0 < credit) then
        let flit := linkFlit kind ten p.seq payload
        ScalePort.pump n { p with
          queue := rest, seq := (p.seq + 1) % 4096, replay := p.replay ++ [flit], tx := p.tx ++ [flit]
          credit := if kind = flCredit then p.credit else p.credit.set ten (credit - 1) }
      else p
def ScalePort.sendAll (p : ScalePort) : ScalePort := p.pump p.queue.length

/-- Payloads of one type wait for the link. -/
def ScalePort.queueAll (p : ScalePort) (kind ten : Nat) (payloads : List (List Byte)) : ScalePort :=
  { p with queue := p.queue ++ payloads.map fun l => (kind, ten, l) }.sendAll

/-- An acknowledgement of `seq`: the flits up to it leave the replay buffer. One that acknowledges nothing new while flits are out asks for a go-back-N replay of them all. -/
def ScalePort.acknowledged (p : ScalePort) (seq : Nat) : ScalePort × Bool :=
  let n := (seq + 4097 + p.replay.length - p.seq) % 4096
  if 0 < n && n ≤ p.replay.length then ({ p with replay := p.replay.drop n }.sendAll, false)
  else if p.replay.isEmpty then (p, false)
  else ({ p with tx := p.tx ++ p.replay }, true)

/-- A flit in sequence is taken and acknowledged. -/
def ScalePort.took (p : ScalePort) (ten : Nat) : ScalePort :=
  { p with expect := (p.expect + 1) % 4096, acked := p.expect }.sendAck ten

/-- A delivered flit returns its credit to the sender. -/
def ScalePort.deliver (p : ScalePort) (kind ten : Nat) (payload : List Byte) : ScalePort :=
  { p with rx := p.rx ++ [(kind, ten, payload)] }.queueAll flCredit ten [leBytes 8 1]

/-- A credit flit grants flits to its tenancy. -/
def ScalePort.granted (p : ScalePort) (ten : Nat) (payload : List Byte) : ScalePort :=
  { p with credit := p.credit.set ten (p.credit.getD ten 0 + leValue payload) }.sendAll

def State.port (s : State) (p : Nat) : ScalePort := s.ports.getD p {}
def State.modPort (s : State) (p : Nat) (f : ScalePort → ScalePort) : State := { s with ports := s.ports.set p (f (s.port p)) }

/-- No tenancy holds the port: it carries checkpoint streams of the device owner, and nothing else (R441). -/
def State.ownersPort (s : State) (p : Nat) : Bool := p < 36 && s.tenancies.all fun e => !(e.2.cfg.getLsbD 63 && e.2.port.getLsbD p)

/-- The ports of a mask over which a checkpoint can pass (R440, R441). -/
def State.carriers (s : State) (mask : Nat) : List Nat := (List.range 36).filter fun p => bit mask p && s.ownersPort p && !(s.unit (.port p)).down

/-- Bytes that a tenancy sends to another package go over the lowest of its ports that is up, as FRAME flits. -/
def State.sendAbroad (s : State) (t : Nat) (l : List Byte) : State :=
  match (List.range 36).find? fun p => (s.tenancy t).port.getLsbD p && !(s.unit (.port p)).down with
  | some p => s.modPort p fun x => x.queueAll flFrame t ((List.range ((l.length + 239) / 240)).map fun i => (l.drop (240 * i)).take 240)
  | none => s

end Sys2Proof.Machine
end

