-- ==== Sys2Proof/Machine/Yealms.lean ====
section
/-! DEFINITION. Yealms: docks, the ring engine, frames and the ring port (R319-R340). -/

namespace Sys2Proof.Machine

open Sys2Proof

/-! Fields of a yealm (R319, R320) -/

def Brick.yRows (x : Brick) (k : Nat) : Nat := bits (x.dockWord k 1) 22 16
def Brick.yDim (x : Brick) (k : Nat) : Nat := headDim (bits (x.dockWord k 1) 25 24)
def Brick.ySize (x : Brick) (k : Nat) : Nat := yealmSize (x.dockWord k 1)
def Brick.yFlits (x : Brick) (k : Nat) : Nat := ceilDiv (x.ySize k) 64
def Brick.yHome (x : Brick) (k : Nat) : Nat := bits (x.dockWord k 1) 53 40
def Brick.yPkg (x : Brick) (k : Nat) : Nat := bits (x.dockWord k 1) 59 54
def Brick.yNstop (x : Brick) (k : Nat) : Nat := bits (x.dockWord k 6) 15 0
def Brick.yVis (x : Brick) (k : Nat) : Nat := bits (x.dockWord k 6) 31 16
def Brick.yFault (x : Brick) (k : Nat) : Bool := bit (x.dockWord k 6) 33
/-- Byte addresses of m, l, acc and Q. -/
def Brick.yM (_x : Brick) (k r : Nat) : Nat := dockBase k + 64 + 4 * r
def Brick.yL (x : Brick) (k r : Nat) : Nat := dockBase k + 64 + 4 * x.yRows k + 4 * r
def Brick.yAcc (x : Brick) (k r e : Nat) : Nat := dockBase k + 64 + 8 * x.yRows k + 4 * (r * x.yDim k + e)
def Brick.yQ (x : Brick) (k r e : Nat) : Nat := dockBase k + 64 + 8 * x.yRows k + 4 * x.yRows k * x.yDim k + 2 * (r * x.yDim k + e)

/-- A 4 B and a 2 B value of the bank. -/
def Brick.read4 (x : Brick) (a : Nat) : Nat := leValue (cellsRead x.bank a 4)
def Brick.read2 (x : Brick) (a : Nat) : Nat := leValue (cellsRead x.bank a 2)
def Brick.f32 (x : Brick) (a : Nat) : Val := fp32.dec (x.read4 a)

/-- Replace header word w. -/
def Brick.setDockWord (x : Brick) (k w v : Nat) : Brick := x.store (dockBase k + 8 * w) (leBytes 8 v)
/-- Set FAULT and FCODE (R336). -/
def Brick.yFail (x : Brick) (k code : Nat) : Brick :=
  x.setDockWord k 6 (insertBits (insertBits (x.dockWord k 6) 33 1 1) 36 4 code)

/-- Fault codes of R336. -/
def fcXlate : Nat := 1
def fcMemue : Nat := 2
def fcBadstop : Nat := 3
def fcNoslate : Nat := 4
def fcGeom : Nat := 5

/-- Fields of a route entry (R322). -/
def entBrick (w0 : Nat) : BrickId := BitVec.ofNat 14 (bits w0 13 0)
def entPkg (w0 : Nat) : Nat := bits w0 19 14
def entGran (w0 : Nat) : Nat := bits w0 23 20
def entPositions (w0 : Nat) : Nat := bits w0 30 24
def entHbm (w0 : Nat) : Bool := bit w0 31
def entSfmt (w0 : Nat) : Nat := bits w0 35 32
def entPstart (w0 : Nat) : Nat := bits w0 63 36

/-- The words of a dock's stop register. -/
def Dock.entryWords (d : Dock) : Nat × Nat :=
  match d.stop with
  | .entry w0 w1 => (w0.toNat, w1.toNat)
  | _ => (0, 0)

/-! Launch (R333) -/

/-- The launch copy starts at its commit in cycle c, in the lowest EMPTY dock, which it names. -/
def State.startLaunch (s : State) (b : BrickId) (off c : Nat) : Nat × State :=
  let x := s.brick b
  let k := (x.docks.findIdx? fun d => d.st = .empty).getD 0
  let y := yealmSize (wordNat (x.wordsAt off 2) 1)
  let ends := c + 4 + ceilDiv y 64
  (k, s.modBrick b fun x =>
    { x.modDock k fun _ => { st := .copying off y ends, stop := .home, floor := x.fence } with ringFree := max x.ringFree ends })

/-- The dock's bytes after a launch copy. -/
def Brick.launchCopy (x : Brick) (k off : Nat) : Brick :=
  let ws := x.wordsAt off 8
  let w1 := wordNat ws 1
  let rows := bits w1 22 16
  let d := headDim (bits w1 25 24)
  let header := (ws.take 6).map BitVec.toNat ++ [wordNat ws 6 % 65536, 0]
  let q := 64 + 8 * rows + 4 * rows * d
  let bytes := header.flatMap (leBytes 8) ++ (List.replicate rows (leBytes 4 0xFF80_0000)).flatten ++
    List.replicate (4 * rows + 4 * rows * d) 0 ++ cellsRead x.bank (off + q) (2 * rows * d)
  let y := x.store (dockBase k) bytes
  let bad := (List.range ((2 * rows * d + 7) / 8)).filter fun i => x.wordUe ((off + q) / 8 + i)
  { y with bankUe := y.bankUe ++ bad.map fun i => (dockBase k + q) / 8 + i }

/-- LAUNCH_COPY_END (R324, R333): the dock is DOCKED without a notice. -/
def execLaunchCopyEnd (b : BrickId) (dock : Nat) (s : State) : Outcome :=
  match ((s.brick b).dock dock).st with
  | .copying off _ ends =>
    stepWhen (ends ≤ s.now) s (s.modBrick b fun x => ((x.launchCopy dock off).modDock dock fun d => { d with st := .docked }).wake)
  | _ => .next s

/-! Hops (R327, R334) -/

/-- A route entry breaks R322, or holds more positions than its slate (R305, R334). -/
def entryBroken (w0 w1 dc : Nat) : Bool :=
  !isHalf (entSfmt w0) || entPositions w0 = 0 || slatePmax dc < entPositions w0 || bits w1 63 54 ≠ 0 || w1 % 8192 ≠ 0 || (!entHbm w0 && w1 ≠ 0)

/-- The next stop of a leaving yealm: package, brick, stop register, and a fault code where the yealm goes home with one (R334). -/
structure Hop where
  pkg : Nat
  brick : BrickId
  stop : Stop
  fcode : Option Nat := none
  deriving DecidableEq, Repr

/-- The yealm in a dock has taken an RNG access with a timestamp. -/
def Brick.raiseDock (x : Brick) (k ts : Nat) : Brick := x.modDock k fun d => { d with ts := max d.ts ts }

/-- A yealm that goes on reads its next route entry; one with a fault, or past its last stop, goes home (R334). -/
def Brick.goesHome (x : Brick) (k : Nat) : Bool := x.yFault k || x.yNstop k ≤ x.yVis k
/-- The virtual address of the next route entry. -/
def Brick.hopVa (x : Brick) (k : Nat) : Nat := bits (x.dockWord k 5) 53 0 + 16 * x.yVis k
def State.hopAccess (s : State) (b : BrickId) (k : Nat) : Access := s.ownerAccess b .rng ((s.brick b).dock k).floor ((s.brick b).hopVa k)

def State.nextHop (s : State) (b : BrickId) (k : Nat) : Hop × State :=
  let x := s.brick b
  let home (f : Option Nat) : Hop := { pkg := x.yPkg k, brick := BitVec.ofNat 14 (x.yHome k), stop := .home, fcode := f }
  if x.goesHome k then (home none, s)
  else
    match s.classRead (s.hopAccess b k) (x.hopVa k) 16 with
    | (.error _, s) => (home (some fcXlate), s)
    | (.ok (bs, ts), s) =>
      let s := s.modBrick b fun x => x.raiseDock k ts
      let w0 := leValue (bs.take 8)
      let w1 := leValue (bs.drop 8)
      let inside : Bool := match x.region with
        | some g => s.inRegion g (entBrick w0).toNat && (s.brick (entBrick w0)).dockBrick
        | none => false
      let far : Bool := entPkg w0 ≠ Config.podPosition
      let bad : Bool := if far then (s.tenancy x.tenancy).port = 0 else !inside
      if entryBroken w0 w1 (bits (x.dockWord k 1) 25 24) then (home (some fcGeom), s)
      else if bad then (home (some fcBadstop), s)
      else ({ pkg := entPkg w0, brick := entBrick w0, stop := .entry (BitVec.ofNat 64 w0) (BitVec.ofNat 64 w1) }, s)

/-- The granules of an HBM slate may take its words (R328). -/
def Brick.fetchOk (x : Brick) (w0 dc : Nat) : Bool :=
  (List.range (slateGranules dc)).all fun i =>
    let g := entGran w0 + i
    g < 16 && x.part g = 0 && !(x.dockBrick && g < 6) && x.inputs.all fun i => match i.gutter with
      | some q => !(q.off / 4096 ≤ g && g ≤ (q.off + q.size - 1) / 4096)
      | none => true

/-- A yealm's bytes start to land in a dock under a stop (R324, R326, R328). -/
def State.landFrame (s : State) (b : BrickId) (k : Nat) (stop : Stop) (data : List Byte) (ue : List Nat) (ts floor : Nat) : State :=
  let w0 := ({ stop : Dock }).entryWords.1
  s.modBrick b fun x =>
    let y := x.store (dockBase k) data
    let fetch := entHbm w0
    let ok := x.fetchOk w0 (bits (y.dockWord k 1) 25 24)
    { y.modDock k fun _ => { st := .landing (s.now + ceilDiv data.length 64) fetch, stop, fetched := !fetch || ok, hold := fetch && ok, ts, floor } with
      bankUe := y.bankUe ++ ue.map (dockBase k / 8 + ·) }

/-- A rule takes a dock out of DOCKED at its commit: the granules of its visit are free (R328), FIRE and ROUTE take their place in the order of the ring port (R327), and the accesses that follow carry the firing's floor (R277). -/
def State.takeDock (s : State) (b : BrickId) (k : Nat) (st : DockState) : State :=
  { s with nextId := s.nextId + 1 }.modBrick b fun x => x.modDock k fun d => { d with st, hold := false, order := s.nextId, floor := max d.floor x.fence }

/-- ROUTE at its commit: the dock leaves from cycle `ready` on. -/
def State.routeDock (s : State) (b : BrickId) (k ready : Nat) : State := s.takeDock b k (.leaving ready)

/-- The frame of a leaving dock goes to its next stop (R326, R334); one for another package leaves over the pod's links. -/
def State.sendFrame (s : State) (b : BrickId) (k : Nat) : State :=
  let (hop, s) := s.nextHop b k
  let s := match hop.fcode with
    | some c => s.modBrick b fun x => x.yFail k c
    | none => s
  let x := s.brick b
  let data := cellsRead x.bank (dockBase k) (x.ySize k)
  let ue := (List.range ((x.ySize k + 7) / 8)).filter fun i => x.wordUe (dockBase k / 8 + i)
  let here : Bool := hop.pkg = Config.podPosition
  if here && hop.brick = b then s.landFrame b k hop.stop data ue (x.dock k).ts (x.dock k).floor
  else
    let fromHome : Bool := x.yHome k = b.toNat && x.yPkg k = Config.podPosition
    let s := s.modBrick b fun x =>
      { x.modDock k fun d => { d with st := .sending (s.now + x.yFlits k - 1) } with away := x.away + b2n fromHome }
    let f : Frame := { src := b, target := hop.brick, pkg := hop.pkg, stop := hop.stop, data, ue, ts := (x.dock k).ts, floor := (x.dock k).floor, due := s.now + frameLatency b hop.brick }
    (if here then { s with frames := s.frames ++ [f] } else s.sendAbroad x.tenancy data).sent b 1

/-- No other dock of the brick is to send a frame for a FIRE or ROUTE step that committed earlier (R327). -/
def Brick.sendTurn (x : Brick) (k : Nat) : Bool :=
  x.docks.all fun d => match d.st with
    | .leaving _ | .firing true _ => (x.dock k).order ≤ d.order
    | _ => true

/-- RING_PORT_SEND (R334): the first flit leaves, in the order in which ROUTE or FIRE steps committed (R327), and the dock is EMPTY after the last. -/
def execRingPortSend (b : BrickId) (dock : Nat) (s : State) : Outcome :=
  match ((s.brick b).dock dock).st with
  | .leaving ready =>
    let x := s.brick b
    if ready ≤ s.now && x.sendTurn dock then
      s.paged (if x.goesHome dock then [] else [(s.hopAccess b dock, x.hopVa dock, 16)]) (.next (s.sendFrame b dock))
    else .next s
  | .sending ends => stepWhen (ends < s.now) s (s.modBrick b fun x => (x.modDock dock fun _ => {}).wake)
  | _ => .next s

/-- A frame whose target is the HOME of its yealm, whatever its stop (R326). -/
def Frame.returning (f : Frame) : Bool :=
  let w1 := leValue ((f.data.drop 8).take 8)
  bits w1 53 40 = f.target.toNat && bits w1 59 54 = Config.podPosition

/-- A frame may land now, its turn come, in a dock brick of its region: a returning one in any EMPTY dock, a visiting one under R326's count and behind the visiting frames that have parked before it. DEDUCED (log 17): a HOME that names no such brick, as one that is out of service (R18), leaves the frame parked there. -/
def State.frameFits (s : State) (n : Nat) (f : Frame) : Bool :=
  let x := s.brick f.target
  let before := if f.parked then s.frames.take n else s.frames
  s.inService f.target && x.dockBrick && x.region = (s.brick f.src).region &&
  if f.returning then 1 ≤ x.emptyDocks
  else x.dockRoom s.now && before.all fun g => !(g.target = f.target && g.parked && !g.returning)

/-- FRAME_LAND (R326, R327): frames of one sender to one target arrive in order, and one that cannot land parks behind those parked before it, held state and no token in flight. -/
def execFrameLand (n : Nat) (s : State) : Outcome :=
  match s.frames[n]? with
  | none => .next s
  | some f =>
    let turn : Bool := (s.frames.take n).all fun g => g.parked || !(g.src = f.src && g.target = f.target)
    let rest := removeAt n s.frames
    let k := ((s.brick f.target).docks.findIdx? fun d => d.st = .empty).getD 0
    let landed := ({ s with frames := rest }.landFrame f.target k f.stop f.data f.ue f.ts f.floor).modBrick f.target fun x =>
      { x with away := x.away - b2n f.returning }
    if s.frameFits n f then stepWhen (f.due ≤ s.now && (f.parked || turn)) s (if f.parked then landed else landed.rcvd f.src 1)
    else stepWhen (f.due ≤ s.now && !f.parked && turn) s ({ s with frames := rest ++ [{ f with parked := true }] }.rcvd f.src 1)

/-- The access that fetches an HBM slate: by the owner of BACK's page. -/
def State.fetchAccess (s : State) (b : BrickId) (k : Nat) : Access × Nat × Nat :=
  let x := s.brick b
  let va := bits (x.dock k).entryWords.2 53 0
  (s.ownerAccess b .stm (x.dock k).floor va, va, slateBytes (bits (x.dockWord k 1) 25 24))

/-- The HBM slate of a visit is fetched as STM accesses, which the owner of its page makes (R328). DEDUCED (log 17): granules that a PIN has bound since the landing began take no word of it (R318), and the fetch does not land. -/
def State.fetchSlate (s : State) (b : BrickId) (k : Nat) : State :=
  let x := s.brick b
  let d := x.dock k
  if !d.fetched then s
  else if !x.fetchOk d.entryWords.1 (bits (x.dockWord k 1) 25 24) then s.modBrick b fun x => x.modDock k fun d => { d with fetched := false }
  else
    match s.classRead (s.fetchAccess b k).1 (s.fetchAccess b k).2.1 (s.fetchAccess b k).2.2 with
    | (.ok (bs, ts), s) => s.modBrick b fun x => (x.store (4096 * entGran d.entryWords.1) bs).modDock k fun d => { d with stm := some ts }
    | (.error _, s) => s.modBrick b fun x => x.modDock k fun d => { d with fetched := false }

/-- The notice token (R325), which reports the yealm's RNG accesses, and the fetch of an HBM slate (R277, R328). -/
def Brick.notice (x : Brick) (k : Nat) : Token :=
  let d := x.dock k
  { dataToken (k % 2 + b2n ((x.dock k).stop = .home) * 2 + b2n (x.yFault k) * 4 + x.yVis k * 2 ^ 16 + x.dockWord k 0 % 2 ^ 32 * 2 ^ 32) with
    cls := if d.stm.isSome then some .stm else some .rng, ts := d.stm.getD d.ts, rng := if d.stm.isSome then d.ts else 0 }

/-- DOCK_NOTICE (R324, R325, R328): the landing ends, with its fetch; then the notice enters, in the order of landing. -/
def execDockNotice (b : BrickId) (dock : Nat) (s : State) : Outcome :=
  let x := s.brick b
  match (x.dock dock).st with
  | .landing ends fetch =>
    let t := if fetch then s.fetchSlate b dock else s
    if ends < s.now then
      s.paged (if fetch && (x.dock dock).fetched then [s.fetchAccess b dock] else [])
        (.next ({ t with nextId := t.nextId + 1 }.modBrick b fun x => x.modDock dock fun d => { d with st := .noticing t.nextId }))
    else .next s
  | .noticing order =>
    let first : Bool := x.docks.all fun d => match d.st with
      | .noticing o => order ≤ o
      | _ => true
    let ch := x.note.getD 0
    stepWhen (first && s.accepts (.input b ch) (x.notice dock)) s
      (((s.modBrick b fun x => x.modDock dock fun d => { d with st := .docked }).arriveInput b ch (x.notice dock)).modBrick b Brick.wake)
  | _ => .next s

/-! FIRE (R329, R336, R337) -/

/-- FIRE at its commit in cycle c: it ends 16 + ceil(ROWS·COUNT·d / 64) cycles later, at least. -/
def State.startFire (s : State) (b : BrickId) (k : Nat) (fwd : Bool) (c : Nat) : State :=
  let x := s.brick b
  let ends := c + 16 + ceilDiv (x.yRows k * entPositions (x.dock k).entryWords.1 * x.yDim k) 64
  (s.takeDock b k (.firing fwd ends)).modBrick b fun x => { x with ringFree := max x.ringFree (ends + 1) }

/-- The query position of a row (R320). -/
def Brick.qpos (x : Brick) (k r : Nat) : Nat := x.dockWord k 2 % 2 ^ 32 + r / 2 ^ bits (x.dockWord k 1) 38 36

/-- The bitmap byte that row r and position p need, and the bit in it; none where p lies outside the bitmap (R329). -/
def Brick.bitmapPlace (x : Brick) (k r p : Nat) : Option (Nat × Nat) :=
  let w3 := x.dockWord k 3
  let mpar := w3 % 2 ^ 32
  let mrs := bits w3 47 32
  if p < mpar || 8 * mrs ≤ p - mpar then none
  else some (bits (x.dockWord k 4) 53 0 + r * mrs + (p - mpar) / 8, (p - mpar) % 8)

/-- Position p is masked for row r, given the bitmap bytes that were read (R329). -/
def Brick.masked (x : Brick) (k r p : Nat) (map : List (Nat × Nat)) : Bool :=
  let q := x.qpos k r
  let mpar := x.dockWord k 3 % 2 ^ 32
  match bits (x.dockWord k 1) 34 32 with
  | 0 => false
  | 1 => q < p
  | 2 => q < p || p + mpar ≤ q
  | 3 => q < p || p < mpar
  | _ =>
    match x.bitmapPlace k r p with
    | none => true
    | some (a, i) => !bit (((map.find? fun e => e.1 = a).map (·.2)).getD 0) i

/-- The read of a byte of the BITMAP, by the owner of its page. -/
def State.bitmapAccess (s : State) (b : BrickId) (k a : Nat) : Access × Nat × Nat :=
  (s.ownerAccess b .rng ((s.brick b).dock k).floor (a % 2 ^ 54), a % 2 ^ 54, 1)

/-- Read single bytes as RNG accesses of the yealm in a dock. -/
def State.readBytesAt (s : State) (b : BrickId) (k : Nat) : List Nat → Option (List (Nat × Nat)) × State
  | [] => (some [], s)
  | a :: rest =>
    match s.classRead (s.bitmapAccess b k a).1 (a % 2 ^ 54) 1 with
    | (.error _, s) => (none, s)
    | (.ok (bs, ts), s) =>
      match (s.modBrick b fun x => x.raiseDock k ts).readBytesAt b k rest with
      | (some l, s) => (some ((a, leValue bs) :: l), s)
      | (none, s) => (none, s)

/-- K row j and V row j of a slate at byte o (R306). -/
def Brick.slateRow (x : Brick) (o d fmt row : Nat) : List Val :=
  (List.range d).map fun e => (Fmt.ofPage fmt).dec (x.read2 (o + 2 * (row * d + e)))

/-- The greatest of values, NaN if any of them is (R337). -/
def maxVal (vs : List Val) (v0 : Val) : Val :=
  if (v0 :: vs).any Val.isNan then .nan else vs.foldl (fun a v => if Val.below a v then v else a) v0

/-- Row r of a visit: the new m, l and acc as bits (R337). -/
def Brick.fireRow (x : Brick) (k r : Nat) (map : List (Nat × Nat)) : Nat × Nat × List Nat :=
  let (w0, _) := (x.dock k).entryWords
  let d := x.yDim k
  let o := 4096 * entGran w0
  let pmax := slatePmax (bits (x.dockWord k 1) 25 24)
  let n := entPositions w0
  let qf := Fmt.ofPage (bits (x.dockWord k 1) 29 26)
  let q := (List.range d).map fun e => qf.dec (x.read2 (x.yQ k r e))
  let scale := fp32.dec (bits (x.dockWord k 2) 63 32)
  let ts := (List.range n).map fun j =>
    let sc := dot32grp q (x.slateRow o d (entSfmt w0) j) (.zero false)
    if x.masked k r (entPstart w0 + j) map then Val.inf true else rne32 (sc.mul scale)
  let m := x.f32 (x.yM k r)
  let l := x.f32 (x.yL k r)
  let acc := (List.range d).map fun e => x.f32 (x.yAcc k r e)
  let mn := maxVal ts m
  if mn = .inf true then (x.read4 (x.yM k r), x.read4 (x.yL k r), (List.range d).map fun e => x.read4 (x.yAcc k r e))
  else if mn.isNan || mn = .inf false then (fp32.nan, fp32.nan, List.replicate d fp32.nan)
  else
    let sub (v : Val) : Val := exp2x32 (rne32 (v.add mn.neg 0))
    let a := sub m
    let ps := ts.map sub
    let l' := ps.foldl (fun l p => rne32 (l.add p 0)) (rne32 (a.mul l))
    let acc' := acc.zipIdx.map fun (v, e) =>
      (ps.zipIdx).foldl (fun c (p, j) => rne32 ((p.mul ((x.slateRow o d (entSfmt w0) (pmax + j)).getD e (.zero false))).add c 0)) (rne32 (a.mul v))
    (fp32.enc mn, fp32.enc l', acc'.map fp32.enc)

/-- Words of the dock and of the slate's rows that FIRE reads. -/
def Brick.fireUe (x : Brick) (k : Nat) : Bool :=
  let (w0, _) := (x.dock k).entryWords
  let d := x.yDim k
  let pmax := slatePmax (bits (x.dockWord k 1) 25 24)
  let rows := 2 * entPositions w0 * d
  let hit (o n : Nat) : Bool := (List.range (n / 8)).any fun i => x.wordUe (o / 8 + i)
  hit (dockBase k) (x.ySize k + 7) || hit (4096 * entGran w0) rows || hit (4096 * entGran w0 + 2 * pmax * d) rows

/-- The bytes of the BITMAP that a visit reads. -/
def Brick.bitmapPlaces (x : Brick) (k : Nat) : List Nat :=
  let w0 := (x.dock k).entryWords.1
  if bits (x.dockWord k 1) 34 32 = 4 then
    ((List.range (x.yRows k)).flatMap fun r => (List.range (entPositions w0)).filterMap fun j => (x.bitmapPlace k r (entPstart w0 + j)).map (·.1)).eraseDups
  else []

/-- The fault that a visit meets before it reads the BITMAP (R336). -/
def Brick.visitFault (x : Brick) (k : Nat) : Option Nat :=
  let d := x.dock k
  let w0 := d.entryWords.1
  let dc := bits (x.dockWord k 1) 25 24
  let gs := (List.range (slateGranules dc)).map (entGran w0 + ·)
  let noSlate : Bool := if entHbm w0 then !d.fetched else gs.any fun g => 16 ≤ g || x.part g ≠ 1 || !x.isBound g
  if noSlate then some fcNoslate
  else if slatePmax dc < entPositions w0 then some fcGeom
  else if x.fireUe k then some fcMemue
  else none

/-- The accesses of a visit to the BITMAP. -/
def State.visitAccesses (s : State) (b : BrickId) (k : Nat) : List (Access × Nat × Nat) :=
  let x := s.brick b
  if x.yFault k || (x.visitFault k).isSome then [] else (x.bitmapPlaces k).map (s.bitmapAccess b k)

/-- The visit: its fault, or the new m, l and acc, with VIS advanced (R336, R337). An uncorrectable word that it meets weighs in the bank's window (R405). -/
def State.fireVisit (s : State) (b : BrickId) (k : Nat) : State :=
  let x := s.brick b
  if x.yFault k then s
  else match x.visitFault k with
  | some c => (if c = fcMemue then s.meetBad (.bank b) (dockBase k) else s).modBrick b fun x => x.yFail k c
  | none =>
    let rows := List.range (x.yRows k)
    match s.readBytesAt b k (x.bitmapPlaces k) with
    | (none, s) => s.modBrick b fun x => x.yFail k fcXlate
    | (some map, s) =>
      let done := rows.foldl (fun (y : Brick) r =>
        let (m, l, acc) := x.fireRow k r map
        ((y.store (x.yM k r) (leBytes 4 m)).store (x.yL k r) (leBytes 4 l)).store (x.yAcc k r 0) (acc.flatMap (leBytes 4))) (s.brick b)
      s.setBrick b (done.setDockWord k 6 (insertBits (done.dockWord k 6) 16 16 (x.yVis k + 1)))

/-- FIRE_END (R324, R336, R337). -/
def execFireEnd (b : BrickId) (dock : Nat) (s : State) : Outcome :=
  match ((s.brick b).dock dock).st with
  | .firing fwd ends =>
    let t := s.fireVisit b dock
    if ends < s.now then
      s.paged (s.visitAccesses b dock)
        (.next (if fwd then t.modBrick b fun x => x.modDock dock fun d => { d with st := .leaving (s.now + 1) }
          else t.modBrick b fun x => (x.modDock dock fun d => { d with st := .docked }).wake))
    else .next s
  | _ => .next s

/-! FIN (R335) -/

/-- A row has no result. -/
def Brick.finEmpty (x : Brick) (k r : Nat) : Bool := x.yFault k || x.read4 (x.yL k r) = 0
/-- EMPTY as FIN leaves it. -/
def Brick.finMask (x : Brick) (k : Nat) : Nat :=
  (List.range (x.yRows k)).foldl (fun m r => if x.finEmpty k r then m ||| 2 ^ r else m) (x.dockWord k 7)
/-- O element e of row r as bits. -/
def Brick.finElem (x : Brick) (k i : Nat) : Nat :=
  let d := x.yDim k
  let r := i / d
  if x.finEmpty k r then 0 else fp32.enc (rne32 ((x.f32 (x.yAcc k r (i % d))).div (x.f32 (x.yL k r))))
def Brick.finWords (x : Brick) (k : Nat) : Nat := 1 + x.yRows k * x.yDim k / 2
/-- Token n of FIN, which reports the yealm's RNG accesses (R277, R339). -/
def Brick.finToken (x : Brick) (k n : Nat) : Token :=
  let t := if n = 0 then dataToken (x.finMask k)
    else if n < x.finWords k then dataToken (x.finElem k (2 * (n - 1)) + x.finElem k (2 * (n - 1) + 1) * 2 ^ 32)
    else eosToken (x.dockWord k 0 % 2048) (x.yFault k) false (x.finWords k)
  { t with cls := some .rng, ts := (x.dock k).ts }

/-- Tokens of earlier firings have entered a port. -/
def Brick.portClear (x : Brick) (p : Nat) : Bool :=
  x.firings.all fun f => f.port ≠ some p && f.wbs.all fun w => match w.port with
    | some (q, _) => q ≠ p
    | none => true

/-- FIN_TOKEN_EMIT (R335): rows without a result are marked in EMPTY of the dock's header. A brick that has been ordered to weep discards the token (R191). -/
def execFinTokenEmit (b : BrickId) (dock : Nat) (s : State) : Outcome :=
  let x := s.brick b
  match (x.dock dock).st with
  | .finishing port next ready =>
    let last : Bool := next = x.finWords dock
    let y := if x.discard then x else x.modOut port fun p => p.push (.tok (x.finToken dock next))
    let z := if last then
        ((y.setDockWord dock 6 (insertBits (y.dockWord dock 6) 32 1 1)).modDock dock fun _ => {}).wake
      else (y.setDockWord dock 7 (x.finMask dock)).modDock dock fun d => { d with st := .finishing port (next + 1) (s.now + 1) }
    stepWhen (ready ≤ s.now && 1 ≤ x.room port && x.portClear port) s (s.setBrick b z)
  | _ => .next s

end Sys2Proof.Machine
end

