-- ==== Sys2Proof/Machine/Commit.lean ====
section
/-! DEFINITION. What follows a firing: later beats (R70), commit with its effects (R75, R76), write-back (R69, R175), the precise trap (R77), the picker after IDLE (R90) and the QBLK buffer (R171). -/

namespace Sys2Proof.Machine

open Sys2Proof

def Brick.modFiring (x : Brick) (k : Nat) (f : Firing → Firing) : Brick := { x with firings := modifyAt f k x.firings }
def State.modFiring (s : State) (b : BrickId) (k : Nat) (f : Firing → Firing) : State := s.modBrick b fun x => x.modFiring k f

/-- Nothing of a firing is left to do. -/
def Firing.finished (f : Firing) : Bool := f.committed && !f.unissued && f.wbs.isEmpty
def Brick.dropFinished (x : Brick) : Brick := { x with firings := x.firings.filter fun f => !f.finished }

/-! Effects of a commit -/

/-- Bank nibbles; an aligned whole word takes new check bits (R208, R210). -/
def Brick.storeNibbles (x : Brick) (lo len v : Nat) : Brick :=
  { x with
    bank := nibblesWrite x.bank lo len v
    bankUe := x.bankUe.filter fun w => !(lo ≤ 16 * w && 16 * w + 16 ≤ lo + len) }

/-- ATB and CASB at their commit (R212, R216, R217): the old value goes back through D at max(issue + 4, commit + 2). -/
def State.bankAtomic (s : State) (b : BrickId) (k op w byte v y issue : Nat) : State :=
  let x := s.brick b
  let old := leValue (cellsRead x.bank byte (w / 8))
  let new := atomicOp op w old v y
  let due := max (issue + 5) (s.now + 2)
  let s := s.setBrick b (x.storeNibbles (2 * byte) (w / 4) new)
  s.modFiring b k fun f =>
    match ruleInfo f.instr with
    | none => f
    | some r =>
      let o : BeatOut := { judge := old, flag := old = v }
      let wb : WriteBack :=
        { due, beat := 0
          lo := if r.d < 112 then some (r.d, w / 4, old) else none
          port := f.port.map fun p => (p, .tok (dataToken old))
          preds := pmodeWrites r f o false }
      { f with wbs := f.wbs ++ [wb], lock := s.now + 1 }

/-- A sink counts EOS tokens and reports at its target (R377). -/
def Sink.add (k : Sink) (n : Nat) : Sink :=
  if k.reported then k else { k with count := k.count + n, reported := k.target ≤ k.count + n }
def Sink.retarget (k : Sink) (t : Nat) : Sink :=
  if k.reported then k else { k with target := t, reported := t ≤ k.count }

/-- XFENCE at its commit (R277). -/
def Brick.fenced (x : Brick) (mask : Nat) : Brick :=
  let pts := (List.range 6).foldl (fun p c => if bit mask c then max p (x.seen.getD c 0) else p) x.pts
  { x with pts, fence := max x.fence pts }

/-- MARK at its commit (R198): the round advances and its tokens carry it. -/
def Brick.commitMark (x : Brick) (k : Nat) : Brick :=
  let round := (x.round + 1) % 2 ^ 48
  let y := x.modFiring k fun f =>
    { f with wbs := f.wbs.map fun w => { w with port := w.port.map fun (q : Nat × Out) => (q.1, Out.tok (markToken round)) } }
  { y with round }.reachRound

/-- The effect of firing k at the end of the commit cycle c. -/
def State.applyEffect (s : State) (b : BrickId) (k c : Nat) (e : Effect) : State :=
  match e with
  | .bank nib len v => s.modBrick b fun x => x.storeNibbles nib len v
  | .atomic op w byte v y issue => s.bankAtomic b k op w byte v y issue
  | .global kind va data rch dcl => s.issueGlobal b kind va data rch dcl
  | .mark => s.modBrick b fun x => { x.commitMark k with roundAt := s.now }
  | .weep => s.modBrick b fun x => { x.setPick false with weep := .weeping }.settleWeep
  | .idle => s.modBrick b fun x => { x with idle := some (s.now, x.stirred) }
  | .watch ch w => s.modBrick b fun x => (x.modInput ch fun i => { i with watch := w }).settleWatches
  | .sink ch target => s.modBrick b fun x => x.modInput ch fun i => { i with sink := i.sink.map (·.retarget target) }
  | .wrbsr reg v => s.modBrick b fun x => bsrWrite x reg v
  | .strm r act => if act = 0 then s.armShape b r else s.abortShape b r
  | .task rec => (s.modBrick b fun x => { x with taskPort := x.taskPort ++ [{ words := rec, floor := x.fence }] }).sent b 1
  | .map kind rch block => s.startMap b kind rch block
  | .fence mask => s.modBrick b fun x => x.fenced mask
  | .handover owner va n => s.startHandover b (BitVec.ofNat 14 owner) va n
  | .fire dock fwd => s.startFire b dock fwd c
  | .route dock => s.routeDock b dock (c + 2)
  | .fin dock port => s.takeDock b dock (.finishing port 0 (c + 8))
  | .launch off =>
    let (dock, s) := s.startLaunch b off c
    s.modFiring b k fun f =>
      match ruleInfo f.instr with
      | none => f
      | some r => { f with wbs := f.wbs ++ resultWriteBack r f.port 0 (c + 1) { write := some dock } [] }
  | .hdrWrite dock w v => s.modBrick b fun x => x.setDockWord dock w v
  | .post eng packet inline => (s.modBrick b fun x => { x with footPort := x.footPort ++ [(eng, packet, inline)] }).sent b 1
  | .cancel eng qid => s.cancelQuery b eng qid
  | .qblk port words ready => s.modBrick b fun x => { x with qblk := some (port, words, ready) }
  | .observe c ts => s.modBrick b fun x => { x with seen := modifyAt (max ts) c x.seen }

/-! Commit -/

/-- XFENCE waits until the accesses that earlier firings performed have been answered (R277). A watch counts from the cycle after it takes effect, so the tokens of this cycle enter first (R263). -/
def State.fenceReady (s : State) (b : BrickId) (f : Firing) : Bool :=
  f.effects.all fun e => match e with
    | .fence mask => !bit mask 0 || ((s.reqs.all fun r => r.brick ≠ b) && s.maps.all fun m => m.brick ≠ b)
    | .watch .. => !s.arriving b
    | _ => true

/-- The first uncommitted firing, with its place. -/
def Brick.oldest (x : Brick) : Option Nat := x.firings.findIdx? fun f => !f.committed

/-- A firing has passed its trap point (R75). -/
def Firing.pastPoint (f : Firing) (now : Nat) : Bool := f.point < now && f.atPoint now

/-- A firing without a trap may commit once it has passed its trap point, XFENCE and HANDOVER a cycle later (R76, R277, R280). -/
def Firing.ripe (f : Firing) (now : Nat) : Bool := f.trap.isNone && f.pastPoint now && f.fired + commitDelay f.instr < now

/-- The timestamps that consumed tokens report, by class (R277). -/
def noteSeen (seen : List Nat) (ts : List Token) : List Nat :=
  ts.foldl (fun l t =>
    let l := modifyAt (max t.rng) 3 l
    let put (c : Nat) : List Nat := modifyAt (max t.ts) c l
    match t.cls with
    | some .brk => put 0
    | some .stm => put 1
    | some .slb => put 2
    | some .rng => put 3
    | some .ftg => put 4
    | some .hst => put 5
    | _ => l) seen

/-- A firing with the outcomes of n further beats, each at its earliest issue (R70). -/
def Firing.ahead (s : State) (b : BrickId) (r : RuleInfo) (beat : Beat) : Nat → Firing → Firing
  | 0, f => f
  | n + 1, f => Firing.ahead s b r beat n (issueBeat beat { s with now := max s.now f.next } b r f)

/-- The sticky flags that a committing firing sets, those of its beats still to issue among them (R153, R220). -/
def State.stickyAhead (s : State) (b : BrickId) (f : Firing) : Nat :=
  match ruleInfo f.instr, beatOf f.instr with
  | some r, some beat => (f.ahead s b r beat (r.beats - f.issued)).sticky
  | _, _ => f.sticky

/-- The brick at a firing's commit, before its effects: entries leave, sinks count, `bsr.fires`, the timestamp its predicates carry, sticky flags, STEP; each entry that leaves returns its credit (R183, R379). -/
def Brick.commitFiring (x : Brick) (k : Nat) (f : Firing) : Brick :=
  let gone := (List.range 4).flatMap fun ch => ((x.input ch).queue.take (f.take.getD ch 0))
  let inputs := x.inputs.zipIdx.map fun (i, ch) =>
    let n := f.take.getD ch 0
    let eos := ((i.queue.take n).filter fun t => t.tag = .eos).length
    { i with queue := i.queue.drop n, sink := i.sink.map (·.add eos) }
  let y := { x with
    inputs
    fires := (x.fires + 1) % 2 ^ 48
    pts := max x.pts f.carry
    sticky := x.sticky ||| BitVec.ofNat 9 f.sticky
    seen := noteSeen x.seen gone
    sent := x.sent + gone.length
    rcvd := x.rcvd + gone.length }
  let y := y.modFiring k fun _ => { f with committed := true, effects := [], sticky := 0 }
  let y := if y.stepMode then y.haltPick else y
  if f.range.isSome || isDockRule f.instr then y.wake else y

/-- A firing as it stands at its trap point: a dock rule that A names a dock for is decided only there (R75, R331). -/
def State.decided (s : State) (b : BrickId) (f : Firing) : Firing :=
  match judgedLate f.instr, ruleInfo f.instr, beatOf f.instr with
  | true, some r, some beat => f.judged s b r beat
  | _, _, _ => f

/-- The state after the commit of firing k (R75, R76): what `Brick.commitFiring` does, then its effects. -/
def State.commit (s : State) (b : BrickId) (k : Nat) (f : Firing) : State :=
  let s1 := s.setBrick b ((s.brick b).commitFiring k { f with sticky := s.stickyAhead b f })
  let s2 := f.effects.foldl (fun t e => t.applyEffect b k (s.now - 1) e) s1
  (s2.modBrick b Brick.dropFinished).noteTs b (s2.brick b).pts

/-- FIRING_COMMIT (R75, R76): it stands at the end of the cycle before now. A dock rule that traps at its trap point commits nothing (R331). -/
def execFiringCommit (b : BrickId) (s : State) : Outcome :=
  let x := s.brick b
  match x.oldest with
  | none => .next s
  | some k =>
    match x.firings[k]? with
    | none => .next s
    | some f =>
      let g := s.decided b f
      stepWhen (f.ripe s.now && s.fenceReady b f) s (if g.trap.isSome then s.modFiring b k fun _ => g else s.commit b k g)

/-! Later beats and write-backs -/

/-- The words of a beat are free of the writes of earlier firings (R213); only a beat that comes later than the range foresaw can find them otherwise. -/
def Brick.spanFree (x : Brick) (now k : Nat) (f : Firing) (span : Option (Nat × Nat)) : Bool :=
  match joinSpan (bankWrites f.instr) none span with
  | some (l, h, w) => wordsFree x ((x.firings.take k).filter (·.keepsRange now)) (l, h) w
  | none => true

/-- BEAT_ISSUE (R70): a committed firing's beat takes effect as it issues; its flags were set at the commit (R153). -/
def execBeatIssue (b : BrickId) (s : State) : Outcome :=
  let x := s.brick b
  match x.firings.findIdx? Firing.unissued with
  | none => .next s
  | some k =>
    match x.firings[k]? with
    | none => .next s
    | some f =>
      match ruleInfo f.instr, beatOf f.instr with
      | some r, some beat =>
        let span := f.beatSpan s b r f.issued
        let g := issueBeat beat s b r (f.cover span)
        let y := { x.modFiring k (fun _ => if g.committed then { g with effects := [], sticky := 0 } else g) with
          dpFree := s.now + r.spacing
          divFree := if r.usesDivider then s.now + r.spacing else x.divFree }
        let y := if g.issued = r.beats then y.wake else y
        let s1 := s.setBrick b y
        let s2 := if g.committed then g.effects.foldl (fun t e => t.applyEffect b k (s.now - 1) e) s1 else s1
        stepWhen (beatReady s x r f && x.spanFree s.now k f span) s (s2.modBrick b Brick.dropFinished)
      | _, _ => .next s

/-- A write-back through a port waits for the tokens of earlier firings on it (R175). -/
def Brick.portTurn (x : Brick) (k p : Nat) : Bool :=
  (x.firings.take k).all fun f =>
    (f.port ≠ some p || !f.unissued) && f.wbs.all fun w => match w.port with
      | some (q, _) => q ≠ p
      | none => true

/-- A write-back that may take effect now: its firing committed, its cycle come, its port's turn. -/
def Brick.writeBackReady (x : Brick) (now k : Nat) (f : Firing) (w : WriteBack) : Bool :=
  f.committed && w.due ≤ now && match w.port with
    | some (p, _) => x.portTurn k p
    | none => true

/-- The first write-back of firing k that is ready. -/
def Brick.nextWriteBack (x : Brick) (now k : Nat) : Option (Nat × WriteBack) :=
  match x.firings[k]? with
  | none => none
  | some f => match f.wbs.findIdx? (x.writeBackReady now k f) with
    | none => none
    | some j => (f.wbs[j]?).map fun w => (j, w)

/-- An output port has more room than before (R90): a reduction whose token has entered gives back the places it did not need. -/
def Brick.roomier (x y : Brick) : Bool := (List.range 4).any fun p => x.room p < y.room p

/-- A write-back that is an event of R90: slices, predicates or the end of a serialising firing. -/
def Brick.stirs (x : Brick) (k : Nat) (w : WriteBack) : Bool :=
  w.lo.isSome || !w.preds.isEmpty || ((x.firings[k]?).map fun f => RuleInfo.isSerial f.instr).getD false

/-- A write-back takes effect (R69, R72, R73, R175). -/
def Brick.writeBack (x : Brick) (k j : Nat) (w : WriteBack) : Brick :=
  let y := match w.lo with
    | some (lo, n, v) => { x with slices := writeSlices x.slices lo n v }
    | none => x
  let y := match w.port with
    | some (p, o) => (y.modOut p fun q => q.push o).modFiring k fun f => if f.port = some p then { f with entered := f.entered + 1 } else f
    | none => y
  let y := (((y.writePreds w.preds).modFiring k fun f => { f with wbs := removeAt j f.wbs }).settleWatches.dropFinished).settleWeep
  if x.stirs k w || x.roomier y then y.wake else y

/-- BEAT_WRITE_BACK (R69). -/
def execBeatWriteBack (b : BrickId) (k : Nat) (s : State) : Outcome :=
  let x := s.brick b
  match x.nextWriteBack s.now k with
  | none => .next s
  | some (j, w) => .next (s.setBrick b (x.writeBack k j w))

/-! The precise trap (R77) -/

/-- The oldest firing whose trap has been found. -/
def Brick.trapped (x : Brick) (now : Nat) : Option Nat := x.firings.findIdx? fun f => f.trap.isSome && f.found < now

/-- A firing that commits nothing gives back its pending predicates and its return places. -/
def Brick.release (x : Brick) (f : Firing) : Brick :=
  match ruleInfo f.instr with
  | none => x
  | some r =>
    let y := { x with pend := x.pend &&& ~~~(BitVec.ofNat 8 (predWrites f.instr r)) }
    match returnsOf f.instr with
    | some (ch, n) => y.modInput ch fun q => { q with ret := q.ret - n * r.beats }
    | none => y

/-- PICK clears and every later firing is discarded. -/
def Brick.discardAfter (x : Brick) (k : Nat) : Brick :=
  let y := (x.firings.drop (k + 1)).foldl Brick.release x
  { y.setPick false with firings := y.firings.take (k + 1) }.settleWatches

/-- PRECISE_TRAP (R77): first PICK and the later firings, those among them whose own traps were found earlier included; then, past its trap point and once every earlier firing has written its results back, the record. -/
def execPreciseTrap (b : BrickId) (s : State) : Outcome :=
  let x := s.brick b
  match x.trapped s.now with
  | none => .next s
  | some k =>
    match x.firings[k]? with
    | none => .next s
    | some f =>
      match f.trap with
      | none => .next s
      | some t =>
        let first : Bool := x.pick || k + 1 < x.firings.length
        let second : Bool := f.pastPoint s.now && k = 0
        let gone := s.modBrick b fun x =>
          let y := x.release f
          { y with firings := removeAt k y.firings }
        if first then .next (s.modBrick b fun x => x.discardAfter k)
        else stepWhen second s ((gone.modBrick b Brick.settleWatches).takeTrap b t.cls t.detail t.beat f.slot t.val f.word f.snap)

/-! IDLE and the QBLK buffer -/

/-- The picker may resume (R90): an event has come, or since then a timed engine has become free, a locked range has left the comparator, or a request that held sub-banks has been served. -/
def Brick.mayResume (x : Brick) (now : Nat) : Bool :=
  match x.idle with
  | none => false
  | some (since, woken) => woken || (since ≤ x.divFree && x.divFree ≤ now) || (since ≤ x.ringFree && x.ringFree ≤ now) ||
    (x.aged.2 ≠ 0 && since ≤ x.aged.1 && x.aged.1 < now) || x.firings.any fun f => since < f.lock && f.lock ≤ now

/-- PICKER_WAKE (R90). -/
def execPickerWake (b : BrickId) (s : State) : Outcome :=
  stepWhen ((s.brick b).mayResume s.now) s (s.modBrick b fun x => { x with idle := none })

/-- QBLK_BUFFER_EMIT (R171). -/
def execQblkBufferEmit (b : BrickId) (s : State) : Outcome :=
  let x := s.brick b
  match x.qblk with
  | some (p, w :: ws, ready) =>
    let y := x.modOut p fun q => q.push (.tok { tag := .data, pay := w })
    let z := { y with qblk := if ws.isEmpty then none else some (p, ws, s.now + 1) }
    stepWhen (ready ≤ s.now && 1 ≤ x.room p && x.portClear p) s (s.setBrick b (if ws.isEmpty then z.wake else z))
  | some (_, [], _) => .next (s.modBrick b fun x => { x with qblk := none }.wake)
  | none => .next s

end Sys2Proof.Machine
end

