-- ==== Sys2Proof/Machine/Gateway.lean ====
section
/-! DEFINITION. Gateway collectives (R341-R343). -/

namespace Sys2Proof.Machine

open Sys2Proof

/-- Fields of a contribution's header (R341). -/
def gwGid (h : Nat) : Nat := bits h 59 49
def gwInt (h : Nat) : Bool := bit h 48
def gwAll (h : Nat) : Bool := bit h 47
def gwRoot (h : Nat) : Nat := bits h 46 45
def gwDies (h : Nat) : Nat := bits h 44 41
def gwCnt (h : Nat) : Nat := bits h 40 35
def gwRch (h : Nat) : Nat := bits h 34 33
def gwN (h : Nat) : Nat := bits h 31 0
/-- What the contributions of a group agree in (R343). -/
def gwAgree (a b : Nat) : Bool := gwInt a = gwInt b && gwAll a = gwAll b && gwRoot a = gwRoot b && gwDies a = gwDies b && gwN a = gwN b

def Contribution.h (c : Contribution) : Nat := c.head.toNat

/-- Change the open contribution of a brick. -/
def openIndex (cs : List Contribution) (b : BrickId) : Option Nat := cs.findIdx? fun c => c.brick = b && c.eos.isNone

/-- A token of a brick joins its contribution; one that belongs to none is dropped (log 13). -/
def Gateway.take (g : Gateway) (b : BrickId) (t : Token) : Gateway :=
  match openIndex g.contribs b with
  | none => if t.tag = .ctrl && t.subtype = 0xE then { g with contribs := g.contribs ++ [{ brick := b, head := t.pay }] } else g
  | some k =>
    match t.tag with
    | .data => { g with contribs := modifyAt (fun c => { c with words := c.words ++ [t.pay] }) k g.contribs }
    | .eos => { g with contribs := modifyAt (fun c => { c with eos := some t.pay }) k g.contribs }
    | .mark | .ctrl => g

/-- GATEWAY_CONTRIBUTION (R341): the collective port takes a token. -/
def execGatewayContribution (die : Nat) (s : State) : Outcome :=
  match (s.gateway die).port with
  | [] => .next s
  | (b, t) :: rest => .next ((s.modGateway die fun g => ({ g with port := rest }).take b t).returned b 1)

/-- The instance of a group on a die: its first CNT + 1 contributions, of one region (R342). -/
def State.gwInstance (s : State) (die gid : Nat) (region : Option RegionId) : List Contribution :=
  let cs := (s.gateway die).contribs.filter fun c => gwGid c.h = gid && (s.brick c.brick).region = region
  match cs with
  | [] => []
  | c :: _ => cs.take (gwCnt c.h + 1)

def gwComplete (cs : List Contribution) : Bool :=
  match cs with
  | [] => false
  | c :: _ => cs.length = gwCnt c.h + 1 && cs.all fun x => x.eos.isSome

/-- A group whose every die is complete: its region, and the dies with their contributions. -/
structure Group where
  region : Option RegionId
  head : Nat
  parts : List (Nat × List Contribution)
  deriving DecidableEq, Repr

/-- The dies of a group: those that a contribution's DIES names, those that contributions there name, and those whose contributions name one of them, so that contributions that disagree in DIES are one group (R343). -/
def State.gwDiesOf (s : State) (gid : Nat) (region : Option RegionId) : Nat → List Nat → List Nat
  | 0, ds => ds
  | n + 1, ds =>
    let names (d e : Nat) : Bool := (s.gwInstance d gid region).any fun c => bit (gwDies c.h) e
    s.gwDiesOf gid region n ((List.range 4).filter fun d => ds.contains d || ds.any fun e => names e d || names d e)

/-- The group that a contribution of a die belongs to, once complete. -/
def State.gwGroup (s : State) (die gid : Nat) (c : Contribution) : Option Group :=
  let region := (s.brick c.brick).region
  let parts := (s.gwDiesOf gid region 4 [die]).map fun d => (d, s.gwInstance d gid region)
  if parts.all fun p => gwComplete p.2 then some { region, head := c.h, parts } else none

/-- A region still has deliveries of a group to come. -/
def State.delivering (s : State) (gid : Nat) (region : Option RegionId) : Bool :=
  (List.range 4).any fun d => (s.gateway d).out.any fun o => o.gid = gid && (s.brick o.brick).region = region

/-- A complete group of a region that has no deliveries of that GID to come. -/
def State.gwReady (s : State) (gid : Nat) : Option Group :=
  (List.range 4).findSome? fun die => (s.gateway die).contribs.findSome? fun c =>
    if gwGid c.h = gid && !s.delivering gid (s.brick c.brick).region then s.gwGroup die gid c else none

def Group.all (g : Group) : List Contribution := g.parts.flatMap (·.2)

/-- R343's conditions fail. -/
def Group.bad (g : Group) : Bool :=
  g.all.any (fun c => !gwAgree g.head c.h || c.words.length ≠ gwN c.h || (match c.eos with
    | some e => bits e.toNat 31 0 ≠ gwN c.h
    | none => true)) ||
  g.parts.any (fun p => !bit (gwDies g.head) p.1 || !(p.2.map fun c => BrickId.course c.brick).Nodup) ||
  !bit (gwDies g.head) (gwRoot g.head)

/-- Two lanes of 32 bits added (R342). -/
def laneAdd (isInt : Bool) (a b : Nat) : Nat :=
  if isInt then (a + b) % 2 ^ 32 else fp32.enc (rne32 ((fp32.dec a).add (fp32.dec b) 0))
def gwAdd (isInt : Bool) (a b : Word) : Word :=
  BitVec.ofNat 64 (laneAdd isInt (a.toNat % 2 ^ 32) (b.toNat % 2 ^ 32) + laneAdd isInt (a.toNat / 2 ^ 32) (b.toNat / 2 ^ 32) * 2 ^ 32)
def sumLists (isInt : Bool) : List (List Word) → List Word
  | [] => []
  | l :: rest => rest.foldl (List.zipWith (gwAdd isInt)) l

/-- A die's sum, in ascending course order. -/
def dieSum (isInt : Bool) (cs : List Contribution) : List Word :=
  sumLists isInt ((List.range 64).filterMap fun c => (cs.find? fun x => BrickId.course x.brick = c).map (·.words))

/-- The dies of a group from ROOT on, in the ring order 0, 1, 3, 2. -/
def ringFrom (root : Nat) : List Nat :=
  match root with
  | 0 => [0, 1, 3, 2]
  | 1 => [1, 3, 2, 0]
  | 3 => [3, 2, 0, 1]
  | _ => [2, 0, 1, 3]

/-- The total (R342). -/
def Group.total (g : Group) : List Word :=
  sumLists (gwInt g.head) ((ringFrom (gwRoot g.head)).filterMap fun d => (g.parts.find? fun p => p.1 = d).map fun p => dieSum (gwInt g.head) p.2)

/-- The contributors that receive, with their tokens. -/
def Group.deliveries (g : Group) (gid : Nat) : List (Nat × Delivery) :=
  g.parts.flatMap fun p => p.2.filterMap fun c =>
    let toks : List Token :=
      if g.bad then [{ tag := .ctrl, pay := BitVec.ofNat 64 (faultPayload 7 0 0) }, eosToken gid true false 0]
      else g.total.map (fun w => { tag := .data, pay := w }) ++ [eosToken gid false false (gwN c.h)]
    if g.bad || gwAll g.head || p.1 = gwRoot g.head then some (p.1, { gid, brick := c.brick, ch := gwRch c.h, toks }) else none

/-- Source number of a gateway's tokens. -/
def gatewayPort : Nat := 110

/-- Each delivery of a group sends its next token where the input has credit. -/
def State.deliver (s : State) (die gid : Nat) : State :=
  let (out, s) := (s.gateway die).out.foldl (fun (p : List Delivery × State) d =>
    match d.toks with
    | t :: rest =>
      if d.gid = gid && p.2.accepts (.input d.brick d.ch) t then
        (p.1 ++ (if rest.isEmpty then [] else [{ d with toks := rest }]), p.2.launch d.brick gatewayPort (.input d.brick d.ch) t)
      else (p.1 ++ [d], p.2)
    | [] => p) ([], s)
  s.modGateway die fun g => { g with out }

/-- A complete group leaves its gateways, and its deliveries begin. -/
def State.combine (s : State) (gid : Nat) (g : Group) : State :=
  let s1 := g.parts.foldl (fun (s : State) p => s.modGateway p.1 fun w => { w with contribs := p.2.foldl (fun l c => l.erase c) w.contribs }) s
  (g.deliveries gid).foldl (fun (s : State) d => s.modGateway d.1 fun w => { w with out := w.out ++ [d.2] }) s1

/-- GATEWAY_COMBINE (R342, R343, R417): what stands to be delivered goes on, and a complete group of another region, or of one that has nothing to be delivered, is combined. -/
def execGatewayCombine (gid : Nat) (s : State) : Outcome :=
  let s1 := (List.range 4).foldl (fun s d => s.deliver d gid) s
  match s.gwReady gid with
  | none => .next s1
  | some g => .next (s1.combine gid g)

end Sys2Proof.Machine
end

