-- ==== Sys2Proof/Machine/LoadImage.lean ====
section
/-! DEFINITION. Load images as bytes (R385, R386), their relocation (R55), and a brick as a brick section sets it (R47, R100, R185, R204, R262, R377). -/

namespace Sys2Proof.Machine

open Sys2Proof

/-- The little-endian field of n bytes at an offset. -/
def fieldAt (l : List Byte) (off n : Nat) : Nat := leValue ((l.drop off).take n)
def wordAt (l : List Byte) (off : Nat) : Nat := fieldAt l off 8
def wordsAt (l : List Byte) (off n : Nat) : List Nat := (List.range n).map fun i => wordAt l (off + 8 * i)
def zeroAt (l : List Byte) (off n : Nat) : Bool := ((l.drop off).take n).all (· = 0)

/-- A brick's directory entry and section. -/
structure BrickPart where
  rel : Nat
  sec : List Byte
  deriving DecidableEq, Repr

/-- A course section, by relative die and course. -/
structure CoursePart where
  die : Nat
  course : Nat
  sec : List Byte
  deriving DecidableEq, Repr

/-- A load image: its parts, its data section, its extents (header word 5), and its hash (R426). -/
structure LoadImage where
  bricks : List BrickPart
  courses : List CoursePart
  data : List Byte
  extents : Nat
  hash : Nat
  deriving DecidableEq, Repr

/-- Bank extents of a brick section (R386): offset, length, offset into the data section. -/
def bankExtents (sec : List Byte) : List (Nat × Nat × Nat) :=
  (((List.range 352).map fun i => wordAt sec (0x500 + 8 * i)).takeWhile fun w => bits w 31 16 ≠ 0).map fun w =>
    (bits w 15 0, bits w 31 16, bits w 63 32)

/-- Destination words of a route entry at an offset. -/
def destWords (sec : List Byte) (off : Nat) : List Nat := (List.range 8).map fun i => fieldAt sec (off + 4 * i) 4

/-- A destination word whose KIND is accepted and whose unused places are zero: INDEX serves the two kinds that number an input or a port, a steer port names column 0 of its course, and a collective port column 0 of course 0 (R386). -/
def destWordOk (bank : Bool) (w : Nat) : Bool :=
  match bits w 31 28 with
  | 0 => w = 0
  | 1 | 2 => bits w 23 14 = 0
  | 3 | 4 | 8 => bits w 27 14 = 0
  | 5 => bits w 27 14 = 0 && bits w 5 0 = 0
  | 6 => bits w 27 14 = 0 && bits w 11 0 = 0
  | 7 => bank && bits w 27 27 = 0
  | _ => false

/-- Two byte ranges meet. -/
def spansMeet (a b : Nat × Nat) : Bool := a.1 < b.1 + b.2 && b.1 < a.1 + a.2

/-- No two elements of a list satisfy p. -/
def noPair {α : Type} (p : α → α → Bool) : List α → Bool
  | [] => true
  | a :: l => l.all (fun b => !p a b) && noPair p l

/-- The places of one input in a brick section: gutter, sink and watch words whose unused bits, and whose every bit where the input has none, are zero (R386). -/
def inputPlacesOk (gutter sink watch : Nat) : Bool :=
  (if bit gutter 32 then bits gutter 63 33 = 0 else gutter = 0) &&
  (if bit sink 0 then bits sink 15 1 = 0 && bits sink 63 48 = 0 else sink = 0) &&
  if bit watch 0 then bits watch 31 6 = 0 else watch = 0

/-- A brick section with no one in a place that is zero (R386). -/
def brickSectionOk (edge : Bool) (data : Nat) (sec : List Byte) : Bool :=
  let w0 := wordAt sec 0
  let es := bankExtents sec
  bits w0 15 14 = 0 && bits w0 63 19 = 0 && (bit w0 18 || bits w0 17 16 = 0) && bits (wordAt sec 8) 63 16 = 0 && zeroAt sec 0x10 0x30 && bits (wordAt sec 0xF8) 63 8 = 0 &&
  (List.range 4).all (fun n =>
    (destWords sec (0x100 + 32 * n)).all (destWordOk false) &&
    inputPlacesOk (wordAt sec (0x180 + 8 * n)) (wordAt sec (0x1A0 + 8 * n)) (wordAt sec (0x1C0 + 8 * n))) &&
  zeroAt sec 0x1E0 0x20 &&
  (if edge then (List.range 8).all fun n => (destWords sec (0x200 + 32 * n)).all (destWordOk false) &&
      bits (wordAt sec (0x300 + 64 * n)) 63 54 = 0 && bits (wordAt sec (0x308 + 64 * n)) 63 54 = 0 && wordAt sec (0x338 + 64 * n) = 0
    else zeroAt sec 0x200 0x300) &&
  zeroAt sec (0x500 + 8 * es.length) (0xB00 - 8 * es.length) &&
  es.all (fun e => e.1 + e.2.1 ≤ 65536 && e.2.2 + e.2.1 ≤ data) &&
  noPair (fun (a b : Nat × Nat × Nat) => spansMeet (a.1, a.2.1) (b.1, b.2.1)) es

/-- A course section with no one in a place that is zero; an unbound window is all zero (R385). -/
def courseSectionOk (sec : List Byte) : Bool :=
  bits (wordAt sec 0) 63 8 = 0 && zeroAt sec 8 0x38 &&
  (List.range 8).all (fun n => (destWords sec (0x40 + 32 * n)).all (destWordOk true) &&
    bits (wordAt sec (0x140 + 16 * n)) 63 54 = 0 && bits (wordAt sec (0x148 + 16 * n)) 63 13 = 0 &&
    (wordAt sec (0x148 + 16 * n) ≠ 0 || wordAt sec (0x140 + 16 * n) = 0)) &&
  zeroAt sec 0x1C0 0x40

/-- The parts of a load image, or none where it is malformed (R385, R386). -/
def parseLoad (l : List Byte) : Option LoadImage :=
  let h := wordsAt l 0 8
  let w (i : Nat) : Nat := h.getD i 0
  let n := bits (w 1) 15 0
  let m := bits (w 1) 31 16
  let first := ceilDiv (64 + 8 * n) 4096
  let dataLen := 4096 * (w 4 - w 3)
  let dir := wordsAt l 64 n
  let headerOk : Bool := w 0 = 2 ^ 60 && bits (w 1) 63 32 = 0 && w 2 < 2 ^ 32 && w 3 < 2 ^ 32 && w 4 < 2 ^ 32 &&
    (List.range 4).all (fun d => bits (w 5) (16 * d + 15) (16 * d + 13) = 0) && w 6 = 0 && w 7 = 0
  let offsetsOk : Bool := first + n ≤ w 2 && w 2 + ceilDiv (512 * m) 4096 ≤ w 3 && w 3 ≤ w 4 && 4096 * w 4 ≤ l.length
  if !headerOk || !offsetsOk then none
  else
    let bricks := dir.zipIdx.map fun (e, i) => { rel := e % 2 ^ 14, sec := (l.drop (4096 * (first + i))).take 4096 : BrickPart }
    let courses := (List.range m).map fun i =>
      let sec := (l.drop (4096 * w 2 + 512 * i)).take 512
      { die := bits (wordAt sec 0) 7 6, course := bits (wordAt sec 0) 5 0, sec : CoursePart }
    let ok : Bool := dir.all (fun e => bits e 63 15 = 0) && noPair (fun (a b : BrickPart) => a.rel = b.rel) bricks &&
      (dir.zip bricks).all (fun p => brickSectionOk (bit p.1 14) dataLen p.2.sec) && courses.all fun c => courseSectionOk c.sec
    if ok then some { bricks, courses, data := (l.drop (4096 * w 3)).take dataLen, extents := w 5, hash := (sha256 (l.take (4096 * w 4))).toNat }
    else none

/-- Dispatch reads an image as a CTL access (R274): header first, then the length it states. The region hears of its timestamps (R282). -/
def State.readLoad (s : State) (g : RegionId) (t va : Nat) : Option LoadImage × State :=
  match s.classRead { cls := .ctl, tenancy := t, region := some g } va 64 with
  | (.error _, s) => (none, s)
  | (.ok (h, _), s) =>
    match s.classRead { cls := .ctl, tenancy := t, region := some g } va (4096 * (wordAt h 32 % 2 ^ 32)) with
    | (.error _, s) => (none, s)
    | (.ok (l, _), s) => (parseLoad l, s)

/-! Footprints and relocation (R55, R370) -/

/-- The footprint on a die: course origin, column origin, height, width. -/
def Slot.footprint (x : Slot) (d : Nat) : Option (Nat × Nat × Nat × Nat) :=
  let f := bits (x.word (4 + d / 2)) (32 * (d % 2) + 31) (32 * (d % 2))
  if bit f 24 then some (bits f 5 0, bits f 11 6, bits f 17 12 + 1, bits f 23 18 + 1) else none

def Slot.dies (x : Slot) : List Nat := (List.range 4).filter fun d => (x.footprint d).isSome

/-- A relative identifier under the footprints; none past course 63 or column 63, or on a die that is not present. -/
def Slot.relocate (x : Slot) (rel : Nat) : Option BrickId :=
  match x.footprint (bits rel 13 12) with
  | none => none
  | some (c0, k0, _, _) =>
    if c0 + bits rel 11 6 ≤ 63 && k0 + bits rel 5 0 ≤ 63 then some (BrickId.mk (bits rel 13 12) (c0 + bits rel 11 6) (k0 + bits rel 5 0)) else none

/-- The relative identifier of a brick. -/
def Slot.relOf (x : Slot) (b : BrickId) : Nat :=
  match x.footprint (BrickId.die b) with
  | none => 0
  | some (c0, k0, _, _) => (BrickId.mk (BrickId.die b) (BrickId.course b - c0) (BrickId.col b - k0)).toNat

/-- A brick lies inside the footprint of its die. -/
def Slot.inside (x : Slot) (b : BrickId) : Bool :=
  match x.footprint (BrickId.die b) with
  | none => false
  | some (c0, k0, h, w) => c0 ≤ BrickId.course b && BrickId.course b < c0 + h && k0 ≤ BrickId.col b && BrickId.col b < k0 + w

/-- A destination word under the footprints (R386). -/
def Slot.dest (x : Slot) (w : Nat) : Option Dest :=
  let i := bits w 27 24
  match x.relocate (w % 2 ^ 14) with
  | none => none
  | some b =>
    match bits w 31 28 with
    | 1 => if i < 4 then some (.input b i) else none
    | 2 => if i < 8 then some (.streamIn b i) else none
    | 3 => some (.draw b)
    | 4 => some (.param b)
    | 5 => some (.steer (BrickId.die b) (BrickId.course b))
    | 6 => some (.coll (BrickId.die b))
    | 7 => some (.bank b (8 * bits w 26 14))
    | 8 => some (.ring b)
    | _ => none

/-- The destinations of some words that can be relocated. -/
def Slot.destsIn (x : Slot) (ws : List Nat) : List Dest := (ws.filter fun w => bits w 31 28 ≠ 0).filterMap x.dest

/-- A route entry: its destinations, or none where one cannot be relocated. -/
def Slot.routeEntry (x : Slot) (ws : List Nat) : Option (List Dest) := (ws.filter fun w => bits w 31 28 ≠ 0).mapM x.dest

def BrickPart.outs (p : BrickPart) (x : Slot) : Option (List (List Dest)) :=
  (List.range 4).mapM fun n => x.routeEntry (destWords p.sec (0x100 + 32 * n))
def BrickPart.sos (p : BrickPart) (x : Slot) : Option (List (List Dest)) :=
  (List.range 8).mapM fun n => x.routeEntry (destWords p.sec (0x200 + 32 * n))
def CoursePart.drains (c : CoursePart) (x : Slot) : Option (List (List Dest)) :=
  (List.range 8).mapM fun n => x.routeEntry (destWords c.sec (0x40 + 32 * n))
/-- The course of a course section under the footprints. -/
def CoursePart.place (c : CoursePart) (x : Slot) : Option (Nat × Nat) :=
  match x.footprint c.die with
  | some (c0, _, _, _) => if c0 + c.course ≤ 63 then some (c.die, c0 + c.course) else none
  | none => none

/-! Fields of a brick section -/

def BrickPart.pool (p : BrickPart) : List Word := (wordsAt p.sec 0x40 16).map (BitVec.ofNat 64)
def BrickPart.pins (p : BrickPart) : Nat := wordAt p.sec 8 % 65536
def BrickPart.notice (p : BrickPart) : Option Nat := if bit (wordAt p.sec 0) 18 then some (bits (wordAt p.sec 0) 17 16) else none
def BrickPart.gutter (p : BrickPart) (n : Nat) : Option Gutter :=
  let w := wordAt p.sec (0x180 + 8 * n)
  if bit w 32 then some { off := bits w 15 0, size := bits w 31 16 } else none
def BrickPart.gutters (p : BrickPart) : List (Option Gutter) := (List.range 4).map p.gutter
def BrickPart.sink (p : BrickPart) (n : Nat) : Option Sink :=
  let w := wordAt p.sec (0x1A0 + 8 * n)
  if bit w 0 then some { target := bits w 47 16, reported := bits w 47 16 = 0 } else none
def BrickPart.watch (p : BrickPart) (n : Nat) : Option Watch :=
  let w := wordAt p.sec (0x1C0 + 8 * n)
  if bit w 0 then some { tag := Tag.ofCode (bits w 2 1), target := bits w 63 32, pred := bits w 5 3 } else none
def BrickPart.shapes (p : BrickPart) : List Shape :=
  (List.range 8).map fun n => { words := (wordsAt p.sec (0x300 + 64 * n) 7).map (BitVec.ofNat 64) }

/-- A part that makes a dock brick (R323). -/
def BrickPart.isDock (p : BrickPart) : Bool := p.pool.any isDockWord

/-- The first failing word of a list of pools, with the number of failing words (R47, R48): brick, slot, reason, word. -/
def poolFailures (pools : List (BrickId × List Word)) : List (BrickId × Nat × Nat × Word) :=
  pools.flatMap fun p => p.2.zipIdx.filterMap fun (w, k) =>
    match loadCheck (BrickId.isEdge p.1) w with
    | 0 => none
    | r => some (p.1, k, r, w)

/-- Bricks in ascending order of identifier. -/
def insertBrick {α : Type} (p : BrickId × α) : List (BrickId × α) → List (BrickId × α)
  | [] => [p]
  | q :: l => if p.1.toNat ≤ q.1.toNat then p :: q :: l else q :: insertBrick p l
def sortBricks {α : Type} (l : List (BrickId × α)) : List (BrickId × α) := l.foldr insertBrick []

/-! A brick as its section sets it -/

/-- Granules that BSPLIT takes from an edge brick (R204, R382). -/
def l1Count (modes : Nat) : Nat :=
  match bits modes 10 9 with
  | 0 => 0
  | 1 => 2
  | 2 => 4
  | _ => 8
/-- `bsr.fmode` from MODES (R140, R382). -/
def fmodeOf (modes : Nat) : BitVec 3 := BitVec.ofNat 3 (modes % 2 * 4 + bits modes 2 1)

/-- Partitions at load (R204, R312): bound granules stay PINNED. -/
def Brick.partition (x : Brick) (edge : Bool) (modes pins : Nat) : BitVec 32 :=
  BitVec.ofNat 32 ((List.range 16).foldl (fun n g =>
    n + 4 ^ g * (if bit pins g || x.isBound g then 1 else if edge && 16 ≤ g + l1Count modes then 2 else 0)) 0)

/-- The loader zeroes every granule but the bound ones (R206). -/
def Brick.zeroUnbound (x : Brick) : Brick :=
  { x with
    bank := x.bank.filter fun (c : Host.Cell) => x.isBound (c.1 / 4096)
    bankUe := x.bankUe.filter fun w => x.isBound (w / 512) }

/-- What of a brick no load changes: bound granules, error counts, the TLB and what the model counts. -/
def Brick.blank (x : Brick) : Brick :=
  { bank := x.zeroUnbound.bank, bankUe := x.zeroUnbound.bankUe, corrected := x.corrected, scrub := x.scrub, bound := x.bound
    gmap := x.gmap, pinNode := x.pinNode, reqSeq := x.reqSeq, ctl := x.ctl &&& 4, edge := { tlb := x.edge.tlb } }

/-- A brick loaded from its section, in BOUND (R23, R100, R373). -/
def Brick.load (x : Brick) (g : RegionId) (slot : Slot) (img : LoadImage) (p : BrickPart) (b : BrickId) : Brick :=
  let y := x.blank
  let edge := BrickId.isEdge b
  let routes (l : Option (List (List Dest))) (n : Nat) : List Port := (l.getD (List.replicate n [])).map fun r => { route := r }
  let y := { y with
    life := .bound
    region := some g
    tenancy := slot.tenancy
    pool := p.pool
    slices := BitVec.ofNat 448 (fieldAt p.sec 0xC0 56)
    pval := BitVec.ofNat 8 (wordAt p.sec 0xF8)
    fmode := fmodeOf slot.modes
    gmap := x.partition edge slot.modes p.pins
    pinAllow := bits (slot.word 7) 35 32
    pinNode := slot.node
    picked := true
    dockBrick := p.isDock
    note := p.notice
    inputs := (List.range 4).map fun n => { gutter := p.gutter n, watch := p.watch n, sink := p.sink n }
    outs := routes (p.outs slot) 4
    edge := if edge then { y.edge with shapes := p.shapes, so := routes (p.sos slot) 8 } else y.edge }
  (bankExtents p.sec).foldl (fun z e => z.store e.1 ((img.data.drop e.2.2).take e.2.1)) y |>.settleWatches

/-- An input is connected when a route entry of the region names it and it is no notice input (R174, R325). -/
def Brick.connect (x : Brick) (b : BrickId) (dests : List Dest) : Brick :=
  { x with inputs := x.inputs.zipIdx.map fun (i, n) => { i with connected := dests.contains (.input b n) && x.note ≠ some n } }

/-- Every destination that the route entries of some bricks and the drain tables of some courses name: an input that one of them names is connected (R174). DESIGN CHOICE (log 13): a drain route counts as a route entry. -/
def State.destsOf (s : State) (bricks : List BrickId) (courses : List (Nat × Nat)) : List Dest :=
  (bricks.flatMap fun b => ((s.brick b).outs ++ (s.brick b).edge.so).flatMap (·.route)) ++
  courses.flatMap fun c => (s.sched c.1 c.2).routes.flatMap (·.1)

/-- Connect the inputs of a region's bricks. -/
def State.connectRegion (s : State) (g : RegionId) : State :=
  let x := s.slot g
  let ds := s.destsOf x.bricks x.courses
  x.bricks.foldl (fun s b => s.modBrick b fun y => y.connect b ds) s

end Sys2Proof.Machine
end

