-- ==== Sys2Proof/Machine/Slab.lean ====
section
/-! DEFINITION. The slab engines and the course task schedulers (R285-R304, R509). -/

namespace Sys2Proof.Machine

open Sys2Proof

/-! Fields of a task record (R288) -/

def Task.w (t : Task) (i : Nat) : Nat := (t.words.getD i 0).toNat
def Task.tid (t : Task) : Nat := bits (t.w 0) 63 56
def Task.dep (t : Task) (k : Nat) : Nat := if k = 0 then bits (t.w 0) 55 48 else bits (t.w 0) 47 40
def Task.ndep (t : Task) : Nat := bits (t.w 0) 39 38
def Task.opf (t : Task) : Nat := bits (t.w 0) 37 34
def Task.pb (t : Task) : Nat := bits (t.w 0) 33 31
def Task.init (t : Task) : Nat := bits (t.w 0) 30 29
def Task.dfmt (t : Task) : Nat := bits (t.w 0) 28 26
def Task.ridx (t : Task) : Nat := bits (t.w 0) 25 23
def Task.stw (t : Task) : Bool := bit (t.w 0) 22
def Task.nen (t : Task) : Bool := bit (t.w 0) 21
def Task.ncol (t : Task) : Nat := bits (t.w 0) 20 15
def Task.nch (t : Task) : Nat := bits (t.w 0) 14 13
def Task.ks (t : Task) : Nat := bits (t.w 0) 6 0 + 1
def Task.gen (t : Task) : Nat := bits (t.w 7) 63 48
/-- Column, offset, row stride and step stride of A (word 1) or B (word 2). -/
def Task.col (t : Task) (i : Nat) : Nat := bits (t.w i) 63 58
def Task.off (t : Task) (i : Nat) : Nat := bits (t.w i) 57 42
def Task.rowStride (t : Task) (i : Nat) : Nat := bits (t.w i) 41 26
def Task.stepStride (t : Task) (i : Nat) : Nat := bits (t.w i) 25 10
/-- Offset of the scales of A or B. -/
def Task.scaleOff (t : Task) (i : Nat) : Nat := if i = 1 then bits (t.w 3) 63 48 else bits (t.w 3) 47 32
def Task.doff (t : Task) : Nat := bits (t.w 5) 63 48
def Task.drs (t : Task) : Nat := bits (t.w 5) 47 32

/-- Formats of A and B, and whether they carry scales (R287). -/
def opfFmt (opf i : Nat) : Nat :=
  match opf with
  | 0 => 6
  | 1 => 7
  | 2 => 8
  | 3 => if i = 1 then 8 else 9
  | 4 => if i = 1 then 9 else 8
  | 5 => 9
  | 6 => 0xA
  | _ => 1
def opfScaled (opf : Nat) : Bool := 2 ≤ opf && opf ≤ 6
def opfFloat (opf : Nat) : Bool := opf ≤ 6
/-- Cycles of a K step (R287). -/
def Task.stepCycles (t : Task) : Nat :=
  match t.opf with
  | 0 | 1 => 128
  | 6 => 32
  | 8 => 8 * (t.pb + 1)
  | _ => 64
/-- Bits of an operand element. -/
def opfBits (opf i : Nat) : Nat :=
  match opfFmt opf i with
  | 6 | 7 => 16
  | 0xA => 4
  | _ => 8
/-- Bytes of a drained element (R288). -/
def Task.outBytes (t : Task) : Nat := if t.dfmt = 0 then 4 else 2

/-- Bricks of the region in service on a course, ascending: they hold the slab set (R286). -/
def State.slabSet (s : State) (die c : Nat) : List BrickId :=
  match (s.sched die c).region with
  | none => []
  | some g => (s.slot g).bricks.filter fun b => BrickId.die b = die && BrickId.course b = c && s.inService b
def State.inSlabSet (s : State) (die c col : Nat) : Bool := (s.slabSet die c).contains (BrickId.mk die c col)

/-- A malformed record (R290). -/
def State.taskMalformed (s : State) (die c : Nat) (t : Task) : Bool :=
  let zero := bits (t.w 0) 12 7 ≠ 0 || t.w 1 % 1024 ≠ 0 || t.w 2 % 1024 ≠ 0 || t.w 3 % 2 ^ 32 ≠ 0 || t.w 4 % 2 ^ 26 ≠ 0 ||
    t.w 5 % 2 ^ 32 ≠ 0 || t.w 6 ≠ 0 || t.w 7 % 2 ^ 48 ≠ 0 || (t.opf = 8 && t.rowStride 1 ≠ 0) ||
    (!opfScaled t.opf && (t.scaleOff 1 ≠ 0 || t.scaleOff 2 ≠ 0))
  zero || t.ndep = 3 || 9 ≤ t.opf || 2 ≤ t.init || 3 ≤ t.dfmt ||
  (1 ≤ t.ndep && t.dep 0 = t.tid) || (t.ndep = 2 && t.dep 1 = t.tid) ||
  (t.opf = 8) = (t.pb = 0) || (7 ≤ t.opf && t.dfmt ≠ 0) ||
  !s.inSlabSet die c (t.col 1) || !s.inSlabSet die c (t.col 2) ||
  (t.init = 1 && !s.inSlabSet die c (t.col 4)) || (t.nen && !s.inSlabSet die c t.ncol)

/-! The scoreboard (R294, R296) -/

def boardFree : Nat := 0
def boardQueued : Nat := 1
def boardRun : Nat := 2
def boardDone : Nat := 3
def boardFault : Nat := 4

/-- An entry as issue sees it in a cycle. -/
def Sched.seen (q : Sched) (now tid : Nat) : Nat :=
  let (st, before, at') := q.board.getD tid (0, 0, 0)
  if at' < now then st else before
def Sched.entry (q : Sched) (tid : Nat) : Nat := (q.board.getD tid (0, 0, 0)).1
/-- An entry changes in cycle `at'`. -/
def Sched.setEntry (q : Sched) (at' tid v : Nat) : Sched :=
  { q with board := modifyAt (fun _ => (v, q.seen at' tid, at')) tid q.board }

/-- A record's GEN against CGEN (R295). -/
def Sched.genAhead (q : Sched) (t : Task) : Nat := (t.gen + 65536 - q.gen) % 65536
def Sched.isStale (q : Sched) (t : Task) : Bool := 32768 ≤ q.genAhead t

/-- Statuses of R301. -/
def tskMalf : Nat := 1
def tskStale : Nat := 2
def tskBank : Nat := 3
def tskEcc : Nat := 4
def tskDepFlt : Nat := 5

/-- The DONE token of R301; STATUS 0 reports the task's accesses (R278). -/
def Task.done (t : Task) (status scol : Nat) : Token :=
  { ctrlToken 5 (status * 2 ^ 52 + scol * 2 ^ 46 + t.tid) with cls := some .slb, ts := t.ts }

/-- Ports of the engines on a course network, as sources of tokens. -/
def schedPort : Nat := 100
def drainPort (acc : Nat) : Nat := 101 + acc

/-- Cycles of the course network from a scheduler, which no rule places on its course: it is taken to stand at column 0, as its steer port's identifier does (R182, R301, R386, log 1). -/
def courseTime (col : Nat) : Nat := 3 + col / 8

/-- A task ends with a status: its DONE where NEN asks for one, and TQST's LTID and LSTAT. -/
def State.tellDone (s : State) (die c : Nat) (t : Task) (status scol : Nat) : State :=
  let n := BrickId.mk die c t.ncol
  let s := if t.nen && (status ≠ tskMalf || s.inSlabSet die c t.ncol) then s.launchIn (courseTime t.ncol) n schedPort (.input n t.nch) (t.done status scol) else s
  if status = 0 then s else s.modSched die c fun q => { q with ltid := t.tid, lstat := status }

/-- The cycle at whose end the present event happens. -/
def State.endOf (s : State) : Nat := s.now - 1

/-! Arrival, the ring and the window (R292-R295) -/

/-- The scheduler's accesses for a record, with the floor of the firing that queued it (R275, R277, R293). -/
def State.taskAccess (s : State) (q : Sched) (t : Task) : Access :=
  { cls := .slb, tenancy := (q.region.map fun g => (s.slot g).tenancy).getD 0, floor := t.floor, region := q.region }

/-- A record is queued: one of the oldest 32 stays on the chip, and another is written to the ring in memory; one whose write fails is the scheduler's own copy (R293, log 16). -/
def State.queueTask (s : State) (die c : Nat) (t : Task) : State :=
  let q := s.sched die c
  let a := q.base + 64 * ((q.head + q.ring.length) % q.size)
  let (kept, s) : Task × State := if q.ring.length + q.window.length < 32 then ({ t with stored := false }, s) else match s.classWrite (s.taskAccess q t) a (t.words.flatMap fun w => leBytes 8 w.toNat) with
    | (.ok ts, s) => ({ t with stored := true, ts := max t.ts ts }, s)
    | (.error _, s) => ({ t with stored := false }, s)
  s.modSched die c fun q => { q with ring := q.ring ++ [kept] }

/-- The ring that a resumed region takes up again: its records are queued at its present place (R293, R304). -/
def State.refillRing (s : State) (die c : Nat) : State :=
  (s.sched die c).ring.foldl (fun s t => s.queueTask die c t) (s.modSched die c fun q => { q with ring := [] })

/-- TASK_RECORD_ARRIVAL (R292, R293, R301): a malformed record does not enter the queue. A record enters only the scheduler that serves its brick's region (R509). -/
def execTaskRecordArrival (b : BrickId) (s : State) : Outcome :=
  let x := s.brick b
  let die := BrickId.die b
  let c := BrickId.course b
  let q := s.sched die c
  match x.taskPort with
  | [] => .next s
  | t :: rest =>
    let s' := (s.modBrick b fun x => { x with taskPort := rest, taskAt := s.now + 1 }.wake).rcvd b 1 |>.returned b 1
    let out := if s.taskMalformed die c t then
        (s'.modSched die c fun q => { q with malf := min 255 (q.malf + 1) }).tellDone die c t tskMalf 0
      else s'.queueTask die c t
    stepWhen (x.taskAt ≤ s.now && q.region = x.region && q.ring.length + q.window.length < q.size) s out

/-- The record at the head of the ring, read back from memory (R293); one whose write or read fails is the scheduler's own copy (log 16). -/
def State.ringHead (s : State) (q : Sched) (t : Task) : Task × State :=
  if t.stored then
    match s.classRead (s.taskAccess q t) (q.base + 64 * (q.head % q.size)) 64 with
    | (.ok (bs, ts), s) =>
      ({ t with words := (List.range 8).map (fun i => BitVec.ofNat 64 (leValue ((bs.drop (8 * i)).take 8))), ts := max t.ts ts }, s)
    | (.error _, s) => (t, s)
  else (t, s)

/-- A wave has come to the region that a scheduler serves: it moves and issues no record any more, once the task ports have delivered theirs (R389, log 19). -/
def State.schedStopped (s : State) (die c : Nat) : Bool :=
  (s.slabSet die c).any s.waveCame && (s.slabSet die c).all fun b => (s.brick b).taskPort.isEmpty

/-- WINDOW_ENTER (R293-R295): a stale head does not enter. -/
def execWindowEnter (die c : Nat) (s : State) : Outcome :=
  let q := s.sched die c
  match q.ring with
  | [] => .next s
  | t0 :: rest =>
    let (t, s1) := s.ringHead q t0
    let popped (q : Sched) : Sched := { q with ring := rest, head := (q.head + 1) % q.size }
    if q.isStale t then
      stepWhen (!s.schedStopped die c) s ((s1.modSched die c fun q => { popped q with stale := min 255 (q.stale + 1) }).tellDone die c t tskStale 0)
    else
      let e := q.entry t.tid
      stepWhen (q.window.length < 32 && (e = boardFree || e = boardDone || e = boardFault) && !s.schedStopped die c) s
        (s1.modSched die c fun q =>
          ({ popped q with window := q.window ++ [{ t with prev := e }] }).setEntry s.now t.tid boardQueued)

/-- STALE_RECORD (R294, R295): the entry returns to the state before the record. -/
def execStaleRecord (die c k : Nat) (s : State) : Outcome :=
  let q := s.sched die c
  match q.window[k]? with
  | none => .next s
  | some t =>
    stepWhen (q.isStale t && !s.schedStopped die c) s
      ((s.modSched die c fun q =>
        ({ q with window := removeAt k q.window, stale := min 255 (q.stale + 1) }).setEntry s.now t.tid t.prev).tellDone die c t tskStale 0)

/-! Operands (R289, R297) -/

/-- A byte range of one bank. -/
structure BankRange where
  col : Nat
  off : Nat
  len : Nat
  deriving DecidableEq, Repr

/-- A range that leaves SCRATCH or passes byte 65,535 is bad (R297). -/
def Brick.rangeOk (x : Brick) (off len : Nat) : Bool :=
  off + len ≤ 65536 && (List.range ((off + len - 1) / 4096 + 1 - off / 4096)).all fun i => x.part (off / 4096 + i) = 0

/-- Planes read under OPF 0x8 (R136). -/
def Task.planes (t : Task) : Nat := t.pb + 1

/-- Ranges of A (i = 1) or B (i = 2). -/
def Task.operandRanges (t : Task) (i : Nat) : List BankRange :=
  (List.range t.ks).flatMap fun st =>
    if t.opf = 8 && i = 1 then
      (List.range 2).map fun k => { col := t.col 1, off := t.off 1 + st * t.stepStride 1 + 512 * k, len := 64 * t.planes }
    else
      (List.range 32).map (fun m => { col := t.col i, off := t.off i + st * t.stepStride i + m * t.rowStride i, len := 32 * opfBits t.opf i / 8 }) ++
      (if opfScaled t.opf then [{ col := t.col i, off := t.scaleOff i + 32 * st, len := 32 }] else [])

def Task.loadRanges (t : Task) : List BankRange :=
  if t.init = 1 then (List.range 32).map fun m => { col := t.col 4, off := t.off 4 + m * t.rowStride 4, len := 128 } else []

/-- Rows that a bank route writes (R299). -/
def Task.drainRanges (t : Task) (base : Nat) : List (Nat × Nat) :=
  (List.range 32).map fun m => (base + t.doff + m * t.drs, 32 * t.outBytes)

def State.rangesOk (s : State) (die c : Nat) (rs : List BankRange) : Bool :=
  rs.all fun r => (s.brick (BrickId.mk die c r.col)).rangeOk r.off r.len
/-- The first uncorrectable word of a list of ranges: its brick and its byte address. -/
def State.badWord (s : State) (die c : Nat) (rs : List BankRange) : Option (BrickId × Nat) :=
  rs.findSome? fun r => ((List.range ((r.off + r.len - 1) / 8 + 1 - r.off / 8)).find? fun i =>
    (s.brick (BrickId.mk die c r.col)).wordUe (r.off / 8 + i)).map fun i => (BrickId.mk die c r.col, 8 * (r.off / 8 + i))

/-- The bank that a drain route names. -/
def bankRoute : List Dest → Option (BrickId × Nat)
  | [.bank b off] => some (b, off)
  | _ => none

/-- The rows that a bank route would write lie in SCRATCH of a brick that its region has in service on the course (R289, R297, R299). -/
def State.drainOk (s : State) (q : Sched) (t : Task) (route : Nat) : Bool :=
  match bankRoute (q.routes.getD route ([], true)).1 with
  | some (b, base) => (s.slabSet (BrickId.die b) (BrickId.course b)).contains b && (t.drainRanges base).all fun r => (s.brick b).rangeOk r.1 r.2
  | none => true

/-- The 32 raw elements at a byte address. -/
def Brick.elements (x : Brick) (off ebits : Nat) : List Nat :=
  let v := leValue (cellsRead x.bank off (32 * ebits / 8))
  (List.range 32).map fun k => bits v (ebits * k + ebits - 1) (ebits * k)

/-- Element e of a step's plane blocks, its planes 7 down to 8 - p (R135, R136). -/
def Brick.planeElement (x : Brick) (off p e : Nat) : Int :=
  let blk := off + 512 * (e / 512)
  signed 8 ((List.range p).foldl (fun v j =>
    v + b2n (bit (cellsGet x.bank (blk + 64 * j + e % 512 / 8)).toNat (e % 8)) * 2 ^ (7 - j)) 0)

/-- Row or column m of operand i at step st as exact values. -/
def State.floatVector (s : State) (die c : Nat) (t : Task) (i st m : Nat) : List Val :=
  let x := s.brick (BrickId.mk die c (t.col i))
  let f := Fmt.ofPage (opfFmt t.opf i)
  let raw := x.elements (t.off i + st * t.stepStride i + m * t.rowStride i) (opfBits t.opf i)
  if opfScaled t.opf then raw.map fun v => f.decScaled v (cellsGet x.bank (t.scaleOff i + 32 * st + m)).toNat
  else raw.map f.dec

def State.intVector (s : State) (die c : Nat) (t : Task) (i st m : Nat) : List Int :=
  let x := s.brick (BrickId.mk die c (t.col i))
  if t.opf = 8 && i = 1 then (List.range 32).map fun k => x.planeElement (t.off 1 + st * t.stepStride 1) t.planes (32 * m + k)
  else (x.elements (t.off i + st * t.stepStride i + m * t.rowStride i) 8).map (signed 8)

/-- C0 (R287). -/
def State.loadTile (s : State) (die c : Nat) (t : Task) : List Nat :=
  if t.init = 1 then
    let x := s.brick (BrickId.mk die c (t.col 4))
    (List.range 32).flatMap fun m => x.elements (t.off 4 + m * t.rowStride 4) 32
  else List.replicate 1024 0

/-- C := C0 + A·B, step by step (R287). -/
def State.slabTile (s : State) (die c : Nat) (t : Task) : List Nat :=
  let c0 := s.loadTile die c t
  (List.range 1024).map fun j =>
    let m := j / 32
    let n := j % 32
    if opfFloat t.opf then
      fp32.enc ((List.range t.ks).foldl (fun acc st =>
        dot32grp (s.floatVector die c t 1 st m) (s.floatVector die c t 2 st n) acc) (fp32.dec (c0.getD j 0)))
    else (List.range t.ks).foldl (fun acc st =>
      dotInt (s.intVector die c t 1 st m) (s.intVector die c t 2 st n) acc) (c0.getD j 0)

/-! Issue, compute and drain (R296-R299) -/

def Acc.busy (a : Acc) : Bool := a.work ≠ .idle
def Acc.computes (a : Acc) : Bool :=
  match a.work with
  | .computing .. => true
  | _ => false
/-- A slab is free (R286): its lower idle accumulator. -/
def Brick.freeAcc (x : Brick) : Option Nat :=
  if x.accs.any Acc.computes then none else x.accs.findIdx? fun a => !a.busy
def Brick.acc (x : Brick) (k : Nat) : Acc := x.accs.getD k {}
def State.modAcc (s : State) (b : BrickId) (k : Nat) (f : Acc → Acc) : State :=
  s.modBrick b fun x => { x with accs := modifyAt f k x.accs }

/-- The dependences of a record: all met, or one failed (R296). -/
def Sched.depStates (q : Sched) (now : Nat) (t : Task) : List Nat := (List.range t.ndep).map fun k => q.seen now (t.dep k)
def Sched.depFailed (q : Sched) (now : Nat) (t : Task) : Bool := (q.depStates now t).any (· = boardFault)
def Sched.isReady (q : Sched) (now : Nat) (t : Task) : Bool := q.genAhead t = 0 && (q.depStates now t).all (· = boardDone)

/-- The scheduler has a record to take from its window in this cycle (R295, R296). -/
def State.issueDue (s : State) (die c : Nat) : Bool :=
  let q := s.sched die c
  !s.schedStopped die c &&
    (q.window.any q.isStale || q.window.any (q.depFailed s.now) ||
      (q.issueAt ≤ s.now && q.window.any (q.isReady s.now) && (s.slabSet die c).any fun b => (s.brick b).freeAcc.isSome))

/-- The drain route of a waiting task, once it is known (R299). -/
def State.drainRoute (s : State) (b : BrickId) (t : Task) : Option Nat :=
  if t.stw then (s.sched (BrickId.die b) (BrickId.course b)).steer.getD t.tid none else some t.ridx

/-- A drained element (R299). -/
def Task.drained (t : Task) (v : Nat) : Nat :=
  match t.dfmt with
  | 1 => bf16.enc (bf16.round 0 (fp32.dec v)).1
  | 2 => fp16.enc (fp16.round 0 (fp32.dec v)).1
  | _ => v
/-- Elements in 8 B, and words of a tile. -/
def Task.perWord (t : Task) : Nat := 8 / t.outBytes
def Task.words8 (t : Task) : Nat := 1024 / t.perWord
/-- Word j of a drained tile, row-major. -/
def Task.drainWord (t : Task) (tile : List Nat) (j : Nat) : Nat :=
  (List.range t.perWord).foldl (fun v h => v + t.drained (tile.getD (t.perWord * j + h) 0) * 2 ^ (8 * t.outBytes * h)) 0

/-- Words of a drain, with its EOS where the route sends one (R299). -/
def Task.drainLength (t : Task) (dests : List Dest) (noeos : Bool) : Nat := t.words8 + b2n (!(noeos || dests.isEmpty))
def Task.drainToken (t : Task) (tile : List Nat) (j : Nat) : Token :=
  { (if j = t.words8 then eosToken t.tid false false t.words8 else dataToken (t.drainWord tile j)) with cls := some .slb, ts := t.ts }

/-- A drain can go on in this cycle (R299). -/
def State.drainMoves (s : State) (b : BrickId) (t : Task) (r j : Nat) (todo held : List Nat) : Bool :=
  let (dests, noeos) := ((s.sched (BrickId.die b) (BrickId.course b)).routes.getD r ([], true))
  (bankRoute dests).isSome || todo.isEmpty || (j < t.drainLength dests noeos && todo.any fun k => !held.contains k) ||
  held.any fun k => match dests[k]? with
    | some d => s.accepts d (eosToken t.tid false false 0)
    | none => false

/-- An accumulator of a brick has a step whose cycle has come (R297, R299, R301). -/
def State.accDue (s : State) (b : BrickId) : Bool :=
  (s.brick b).accs.any fun a => match a.work with
    | .computing _ ends => ends < s.now
    | .ending _ _ due => due < s.now
    | .waiting t start => start ≤ s.now && (s.drainRoute b t).isSome && !s.waveCame b
    | .draining t r j next todo held => next ≤ s.now && !s.waveCame b && s.drainMoves b t r j todo held
    | .idle => false

/-- A course's scoreboard and slabs stand as the end of the last cycle left them: every step of its accumulators, and every DONE, that was due has been taken (R296). -/
def State.courseSettled (s : State) (die c : Nat) : Bool :=
  !(s.slabSet die c).any s.accDue && !(s.sched die c).ends.any fun e => e.2.2 < s.now

/-- TASK_ISSUE (R296, R297): a record with a failed dependence leaves with DEPFLT; otherwise the oldest ready record issues, and one whose ranges are bad ends with BANK. -/
def execTaskIssue (die c : Nat) (s : State) : Outcome :=
  let q := s.sched die c
  match q.window.findIdx? (q.depFailed s.now) with
  | some k =>
    let t := q.window.getD k { words := [] }
    stepWhen (!s.schedStopped die c && s.courseSettled die c) s
      ((s.modSched die c fun q => ({ q with window := removeAt k q.window }).setEntry s.now t.tid boardFault).tellDone die c t tskDepFlt 0)
  | none =>
    match q.window.findIdx? (q.isReady s.now), (s.slabSet die c).find? fun b => (s.brick b).freeAcc.isSome with
    | some k, some b =>
      let t := q.window.getD k { words := [] }
      let a := (s.brick b).freeAcc.getD 0
      let good : Bool := s.rangesOk die c (t.operandRanges 1 ++ t.operandRanges 2 ++ t.loadRanges) && (t.stw || s.drainOk q t t.ridx)
      let left (v : Nat) : State := s.modSched die c fun q => ({ q with window := removeAt k q.window, issueAt := s.now + 1 }).setEntry s.now t.tid v
      let out := if good then
          (left boardRun).modAcc b a fun _ => { tile := [], work := .computing t (s.now + 16 + t.ks * t.stepCycles) }
        else (left boardFault).tellDone die c t tskBank (BrickId.col b)
      stepWhen (q.issueAt ≤ s.now && !s.schedStopped die c && s.courseSettled die c) s out
    | _, _ => .next s

/-- A task ends at its accumulator (R299, R301). -/
def State.endTask (s : State) (b : BrickId) (acc : Nat) (t : Task) (status : Nat) : State :=
  let die := BrickId.die b
  let c := BrickId.course b
  ((s.modAcc b acc fun _ => {}).modSched die c fun q =>
    q.setEntry s.endOf t.tid (if status = 0 then boardDone else boardFault)).tellDone die c t status (BrickId.col b)

/-- The brick's region tears down after a fault: its slabs finish computing, and drain no further (R389, R403). -/
def State.tornDown (s : State) (b : BrickId) : Bool :=
  match (s.brick b).region with
  | some g => (s.slot g).st = .drain && (s.slot g).kind = 2
  | none => true

/-- TASK_COMPUTE_END (R287, R297): the operand reads stand at the end of the computation (log 16). -/
def execTaskComputeEnd (b : BrickId) (acc : Nat) (s : State) : Outcome :=
  match ((s.brick b).acc acc).work with
  | .computing t ends =>
    let die := BrickId.die b
    let c := BrickId.course b
    stepWhen (ends < s.now) s
      (if s.tornDown b then s.modAcc b acc fun _ => {}
       else match s.badWord die c (t.operandRanges 1 ++ t.operandRanges 2 ++ t.loadRanges) with
         | some (o, a) => (s.meetBad (.bank o) a).endTask b acc t tskEcc
         | none => s.modAcc b acc fun _ => { tile := s.slabTile die c t, work := .waiting t (ends + 1) })
  | _ => .next s

/-- DRAIN_START (R299, R300): a route that is bad frees the accumulator at once, and its DONE is due 4 cycles on. -/
def execDrainStart (b : BrickId) (acc : Nat) (s : State) : Outcome :=
  match ((s.brick b).acc acc).work with
  | .waiting t start =>
    let die := BrickId.die b
    let c := BrickId.course b
    let q := s.sched die c
    match s.drainRoute b t with
    | none => .next s
    | some r =>
      let n := (q.routes.getD r ([], true)).1.length
      let s' := if t.stw then s.modSched die c fun q => { q with steer := modifyAt (fun _ => none) t.tid q.steer } else s
      stepWhen (start ≤ s.now && !s.waveCame b) s
        (if s.drainOk q t r then s'.modAcc b acc fun a => { a with work := .draining t r 0 s.now (List.range n) [] }
         else (s'.modAcc b acc fun _ => {}).modSched die c fun q => { q with ends := q.ends ++ [(t, BrickId.col b, s.now + 4)] })
  | _ => .next s

/-- One cycle of a drain to ports: each branch takes the copy that it holds, or forks the present word; a branch that cannot accept it keeps a copy in its hold register (R184, log 16). Answers the branches still to fork the word, those that hold a copy, and the state. -/
def State.drainFork (s : State) (b : BrickId) (acc : Nat) (t : Task) (dests : List Dest) (total j : Nat) (todo held : List Nat) : List Nat × List Nat × State :=
  let tile := ((s.brick b).acc acc).tile
  (List.range dests.length).foldl (fun (p : List Nat × List Nat × State) k =>
    match dests[k]? with
    | none => p
    | some d =>
      let waits := todo.contains k
      if held.contains k then
        let tok := t.drainToken tile (if waits then j - 1 else j)
        if p.2.2.accepts d tok then (p.1, p.2.1.filter (· ≠ k), p.2.2.launch b (drainPort acc) d tok) else p
      else if waits && j < total then
        let tok := t.drainToken tile j
        if p.2.2.accepts d tok then (p.1.filter (· ≠ k), p.2.1, p.2.2.launch b (drainPort acc) d tok) else (p.1.filter (· ≠ k), p.2.1 ++ [k], p.2.2)
      else p) (todo, held, s)

/-- DRAIN_WORD (R299): a word per cycle; the next one follows once every branch has forked the last (R184). A bank word whose place has left SCRATCH since the task issued is not written, and the task ends with BANK (R203, R318, log 16). -/
def execDrainWord (b : BrickId) (acc : Nat) (s : State) : Outcome :=
  let a := (s.brick b).acc acc
  match a.work with
  | .draining t r j next todo held =>
    let (dests, noeos) := ((s.sched (BrickId.die b) (BrickId.course b)).routes.getD r ([], true))
    let enabled : Bool := next ≤ s.now && !s.waveCame b
    match bankRoute dests with
    | some (target, base) =>
      let row := j * t.perWord / 32
      let at' := base + t.doff + row * t.drs + j * t.perWord % 32 * t.outBytes
      let good := (s.brick target).scratchRange at' 8
      let s' := if good then s.modBrick target fun x => x.store at' (leBytes 8 (t.drainWord a.tile j)) else s
      stepWhen enabled s (s'.modAcc b acc fun a =>
        { a with work :=
            if !good then .ending t tskBank (s.now + 4) else if j + 1 = t.words8 then .ending t 0 (s.now + 4) else .draining t r (j + 1) (s.now + 1) todo held })
    | none =>
      let total := t.drainLength dests noeos
      let (todo', held', s') := s.drainFork b acc t dests total j todo held
      let j' := if todo'.isEmpty && j < total then j + 1 else j
      let work : AccWork :=
        if j' = total && held'.isEmpty then .ending t 0 (s.now + (if total = t.words8 then 4 else 3))
        else .draining t r j' (s.now + 1) (if todo'.isEmpty then List.range dests.length else todo') held'
      stepWhen enabled s (s'.modAcc b acc fun a => { a with work })
  | _ => .next s

/-- The oldest task of a slab whose drain could not start and whose DONE has come due, ends with BANK (R299). -/
def State.endUnstarted (s : State) (b : BrickId) : State :=
  let die := BrickId.die b
  let c := BrickId.course b
  match (s.sched die c).ends.findIdx? fun e => e.2.1 = BrickId.col b && e.2.2 < s.now with
  | none => s
  | some k =>
    match (s.sched die c).ends[k]? with
    | none => s
    | some e => (s.modSched die c fun q => ({ q with ends := removeAt k q.ends }).setEntry s.endOf e.1.tid boardFault).tellDone die c e.1 tskBank e.2.1

/-- TASK_DONE (R294, R299, R301): of a task in an accumulator, or of one whose drain could not start. -/
def execTaskDone (b : BrickId) (acc : Nat) (s : State) : Outcome :=
  match ((s.brick b).acc acc).work with
  | .ending t status due => .next (if due < s.now then s.endTask b acc t status else s.endUnstarted b)
  | _ => .next (s.endUnstarted b)

/-- STEER_PORT_TAKE (R300). -/
def execSteerPortTake (die c : Nat) (s : State) : Outcome :=
  let q := s.sched die c
  match q.port with
  | [] => .next s
  | t :: rest =>
    let v := bits t.pay.toNat 47 16
    let good : Bool := t.tag = .ctrl && t.subtype = 2 && v < 256
    stepWhen (q.takeAt ≤ s.now) s
      (s.modSched die c fun q =>
        let q := { q with port := rest, takeAt := s.now + 1, sent := q.sent + 1, rcvd := q.rcvd + 1 }
        if good then { q with steer := modifyAt (fun _ => some (t.pay.toNat % 8)) v q.steer } else { q with malf := min 255 (q.malf + 1) })

/-- TQST (R302); a scheduler that serves no region counts every slab of its course (log 16). -/
def State.tqst (s : State) (die c : Nat) : Nat :=
  let q := s.sched die c
  let slabs := if q.region.isSome then s.slabSet die c else ((List.range 64).map (BrickId.mk die c)).filter s.inService
  (q.ring.length + q.window.length) * 2 ^ 40 + q.window.length * 2 ^ 34 + q.malf * 2 ^ 26 + q.stale * 2 ^ 18 + q.ltid * 2 ^ 10 + q.lstat * 2 ^ 7 +
    (slabs.filter fun b => (s.brick b).freeAcc.isSome).length

end Sys2Proof.Machine
end

