-- ==== Sys2Proof/Machine/Launch.lean ====
section
/-! DEFINITION. Bind slots and dispatch: submission (R370, R371), the checks of R374 in their order, holding (R24), loading and starting (R373), and the charges and key slots of a load (R368, R426). -/

namespace Sys2Proof.Machine

open Sys2Proof

/-- The rejections of R374. -/
def rejFormat : Nat := 0x01
def rejNode : Nat := 0x02
def rejImage : Nat := 0x03
def rejMapout : Nat := 0x04
def rejBudget : Nat := 0x05
def rejBank : Nat := 0x06
def rejRoute : Nat := 0x07
def rejShape : Nat := 0x08
def rejOwner : Nat := 0x09
def rejParam : Nat := 0x0A
def rejGutter : Nat := 0x0B
def rejNoSink : Nat := 0x0C
def rejLoadBad : Nat := 0x0D
def rejSched : Nat := 0x0E
def rejInUse : Nat := 0x0F

/-- Fields of a bind record (R370). -/
def Slot.rcf (x : Slot) : Bool := bit (x.word 0) 62
def Slot.img (x : Slot) : Nat := bits (x.word 1) 53 0
def Slot.cword (x : Slot) : Nat := bits (x.word 2) 53 0
def Slot.tqb (x : Slot) : Nat := bits (x.word 3) 53 0
def Slot.tqs (x : Slot) : Nat := bits (x.word 3) 59 56
def Slot.omap (x : Slot) : Nat := bits (x.word 6) 53 0
def Slot.pina (x : Slot) : Nat := bits (x.word 7) 35 32
def Slot.rslot (x : Slot) : Nat := bits (x.word 7) 41 36
def Slot.tth (x : Slot) : Nat := bits (x.word 7) 31 16
def Slot.pre (x : Slot) : Nat := bits x.modes 5 4
def Slot.therm (x : Slot) : Nat := bits x.modes 8 7

/-- A region of this die's table: bind slots are read in slot order. -/
def slotsOf (die : Nat) : List RegionId := (List.range 64).map fun k => { die, slot := k }
def allSlots : List RegionId := (List.range 4).flatMap slotsOf

/-! Submission and BSTAT (R370, R371) -/

/-- The next place in the order in which GO writes arrive (R373). -/
def State.nextOrder (s : State) : Nat := allSlots.foldl (fun n r => max n ((s.slot r).order + 1)) 1

/-- BIND_SUBMIT (R370): a write to a slot that is not FREE is ignored, and one with GO = 0 submits nothing. -/
def execBindSubmit (r : RegionId) (w0 : Word) (s : State) : Outcome :=
  let x := s.slot r
  let words := modifyAt (fun _ => w0) 0 x.words
  stepWhen (r.exists && x.st = .free) s
    (if w0.getLsbD 63 then s.modSlot r fun _ => { words, st := .valid, order := s.nextOrder } else s.modSlot r fun x => { x with words })

/-- `BSTAT` (R371): UNREP counts the sinks that have not reported. -/
def SlotState.code : SlotState → Nat
  | .free => 0
  | .valid => 1
  | .hold => 2
  | .load => 3
  | .run => 4
  | .drain => 5
  | .done => 6
  | .reject => 7
  | .fault => 8
def State.unreported (s : State) (r : RegionId) : List BrickId :=
  (s.slot r).bricks.flatMap fun b => (s.brick b).inputs.filterMap fun i => match i.sink with
    | some k => if k.reported then none else some b
    | none => none
def State.bstat (s : State) (r : RegionId) : Word :=
  let x := s.slot r
  BitVec.ofNat 64 (x.reason % 256 * 2 ^ 12 + (if x.active then min 255 (s.unreported r).length else 0) * 16 + x.st.code)

/-- BSTAT_KILL (R369, R371): the record names the node of the faulting region that led to the write, or 0xFFF. A reconfiguration slot holds no region, and ignores it (DEDUCED, log 18). -/
def execBstatKill (r : RegionId) (node : Nat) (s : State) : Outcome :=
  stepWhen ((s.slot r).st = .run && !(s.slot r).rcf) s (s.raiseFault r { code := 0x06, data := node % 4096 })

/-- BSTAT_CLR (R371). -/
def execBstatClr (r : RegionId) (s : State) : Outcome :=
  let st := (s.slot r).st
  stepWhen (st = .done || st = .reject || st = .fault) s { s with slots := Table.erase s.slots r.key }

/-! The checks of R374 -/

/-- FORMAT for a start or a resume. -/
def Slot.formatOk (x : Slot) : Bool :=
  let w := x.word
  bits (w 0) 61 58 = 0 && x.pre ≠ 3 && x.therm ≠ 3 && bits x.modes 16 11 = 0 && bits x.modes 22 17 = x.tenancy &&
  bits (w 1) 63 54 = 0 && bits (w 2) 63 54 = 0 && w 2 % 8 = 0 && bits (w 3) 55 54 = 0 && bits (w 3) 63 60 = 0 &&
  6 ≤ x.tqs && x.tqs ≤ 12 && bits (w 6) 63 54 = 0 && bits (w 7) 63 36 = 0 &&
  (List.range 4).all fun d =>
    bits (w (4 + d / 2)) (32 * (d % 2) + 31) (32 * (d % 2) + 25) = 0 && match x.footprint d with
      | some (c0, k0, h, wd) => c0 + h ≤ 64 && k0 + wd ≤ 64
      | none => true

/-- NODE. -/
def State.nodeOk (s : State) (x : Slot) : Bool := s.nodeLive x.node && s.nodeTen x.node = x.tenancy

/-- The bricks that an image places, ascending; none where a brick or a course section falls outside the footprints, a die that is not present among them (R374; log 18). -/
def LoadImage.placed (img : LoadImage) (x : Slot) : Option (List (BrickId × BrickPart)) :=
  if !img.courses.all (fun c => match x.footprint c.die with
      | some (_, _, h, _) => c.course < h
      | none => false) then none
  else (img.bricks.mapM fun (p : BrickPart) => match x.relocate p.rel with
    | some b => if x.inside b then some (b, p) else none
    | none => none).map sortBricks

/-- An image's extents fit the footprints (R374). -/
def LoadImage.extentsFit (img : LoadImage) (x : Slot) : Bool :=
  (List.range 4).all fun d =>
    let e := bits img.extents (16 * d + 15) (16 * d)
    !bit e 12 || match x.footprint d with
      | some (_, _, h, w) => bits e 5 0 + 1 ≤ h && bits e 11 6 + 1 ≤ w
      | none => false

/-- The destination words of n route entries at an offset. -/
def destWordsOf (sec : List Byte) (off n : Nat) : List Nat := (List.range n).flatMap fun k => destWords sec (off + 32 * k)

/-- Every destination of an image that can be relocated, each by itself, with the die that names it: where one of a brick's destinations lies past course or column 63, the others are judged all the same (R22, R55). -/
def LoadImage.dests (img : LoadImage) (x : Slot) (placed : List (BrickId × BrickPart)) : List (Nat × Dest) :=
  (placed.flatMap fun p =>
    (x.destsIn (destWordsOf p.2.sec 0x100 4 ++ if BrickId.isEdge p.1 then destWordsOf p.2.sec 0x200 8 else [])).map fun d => (BrickId.die p.1, d)) ++
  img.courses.flatMap fun c => (x.destsIn (destWordsOf c.sec 0x40 8)).map fun d => (c.die, d)

/-! What the checks of R374 ask of an image, be it a load image or a halted one -/

/-- A placed brick: its pool, the granules that its image declares pinned, those that its bank data and those that its image as a whole write, the bound granules that the image takes up again, its gutters, notice input and records, whether it declares a sink, and whether every destination of its route entries relocates. -/
structure Placing where
  brick : BrickId
  pool : List Word
  pins : Nat
  data : Nat := 0
  writes : Nat := 0
  own : Nat := 0
  gutters : List (Option Gutter)
  note : Option Nat
  shapes : List Shape
  sinks : Bool
  whole : Bool
  deriving DecidableEq, Repr
def Placing.dock (p : Placing) : Bool := p.pool.any isDockWord

/-- A plan: the placed bricks; every destination that relocates, each by itself, with the die that names it (R22, R55); the drain tables, none where a destination does not relocate; the parameter windows with their sizes, and the schedulers to bind. -/
structure Plan where
  placed : List Placing
  dests : List (Nat × Dest)
  drains : List (Option ((Nat × Nat) × List (List Dest)))
  windows : List (Nat × Nat)
  binds : List (Nat × Nat)
  deriving DecidableEq, Repr
def Plan.names (p : Plan) : List BrickId := p.placed.map (·.brick)
/-- The pinned granules that an image declares and no brick holds bound. -/
def Plan.declared (p : Plan) : Nat := (p.placed.map fun q => popCount 16 (q.pins &&& (0xFFFF - q.own))).foldl (· + ·) 0

/-- Bricks that a list of destinations names. -/
def destBricks (ds : List Dest) : List BrickId := ds.filterMap fun d => d.brick

/-- A brick in service, inside the node's bays (R22). -/
def State.mayPlace (s : State) (node : Nat) (b : BrickId) : Bool :=
  s.inService b && bit (s.nodeWord node 4) (BrickId.bay b)

/-- MAPOUT (R22). -/
def State.mapoutOk (s : State) (x : Slot) (p : Plan) : Bool :=
  (p.names ++ destBricks (p.dests.map (·.2))).all (s.mayPlace x.node)

/-- A HELD brick's bound granules are charged to the node that now places it (R312). -/
def State.rechargeBound (s : State) (b : BrickId) (node : Nat) : State :=
  let x := s.brick b
  let n := popCount 16 x.bound.toNat
  (s.refund x.pinNode 1 n).charge node 1 n

/-- The bound granules of some bricks, and how the charges stand once none of them is charged. -/
def State.boundOf (s : State) (bs : List BrickId) : Nat := (bs.map fun b => popCount 16 (s.brick b).bound.toNat).foldl (· + ·) 0
def State.uncharged (s : State) (bs : List BrickId) : State :=
  bs.foldl (fun s b => s.refund (s.brick b).pinNode 1 (popCount 16 (s.brick b).bound.toNat)) s

/-- BUDGET (R204, R312, R368): the pinned granules, declared ones and those that the bricks hold bound, as one charge, and PINA against the effective budgets. That bound granules of a HELD brick go over to the node that places it is the model's reading (log 18). -/
def State.budgetOk (s : State) (x : Slot) (p : Plan) : Bool :=
  (s.uncharged p.names).chargeFits x.node 1 (p.declared + s.boundOf p.names) &&
  (s.lineage 4096 x.node).all fun m => x.pina ≤ s.effective m 1

/-- The granules that a byte range touches, as a mask. -/
def granuleMask (off len : Nat) : Nat :=
  (List.range 16).foldl (fun n g => if 0 < len && off < 4096 * (g + 1) && 4096 * g < off + len then n + 2 ^ g else n) 0

/-- BANK for the gutters of a brick whose granules outside SCRATCH are `taken` (R185). -/
def guttersOk (gs : List Gutter) (taken : Nat) (dock : Bool) : Bool :=
  gs.all (fun g => g.off % 256 = 0 && g.size % 256 = 0 && 256 ≤ g.size && g.size ≤ 16384 && g.off + g.size ≤ 65536 &&
    granuleMask g.off g.size &&& taken = 0 && (!dock || 0x6000 ≤ g.off)) &&
  noPair (fun (a b : Gutter) => spansMeet (a.off, a.size) (b.off, b.size)) gs

/-- The L1 granules of a brick, as a mask (R204). -/
def l1Mask (b : BrickId) (modes : Nat) : Nat :=
  (List.range 16).foldl (fun n g => if BrickId.isEdge b && 16 ≤ g + l1Count modes then n + 2 ^ g else n) 0

/-- BANK (R185, R204, R312, R323); that a dock brick's docks, which lie in SCRATCH, meet no bound granule is deduced (log 18). -/
def State.bankOk (s : State) (x : Slot) (p : Placing) : Bool :=
  let l1 := l1Mask p.brick x.modes
  let bound := (s.brick p.brick).bound.toNat
  (p.pins ||| bound) &&& l1 = 0 && p.data &&& l1 = 0 && (p.data ||| p.writes ||| p.pins) &&& bound &&& (0xFFFF - p.own) = 0 &&
  popCount 16 (p.pins ||| bound) ≤ x.pina &&
  guttersOk (p.gutters.filterMap id) (l1 ||| p.pins ||| bound) p.dock &&
  (!p.dock || ((p.pins ||| bound ||| l1 ||| p.data) &&& 0x3F = 0 && p.note.isSome))

/-- A route entry's destinations keep R176 and stay inside the footprint and the die. -/
def Slot.destOk (x : Slot) (die : Nat) (d : Dest) : Bool :=
  match d with
  | .input b _ | .bank b _ => BrickId.die b = die && x.inside b
  | .streamIn b _ | .draw b | .param b => BrickId.die b = die && x.inside b && BrickId.isEdge b
  | .ring b => BrickId.die b = die && x.inside b
  | .steer d' c => d' = die && match x.footprint die with
      | some (c0, _, h, _) => c0 ≤ c && c < c0 + h
      | none => false
  | .coll d' => d' = die

/-- A drain route entry (R298). -/
def drainEntryOk (die c : Nat) (l : List Dest) : Bool :=
  match l with
  | [] => true
  | [.streamIn _ _] => true
  | [.bank b off] => BrickId.die b = die && BrickId.course b = c && off % 8 = 0
  | l => l.length ≤ 4 && l.all fun d => match d with
      | .input _ _ => true
      | _ => false

/-- The tenancy holds a lane at boundary q. -/
def State.laneAt (s : State) (t q : Nat) : Bool := bits (s.tenancy t).lane.toNat (8 * q + 7) (8 * q) ≠ 0

/-- The ways round the package ring between two dies, as the boundaries that each crosses: adjacent dies by their boundary, others by either of the two dies between them. -/
def ringWays (a b : Nat) : List (List Nat) :=
  let joins (q x y : Nat) : Bool := boundaryDies q = (x, y) || boundaryDies q = (y, x)
  if a = b then [[]]
  else match (List.range 4).find? fun q => joins q a b with
    | some q => [[q]]
    | none => (List.range 4).filterMap fun m => match (List.range 4).find? (fun q => joins q a m), (List.range 4).find? fun q => joins q m b with
      | some q, some p => some [q, p]
      | _, _ => none

/-- The way that a tenancy's frames take between two dies: the first whose every boundary has a lane of the tenancy. DESIGN CHOICE (log 13): R413 asks for one, and says not which of two is taken. -/
def State.ringWay (s : State) (t a b : Nat) : Option (List Nat) := (ringWays a b).find? fun w => w.all (s.laneAt t)
def State.ringPathOk (s : State) (t a b : Nat) : Bool := (s.ringWay t a b).isSome

/-- ROUTE (R55, R176, R298, R325, R374, R413). -/
def State.routesOk (s : State) (x : Slot) (p : Plan) : Bool :=
  p.placed.all (·.whole) &&
  (p.drains.all fun q => match q with
    | some ((die, co), l) => l.all (drainEntryOk die co)
    | none => false) &&
  (p.dests.all fun d => x.destOk d.1 d.2 && match d.2.brick with
    | some b => bit (s.tenancy x.tenancy).cfg.toNat (BrickId.bay b)
    | none => true) &&
  (p.placed.all fun q => match q.note with
    | some n => p.dests.all fun d => d.2 ≠ .input q.brick n
    | none => true) &&
  (p.names.all fun a => p.names.all fun b => s.ringPathOk x.tenancy (BrickId.die a) (BrickId.die b))

/-- SHAPE (R250); a place whose words are all zero holds no record (R386, log 18). -/
def Placing.shapesOk (p : Placing) : Bool := !BrickId.isEdge p.brick || p.shapes.all fun x => !x.malformed || x.words.all (· = 0)

/-- Able to fire GLD, GST or GAT (R241). -/
def firesGlobal (pool : List Word) : Bool := pool.any fun w => 0x78 ≤ bits w.toNat 63 57 && bits w.toNat 63 57 ≤ 0x7A

/-- The explicit owner map at OMAP (R372); none where it cannot be read or a zero field holds a one. -/
def State.readOwners (s : State) (g : RegionId) (x : Slot) : Option (List (Nat × Nat × BrickId)) × State :=
  match s.classRead { cls := .ctl, tenancy := x.tenancy, region := some g } x.omap 8 with
  | (.error _, s) => (none, s)
  | (.ok (h, _), s) =>
    let n := leValue h
    if n = 0 || 256 < n then (none, s)
    else match s.classRead { cls := .ctl, tenancy := x.tenancy, region := some g } (x.omap + 8) (16 * n) with
      | (.error _, s) => (none, s)
      | (.ok (l, _), s) =>
        ((List.range n).mapM fun i =>
          let w0 := wordAt l (16 * i)
          let w1 := wordAt l (16 * i + 8)
          if bits w0 12 0 ≠ 0 || bits w0 63 54 ≠ 0 || bits w1 63 46 ≠ 0 then none
          else (x.relocate (bits w1 45 32)).map fun b => (bits w0 53 13, bits w1 31 0, b), s)

/-- OWNER (R241, R372, R420). -/
def State.ownersOk (s : State) (x : Slot) (p : Plan) (map : Option (List (Nat × Nat × BrickId))) : Bool :=
  let edges := p.names.filter fun b => BrickId.isEdge b && s.inService b
  let owners := edges ++ ((map.getD []).map fun e => e.2.2)
  (p.placed.all fun q => !firesGlobal q.pool || edges.any fun e => BrickId.die e = BrickId.die q.brick) &&
  map.isSome && (map.getD []).all (fun e => edges.contains e.2.2) &&
  noPair (fun (a b : Nat × Nat × BrickId) => BrickId.die a.2.2 = BrickId.die b.2.2 && spansMeet (a.1, a.2.1) (b.1, b.2.1)) (map.getD []) &&
  p.names.all fun b => owners.all fun o => BrickId.die o ≠ BrickId.die b || (s.wallBetween x.tenancy b o).isNone

/-- Parameter windows of a course section: number, address, size (R219). -/
def CoursePart.params (c : CoursePart) : List (Nat × Nat × Nat) :=
  (List.range 8).filterMap fun n =>
    let size := wordAt c.sec (0x148 + 16 * n) % 8192
    if size = 0 then none else some (n, wordAt c.sec (0x140 + 16 * n) % 2 ^ 54, size)
def roundUp256 (n : Nat) : Nat := ceilDiv n 256 * 256

/-- The courses on which an image places a brick, and the windows that its region binds. -/
def coursesOf (bricks : List BrickId) : List (Nat × Nat) := (bricks.map fun b => (BrickId.die b, BrickId.course b)).eraseDups
def LoadImage.windows (img : LoadImage) : List (Nat × Nat × Nat) := (img.courses.flatMap (·.params)).eraseDups

/-- PARAM (R219): sizes, store space, and the copies. -/
def State.readParams (s : State) (g : RegionId) (t : Nat) : List (Nat × Nat × Nat) → Option (List (Nat × List Byte)) × State
  | [] => (some [], s)
  | (n, va, size) :: rest =>
    match s.classRead { cls := .ctl, tenancy := t, region := some g } va size with
    | (.error _, s) => (none, s)
    | (.ok (l, _), s) =>
      match s.readParams g t rest with
      | (none, s) => (none, s)
      | (some r, s) => (some ((n, l) :: r), s)
/-- The windows of a region fit (R219). DESIGN CHOICE (log 18): the windows of all its course sections are joined and bound on each of its courses, and a size that is no multiple of 8 or above 4,096, or two sections that bind one number differently, are rejected with PARAM too, which R374 names only for the 32 KiB limit and for the copies. -/
def State.paramsOk (s : State) (p : Plan) : Bool :=
  p.windows.all (fun w => w.2 % 8 = 0 && w.2 ≤ 4096) && noPair (fun (a b : Nat × Nat) => a.1 = b.1) p.windows &&
  (coursesOf p.names).all fun c =>
    (((s.params.getD (64 * c.1 + c.2) []).map fun w => roundUp256 w.data.length) ++ p.windows.map fun w => roundUp256 w.2).foldl (· + ·) 0 ≤ 32768

/-- Courses whose scheduler an image binds (R509). -/
def isTtqWord (w : Word) : Bool := bits w.toNat 63 57 = 0x7C
def LoadImage.binds (img : LoadImage) (x : Slot) (placed : List (BrickId × BrickPart)) (ds : List (Nat × Dest)) : List (Nat × Nat) :=
  ((placed.filterMap fun p => if p.2.pool.any isTtqWord then some (BrickId.die p.1, BrickId.course p.1) else none) ++
    (img.courses.filterMap fun c => match c.place x with
      | some q => if ((c.drains x).getD []).any (fun l => !l.isEmpty) then some q else none
      | none => none) ++
    ds.filterMap fun d => match d.2 with
      | .steer die c => some (die, c)
      | _ => none).eraseDups

/-- SCHED. -/
def State.schedsFree (s : State) (cs : List (Nat × Nat)) : Bool := cs.all fun c => (s.sched c.1 c.2).region.isNone

/-- INUSE. -/
def State.bricksFree (s : State) (bs : List BrickId) : Bool :=
  bs.all fun b => (s.brick b).life ≠ .bound && (s.brick b).life ≠ .running

/-- What passes the checks and is to be loaded: bricks as they will stand in BOUND, with the granules to charge; load hash; owner map; parameter windows; the schedulers bound; and, for a resume, the region round, parked frames, gateways, and tokens for parameter ports. -/
structure Accepted where
  bricks : List (BrickId × Brick)
  pins : Nat
  hash : Nat
  owners : List (Nat × Nat × BrickId) := []
  params : List (Nat × List Byte) := []
  binds : List ((Nat × Nat) × Sched) := []
  cycles : Nat := 0
  round : Nat := 0
  maxTs : Nat := 0
  frames : List Frame := []
  gateways : List (Nat × Gateway) := []
  flights : List Flight := []
  deriving DecidableEq, Repr

/-- A bound course's scheduler at load (R294, R298, R370, R509), its counts as they stand (R302, log 16); whether an entry has `noeos` no image says, so it is a free draw (log 8). -/
def State.loadSched (s : State) (r : RegionId) (x : Slot) (c : Nat × Nat) (drains : List (List Dest)) : Sched :=
  let q := s.sched c.1 c.2
  { region := some r, base := x.tqb + (64 * c.1 + c.2) * 64 * 2 ^ x.tqs, size := 2 ^ x.tqs, gen := x.gen
    malf := q.malf, stale := q.stale, ltid := q.ltid, lstat := q.lstat
    routes := (List.range 8).map fun k => (drains.getD k [], decide (Config.freeNat (s.free + 512 * c.1 + 8 * c.2 + k) % 2 = 1)) }

/-- The cycles that some bytes, each lot with its bay, take to cross the configuration network: 32 B per cycle in each bay's segment, so 256 B per cycle on a die whose eight bays all load (R373, R416; log 18). -/
def crossing (lots : List (Nat × Nat)) : Nat :=
  (List.range 32).foldl (fun n k => max n (ceilDiv (((lots.filter fun p => p.1 = k).map (·.2)).foldl (· + ·) 0) 32)) 0

/-- The cycles that a load image takes to cross the configuration network: its sections and the bank data of its bricks. -/
def LoadImage.cycles (img : LoadImage) (x : Slot) (placed : List (BrickId × BrickPart)) : Nat :=
  crossing ((placed.map fun p => (BrickId.bay p.1, 4096 + ((bankExtents p.2.sec).map fun e => e.2.1).foldl (· + ·) 0)) ++
    img.courses.filterMap fun c => (c.place x).map fun q => (BrickId.bay (BrickId.mk q.1 q.2 0), 512))

/-- LDDIAG and LDWORD at a LOADBAD rejection (R48). -/
def State.noteLoadBad (s : State) (r : RegionId) (bad : List (BrickId × Nat × Nat × Word)) : State :=
  match bad with
  | [] => s
  | (b, k, reason, w) :: _ =>
    s.modDie r.die fun d => { d with
      lddiag := BitVec.ofNat 64 (b.toNat * 2 ^ 50 + k * 2 ^ 46 + reason * 2 ^ 38 + min 65535 bad.length * 2 ^ 22 + r.slot * 2 ^ 16)
      ldword := w }

/-- The checks of R374 from MAPOUT to SHAPE: the first that fails. -/
def State.placeReject (s : State) (x : Slot) (p : Plan) : Option Nat :=
  if !s.mapoutOk x p then some rejMapout
  else if !s.budgetOk x p then some rejBudget
  else if !p.placed.all (s.bankOk x) then some rejBank
  else if !s.routesOk x p then some rejRoute
  else if !p.placed.all Placing.shapesOk then some rejShape
  else none

/-- The words of a plan's pools that fail validation (R47). -/
def Plan.failures (p : Plan) : List (BrickId × Nat × Nat × Word) := poolFailures (p.placed.map fun q => (q.brick, q.pool))

/-- The checks of R374 from GUTTER on: the first that fails. -/
def State.lastReject (s : State) (x : Slot) (p : Plan) : Option Nat :=
  if !bit x.modes 3 && p.placed.any (fun q => q.gutters.any (·.isSome)) then some rejGutter
  else if !p.placed.any (·.sinks) then some rejNoSink
  else if !p.failures.isEmpty then some rejLoadBad
  else if !s.schedsFree p.binds then some rejSched
  else if !s.bricksFree p.names then some rejInUse
  else none

/-- The outcome of the last checks: the rejection, with LDDIAG and LDWORD where it is LOADBAD (R48), or what passed. -/
def State.concludeChecks (s : State) (r : RegionId) (x : Slot) (p : Plan) (a : Accepted) : Except Nat Accepted × State :=
  match s.lastReject x p with
  | none => (.ok a, s)
  | some code => (.error code, if code = rejLoadBad then s.noteLoadBad r p.failures else s)

/-- The owner map of a bind record: none named is the empty map (R241, R372). -/
def State.ownerMap (s : State) (g : RegionId) (x : Slot) : Option (List (Nat × Nat × BrickId)) × State :=
  if x.omap = 0 then (some [], s) else s.readOwners g x

/-- The plan of a load image's bricks: every destination is judged by itself. -/
def BrickPart.placing (p : BrickPart) (x : Slot) (b : BrickId) : Placing :=
  { brick := b, pool := p.pool, pins := p.pins
    data := (bankExtents p.sec).foldl (fun n e => n ||| granuleMask e.1 e.2.1) 0
    gutters := p.gutters, note := p.notice
    shapes := if BrickId.isEdge b then p.shapes else []
    sinks := (List.range 4).any fun n => (p.sink n).isSome
    whole := (p.outs x).isSome && (!BrickId.isEdge b || (p.sos x).isSome) }
def LoadImage.plan (img : LoadImage) (x : Slot) (placed : List (BrickId × BrickPart)) : Plan :=
  let dests := img.dests x placed
  { placed := placed.map fun p => p.2.placing x p.1
    dests
    drains := img.courses.map fun c => match c.drains x, c.place x with
      | some l, some q => some (q, l)
      | _, _ => none
    windows := img.windows.map fun w => (w.1, w.2.2)
    binds := img.binds x placed dests }

/-- What a load image loads once it has passed. -/
def State.acceptLoad (s : State) (r : RegionId) (x : Slot) (img : LoadImage) (placed : List (BrickId × BrickPart)) (p : Plan)
    (owners : List (Nat × Nat × BrickId)) (params : List (Nat × List Byte)) : Accepted :=
  { bricks := placed.map fun q => (q.1, (s.brick q.1).load r x img q.2 q.1)
    pins := p.declared
    hash := img.hash
    owners
    params
    binds := p.binds.map fun c => (c, s.loadSched r x c (((img.courses.find? fun q => q.place x = some c).bind fun q => q.drains x).getD []))
    cycles := img.cycles x placed }

/-- The checks of R374 on a start from OWNER on. -/
def State.checkMaps (s : State) (r : RegionId) (x : Slot) (img : LoadImage) (placed : List (BrickId × BrickPart)) (p : Plan)
    (owners : Option (List (Nat × Nat × BrickId))) : Except Nat Accepted × State :=
  if !s.ownersOk x p owners then (.error rejOwner, s)
  else if !s.paramsOk p then (.error rejParam, s)
  else match s.readParams r x.tenancy img.windows with
  | (none, s) => (.error rejParam, s)
  | (some params, s) => { s with free := s.free + 2048 }.concludeChecks r x p (s.acceptLoad r x img placed p (owners.getD []) params)

/-- The checks of R374 on a start, in the order of the table: a rejection code, or what passed. -/
def State.checkStart (s : State) (r : RegionId) : Except Nat Accepted × State :=
  let x := s.slot r
  if !x.formatOk then (.error rejFormat, s)
  else if !s.nodeOk x then (.error rejNode, s)
  else match s.readLoad r x.tenancy x.img with
  | (none, s) => (.error rejImage, s)
  | (some img, s) =>
    if !img.extentsFit x then (.error rejImage, s)
    else match img.placed x with
    | none => (.error rejImage, s)
    | some placed => match s.placeReject x (img.plan x placed) with
      | some code => (.error code, s)
      | none => match s.ownerMap r x with
        | (owners, s) => s.checkMaps r x img placed (img.plan x placed) owners

/-- A record is rejected (R373, R374). DEDUCED (log 18): nothing is placed before the checks have passed, so a HELD brick that the record names stays HELD with its bound granules (R312), and R49's return to FREE is of bricks that were FREE. -/
def State.reject (s : State) (r : RegionId) (code : Nat) : State := s.modSlot r fun x => { x with st := .reject, reason := code }

/-! Holding and loading (R24, R373) -/

/-- The record holds (R24, R373): a placed brick drains, or the thermal hold of THERM = defer. -/
def State.mustHold (s : State) (x : Slot) (bricks : List BrickId) : Bool :=
  bricks.any (fun b => (s.brick b).life = .draining) ||
  (x.therm = 2 && (bricks.map BrickId.die).any fun d => (s.die d).allow < x.tth)

/-- Key slots whose image hash is the region's become bound to it (R426). -/
def State.matchingKeys (s : State) (t hash : Nat) : List Nat :=
  (List.range 256).filter fun k => (s.keySlot k).st ≠ 0 && (s.keySlot k).tenancy = t && (s.keySlot k).hash.toNat = hash
def KeySlot.bind (k : KeySlot) (node : Nat) : KeySlot := { k with st := 2, nreg := k.nreg + 1, node }
def KeySlot.unbind (k : KeySlot) : KeySlot := { k with nreg := k.nreg - 1, st := if k.nreg = 1 then 1 else k.st }
def State.bindKeys (s : State) (r : RegionId) (node : Nat) (keys : List Nat) : State :=
  ((keys.foldl (fun s k => s.modKeySlot k fun q => q.bind node) s).modSlot r fun x => { x with keys := x.keys ++ keys }).charge node 5 keys.length

/-- The measurement log takes an item (R423). -/
def State.extendLog (s : State) (t : Nat) (item : List Byte) : State :=
  s.modTenancy t fun x => { x with log := sha256 (beBytes 32 x.log.toNat ++ item) }
def State.logLoad (s : State) (t hash node : Nat) (r : RegionId) : State :=
  s.extendLog t (beBytes 32 hash ++ beBytes 2 node ++ beBytes 1 r.die ++ beBytes 1 r.slot)

/-- Load what passed the checks: the slot enters LOAD until the bytes have crossed the configuration network (R373, R416). -/
def State.loadStart (s : State) (r : RegionId) (a : Accepted) : State :=
  let x := s.slot r
  let bricks := a.bricks.map (·.1)
  let keys := s.matchingKeys x.tenancy a.hash
  if !s.chargeFits x.node 5 keys.length then s.reject r rejBudget
  else
    let s := s.modSlot r fun x => { x with
      st := .load, bricks, hash := a.hash, courses := a.binds.map (·.1), owners := a.owners, round := a.round, maxTs := max x.maxTs a.maxTs
      origin := (List.range 4).map x.footprint, ranAt := s.now + a.cycles }
    let s := (s.bindKeys r x.node keys).logLoad x.tenancy a.hash x.node r
    let s := bricks.foldl (fun s b => s.rechargeBound b x.node) s
    let s := s.charge x.node 1 a.pins
    let s := a.bricks.foldl (fun s p => s.setBrick p.1 p.2) s
    let s := a.binds.foldl (fun s c => (s.modSched c.1.1 c.1.2 fun _ => c.2).refillRing c.1.1 c.1.2) s
    let s := (coursesOf bricks).foldl (fun s c =>
      { s with params := s.params.set (64 * c.1 + c.2) (s.params.getD (64 * c.1 + c.2) [] ++ a.params.map fun w =>
          ({ region := r, n := w.1, data := w.2 } : ParamWindow)) }) s
    let s := a.gateways.foldl (fun s g => s.modGateway g.1 fun old =>
      { port := old.port ++ g.2.port, contribs := old.contribs ++ g.2.contribs, out := old.out ++ g.2.out }) s
    { s with frames := s.frames ++ a.frames, flights := s.flights ++ a.flights }.connectRegion r

/-- The slot enters RUN: every placed brick enters RUNNING in one cycle, and picks (R373), or picks where its RUNST is 00 (R396); one that was weeping has wept once it holds no WEEP. -/
def State.startRun (s : State) (r : RegionId) : State :=
  let x := s.slot r
  let begin (y : Brick) : Brick :=
    { (if y.picked then y.setPick true else y).settleWeep with life := .running, cycleBase := y.cycleBase + s.now, picked := false }
  (x.bricks.foldl (fun s b => s.modBrick b begin) s).modSlot r fun x =>
    { x with st := .run, ranAt := s.now, hot := (List.range 4).filter fun d => (s.die d).allow < x.tth }

end Sys2Proof.Machine
end

