-- ==== Sys2Proof/Machine/HaltImage.lean ====
section
/-! DEFINITION. Halted images: what a set wave captures and a resume restores, as bytes (R392-R396), and their protection (R394, R431). Where the spec fixes no place inside a section, log 20 gives the model's. -/

namespace Sys2Proof.Machine

open Sys2Proof

/-! Pieces -/

def padTo (n : Nat) (l : List Byte) : List Byte := l.take n ++ List.replicate (n - l.length) 0
/-- Fill up to a multiple of 4 KiB. -/
def padUnit (l : List Byte) : List Byte := l ++ List.replicate (ceilDiv l.length 4096 * 4096 - l.length) 0
def unitsOf (l : List Byte) : Nat := ceilDiv l.length 4096
def words8 (l : List Nat) : List Byte := l.flatMap (leBytes 8)

def clsCode : Option EngClass → Nat
  | none => 0
  | some .brk => 1
  | some .stm => 2
  | some .slb => 3
  | some .rng => 4
  | some .ftg => 5
  | some .hst => 6
  | some .ctl => 7
def clsOf (n : Nat) : Option EngClass :=
  match n with
  | 1 => some .brk
  | 2 => some .stm
  | 3 => some .slb
  | 4 => some .rng
  | 5 => some .ftg
  | 6 => some .hst
  | 7 => some .ctl
  | _ => none

/-- A token in 16 B: payload, tag in byte 8 (R393), and then, 0 for no token, its class and timestamp. -/
def tokenBytes (t : Token) : List Byte := leBytes 8 t.pay.toNat ++ leBytes 1 t.tag.code ++ leBytes 1 (1 + clsCode t.cls) ++ leBytes 6 t.ts
def readToken (l : List Byte) (off : Nat) : Option Token :=
  let k := fieldAt l (off + 9) 1
  if k = 0 then none
  else some { pay := BitVec.ofNat 64 (wordAt l off), tag := Tag.ofCode (fieldAt l (off + 8) 1 % 4), cls := clsOf (k - 1), ts := fieldAt l (off + 10) 6 }
def tokensBytes (n : Nat) (ts : List Token) : List Byte := padTo (16 * n) (ts.flatMap tokenBytes)
def readTokens (l : List Byte) (off n : Nat) : List Token := (List.range n).filterMap fun i => readToken l (off + 16 * i)

/-- A destination in the form of R386, with relative identifiers. -/
def Slot.destWord (x : Slot) : Dest → Nat
  | .input b n => 2 ^ 28 + n * 2 ^ 24 + x.relOf b
  | .streamIn b n => 2 * 2 ^ 28 + n * 2 ^ 24 + x.relOf b
  | .draw b => 3 * 2 ^ 28 + x.relOf b
  | .param b => 4 * 2 ^ 28 + x.relOf b
  | .steer d c => 5 * 2 ^ 28 + d * 4096 + (c - ((x.footprint d).getD (0, 0, 0, 0)).1) * 64
  | .coll d => 6 * 2 ^ 28 + d * 4096
  | .bank b off => 7 * 2 ^ 28 + off / 8 * 2 ^ 14 + x.relOf b
  | .ring b => 8 * 2 ^ 28 + x.relOf b
def Slot.routeBytes (x : Slot) (r : List Dest) : List Byte := padTo 32 (r.flatMap fun d => leBytes 4 (x.destWord d))

/-- A skid entry: payload, tag, flags and class, with the branches still to take it above them, and timestamp. -/
def skidBytes (e : SkidEntry) : List Byte :=
  let m := e.todo.foldl (fun n k => n ||| 2 ^ k) 0
  leBytes 8 e.tok.pay.toNat ++ leBytes 1 (e.tok.tag.code + 4 * (m % 64)) ++ leBytes 1 (1 + 2 * b2n e.forked + 4 * clsCode e.tok.cls + 32 * (m / 64)) ++
  leBytes 6 e.tok.ts
def readSkid (l : List Byte) (off : Nat) : Option SkidEntry :=
  let k := fieldAt l (off + 9) 1
  if k % 2 = 0 then none
  else some {
    tok := { pay := BitVec.ofNat 64 (wordAt l off), tag := Tag.ofCode (fieldAt l (off + 8) 1 % 4), cls := clsOf (k / 4 % 8), ts := fieldAt l (off + 10) 6 }
    todo := onesBelow 8 (fieldAt l (off + 8) 1 / 4 + k / 32 * 64)
    forked := bit k 1 }

/-- What stands in a branch's hold register (R184). -/
def Port.held (p : Port) (branch : Nat) : Option Token := (p.skid.find? fun e => e.forked && e.todo.contains branch).map (·.tok)

/-- Skid buffer and branch hold registers, 192 B. -/
def portBytes (p : Port) : List Byte :=
  padTo 64 (p.skid.flatMap skidBytes) ++
  (List.range 8).flatMap fun k => match p.held k with
    | some t => tokenBytes t
    | none => List.replicate 16 0

/-! Brick sections (R393) -/

/-- RUNST (R396). -/
def Brick.runst (x : Brick) : Nat :=
  if x.weep ≠ .none then 2 else if x.trapValid then 3 else if x.picked then 0 else 1

def gutterWord : Option Gutter → Nat
  | none => 0
  | some g => g.off / 256 + g.size / 256 * 2 ^ 8 + g.head * 2 ^ 16 + g.count * 2 ^ 32 + 2 ^ 48 + b2n g.stopped * 2 ^ 49
def gutterOf (w : Nat) : Option Gutter :=
  if bit w 48 then some { off := bits w 7 0 * 256, size := bits w 15 8 * 256, head := bits w 31 16, count := bits w 47 32, stopped := bit w 49 } else none

/-- Flags of an input's watch and sink, 12 bits. -/
def inputFlags (i : Input) : Nat :=
  (match i.watch with
    | none => 0
    | some w => 1 + 2 * w.tag.code + 8 * w.pred + 64 * b2n w.fired + 128 * b2n w.overSent) +
  (match i.sink with
    | none => 0
    | some k => 256 + 512 * b2n k.reported)

/-- Dock state in a byte: state, stop register, fetch, FIN's port. -/
def dockByte (d : Dock) : Nat :=
  (match d.st with
    | .noticing _ => 1
    | .docked => 2
    | .finishing p _ _ => 3 + 64 * p
    | _ => 0) +
  (match d.stop with
    | .none => 0
    | .home => 8
    | .entry _ _ => 16) + 32 * b2n d.fetched
def finIndex (d : Dock) : Nat :=
  match d.st with
  | .finishing _ k _ => k
  | _ => 0
def stopWords : Stop → List Nat
  | .entry a b => [a.toNat, b.toNat]
  | _ => [0, 0]
def noticeOrder (d : Dock) : Nat :=
  match d.st with
  | .noticing k => k
  | _ => 0
def dockOf (byte fin w0 w1 order : Nat) : Dock :=
  { st := match byte % 8 with
      | 1 => .noticing order
      | 2 => .docked
      | 3 => .finishing (byte / 64) fin 0
      | _ => .empty
    stop := match byte / 8 % 4 with
      | 1 => .home
      | 2 => .entry (BitVec.ofNat 64 w0) (BitVec.ofNat 64 w1)
      | _ => .none
    fetched := bit byte 5 }

/-- Bytes 0x0D00 to 0x0D7F. -/
def Brick.pointerBytes (x : Brick) : List Byte :=
  words8 (x.inputs.map fun i => gutterWord i.gutter) ++
  words8 (x.inputs.map fun i => match i.watch with
    | some w => w.target + w.seen * 2 ^ 32
    | none => 0) ++
  words8 (x.inputs.map fun i => match i.sink with
    | some k => k.target + min k.count (2 ^ 32 - 1) * 2 ^ 32
    | none => 0) ++
  leBytes 8 ((x.inputs.zipIdx.foldl (fun n p => n + inputFlags p.1 * 2 ^ (12 * p.2)) 0) + b2n x.dockBrick * 2 ^ 48 +
    (match x.note with
      | some n => 2 ^ 49 + n * 2 ^ 50
      | none => 0) +
    (match x.edge.pp with
      | some (_, a) => 2 ^ 53 + b2n a * 2 ^ 52
      | none => 0)) ++
  leBytes 2 (x.wp.getD 0 0) ++ leBytes 2 (x.wp.getD 1 0) ++ leBytes 2 x.edge.window ++ leBytes 2 x.away ++
  leBytes 8 (match x.edge.pp with
    | some (t, _) => t.pay.toNat
    | none => 0) ++
  leBytes 1 (dockByte (x.docks.getD 0 {})) ++ leBytes 1 (dockByte (x.docks.getD 1 {})) ++
  leBytes 1 (match x.qblk with
    | some (p, ws, _) => 1 + 2 * p + 8 * ws.length
    | none => 0) ++
  leBytes 1 (b2n (noticeOrder (x.docks.getD 1 {}) < noticeOrder (x.docks.getD 0 {}))) ++
  leBytes 2 x.edge.unmarked ++ leBytes 2 x.edge.sinceHalve

/-- A shape record's words with its status word (R250). -/
def Shape.bytes (x : Shape) : List Byte :=
  words8 ((List.range 7).map x.w ++ [x.state * 2 ^ 48 + x.tiles % 2 ^ 32 * 2 ^ 16 + x.credit])

/-- The bank as imaged: L1 granules read zero, and pinned ones too without PINI. -/
def Brick.bankImage (x : Brick) (pinI : Bool) : List Byte :=
  (List.range 16).flatMap fun g =>
    if x.part g = 2 || (x.part g = 1 && !pinI) then List.replicate 4096 0 else cellsRead x.bank (4096 * g) 4096

/-- A brick section, 76 KiB. -/
def brickSection (s : State) (slot : Slot) (b : BrickId) (pinI : Bool) : List Byte :=
  let x := s.brick b
  padTo 64 (words8 [slot.relOf b + x.runst * 2 ^ 16, x.tcls.toNat, x.tfire, x.tval.toNat, x.tword.toNat]) ++
  words8 (x.pool.map (·.toNat)) ++
  padTo 64 (leBytes 56 x.slices.toNat ++ leBytes 1 x.pval.toNat ++ leBytes 1 x.pend.toNat ++ leBytes 4 x.gmap.toNat) ++
  padTo 128 (words8 ([x.fires, ((s.now : Int) - x.cycleBase).toNat, x.ctl.toNat, x.sticky.toNat, x.fmode.toNat, x.round, x.overBsr.toNat, x.pts] ++
    x.outs.map (·.count))) ++
  (x.outs.flatMap fun p => slot.routeBytes p.route) ++
  (x.inputs.flatMap fun i => tokensBytes 32 i.queue) ++
  (x.outs.flatMap portBytes) ++
  padTo 128 x.pointerBytes ++
  padTo 128 (words8 ([finIndex (x.docks.getD 0 {}) + finIndex (x.docks.getD 1 {}) * 2 ^ 32] ++
    (List.range 5).map (fun k => match x.qblk with
      | some (_, ws, _) => (ws.getD k 0).toNat
      | none => 0) ++
    stopWords (x.docks.getD 0 {}).stop ++ stopWords (x.docks.getD 1 {}).stop ++ x.thead.map (·.toNat))) ++
  (if BrickId.isEdge b then x.edge.shapes.flatMap Shape.bytes else List.replicate 512 0) ++
  (x.accs.flatMap fun a => padTo 4096 (a.tile.flatMap (leBytes 4))) ++
  x.bankImage pinI

/-- Every destination of a brick section's route entries can be relocated (R55). -/
def sectionWhole (slot : Slot) (l : List Byte) : Bool :=
  (List.range 4).all fun n => (slot.routeEntry (destWords l (0x180 + 32 * n))).isSome

/-- The pinned granules of a brick section, by its GMAP. -/
def sectionPins (l : List Byte) : Nat :=
  (List.range 16).foldl (fun n g => if bits (fieldAt l 0xF8 8 / 65536) (2 * g + 1) (2 * g) = 1 then n + 2 ^ g else n) 0

/-- A brick from its section, in BOUND; `old` is what stood in the brick, `bound` the granules that are bound. One that had ordered its WEEP is weeping until those it still holds have left (R396). -/
def readBrick (slot : Slot) (r : RegionId) (b : BrickId) (old : Brick) (bound : Nat) (pinI : Bool) (l : List Byte) : Brick :=
  let w (off : Nat) : Nat := wordAt l off
  let runst := bits (w 0) 17 16
  let out (n : Nat) : Port :=
    { route := slot.destsIn (destWords l (0x180 + 32 * n)), skid := (List.range 4).filterMap fun k => readSkid l (0xA00 + 192 * n + 16 * k)
      count := w (0x140 + 8 * n) }
  let flags := w 0xD60
  let input (n : Nat) : Input :=
    let f := bits flags (12 * n + 11) (12 * n)
    { queue := readTokens l (0x200 + 512 * n) 32
      gutter := gutterOf (w (0xD00 + 8 * n))
      watch := if bit f 0 then some { tag := Tag.ofCode (bits f 2 1), target := bits (w (0xD20 + 8 * n)) 31 0, pred := bits f 5 3
                                      seen := bits (w (0xD20 + 8 * n)) 63 32, fired := bit f 6, overSent := bit f 7 } else none
      sink := if bit f 8 then some { target := bits (w (0xD40 + 8 * n)) 31 0, count := bits (w (0xD40 + 8 * n)) 63 32, reported := bit f 9 } else none }
  let qb := fieldAt l 0xD7A 1
  let later := fieldAt l 0xD7B 1
  let shapes := (List.range 8).map fun n =>
    let st := w (0xE00 + 64 * n + 56)
    { words := (wordsAt l (0xE00 + 64 * n) 7).map (BitVec.ofNat 64), state := bits st 49 48, tiles := bits st 47 16, credit := bits st 15 0 : Shape }
  let l1 := l1Mask b slot.modes
  let pins := sectionPins l
  let y := { old with bound := BitVec.ofNat 16 bound }.blank
  let bank := (List.range 16).flatMap fun g =>
    if bit l1 g then List.replicate 4096 0
    else if !pinI && bit bound g then cellsRead old.bank (4096 * g) 4096
    else (l.drop (0x3000 + 4096 * g)).take 4096
  { y with
    life := .bound
    region := some r
    tenancy := slot.tenancy
    bank := cellsWrite [] 0 bank
    pool := (wordsAt l 0x40 16).map (BitVec.ofNat 64)
    slices := BitVec.ofNat 448 (fieldAt l 0xC0 56)
    pval := BitVec.ofNat 8 (fieldAt l 0xF8 1)
    pend := BitVec.ofNat 8 (fieldAt l 0xF9 1)
    fires := w 0x100
    cycleBase := -((w 0x108 : Nat) : Int)
    ctl := BitVec.ofNat 4 (w 0x110) &&& 0xE
    sticky := BitVec.ofNat 9 (w 0x118)
    fmode := BitVec.ofNat 3 (w 0x120)
    round := w 0x128
    overBsr := BitVec.ofNat 64 (w 0x130)
    pts := w 0x138
    tcls := BitVec.ofNat 64 (w 8)
    tfire := w 16
    tval := BitVec.ofNat 64 (w 24)
    tword := BitVec.ofNat 64 (w 32)
    thead := (wordsAt l 0xDD0 4).map (BitVec.ofNat 64)
    picked := runst = 0
    weep := if runst = 2 then .weeping else .none
    inputs := (List.range 4).map input
    outs := (List.range 4).map out
    gmap := y.partition (BrickId.isEdge b) slot.modes pins
    pinAllow := slot.pina
    pinNode := slot.node
    wp := [fieldAt l 0xD68 2, fieldAt l 0xD6A 2]
    away := fieldAt l 0xD6E 2
    dockBrick := bit flags 48
    note := if bit flags 49 then some (bits flags 51 50) else none
    docks := [dockOf (fieldAt l 0xD78 1) (fieldAt l 0xD80 4) (w 0xDB0) (w 0xDB8) later,
              dockOf (fieldAt l 0xD79 1) (fieldAt l 0xD84 4) (w 0xDC0) (w 0xDC8) (1 - later)]
    qblk := if bit qb 0 then some (bits qb 2 1, (wordsAt l 0xD88 (qb / 8)).map (BitVec.ofNat 64), 0) else none
    accs := (List.range 2).map fun k => { tile := (List.range 1024).map fun j => fieldAt l (0x1000 + 4096 * k + 4 * j) 4 }
    edge := if BrickId.isEdge b then
        { y.edge with
          window := fieldAt l 0xD6C 2
          unmarked := fieldAt l 0xD7C 2
          sinceHalve := fieldAt l 0xD7E 2
          shapes
          pp := if bit flags 53 then some ({ tag := .ctrl, pay := BitVec.ofNat 64 (w 0xD70) }, bit flags 52) else none }
      else y.edge }

/-! The port section: a stream of words -/

def encList {α : Type} (f : α → List Nat) (l : List α) : List Nat := l.length :: l.flatMap f
def encToken (t : Token) : List Nat := [t.pay.toNat, t.tag.code + 4 * clsCode t.cls + 64 * t.ts]
def encSkid (e : SkidEntry) : List Nat := encToken e.tok ++ [(e.todo.foldl (fun n k => n ||| 2 ^ k) 0) * 2 + b2n e.forked]
def encRing (t : Task) : List Nat := [t.prev, b2n t.stored, t.floor, t.ts] ++ t.words.map (·.toNat)

/-- What a stream of words still holds. -/
abbrev Reader := StateT (List Nat) Option
def decNat : Reader Nat := fun l => match l with
  | [] => none
  | a :: r => some (a, r)
def decTimes {α : Type} (f : Reader α) : Nat → Reader (List α)
  | 0 => pure []
  | n + 1 => do
    let a ← f
    let r ← decTimes f n
    pure (a :: r)
def decList {α : Type} (f : Reader α) : Reader (List α) := do
  let n ← decNat
  decTimes f n
def decToken : Reader Token := do
  let p ← decNat
  let k ← decNat
  pure { pay := BitVec.ofNat 64 p, tag := Tag.ofCode (k % 4), cls := clsOf (k / 4 % 16), ts := k / 64 }
def decSkid : Reader SkidEntry := do
  let t ← decToken
  let k ← decNat
  pure { tok := t, todo := onesBelow 8 (k / 2), forked := k % 2 = 1 }
def decRing : Reader Task := do
  let p ← decNat
  let k ← decNat
  let floor ← decNat
  let ts ← decNat
  let ws ← decTimes decNat 8
  pure { words := ws.map (BitVec.ofNat 64), prev := p, stored := k = 1, floor, ts }

/-- What of a shape record's run no other section holds. -/
def encShape (x : Shape) : List Nat :=
  [x.tileLeft, x.count, x.sent, (match x.page with
    | some (f, g) => 1 + 2 * f + 64 * g
    | none => 0), b2n x.fin + 2 * b2n x.surplus + 4 * b2n x.overSent, x.ts] ++ encList encToken x.outq ++ encList encToken x.notes
def decShape (x : Shape) : Reader Shape := do
  let tileLeft ← decNat
  let count ← decNat
  let sent ← decNat
  let p ← decNat
  let k ← decNat
  let ts ← decNat
  let outq ← decList decToken
  let notes ← decList decToken
  pure { x with tileLeft, count, sent, page := if p % 2 = 1 then some (p / 2 % 32, p / 64) else none
                fin := bit k 0, surplus := bit k 1, overSent := bit k 2, ts, outq, notes }

/-- Edge brick ports: stream inputs, draw port, stream routes, and the runs. -/
def encEdge (slot : Slot) (e : Edge) : List Nat :=
  e.si.flatMap (encList encToken) ++ encList encToken e.dp ++
  (e.so.flatMap fun p => encList (fun d => [slot.destWord d]) p.route ++ encList encSkid p.skid ++ [p.count]) ++ e.shapes.flatMap encShape
/-- The edge, and whether every destination of its stream routes relocates (R55). -/
def decEdge (slot : Slot) (e : Edge) : Reader (Edge × Bool) := do
  let si ← decTimes (decList decToken) 8
  let dp ← decList decToken
  let so ← decTimes (do
    let r ← decList decNat
    let k ← decList decSkid
    let n ← decNat
    pure (({ route := slot.destsIn r, skid := k, count := n } : Port), (slot.routeEntry r).isSome)) 8
  let shapes ← e.shapes.mapM decShape
  pure ({ e with si, dp, so := so.map (·.1), shapes }, so.all (·.2))

/-- A gateway's tokens, contributions and results for a region (R341-R343). -/
def encGateway (slot : Slot) (g : Gateway) : List Nat :=
  let mine (b : BrickId) : Bool := slot.bricks.contains b
  encList (fun (p : BrickId × Token) => slot.relOf p.1 :: encToken p.2) (g.port.filter fun p => mine p.1) ++
  encList (fun (c : Contribution) => [slot.relOf c.brick, c.head.toNat, b2n c.eos.isSome, (c.eos.getD 0).toNat] ++ encList (fun (w : Word) => [w.toNat]) c.words) (g.contribs.filter fun c => mine c.brick) ++
  encList (fun (d : Delivery) => [d.gid, slot.relOf d.brick, d.ch] ++ encList encToken d.toks) (g.out.filter fun d => mine d.brick)
def decBrick (slot : Slot) : Reader BrickId := do
  let n ← decNat
  match slot.relocate n with
    | some b => pure b
    | none => fun _ => none
def decGateway (slot : Slot) : Reader Gateway := do
  let port ← decList (do
    let b ← decBrick slot
    let t ← decToken
    pure (b, t))
  let contribs ← decList (do
    let b ← decBrick slot
    let h ← decNat
    let k ← decNat
    let e ← decNat
    let ws ← decList decNat
    pure ({ brick := b, head := BitVec.ofNat 64 h, words := ws.map (BitVec.ofNat 64), eos := if k = 1 then some (BitVec.ofNat 64 e) else none } : Contribution))
  let out ← decList (do
    let gid ← decNat
    let b ← decBrick slot
    let ch ← decNat
    let toks ← decList decToken
    pure ({ gid, brick := b, ch, toks } : Delivery))
  pure { port, contribs, out }

/-- Parameter windows of a region: number and bytes (R219). -/
def State.regionWindows (s : State) (r : RegionId) : List (Nat × List Byte) :=
  ((s.params.flatMap fun e => e.2).filter fun w => w.region = r).map (fun w => (w.n, w.data)) |>.eraseDups

/-- What of a brick no other section holds: uncorrectable words, the counts of R379, the ring port, and the timestamps of R277, R278 and R339. -/
def encRest (x : Brick) : List Nat :=
  encList (fun w => [w]) x.bankUe ++ [x.sent, x.rcvd, x.fence] ++ x.seen ++ x.predTs ++ encList encToken x.ringPort ++
  (x.inputs.flatMap fun i =>
    [(i.watch.map (·.ts)).getD 0] ++ encList (fun (n : Option EngClass × Nat × Nat) => [clsCode n.1, n.2.1, n.2.2]) ((i.gutter.map (·.notes)).getD []) ++
      i.queue.map (·.rng)) ++
  x.wpTs ++ x.docks.flatMap fun d => [b2n d.stm.isSome + 2 * b2n d.hold, d.stm.getD 0, d.ts, d.floor]
def decRest (x : Brick) : Reader Brick := do
  let bankUe ← decList decNat
  let sent ← decNat
  let rcvd ← decNat
  let fence ← decNat
  let seen ← decTimes decNat 6
  let predTs ← decTimes decNat 8
  let ringPort ← decList decToken
  let inputs ← x.inputs.mapM fun i => do
    let ts ← decNat
    let notes ← decList (do
      let c ← decNat
      let t ← decNat
      let u ← decNat
      pure (clsOf c, t, u))
    let queue ← i.queue.mapM fun t => do
      let rng ← decNat
      pure { t with rng }
    pure { i with queue, watch := i.watch.map fun (w : Watch) => { w with ts }, gutter := i.gutter.map fun (g : Gutter) => { g with notes } }
  let wpTs ← decTimes decNat 2
  let docks ← x.docks.mapM fun d => do
    let k ← decNat
    let stm ← decNat
    let ts ← decNat
    let floor ← decNat
    pure { d with stm := if bit k 0 then some stm else none, hold := bit k 1, ts, floor }
  pure { x with bankUe, sent, rcvd, fence, seen, predTs, ringPort, inputs, wpTs, docks }

/-- What of a bound course no other section holds: the ring, the marks of the tasks in its window, and its steer port (R392). -/
structure CourseRest where
  ring : List Task
  marks : List (Nat × Nat)
  port : List Token
  deriving DecidableEq, Repr
def encCourse (q : Sched) : List Nat :=
  encList encRing q.ring ++ encList (fun (t : Task) => [t.floor, t.ts]) q.window ++ encList encToken q.port
def decCourse : Reader CourseRest := do
  let ring ← decList decRing
  let marks ← decList (do
    let a ← decNat
    let b ← decNat
    pure (a, b))
  let port ← decList decToken
  pure { ring, marks, port }

/-- Frames parked at a region's bricks (R326). -/
def State.parkedFrames (s : State) (slot : Slot) : List Frame := s.frames.filter fun f => slot.bricks.contains f.target

/-- The port section. -/
def portSection (s : State) (r : RegionId) (slot : Slot) : List Byte :=
  let held := s.flights.filterMap fun f => match f.dest with
    | .param b => if slot.bricks.contains b then some (f, b) else none
    | _ => none
  padUnit (words8 (
    (slot.origin.flatMap fun o => match o with
      | some (c, k, _, _) => [1, c, k]
      | none => [0, 0, 0]) ++
    encList (fun (w : Nat × List Byte) => w.1 :: encList (fun (v : Byte) => [v.toNat]) w.2) (s.regionWindows r) ++
    encList (fun (p : Flight × BrickId) => slot.relOf p.1.src :: p.1.port :: slot.relOf p.2 :: encToken p.1.tok) held ++
    (List.range 4).flatMap (fun d => encGateway slot (s.gateway d)) ++
    (slot.bricks.flatMap fun b => encRest (s.brick b) ++ (if BrickId.isEdge b then encEdge slot (s.brick b).edge else [])) ++
    ((coursesOf slot.bricks).flatMap fun c => let q := s.sched c.1 c.2; encCourse (if q.region = some r then q else {})) ++
    encList (fun (f : Frame) => encList (fun w => [w]) f.ue) (s.parkedFrames slot) ++ [slot.maxTs]))

/-! Stream, course and frame sections -/

/-- The block of the next element has had its SCALE sent. -/
def Shape.scaleSent (x : Shape) : Bool := x.form.2 = 1 && x.scaled.contains (x.block x.src x.next).2
def streamSection (s : State) (slot : Slot) : List Byte :=
  padUnit ((slot.bricks.filter fun b => BrickId.isEdge b).flatMap fun b =>
    (s.brick b).edge.shapes.flatMap fun x => words8 [x.next + b2n x.scaleSent * 2 ^ 48, 0])
def Shape.withPosition (x : Shape) (w : Nat) : Shape :=
  let y := { x with next := bits w 47 0 }
  if bit w 48 then { y with scaled := [(y.block y.src y.next).2] } else y

/-- An accumulator's drain: words 0 and 5 of its record; its state, route, next word, the branches that have still to fork that word and those whose hold register keeps a copy (R184, R389); and its timestamp. -/
def accBytes (a : Acc) : List Byte :=
  let mask (l : List Nat) : Nat := l.foldl (fun n k => n ||| 2 ^ k) 0
  match a.work with
  | .waiting t _ => words8 [t.w 0, t.w 5, 1, t.ts]
  | .draining t route word _ todo held =>
    words8 [t.w 0, t.w 5, 2 + route * 2 ^ 8 + word * 2 ^ 16 + mask todo * 2 ^ 32 + mask held * 2 ^ 40, t.ts]
  | _ => List.replicate 32 0
def readAcc (l : List Byte) (off : Nat) : AccWork :=
  let t : Task := { words := [BitVec.ofNat 64 (wordAt l off), 0, 0, 0, 0, BitVec.ofNat 64 (wordAt l (off + 8)), 0, 0], ts := wordAt l (off + 24) }
  let k := wordAt l (off + 16)
  match k % 256 with
  | 1 => .waiting t 0
  | 2 => .draining t (bits k 15 8) (bits k 31 16) 0 (onesBelow 8 (bits k 39 32)) (onesBelow 8 (bits k 47 40))
  | _ => .idle

/-- A course section, 8 KiB. -/
def courseSection (s : State) (r : RegionId) (slot : Slot) (c : Nat × Nat) : List Byte :=
  let q := s.sched c.1 c.2
  if q.region ≠ some r then List.replicate 8192 0
  else
    padTo 0x800 (q.window.flatMap fun t => words8 (t.words.map (·.toNat))) ++
    (q.board.flatMap fun e => leBytes 2 e.1 ++ leBytes 2 e.2.1) ++
    (q.steer.flatMap fun e => leBytes 2 (match e with
      | some n => n + 1
      | none => 0)) ++
    (q.routes.flatMap fun p => slot.routeBytes p.1) ++
    padTo 0x40 (words8 [(q.routes.zipIdx.foldl (fun n p => n + b2n p.1.2 * 2 ^ p.2) 0) + 256, q.head + q.window.length * 2 ^ 32,
      q.malf + q.stale * 2 ^ 8 + q.ltid * 2 ^ 16 + q.lstat * 2 ^ 24]) ++
    padTo 0x40 (q.window.flatMap fun t => leBytes 1 (t.prev + 16 * b2n t.stored)) ++
    List.replicate 0x80 0 ++
    padTo 0x1000 ((List.range 64).flatMap fun k =>
      let b := BrickId.mk c.1 c.2 k
      if slot.bricks.contains b then (s.brick b).accs.flatMap accBytes else List.replicate 64 0)
/-- The drain table of a course section, none where a destination cannot be relocated (R55). -/
def readDrains (slot : Slot) (l : List Byte) : Option (List (List Dest)) := (List.range 8).mapM fun n => slot.routeEntry (destWords l (0xE00 + 32 * n))
def readCourse (slot : Slot) (r : RegionId) (c : Nat × Nat) (rest : CourseRest) (l : List Byte) : Sched :=
  let flags := wordAt l 0xF00
  let w1 := wordAt l 0xF08
  let w2 := wordAt l 0xF10
  { region := some r
    base := slot.tqb + (64 * c.1 + c.2) * 64 * 2 ^ slot.tqs
    size := 2 ^ slot.tqs
    head := bits w1 31 0
    ring := rest.ring
    window := (List.range (bits w1 39 32)).map fun k =>
      { words := (wordsAt l (64 * k) 8).map (BitVec.ofNat 64), prev := fieldAt l (0xF40 + k) 1 % 16, stored := bit (fieldAt l (0xF40 + k) 1) 4
        floor := (rest.marks.getD k (0, 0)).1, ts := (rest.marks.getD k (0, 0)).2 }
    board := (List.range 256).map fun k => (fieldAt l (0x800 + 4 * k) 2, fieldAt l (0x800 + 4 * k) 2, 0)
    steer := (List.range 256).map fun k => let n := fieldAt l (0xC00 + 2 * k) 2; if n = 0 then none else some (n - 1)
    routes := (List.range 8).map fun n => (slot.destsIn (destWords l (0xE00 + 32 * n)), bit flags n)
    gen := slot.gen
    port := rest.port
    malf := bits w2 7 0
    stale := bits w2 15 8
    ltid := bits w2 23 16
    lstat := bits w2 26 24 }

/-- The head of a parked frame; what of a frame lies beyond its 12 KiB follows all of them. -/
def frameHead (slot : Slot) (f : Frame) : List Byte :=
  let kind := match f.stop with
    | .none => 0
    | .home => 1
    | .entry _ _ => 2
  padTo 64 (words8 ([slot.relOf f.target + kind * 2 ^ 14 + f.data.length * 2 ^ 16 + f.src.toNat * 2 ^ 32, f.pkg] ++ stopWords f.stop ++ [f.ts, f.floor]))
def frameSection (s : State) (slot : Slot) : List Byte :=
  let fs := s.parkedFrames slot
  (fs.flatMap fun f => frameHead slot f ++ padTo 12224 f.data) ++ padUnit (fs.flatMap fun f => padTo 64 (f.data.drop 12224))
def readFrame (slot : Slot) (l : List Byte) (tail : List Byte) : Option Frame :=
  let w := wordAt l 0
  (slot.relocate (w % 2 ^ 14)).map fun b =>
    { src := BitVec.ofNat 14 (bits w 45 32)
      target := b
      pkg := wordAt l 8
      stop := match bits w 15 14 with
        | 1 => .home
        | 2 => .entry (BitVec.ofNat 64 (wordAt l 16)) (BitVec.ofNat 64 (wordAt l 24))
        | _ => .none
      data := ((l.drop 64).take 12224 ++ tail).take (bits w 31 16)
      ts := wordAt l 32
      floor := wordAt l 40
      due := 0
      parked := true }

/-! The image (R392, R394, R431) -/

/-- Header and directory. -/
def imageHeader (s : State) (slot : Slot) (pinI : Bool) (offs : List Nat) : List Byte :=
  padUnit (words8 ([2 * 2 ^ 60 + b2n slot.cut * 2 ^ 59 + b2n pinI * 2 ^ 58 + slot.round % 2 ^ 48, slot.bricks.length] ++ offs ++
    [slot.gen + slot.tenancy * 2 ^ 16 + slot.modes * 2 ^ 23] ++
    slot.bricks.map fun b => slot.relOf b + b2n (BrickId.isEdge b) * 2 ^ 14 + (s.brick b).bound.toNat * 2 ^ 16))

/-- The header, and the other sections in the clear. -/
def State.haltImage (s : State) (r : RegionId) (pinI : Bool) : List Byte × List Byte :=
  let slot := s.slot r
  let bricks := slot.bricks.flatMap fun b => brickSection s slot b pinI
  let parts := [bricks, portSection s r slot, streamSection s slot, (coursesOf slot.bricks).flatMap (courseSection s r slot), frameSection s slot]
  let first := ceilDiv (64 + 8 * slot.bricks.length) 4096
  let offs := (parts.foldl (fun (p : List Nat × Nat) l => (p.1 ++ [p.2 + unitsOf l], p.2 + unitsOf l)) ([], first)).1
  (imageHeader s slot pinI offs, parts.flatten)

/-- The 4 KiB chunks of a list of bytes. -/
def chunks4k (l : List Byte) : List (List Byte) := (List.range (unitsOf l)).map fun i => (l.drop (4096 * i)).take 4096

/-- The nonce of an image chunk (R431). -/
def imageNonce (counter addr : Nat) : List Byte := beBytes 12 (counter % 2 ^ 32 * 2 ^ 64 + addr % 2 ^ 54)

/-- The image as it is written: header, ciphertext, tags, trailer. -/
def sealImage (key : BitVec 256) (counter hash addr : Nat) (header body : List Byte) : List (List Byte) :=
  let h := beBytes 32 hash
  let n := unitsOf header
  let plain := (chunks4k header).zipIdx
  let sealed := (chunks4k body).zipIdx.map fun (c, i) => (gcmCrypt key (imageNonce counter (addr + 4096 * (n + i))) c, i)
  let tags := (plain.map fun (c, i) => gcmTag key (imageNonce counter (addr + 4096 * i)) (h ++ c) []) ++
    sealed.map fun (c, i) => gcmTag key (imageNonce counter (addr + 4096 * (n + i))) h c
  plain.map (·.1) ++ sealed.map (·.1) ++ [tags.flatten, padTo 64 (leBytes 8 counter ++ h)]

/-- Header, sections and load hash of an image whose tags hold (R395); `l` is everything up to the end of the trailer. -/
def unsealImage (key : BitVec 256) (addr : Nat) (l : List Byte) : Option (List Byte × List Byte × Nat) :=
  let n := bits (wordAt l 8) 15 0
  let first := ceilDiv (64 + 8 * n) 4096
  let total := wordAt l 48
  let trailer := l.drop (4112 * total)
  let counter := wordAt trailer 0
  let h := (trailer.drop 8).take 32
  let cs := (chunks4k (l.take (4096 * total))).zipIdx
  let good : Bool := cs.all fun (c, i) =>
    let tag := (l.drop (4096 * total + 16 * i)).take 16
    let nonce := imageNonce counter (addr + 4096 * i)
    tag = (if i < first then gcmTag key nonce (h ++ c) [] else gcmTag key nonce h c)
  if good && counter < 2 ^ 32 && (wordsAt trailer 40 3).all (· = 0) && first ≤ total then
    some (l.take (4096 * first), (cs.filter fun p => first ≤ p.2).flatMap fun (c, i) => gcmCrypt key (imageNonce counter (addr + 4096 * i)) c, beValue h)
  else none

/-- What a resume reads of an image: bricks with their sections and bound masks, and the other sections. -/
structure HaltParts where
  header : List Byte
  hash : Nat
  bricks : List (BrickId × Nat × List Byte)
  port : List Nat
  stream : List Byte
  course : List Byte
  frame : List Byte
  deriving DecidableEq, Repr

/-- The parts of an unsealed image, under the footprints of a record. -/
def splitImage (slot : Slot) (header body : List Byte) (hash : Nat) : Option HaltParts :=
  let n := bits (wordAt header 8) 15 0
  let first := unitsOf header
  let off (i : Nat) : Nat := 4096 * (wordAt header (16 + 8 * i) - first)
  let part (i : Nat) : List Byte := (body.drop (off i)).take (off (i + 1) - off i)
  let bricks := (List.range n).mapM fun i =>
    let e := wordAt header (64 + 8 * i)
    match slot.relocate (e % 2 ^ 14) with
    | some b => if slot.inside b then some (b, bits e 31 16, (body.drop (0x13000 * i)).take 0x13000) else none
    | none => none
  bricks.map fun bricks =>
    { header, hash, bricks, port := wordsAt (part 0) 0 ((part 0).length / 8), stream := part 1, course := part 2, frame := part 3 }

/-- Dispatch reads a halted image (R394, R395). -/
def State.readHalt (s : State) (g : RegionId) (slot : Slot) : Option HaltParts × State :=
  let t := slot.tenancy
  match s.classRead { cls := .ctl, tenancy := t, region := some g, dcl := true } slot.img 64 with
  | (.error _, s) => (none, s)
  | (.ok (h, _), s) =>
    match s.classRead { cls := .ctl, tenancy := t, region := some g, dcl := true } slot.img (4112 * (wordAt h 48 % 2 ^ 32) + 64) with
    | (.error _, s) => (none, s)
    | (.ok (l, _), s) =>
      match unsealImage (s.tenancy t).wrap slot.img l with
      | none => (none, s)
      | some (header, body, hash) => (splitImage slot header body hash, s)

/-- What the port section restores. -/
structure PortParts where
  origins : List (Nat × Nat × Nat)
  windows : List (Nat × List Byte)
  params : List (BrickId × Nat × BrickId × Token)
  gateways : List Gateway
  /-- the bricks, each with whether its stream routes relocate -/
  bricks : List ((BrickId × Brick) × Bool)
  courses : List CourseRest
  ues : List (List Nat)
  /-- the greatest timestamp of the region's accesses (R282) -/
  maxTs : Nat
  deriving DecidableEq, Repr

def decPorts (slot : Slot) (bricks : List (BrickId × Brick)) (courses : Nat) : Reader PortParts := do
  let origins ← decTimes (do
    let p ← decNat
    let c ← decNat
    let k ← decNat
    pure (p, c, k)) 4
  let windows ← decList (do
    let n ← decNat
    let l ← decList decNat
    pure (n, l.map (BitVec.ofNat 8)))
  let params ← decList (do
    let src ← decBrick slot
    let p ← decNat
    let b ← decBrick slot
    let t ← decToken
    pure (src, p, b, t))
  let gateways ← decTimes (decGateway slot) 4
  let bricks ← bricks.mapM fun p => do
    let y ← decRest p.2
    if BrickId.isEdge p.1 then do
      let e ← decEdge slot y.edge
      pure ((p.1, { y with edge := e.1 }), e.2)
    else pure ((p.1, y), true)
  let courses ← decTimes decCourse courses
  let ues ← decList (decList decNat)
  let maxTs ← decNat
  pure { origins, windows, params, gateways, bricks, courses, ues, maxTs }

/-- Element indexes of the stream section go to the shape records, edge brick by edge brick. -/
def withStreams (l : List Byte) (bricks : List (BrickId × Brick)) : List (BrickId × Brick) :=
  (bricks.foldl (fun (p : List (BrickId × Brick) × Nat) q =>
    if BrickId.isEdge q.1 then
      (p.1 ++ [(q.1, { q.2 with edge := { q.2.edge with shapes := q.2.edge.shapes.zipIdx.map fun (x, r) => x.withPosition (wordAt l (128 * p.2 + 16 * r)) } })], p.2 + 1)
    else (p.1 ++ [q], p.2)) ([], 0)).1

/-- Drain positions of the course sections go to the accumulators. -/
def withDrains (l : List Byte) (courses : List (Nat × Nat)) (p : BrickId × Brick) : BrickId × Brick :=
  let i := courses.findIdx (· = (BrickId.die p.1, BrickId.course p.1))
  (p.1, { p.2 with accs := p.2.accs.zipIdx.map fun (a, k) => { a with work := readAcc l (8192 * i + 0x1000 + 64 * BrickId.col p.1 + 32 * k) } })

end Sys2Proof.Machine
end

