-- ==== Sys2Proof/Machine/Regions.lean ====
section
/-! DEFINITION. The life of a region: dispatch (R24, R373), resume (R395, R396), completion (R282, R378), count waves (R379, R380), region faults (R403), weep orders (R191), reclaim (R23, R206), reconfiguration (R192, R375) and bays (R25, R26). -/

namespace Sys2Proof.Machine

open Sys2Proof

/-! Resume (R395, R396) -/

/-- The frames of a frame section. -/
def readFrames (slot : Slot) (l : List Byte) : Option (List Frame) :=
  let n := ((List.range (l.length / 12288 + 1)).find? fun k => 12288 * k + ceilDiv (64 * k) 4096 * 4096 = l.length).getD 0
  (List.range n).mapM fun i => readFrame slot ((l.drop (12288 * i)).take 12288) ((l.drop (12288 * n + 64 * i)).take 64)

/-- TEN and MODES of an image against the record, THERM apart, and the origins where PINI = 0 binds granules (R395). -/
def haltMatches (x : Slot) (p : HaltParts) (origins : List (Nat × Nat × Nat)) : Bool :=
  let w7 := wordAt p.header 56
  let pinI := bit (wordAt p.header 0) 58
  let off (m : Nat) : Nat := insertBits m 7 2 0
  bits w7 21 16 = x.tenancy && off (bits w7 45 23) = off x.modes &&
  (pinI || p.bricks.all (fun b => b.2.1 = 0) ||
    origins.zipIdx.all fun (o, d) => match x.footprint d with
      | some (c, k, _, _) => o = (1, c, k)
      | none => o.1 = 0)

/-- Courses whose scheduler a resumed region binds: those whose section says so, each with its number among the sections. -/
def boundCourses (p : HaltParts) (courses : List (Nat × Nat)) : List ((Nat × Nat) × Nat) :=
  courses.zipIdx.filter fun (_, i) => bit (wordAt p.course (8192 * i + 0xF00)) 8
def HaltParts.courseAt (p : HaltParts) (i : Nat) : List Byte := (p.course.drop (8192 * i)).take 8192
def HaltParts.pinI (p : HaltParts) : Bool := bit (wordAt p.header 0) 58

/-- What a halted image asks of a placed brick: its whole bank is written, but granules that stay bound (R312, R393). -/
def placingOf (x : Slot) (pinI : Bool) (bound : Nat) (sec : List Byte) (b : BrickId) (y : Brick) (edgeWhole : Bool) (old : Nat) : Placing :=
  let own := if pinI then 0 else bound &&& old
  { brick := b, pool := y.pool, pins := sectionPins sec ||| (if pinI then bound else own)
    writes := 0xFFFF - (l1Mask b x.modes ||| if pinI then 0 else bound)
    own
    gutters := y.inputs.map (·.gutter)
    note := y.note
    shapes := if BrickId.isEdge b then y.edge.shapes else []
    sinks := y.inputs.any fun i => i.sink.isSome
    whole := sectionWhole x sec && edgeWhole }

/-- The plan of a halted image. -/
def State.resumePlan (s : State) (x : Slot) (p : HaltParts) (q : PortParts) : Plan :=
  let names := q.bricks.map fun y => y.1.1
  let binds := boundCourses p (coursesOf names)
  { placed := (p.bricks.zip q.bricks).map fun ((b, bound, sec), (y, w)) => placingOf x p.pinI bound sec b y.2 w (s.brick b).bound.toNat
    dests := (q.bricks.flatMap fun y => (y.1.2.outs ++ y.1.2.edge.so).flatMap fun o => o.route.map fun d => (BrickId.die y.1.1, d)) ++
      binds.flatMap fun c => (x.destsIn (destWordsOf (p.courseAt c.2) 0xE00 8)).map fun d => (c.1.1, d)
    drains := binds.map fun c => (readDrains x (p.courseAt c.2)).map fun l => (c.1, l)
    windows := q.windows.map fun w => (w.1, w.2.length)
    binds := binds.map (·.1) }

/-- What a halted image restores once it has passed (R396). -/
def State.acceptHalt (s : State) (r : RegionId) (x : Slot) (p : HaltParts) (q : PortParts) (frames : List Frame) (plan : Plan)
    (owners : List (Nat × Nat × BrickId)) : Accepted :=
  let courses := coursesOf plan.names
  let bricks := q.bricks.map fun y => withDrains p.course courses y.1
  { bricks
    pins := plan.declared
    hash := p.hash
    owners
    params := q.windows
    binds := (boundCourses p courses).map fun c => (c.1, readCourse x r c.1 (q.courses.getD c.2 { ring := [], marks := [], port := [] }) (p.courseAt c.2))
    cycles := crossing (bricks.map fun b => (BrickId.bay b.1, 0x13000))
    round := bits (wordAt p.header 0) 47 0
    maxTs := (bricks.map fun b => b.2.pts).foldl max q.maxTs
    frames := frames.zipIdx.map fun (f, i) => { f with ue := q.ues.getD i [] }
    gateways := q.gateways.zipIdx.map fun (g, d) => (d, g)
    flights := q.params.map fun (src, port, b, t) => { tok := t, src, port, dest := .param b, due := s.now } }

/-- The checks of R374 on a resume from OWNER on; the windows come from the image. -/
def State.checkResumed (s : State) (r : RegionId) (x : Slot) (p : HaltParts) (q : PortParts) (frames : List Frame) (plan : Plan)
    (owners : Option (List (Nat × Nat × BrickId))) : Except Nat Accepted × State :=
  if !s.ownersOk x plan owners then (.error rejOwner, s)
  else if !s.paramsOk plan then (.error rejParam, s)
  else s.concludeChecks r x plan (s.acceptHalt r x p q frames plan (owners.getD []))

/-- The bricks of a halted image under the footprints of the record. -/
def State.resumeBricks (s : State) (r : RegionId) (p : HaltParts) : List (BrickId × Brick) :=
  p.bricks.map fun (b, bound, sec) =>
    (b, readBrick (s.slot r) r b (s.brick b) (if p.pinI then bound else (s.brick b).bound.toNat) p.pinI sec)

/-- The checks of R374 on a resume, after FORMAT and NODE, with those that R395 adds under IMAGE. -/
def State.checkResume (s : State) (r : RegionId) : Except Nat Accepted × State :=
  let x := s.slot r
  match s.readHalt r x with
  | (none, s) => (.error rejImage, s)
  | (some p, s) =>
    let bricks := s.resumeBricks r p
    match (decPorts x (withStreams p.stream bricks) (coursesOf (bricks.map (·.1))).length).run p.port, readFrames x p.frame with
    | some (q, _), some frames =>
      if !haltMatches x p q.origins then (.error rejImage, s)
      else match s.placeReject x (s.resumePlan x p q) with
        | some code => (.error code, s)
        | none => match s.ownerMap r x with
          | (owners, s) => s.checkResumed r x p q frames (s.resumePlan x p q) owners
    | _, _ => (.error rejImage, s)

/-! Dispatch (R24, R373) -/

/-- FORMAT and NODE, then the image's KIND chooses a start or a resume (R374, R395). -/
def State.check (s : State) (r : RegionId) : Except Nat Accepted × State :=
  let x := s.slot r
  if !x.formatOk then (.error rejFormat, s)
  else if !s.nodeOk x then (.error rejNode, s)
  else match s.classRead { cls := .ctl, tenancy := x.tenancy, region := some r } x.img 8 with
    | (.error _, s) => (.error rejImage, s)
    | (.ok (h, _), s) => if leValue h / 2 ^ 60 = 2 then s.checkResume r else s.checkStart r

/-- A held record delays the later ones that place one of its bricks (R373). -/
def State.behindHeld (s : State) (r : RegionId) (bricks : List BrickId) : Bool :=
  allSlots.any fun q => q ≠ r && (s.slot q).st = .hold && (s.slot q).order < (s.slot r).order &&
    bricks.any fun b => (s.slot q).bricks.contains b

/-- A record is rejected, held or loaded (R373). -/
def State.admitRegion (s : State) (r : RegionId) : State :=
  match s.check r with
  | (.error code, s) => s.reject r code
  | (.ok a, s) =>
    let bricks := a.bricks.map (·.1)
    if s.mustHold (s.slot r) bricks || s.behindHeld r bricks then s.modSlot r fun x => { x with st := .hold, bricks }
    else s.loadStart r a

/-- The record of a die whose GO came first (R373). -/
def State.nextValid (s : State) (die : Nat) : Option RegionId :=
  (slotsOf die).foldl (fun best r =>
    if (s.slot r).st ≠ .valid then best
    else match best with
      | some q => if (s.slot r).order < (s.slot q).order then some r else best
      | none => some r) none

/-- The start or resume that a die loads now. -/
def State.loading (s : State) (die : Nat) : Option RegionId := (slotsOf die).find? fun r => (s.slot r).st = .load && !(s.slot r).rcf

/-- DISPATCH_LOAD (R373): one record at a time per die. -/
def execDispatchLoad (die : Nat) (s : State) : Outcome :=
  match s.loading die with
  | some r => stepWhen ((s.slot r).ranAt ≤ s.now) s (s.startRun r)
  | none => match s.nextValid die with
    | some r => if (s.slot r).rcf then .next s else .next (s.admitRegion r)
    | none => .next s

/-- HELD_RECORD_RELEASE (R24): a held record proceeds, under the checks as they then stand. -/
def execHeldRecordRelease (r : RegionId) (s : State) : Outcome :=
  let x := s.slot r
  stepWhen (x.st = .hold && !x.rcf && (s.loading r.die).isNone && !s.mustHold x x.bricks && !s.behindHeld r x.bricks) s
    ((s.modSlot r fun x => { x with bricks := [] }).admitRegion r)

/-! What a region still has under way -/

/-- Bricks of a region. -/
def State.owns (s : State) (r : RegionId) (b : BrickId) : Bool := (s.brick b).region = some r

/-- No request, map operation or handover of the region is open (R282). -/
def State.accessesDone (s : State) (r : RegionId) : Bool :=
  s.reqs.all (fun q => !s.owns r q.brick) && s.maps.all (fun m => !s.owns r m.brick) && s.handovers.all (fun h => h.region ≠ r)

/-- No token is on its way to a brick of the region, but one that waits for a parameter port. -/
def State.linksEmpty (s : State) (r : RegionId) : Bool :=
  s.flights.all fun f => match f.dest with
    | .param _ => true
    | .steer d c => (s.sched d c).region ≠ some r
    | .coll _ => !s.owns r f.src
    | d => match d.brick with
      | some b => !s.owns r b
      | none => true

/-- A brick's firings have left nothing to do. -/
def Brick.quietFirings (x : Brick) : Bool := x.firings.isEmpty
/-- Docks are at rest: empty, docked, waiting with a notice, or in FIN. -/
def Dock.atRest (d : Dock) : Bool :=
  match d.st with
  | .empty | .docked | .noticing _ | .finishing .. => true
  | _ => false
def Acc.computing (a : Acc) : Bool :=
  match a.work with
  | .computing .. | .ending .. => true
  | _ => false

/-- The schedulers that serve a region have sent the DONE of every task whose drain could not start (R299). -/
def State.doneSent (s : State) (r : RegionId) : Bool := (s.slot r).courses.all fun c => (s.sched c.1 c.2).ends.isEmpty

/-- Engine operations that settle before a capture (R340, R389): ports delivered, slabs computed, queries ended, frames landed or parked, a gutter's bad read judged (R187). -/
def State.enginesSettled (s : State) (r : RegionId) : Bool :=
  ((s.slot r).bricks.all fun b =>
    let x := s.brick b
    x.taskPort.isEmpty && x.footPort.isEmpty && x.docks.all Dock.atRest && x.accs.all (fun a => !a.computing) &&
    x.inputs.all (fun i => (i.gutter.bind Gutter.trap).isNone) &&
    x.docks.all (fun d => match d.st with
      | .finishing p _ _ => x.room p = 0 && !s.mayForward (.out b p)
      | _ => true)) &&
  (List.range 12).all (fun e => ((s.footing e).posts ++ (s.footing e).contexts).all fun q => q.region ≠ r) &&
  s.doneSent r && s.frames.all fun f => !(s.owns r f.target) || f.parked

/-- Every brick of the region has wept, or has left (R191). -/
def State.allWept (s : State) (r : RegionId) : Bool :=
  (s.slot r).bricks.all fun b => !s.owns r b || (s.brick b).weep = .wept

/-- A memory source that still has something to send; one that only waits for a DRAW is no operation in progress (R378, R485). -/
def Shape.working (h : Shape) : Bool :=
  h.state = 1 && h.skind = 0 && (h.tileLeft ≠ 0 || h.credit ≠ 0 || h.fin || !h.outq.isEmpty)

/-- A LIVE record with a memory destination whose stream input holds words still to be written (R282). -/
def Edge.toWrite (e : Edge) : Bool :=
  e.shapes.any fun h => h.state = 1 && h.skind = 1 && h.dkind ≠ 1 && !(e.si.getD (h.src % 8) []).isEmpty

/-- No engine operation of a completing region remains (R378). -/
def State.enginesDone (s : State) (r : RegionId) : Bool :=
  s.enginesSettled r &&
  ((s.slot r).bricks.all fun b =>
    let x := s.brick b
    x.accs.all (fun a => !a.busy) && x.qblk.isNone && x.docks.all (fun d => match d.st with
      | .finishing .. => false
      | _ => true) && !x.edge.shapes.any Shape.working && !x.edge.toWrite) &&
  (List.range 4).all fun d => (s.gateway d).port.all (fun p => !s.owns r p.1) && (s.gateway d).out.all fun p => !s.owns r p.brick

/-! Ending a region -/

/-- A reconfiguration that its target has outlived: held parts are discarded, and the slot enters FAULT (R375). -/
def State.dropReconfigs (s : State) (r : RegionId) (reason : Nat) : State :=
  let s := (s.slot r).bricks.foldl (fun s b => s.modBrick b fun x => { x with hold := none }) s
  (slotsOf r.die).foldl (fun s q =>
    let y := s.slot q
    if y.rcf && y.rslot = r.slot && (y.st = .load || y.st = .run) then s.modSlot q fun y => { y with st := .fault, reason } else s) s

/-- A brick leaves RUNNING (R23). -/
def Brick.leaveRunning (x : Brick) : Brick := if x.life = .running then { x with life := .draining } else x

/-- The region leaves RUN: flashing units drop the chunks they hold for it (R428). -/
def State.dropChunks (s : State) (r : RegionId) : State :=
  { s with bricks := s.bricks.map fun (e : Nat × Brick) =>
      (e.1, { e.2 with edge := { e.2.edge with chunks := e.2.edge.chunks.filter fun c => c.region ≠ r } }) }

/-- Every brick of a region leaves RUNNING (R23), as the region leaves RUN. -/
def State.drainBricks (s : State) (r : RegionId) : State :=
  (s.slot r).bricks.foldl (fun s b => s.modBrick b Brick.leaveRunning) (s.dropChunks r)

/-- REGION_COMPLETION (R378): the last sink has reported and no wave is in progress. RUN ends here (R371). A reconfiguration slot has no sinks and does not complete this way (R375). -/
def execRegionCompletion (r : RegionId) (s : State) : Outcome :=
  let x := s.slot r
  stepWhen (x.st = .run && !x.rcf && x.wave.isNone && x.pending.isNone && (s.unreported r).isEmpty) s
    (((s.dropReconfigs r 0).drainBricks r).modSlot r fun x => { x with st := .drain, kind := 1 })

/-- The fields of a pending record (R401). -/
def pendingWords (p : Option (Nat × List Word)) : List Word := match p with
  | some (_, ws) => ws
  | none => []

/-- SEQ and TIME enter word 0 and word 2 as the record is written. -/
def stampRecord (seq us : Nat) (ws : List Word) : List Word :=
  [BitVec.ofNat 64 ((ws.getD 0 0).toNat / 65536 * 65536 + seq % 65536), ws.getD 1 0,
   BitVec.ofNat 64 ((ws.getD 2 0).toNat / 2 ^ 48 * 2 ^ 48 + us % 2 ^ 48), ws.getD 3 0]
def Die.logWords (d : Die) (us : Nat) (ws : List Word) : Die :=
  if (d.head + 1) % 256 = d.tail then { d with ovf := min (d.ovf + 1) (2 ^ 32 - 1) }
  else { d with log := d.log.set d.head (stampRecord d.seq us ws), head := (d.head + 1) % 256, seq := (d.seq + 1) % 65536 }

/-- The engines of a faulted region settle with no image (R389, R403): records, drains and task queues stop, queries are cancelled; a committed FIRE or FIN completes. -/
def State.stopEngines (s : State) (r : RegionId) : State :=
  let s := s.cancelRegion r
  let s := (s.slot r).bricks.foldl (fun s b => s.modBrick b fun x =>
    { x.setPick false with
      wave := .none
      accs := x.accs.map fun a => if a.computing then a else { a with work := .idle }
      qblk := none
      edge := { x.edge with shapes := x.edge.shapes.map fun h => { h with state := if h.state = 1 then 0 else h.state, tileLeft := 0, outq := [], notes := [], fin := false } } }) s
  (s.slot r).courses.foldl (fun s c => s.modSched c.1 c.2 fun q => { q with ring := [], window := [], port := [], ends := [] }) s

/-- REGION_FAULT (R403): the fatal fault of a cycle is taken once the cycle has ended; one record is written, PICK clears, a wave in progress is abandoned. One that comes while the region loads is taken once it runs: no brick leaves BOUND but for RUNNING (R23, log 18). -/
def execRegionFault (r : RegionId) (s : State) : Outcome :=
  let x := s.slot r
  match x.pending with
  | none => .next s
  | some (at', ws) =>
    let code := bits (ws.getD 0 0).toNat 63 56
    let d := s.die r.die
    let full : Bool := (d.head + 1) % 256 = d.tail
    let s1 := s.modDie r.die fun d => d.logWords s.us ws
    let s2 := ((s1.dropReconfigs r code).stopEngines r).drainBricks r
    stepWhen (at' < s.now && x.fault.isNone && x.underway) s
      (s2.modSlot r fun x => { x with
        st := .drain, kind := 2, fault := some code, reason := code, pending := none, wave := none
        faultSeq := if full then 0xFFFF else d.seq })

/-! Weep orders (R191) -/

/-- A brick that is ordered directly: it discards what it holds and what reaches it. -/
def Brick.orderDirect (x : Brick) : Brick :=
  Brick.settleWeep { x with
    weep := match x.weep with
      | .none | .ordered => .ordered
      | w => w
    discard := true
    hold := none
    ringPort := []
    inputs := x.inputs.map fun i => { i with queue := [], gutter := i.gutter.map fun (g : Gutter) => { off := g.off, size := g.size } }
    outs := x.outs.map fun p => { p with skid := [] }
    edge := { x.edge with si := List.replicate 8 [], dp := [], pp := none, so := x.edge.so.map fun (p : Port) => { p with skid := [] } } }

/-- WEEP_ORDER (R191): at completion the bricks with no connected input; at a fault or after an image, every brick, whose engines go no further. -/
def execWeepOrder (r : RegionId) (s : State) : Outcome :=
  let x := s.slot r
  let completing : Bool := x.st = .drain && x.kind = 1
  let direct : Bool := x.st = .drain && (x.kind = 2 || (x.kind = 3 && x.ended))
  let gentle := x.bricks.foldl (fun s b => s.modBrick b fun y =>
    if y.noConnectedInput && y.weep = .none then { y.setPick false with weep := .ordered } else y) s
  let hard := x.bricks.foldl (fun s b => s.modBrick b Brick.orderDirect) ((s.stopEngines r).modSlot r fun x => { x with wave := none })
  let hard := { hard with flights := hard.flights.filter fun f => match f.dest with
    | .param b => !s.owns r b
    | _ => true }
  if completing then .next gentle
  else stepWhen (direct && x.bricks.any fun b => s.owns r b && !(s.brick b).discard) s hard

/-! Completion (R282, R378) -/

/-- The completion word: KIND, code, GEN. -/
def Slot.completion (x : Slot) : Nat :=
  (match x.kind with
    | 1 => 1
    | 2 => 2
    | _ => 3) * 2 ^ 60 + (if x.kind = 2 then x.fault.getD 0 else 0) * 2 ^ 52 + x.gen

/-- Store the completion word, one 8 B store above every timestamp of the region; a fault writes CWFAULT (R282, R378). -/
def State.storeCompletion (s : State) (r : RegionId) : State :=
  let x := s.slot r
  match s.classWrite { cls := .ctl, tenancy := x.tenancy, floor := x.maxTs + 1 } x.cword (leBytes 8 x.completion) with
  | (.ok _, s) => s
  | (.error (f, va), s) => s.writeRecord (s.regionRecord r { code := 0x12, detail := f.cause, data := f.payload va })

/-- The region's resources return once its last brick has left DRAINING: schedulers without their records (log 16), key slots, SWCMD, and the slot's end state (R378, R387, R426, R509). -/
def State.closeRegion (s : State) (r : RegionId) : State :=
  let x := s.slot r
  let s := x.courses.foldl (fun s c => s.modSched c.1 c.2 fun q => { q with region := none, ring := [], window := [], port := [], ends := [] }) s
  let s := (x.keys.foldl (fun s k => s.modKeySlot k KeySlot.unbind) s).refund x.node 5 x.keys.length
  let s := s.modDie r.die fun d => if bits d.swcmd.toNat 62 57 = r.slot then { d with swcmd := d.swcmd &&& 0x7FFF_FFFF_FFFF_FFFF } else d
  let s := { s with
    flights := s.flights.filter fun f => !x.bricks.contains f.src
    frames := s.frames.filter fun f => !x.bricks.contains f.target && !x.bricks.contains f.src
    walks := s.walks.filter fun w => !x.bricks.contains w.edge }
  s.modSlot r fun x => { x with st := if x.kind = 2 then .fault else .done, keys := [], wave := none, bricks := [] }

/-- The slot ends when the word is stored and no brick is left (R378). -/
def State.settleSlot (s : State) (r : RegionId) : State :=
  let x := s.slot r
  if x.st = .drain && x.ended && x.bricks.all (fun b => !s.owns r b) then s.closeRegion r else s

/-- The records of a region that has ended are IDLE (R485). -/
def State.idleRecords (s : State) (r : RegionId) : State :=
  (s.slot r).bricks.foldl (fun s b => s.modBrick b fun x =>
    { x with edge := { x.edge with shapes := x.edge.shapes.map fun h => { h with state := if h.state = 1 then 0 else h.state } } }) s

/-- COMPLETION_WORD_STORE (R282, R378). -/
def execCompletionWordStore (r : RegionId) (s : State) : Outcome :=
  let x := s.slot r
  stepWhen (x.st = .drain && !x.ended && (x.kind = 1 || x.kind = 2) && s.allWept r && s.accessesDone r && s.linksEmpty r &&
      (x.kind = 2 || s.enginesDone r) && (x.bricks.all fun b => (s.brick b).quietFirings) &&
      (x.kind = 1 || s.enginesSettled r)) s
    ((((s.storeCompletion r).idleRecords r).modSlot r fun x => { x with ended := true }).settleSlot r)

/-! Leaving DRAINING (R23, R206, R312) -/

/-- The course holds no brick of the region any more. -/
def State.courseEmpty (s : State) (r : RegionId) (c : Nat × Nat) : Bool :=
  (s.slot r).bricks.all fun b => (BrickId.die b, BrickId.course b) ≠ c || !s.owns r b

/-- A brick after its reclaim (R28, R206): INV in every slot, granules released but the bound ones, which an image with PINI = 1 has taken too; its L1 lines and weight chunks are dropped (R206, R428), and what its engines held for the region is gone. Its slices, predicates and status registers stay. -/
def Brick.reclaimed (x : Brick) (keep : Bool) : Brick :=
  let bound := if keep then x.bound else 0
  let gmap := (List.range 16).foldl (fun n g => n + 4 ^ g * b2n (bound.getLsbD g)) 0
  { x with
    pool := List.replicate 16 0, bound, gmap := BitVec.ofNat 32 gmap, life := if bound = 0 then .free else .held
    region := none, edge := { x.edge with l1 := [], chunks := [] }
    weep := .none, discard := false, wave := .none, picked := false, hold := none, idle := none
    taskPort := [], footPort := [], accs := [{}, {}], docks := [{}, {}], away := 0, ringPort := [] }

/-- BRICK_RECLAIM (R23, R206). -/
def execBrickReclaim (b : BrickId) (s : State) : Outcome :=
  let x := s.brick b
  match x.region with
  | none => .next s
  | some r =>
    let slot := s.slot r
    let pinI : Bool := slot.kind = 3 && bit (s.die r.die).swcmd.toNat 56
    let y := x.reclaimed (!pinI)
    let freed := x.pinned.length - popCount 16 y.bound.toNat
    let c := (BrickId.die b, BrickId.course b)
    let s1 := (s.setBrick b y).refund x.pinNode 1 freed
    let s2 := if s1.courseEmpty r c then
        { s1 with params := s1.params.set (64 * c.1 + c.2) ((s1.params.getD (64 * c.1 + c.2) []).filter fun w => w.region ≠ r) } else s1
    stepWhen (x.life = .draining && slot.ended && x.accs.all (fun a => !a.busy) && s.allWept r && s.linksEmpty r) s (s2.settleSlot r)

/-! Count waves (R379, R380, R404) -/

/-- An eligible slot whose rule is neither IDLE nor NOP. -/
def State.wouldFire (s : State) (b : BrickId) : Bool :=
  pickerRuns s.now (s.brick b) && (List.range 16).any fun k =>
    match slotInstr s b k with
    | some (.idle ..) | some (.nop ..) | none => false
    | some i => eligible s b k ((s.brick b).pool.getD k 0) i

/-- A gutter whose refill can proceed. -/
def Brick.refillOpen (x : Brick) : Bool := x.inputs.any fun i => match i.gutter with
  | some g => 0 < g.count && !g.stopped && 0 < i.queueFree
  | none => false

/-- A brick's agents are busy (R379); one that a breakpoint holds counts as busy (R404). -/
def State.agentBusy (s : State) (r : RegionId) (b : BrickId) : Bool :=
  let x := s.brick b
  !x.firings.isEmpty || s.wouldFire b || x.refillOpen || x.qblk.isSome || (x.trapValid && !x.pick && bits x.tcls.toNat 23 16 = 2) ||
  !x.taskPort.isEmpty || !x.footPort.isEmpty || x.accs.any Acc.busy ||
  x.docks.any (fun d => match d.st with
    | .empty | .docked => false
    | _ => true) ||
  x.edge.shapes.any (fun h => h.state = 1 && (h.tileLeft ≠ 0 || h.fin || !h.outq.isEmpty || (h.dkind ≠ 0 && h.credit ≠ 0 && h.next < h.length)) || !h.notes.isEmpty) ||
  (List.range 8).any (s.canTake b) || !x.edge.dp.isEmpty ||
  s.reqs.any (fun q => q.brick = b) || s.maps.any (fun m => m.brick = b) ||
  (List.range 12).any fun e => ((s.footing e).posts ++ (s.footing e).contexts).any fun q => q.region = r && q.brick = b

/-- A gateway is busy for a region: a token at a collective port, a group that is complete, or a delivery (R342, R379). -/
def State.gatewayBusy (s : State) (r : RegionId) : Bool :=
  (List.range 4).any fun d =>
    let g := s.gateway d
    g.port.any (fun p => s.owns r p.1) || g.out.any (fun p => s.owns r p.brick) ||
      g.contribs.any fun c => s.owns r c.brick && (s.gwGroup d (gwGid c.h) c).isSome

/-- Some agent of the region is busy: a brick's, a scheduler, a ring, a gateway. -/
def State.regionBusy (s : State) (r : RegionId) : Bool :=
  (s.slot r).bricks.any (s.agentBusy r) || s.gatewayBusy r ||
  (s.slot r).courses.any (fun c => let q := s.sched c.1 c.2; !q.ring.isEmpty || !q.window.isEmpty || !q.port.isEmpty || !q.ends.isEmpty) ||
  s.frames.any (fun f => s.owns r f.target && !f.parked) || !s.linksEmpty r || !s.accessesDone r

/-- SENT and RCVD summed over the region's agents (R379): the items of a router, a stream engine, a ring port, a gateway or a footing port are counted at the brick that they serve (log 1). -/
def State.counts (s : State) (r : RegionId) : Nat × Nat :=
  let at' := (s.slot r).bricks.foldl (fun p b => (p.1 + (s.brick b).sent, p.2 + (s.brick b).rcvd)) (0, 0)
  (s.slot r).courses.foldl (fun p c => (p.1 + (s.sched c.1 c.2).sent, p.2 + (s.sched c.1 c.2).rcvd)) at' 

/-- The lowest brick of a list. -/
def lowestBrick : List BrickId → Nat
  | [] => 0
  | b :: bs => bs.foldl (fun n c => min n c.toNat) b.toNat

/-- A count wave is due (R380): each 4,096th cycle of RUN, once. -/
def State.countDue (s : State) (r : RegionId) : Bool :=
  let x := s.slot r
  x.st = .run && !(s.unreported r).isEmpty && x.wave.isNone && 0 < s.now - x.ranAt && (s.now - x.ranAt) % 4096 = 0 && x.countedAt ≠ s.now

/-- COUNT_WAVE (R380): two quiet waves in succession with equal sums raise DEADLOCK. -/
def execCountWave (r : RegionId) (s : State) : Outcome :=
  let x := s.slot r
  let sums := s.counts r
  let quiet : Bool := !s.regionBusy r && sums.1 = sums.2
  let left := s.unreported r
  let s' := s.modSlot r fun x => { x with lastWave := if quiet then some sums else none, countedAt := s.now }
  stepWhen (s.countDue r) s
    (if quiet && x.lastWave = some sums then
      s'.raiseFault r { code := 0x03, brick := lowestBrick left, count := left.length, data := lowestBrick left }
    else s')

/-! Reconfiguration (R192, R375) -/

/-- The target of a reconfiguration. -/
def Slot.target (x : Slot) (r : RegionId) : RegionId := { die := r.die, slot := x.rslot }

/-- FORMAT of a reconfiguration (R375). -/
def Slot.reconfigFormat (x t : Slot) : Bool :=
  bits (x.word 0) 61 58 = 0 && bits (x.word 1) 63 54 = 0 && (List.range 5).all (fun i => x.word (2 + i) = 0) &&
  x.word 7 = x.rslot * 2 ^ 36 && x.node = t.node && x.tenancy = t.tenancy && x.modes = t.modes &&
  1 ≤ (x.gen + 65536 - t.gen) % 65536 && (x.gen + 65536 - t.gen) % 65536 ≤ 32767

/-- The courses whose scheduler a reconfiguration would bind beside those that its target holds (R509). -/
def newBinds (t : Slot) (p : Plan) : List (Nat × Nat) := p.binds.filter fun c => !t.courses.contains c

/-- The checks of a reconfiguration under the target's footprints: MAPOUT, which R22 asks of every bind record, the gutters, routes and shapes (R375), and SCHED for a course that the new rules would bind (R509; their order is log 18). -/
def State.reconfigCheck (s : State) (t : Slot) (img : LoadImage) (placed : List (BrickId × BrickPart)) : Option Nat :=
  let plan := { img with courses := [] }.plan t placed
  let gutterOk (p : Placing) : Bool :=
    let y := s.brick p.brick
    let taken := (List.range 16).foldl (fun n g => if y.part g ≠ 0 then n + 2 ^ g else n) 0
    guttersOk (p.gutters.filterMap id) taken p.dock && (!p.dock || (taken &&& 0x3F = 0 && p.note.isSome))
  if !s.mapoutOk t plan then some rejMapout
  else if !plan.placed.all gutterOk then some rejBank
  else if !s.routesOk t plan then some rejRoute
  else if !plan.placed.all Placing.shapesOk then some rejShape
  else if !s.schedsFree (newBinds t plan) then some rejSched
  else none

/-- Another reconfiguration of the target is in LOAD or RUN. -/
def State.reconfiguring (s : State) (t : RegionId) : Bool :=
  (slotsOf t.die).any fun q => let y := s.slot q; y.rcf && y.rslot = t.slot && (y.st = .load || y.st = .run)

/-- The part that a brick holds (R192). -/
def holdOf (t : Slot) (x : Slot) (r : RegionId) (p : BrickId × BrickPart) : Hold :=
  { pool := p.2.pool
    outs := (p.2.outs t).getD []
    sos := if BrickId.isEdge p.1 then (p.2.sos t).getD [] else []
    gutters := p.2.gutters
    note := p.2.notice
    shapes := if BrickId.isEdge p.1 then p.2.shapes.map (·.words) else []
    gen := x.gen
    slot := r }

/-- An accepted reconfiguration is sent (R375): its record reaches LOAD, so the target counts the key slots that its hash names and it does not hold yet, and the measurement log takes it (R423, R426, log 18); the target binds the schedulers that its new rules need (R509), and each brick receives its part. -/
def State.sendReconfig (s : State) (r : RegionId) (hash : Nat) (keys : List Nat) (binds : List (Nat × Nat)) (placed : List (BrickId × BrickPart)) : State :=
  let x := s.slot r
  let t := x.target r
  let y := s.slot t
  let s := (s.bindKeys t x.node keys).logLoad x.tenancy hash x.node r
  let s := binds.foldl (fun s c => s.modSched c.1 c.2 fun _ => s.loadSched t y c []) s
  let s := s.modSlot t fun y => { y with courses := y.courses ++ binds }
  (placed.foldl (fun s p => s.modBrick p.1 fun z => { z with hold := some (holdOf y x r p) }) s).modSlot r fun x => { x with st := .run, hash }

/-- RECONFIG_SUBMIT (R375): dispatch takes a reconfiguration in its turn. It is rejected, waits in HOLD behind another, or is checked, and each brick receives its part. -/
def execReconfigSubmit (r : RegionId) (s : State) : Outcome :=
  let x := s.slot r
  let t := x.target r
  let y := s.slot t
  let turn : Bool := (x.st = .valid && s.nextValid r.die = some r && (s.loading r.die).isNone) || (x.st = .hold && !s.reconfiguring t)
  let done :=
    if !x.reconfigFormat y then s.reject r rejFormat
    else if !s.nodeOk x then s.reject r rejNode
    else if y.st ≠ .run || y.wave.isSome then s.reject r rejImage
    else if s.reconfiguring t then s.modSlot r fun x => { x with st := .hold }
    else match s.readLoad t x.tenancy x.img with
    | (none, s) => s.reject r rejImage
    | (some img, s) => match img.placed y with
      | none => s.reject r rejImage
      | some placed =>
        let bad := poolFailures (placed.map fun p => (p.1, p.2.pool))
        if placed.map (·.1) ≠ y.bricks then s.reject r rejImage
        else if !bad.isEmpty then
          match bad with
          | (b, k, reason, w) :: _ =>
            ((s.noteLoadBad r bad).reject r rejLoadBad).raiseFault t
              { code := 0x04, brick := b.toNat, cls := k, detail := reason, count := bad.length, data := w.toNat }
          | [] => s
        else match s.reconfigCheck y img placed with
          | some code => s.reject r code
          | none =>
            let keys := (s.matchingKeys x.tenancy img.hash).filter fun k => !y.keys.contains k
            if !s.chargeFits x.node 5 keys.length then s.reject r rejBudget else s.sendReconfig r img.hash keys (newBinds y (LoadImage.plan { img with courses := [] } y placed)) placed
  stepWhen (x.rcf && turn) s done

/-- A gutter's entries as tokens, its head first. -/
def Brick.gutterTokens (x : Brick) (g : Gutter) : List Token :=
  (List.range g.count).map (g.token x.bank)

/-- A channel's tokens in its order: the queue's, then the gutter's (R186). -/
def Brick.held (x : Brick) (i : Input) : List Token :=
  i.queue ++ match i.gutter with
    | some g => x.gutterTokens g
    | none => []

/-- The channel's gutter stays where it is. -/
def Input.sameGutter (i : Input) (g : Option Gutter) : Bool := i.gutter.map (fun g => (g.off, g.size)) = g.map fun g => (g.off, g.size)

/-- Every channel's tokens fit in the queue and the gutter that it is to have. -/
def Brick.gutterFits (x : Brick) (gs : List (Option Gutter)) : Bool :=
  x.inputs.zipIdx.all fun (i, ch) =>
    let g := gs.getD ch none
    i.sameGutter g || (x.held i).length + i.ret ≤ 32 + ((g.map Gutter.capacity).getD 0)

/-- The inputs under their new gutters, which change together: each channel's tokens enter it again in their order (R192). -/
def Brick.regutter (x : Brick) (gs : List (Option Gutter)) : Brick :=
  let moves := (x.inputs.zipIdx.filter fun (i, ch) => !i.sameGutter (gs.getD ch none)).map fun (i, ch) => (ch, x.held i)
  let y := moves.foldl (fun (y : Brick) (p : Nat × List Token) => y.modInput p.1 fun i => { i with queue := [], gutter := gs.getD p.1 none }) x
  moves.foldl (fun y p => p.2.foldl (fun y t => y.enqueue p.1 t) y) y

/-- A brick applies its held part (R192, R323, R375): pool, routes, gutters and shape records together, and PICK. A LIVE record has been stopped. -/
def Brick.applyHold (x : Brick) (h : Hold) : Brick :=
  let y := (x.regutter h.gutters).setPick true
  { y with
    pool := h.pool
    outs := y.outs.zipIdx.map fun (p, n) => { p with route := h.outs.getD n [] }
    note := h.note
    dockBrick := h.pool.any isDockWord
    hold := none
    weep := .none
    idle := none
    edge := { y.edge with
      so := y.edge.so.zipIdx.map fun (p, n) => { p with route := h.sos.getD n p.route }
      shapes := y.edge.shapes.zipIdx.map fun (q, n) => match h.shapes[n]? with
        | some ws => { q with words := ws }
        | none => q } }

/-- LIVE records stop as STRM ABORT stops them, and send no EOS (R375). -/
def State.stopLive (s : State) (b : BrickId) : State :=
  (List.range 8).foldl (fun s n =>
    let q := s.shape b n
    if q.state = 1 then
      let t := s.abortShape b n
      t.modShape b n fun y => if q.dkind = 1 && q.eosm ≠ 0 && !q.fin then { y with outq := y.outq.dropLast } else y
    else s) s

/-- RECONFIG_APPLY (R96, R192, R375): CGEN follows once a course's bricks have applied, and GEN once all have. Tokens that a smaller gutter has no place for keep the brick waiting (log 17). -/
def execReconfigApply (b : BrickId) (s : State) : Outcome :=
  let x := s.brick b
  match x.hold, x.region with
  | some h, some r =>
    let s1 := ((s.stopLive b).modBrick b fun x => x.applyHold h).connectRegion r
    let waits (c : BrickId) : Bool := (s1.brick c).hold.isSome
    let mates := (s1.slot r).bricks
    let course := mates.filter fun c => BrickId.die c = BrickId.die b && BrickId.course c = BrickId.course b
    let s2 := if course.any waits then s1
      else s1.modSched (BrickId.die b) (BrickId.course b) fun q => if q.region = some r then { q with gen := h.gen } else q
    let s3 := if mates.any waits then s2
      else (s2.modSlot r fun y => { y with words := modifyAt (fun w => BitVec.ofNat 64 (insertBits w.toNat 23 16 h.gen)) 0 y.words }).modSlot h.slot
        fun y => { y with st := .done }
    stepWhen (x.weep = .wept && !x.pick && x.firings.isEmpty && x.gutterFits h.gutters) s s3
  | _, _ => .next s

/-! Bays (R21, R25, R26) -/

/-- The bricks of a bay. -/
def bricksOfBay (bay : Nat) : List BrickId := (List.range 512).map fun i => BrickId.mk (bay / 8) (8 * (bay % 8) + i / 64) (i % 64)

/-- A bay that a node may be granted (R21, R26): some brick of it is in service, the node's tenancy holds it, and no LIVE node holds it but ancestors of the node. DESIGN CHOICE (log 18): a node takes a bay that an ancestor holds, which keeps its bit, as well as one that no node holds. -/
def State.bayFree (s : State) (node bay : Nat) : Bool :=
  !bit (s.nodeWord node 4) bay && bit (s.tenancy (s.nodeTen node)).cfg.toNat bay && (bricksOfBay bay).any s.inService &&
  s.nodes.all fun e => !(s.nodeLive e.1 && bit (s.nodeWord e.1 4) bay) || (s.lineage 4096 node).contains e.1

/-- A bay is charged to a node: it or a node below it holds it (R368). -/
def State.bayCharged (s : State) (node bay : Nat) : Bool :=
  s.nodes.any fun e => s.nodeLive e.1 && bit (s.nodeWord e.1 4) bay && (s.lineage 4096 e.1).contains node

/-- The bays of a mask fit, beside those charged, in the budget of a node and of every ancestor (R26, R368). -/
def State.baysFit (s : State) (node mask : Nat) : Bool :=
  (s.lineage 4096 node).all fun m => ((List.range 32).filter fun k => bit mask k || s.bayCharged m k).length ≤ s.effective m 0

/-- The bays of a grant. DESIGN CHOICE (log 18): of the free bays, the lowest. -/
def State.bayMask (s : State) (node asked : Nat) : Nat :=
  (((List.range 32).filter (s.bayFree node)).take asked).foldl (fun n b => n + 2 ^ b) 0

/-- BAY_GRANT (R26, R368): whole bays, all that are asked for, or none. -/
def execBayGrant (node baysAsked : Nat) (s : State) : Outcome :=
  let mask := s.bayMask node baysAsked
  stepWhen (s.nodeLive node && baysAsked ≤ ((List.range 32).filter (s.bayFree node)).length && s.baysFit node mask) s
    { s with nodes := s.nodes.set node (modifyAt (fun w => w ||| BitVec.ofNat 64 mask) 4 (s.node node)) }

/-- BAY_RETURN (R25): every brick of the bay is FREE or OUT. -/
def execBayReturn (node bay : Nat) (s : State) : Outcome :=
  stepWhen (bit (s.nodeWord node 4) bay && (bricksOfBay bay).all fun b => (s.brick b).life = .free || (s.brick b).life = .out) s
    { s with nodes := s.nodes.set node (modifyAt (fun w => BitVec.ofNat 64 (w.toNat - 2 ^ bay)) 4 (s.node node)) }

end Sys2Proof.Machine
end

