-- ==== Sys2Proof/Machine/Waves.lean ====
section
/-! DEFINITION. Set waves: the command (R387), stop points (R388-R390), and the capture of an image (R391, R394, R431). -/

namespace Sys2Proof.Machine

open Sys2Proof

/-- The largest round of a region's bricks. -/
def State.greatestRound (s : State) (r : RegionId) : Nat := ((s.slot r).bricks.map fun b => (s.brick b).round).foldl max 0

/-- A wave stops a brick (R388): PICK clears, and the brick halts (R23). -/
def Brick.stopAtWave (x : Brick) : Brick :=
  if x.wave = .stopped then x else { x.setPick false with wave := .stopped, picked := x.pick, life := .draining }

/-- A wave of a region starts (R387, R390): the slot reads DRAIN, and a round-edge wave sets its target. `value` is SWCMD, `addr` the image's address. -/
def State.startWave (s : State) (r : RegionId) (value addr : Nat) (edge : Bool) : State :=
  let x := s.slot r
  let t := (s.greatestRound r + 1) % 2 ^ 48
  let wait := bits value 55 48
  let w : Wave := { addr, pinI := bit value 56, started := s.now
                    limit := 4096 * (if wait = 0 then 256 else wait), target := if edge then some t else none }
  let s := s.modDie r.die fun d => { d with swaddr := BitVec.ofNat 64 addr, swcmd := BitVec.ofNat 64 (value / 2 ^ 48 * 2 ^ 48) }
  let s := (s.dropChunks r).modSlot r fun x => { x with st := .drain, kind := 3, wave := some w, cut := edge }
  if edge then x.bricks.foldl (fun s b => s.modBrick b fun y => { y with wave := .target t }) s else s.cancelRegion r

/-- A region that a wave may halt (R387). -/
def State.mayWave (s : State) (r : RegionId) : Bool :=
  let x := s.slot r
  x.st = .run && !x.rcf && (x.pre = 1 || x.pre = 2) && !(s.die r.die).swcmd.getLsbD 63 && !s.reconfiguring r

/-- SWCMD (R387): a write that starts a wave is ignored in the cases that R387 lists; one with GO = 0 starts nothing and writes SLOT, PINI and WAIT, unless GO reads 1. -/
def execSwcmd (die : Nat) (value : Word) (s : State) : Outcome :=
  let r : RegionId := { die, slot := bits value.toNat 62 57 }
  if value.getLsbD 63 then stepWhen (s.mayWave r) s (s.startWave r value.toNat (s.die die).swaddr.toNat ((s.slot r).pre = 1))
  else stepWhen (!(s.die die).swcmd.getLsbD 63) s (s.modDie die fun d => { d with swcmd := value &&& 0x7FFF_0000_0000_0000 })

/-- SETW_STOP (R388, R389): an immediate wave's message reaches a brick, or a brick already stopped at a BKPT counts as stopped. -/
def execSetwStop (b : BrickId) (s : State) : Outcome :=
  let x := s.brick b
  match x.region with
  | none => .next s
  | some r => match (s.slot r).wave with
    | none => .next s
    | some w => stepWhen (w.target.isNone || (x.trapValid && !x.pick)) s (s.modBrick b Brick.stopAtWave)

/-- SETW_WAIT_EXPIRY (R390): the wave becomes immediate. -/
def execSetwWaitExpiry (r : RegionId) (s : State) : Outcome :=
  let x := s.slot r
  match x.wave with
  | none => .next s
  | some w =>
    let s1 := x.bricks.foldl (fun s b => s.modBrick b Brick.stopAtWave) s
    let late : Bool := x.bricks.any fun b => (s.brick b).wave ≠ .stopped
    stepWhen (w.target.isSome && w.started + w.limit ≤ s.now && late) s
      ((s1.modSlot r fun x => { x with wave := some { w with target := none }, cut := false }).cancelRegion r)

/-- Write the pieces of an image in order; the first that faults ends it (R391). -/
def State.writeImage (s : State) (q : Access) : List (Nat × List Byte) → Except (Fail × Nat) Unit × State
  | [] => (.ok (), s)
  | (va, l) :: rest =>
    match s.classWrite q va l with
    | (.error f, s) => (.error f, s)
    | (.ok _, s) => s.writeImage q rest

/-- The accesses of a region's capture: at the deadline class (R384), after every access of the region (R274, R391). -/
def Slot.imageAccess (x : Slot) (r : RegionId) : Access :=
  { cls := .ctl, tenancy := x.tenancy, floor := x.maxTs + 1, region := some r, dcl := true }

/-- The pieces with their addresses. -/
def placePieces : Nat → List (List Byte) → List (Nat × List Byte)
  | _, [] => []
  | va, l :: rest => (va, l) :: placePieces (va + l.length) rest

/-- Some query of the region is still live and has not been cancelled (R365). -/
def State.liveQueries (s : State) (r : RegionId) : Bool :=
  (List.range 12).any fun e => ((s.footing e).posts ++ (s.footing e).contexts).any fun q => q.region = r && !q.cancelled

/-- The sealed image of a region under its tenancy's next counter, in pieces with their addresses (R391, R394, R431). -/
def State.imagePieces (s : State) (r : RegionId) (w : Wave) : List (Nat × List Byte) :=
  let x := s.slot r
  let ten := s.tenancy x.tenancy
  let (header, body) := s.haltImage r w.pinI
  placePieces w.addr (sealImage ten.wrap (ten.counter + 1) x.hash w.addr header body)

/-- The capture's end (R391): the completion word with KIND 0x3 follows the image, and the region stays as the wave stopped it until its bricks are ordered to weep; a fault of a write ends it. -/
def endCapture (r : RegionId) : Except (Fail × Nat) Unit × State → State
  | (.ok _, s) => (s.storeCompletion r).modSlot r fun x => { x with ended := true }
  | (.error (f, va), s) => s.raiseFault r { code := 0x07, detail := f.cause, data := f.payload va }

/-- Capture (R391): image, completion word, and the end of the wave. -/
def State.capture (s : State) (r : RegionId) (w : Wave) : State :=
  let x := s.slot r
  endCapture r ((s.modTenancy x.tenancy fun x => { x with counter := x.counter + 1 }).writeImage (x.imageAccess r) (s.imagePieces r w))

/-- IMAGE_CAPTURE (R365, R389, R391): once every brick has stopped, first what is left of the queries is cancelled; once every agent has settled, the image is written. -/
def execImageCapture (r : RegionId) (s : State) : Outcome :=
  let x := s.slot r
  match x.wave with
  | none => .next s
  | some w =>
    let stopped : Bool := x.bricks.all fun b => (s.brick b).wave = .stopped && (s.brick b).firings.isEmpty
    if stopped && !x.ended && s.liveQueries r then .next (s.cancelRegion r)
    else stepWhen (stopped && !x.ended && x.pending.isNone && s.accessesDone r && s.linksEmpty r && s.enginesSettled r) s (s.capture r w)

end Sys2Proof.Machine
end

