-- ==== Sys2Proof/Machine/Faults.lean ====
section
/-! DEFINITION. Stack heat (R237-R239, R383, R408), errors and their windows (R208, R405-R408), scale-out receivers (R442), the fabric clock (R444), and writes of the management window (R8, R82, R89, R224, R272, R406). -/

namespace Sys2Proof.Machine

open Sys2Proof

/-! Stacks -/

/-- The refreshes of a stack go on from where they stand when its interval changes (R237): a channel that has waited longer than the new interval starts a refresh at once. DEDUCED (log 1). -/
def State.regrid (s : State) (stack : Nat) (doubled : Bool) : Nat × List Nat :=
  let i := (if doubled then 1950 else 3900) * unitsPerNs
  (s.time, (List.range 64).map fun pc => let e := s.refreshElapsed stack pc; if e < i then e else 0)

/-- STACK_SENSOR_READING (R237, R238): doubled refresh above 85 °C until 83 °C, throttling from 95 °C until 92 °C, a trip at 105 °C. -/
def execStackSensorReading (stack temp : Nat) (s : State) : Outcome :=
  let doubled := if 85 < temp then true else if temp ≤ 83 then false else (s.stack stack).doubled
  stepWhen (stack < 12) s (s.modStack stack fun x => { x with
    temp
    hot := if x.hot.isNone && 105 ≤ temp then some temp else x.hot
    doubled
    grid := if doubled = x.doubled then x.grid else s.regrid stack doubled
    throttled := if 95 ≤ temp then true else if temp ≤ 92 then false else x.throttled })

/-- Regions that place a brick on a die. -/
def State.regionsOn (s : State) (die : Nat) : List RegionId :=
  allSlots.filter fun r => (s.slot r).active && (s.slot r).bricks.any fun b => BrickId.die b = die

/-- THERMTRIP (R402, R408): the stack stops serving, and every region of its die, whose bays all use the die's three stacks (R231), faults DEVICE. -/
def execThermtrip (stack : Nat) (s : State) : Outcome :=
  let x := s.stack stack
  let s1 := (s.modStack stack fun x => { x with tripped := true }).writeRecord { code := 0x42, die := stack / 3, detail := stack, data := x.hot.getD 0 }
  stepWhen (stack < 12 && x.hot.isSome && !x.tripped) s
    ((s.regionsOn (stack / 3)).foldl (fun s r => s.raiseFault r { code := 0x05, detail := 0x42 }) s1)

/-- The hottest reading of a die above 85 °C. -/
def State.hottest (s : State) (die : Nat) : Nat :=
  ((List.range 3).map fun j => (s.stack (3 * die + j)).temp).foldl (fun n t => if 85 < t then max n t else n) 0

/-- TALW_UPDATE (R239): `rise` is the hottest stack's rise over the last 1 ms, in 1/1,000 °C, so (95 − T) / s is (95 − T)·10^6 / rise µs. -/
def State.talwValue (s : State) (die rise : Nat) : Nat :=
  let st (j : Nat) : Stack := s.stack (3 * die + j)
  let throt : Bool := (List.range 3).any fun j => (st j).throttled
  let t := s.hottest die
  let allow := if throt then 0 else if t = 0 || rise = 0 then 0xFFFF else min 0xFFFE ((95 - t) * 1000000 / rise)
  allow * 2 ^ 32 + b2n throt * 2 ^ 31 + ((List.range 3).foldl (fun n j => n + b2n (st j).doubled * 2 ^ (24 + j) + (st j).temp % 256 * 2 ^ (8 * j)) 0)
/-- The hottest stack of a die, which ALLOW speaks of (R239). -/
def State.hottestStack (s : State) (die : Nat) : Nat :=
  (List.range 3).foldl (fun k j => if (s.stack (3 * die + k % 3)).temp < (s.stack (3 * die + j)).temp then j else k) 0 + 3 * die

/-- Under notify a region that places bricks on a die sees its ALLOW cross TTH at a TALW update, and the notice that names the hottest stack is to be sent (R383, log 19). -/
def State.noteCrossing (s : State) (die : Nat) (r : RegionId) : State :=
  let x := s.slot r
  let d := s.die die
  let low : Bool := d.allow < x.tth
  if x.st = .run && x.therm = 1 && x.bricks.any (fun b => BrickId.die b = die) && low ≠ x.hot.contains die then
    s.modSlot r fun x =>
      { x with
        hot := if low then die :: x.hot else x.hot.filter (· ≠ die)
        notices := x.notices ++ [(s.now, ctrlToken 0xE (s.hottestStack die * 2 ^ 56 + d.allow * 2 ^ 32 + b2n d.throt * 2 ^ 31))] }
  else s

def execTalwUpdate (die rise : Nat) (s : State) : Outcome :=
  let t := s.modDie die fun d => { d with talw := BitVec.ofNat 64 (s.talwValue die rise) }
  stepWhen (die < 4) s (allSlots.foldl (fun u r => u.noteCrossing die r) t)

/-- TNB.inTNCH of a record (R382). -/
def Slot.noticeDest (x : Slot) : Dest := .input (BitVec.ofNat 14 (x.word 7 % 2 ^ 14)) (bits (x.word 7) 15 14)

/-- THERMAL_NOTICE (R383): the oldest notice of the region, where it names the stack, leaves as a channel token. -/
def noticePort : Nat := 120
def execThermalNotice (r : RegionId) (stack : Nat) (s : State) : Outcome :=
  let x := s.slot r
  match x.notices with
  | [] => .next s
  | (_, t) :: rest =>
    stepWhen (bits t.pay.toNat 59 56 = stack && s.owns r x.noticeDest.place && s.accepts x.noticeDest t) s
      ((s.modSlot r fun x => { x with notices := rest }).launch x.noticeDest.place noticePort x.noticeDest t)

/-- RSTALL_READ (R237): what an ordinary read returns, and the count is zero after it. -/
def State.rstall (s : State) (stack : Nat) : Word := BitVec.ofNat 64 (s.stack stack).stall
def execRstallRead (stack : Nat) (s : State) : Outcome := .next (s.modStack stack fun x => { x with stall := 0 })

/-! Errors (R405-R408) -/

/-- A region has a frame, a collective or a leaving yealm routed over a unit (R408). -/
def State.routedOver (s : State) (r : RegionId) (u : UnitRef) : Bool :=
  let x := s.slot r
  match u with
  | .lane n =>
    bit (s.tenancy x.tenancy).lane.toNat n &&
      (s.frames.any (fun f => (s.owns r f.src || s.owns r f.target) && !f.parked && ((s.ringWay x.tenancy (BrickId.die f.src) (BrickId.die f.target)).getD []).contains (n / 8)) ||
        (List.range 4).any fun d => (s.gateway d).contribs.any (fun c => s.owns r c.brick) &&
          ((boundaryDies (n / 8)).1 = d || (boundaryDies (n / 8)).2 = d) && x.dies.length ≠ 1)
  | .port p =>
    bit (s.tenancy x.tenancy).port.toNat p && x.bricks.any fun b => (s.brick b).docks.any fun d => match d.st, d.stop with
      | .leaving _, .entry w _ | .sending _, .entry w _ => bits w.toNat 19 14 ≠ Config.podPosition
      | _, _ => false
  | .bank _ | .loft _ | .hbm _ _ => false

/-- A lost port or lane (R402, R408). -/
def State.linkDown (s : State) (u : UnitRef) : State :=
  let regions := allSlots.filter fun r => (s.slot r).active && s.routedOver r u
  let s := (s.setUnit u { s.unit u with down := true }).writeRecord { code := 0x41, die := UnitRef.die u, detail := UnitRef.number u }
  regions.foldl (fun s r => s.raiseFault r { code := 0x05, detail := 0x41 }) s

/-- LINKDOWN (R408). -/
def execLinkdown (u : UnitRef) (s : State) : Outcome := stepWhen (UnitRef.isLink u && !(s.unit u).down) s (s.linkDown u)

/-- An event of weight w on a unit (R405, R406), with the second mark of a link (R407). -/
def State.weigh (s : State) (u : UnitRef) (w addr : Nat) : State :=
  let x := s.unit u
  let t := s.countError u w addr
  if UnitRef.isLink u && x.marks = 1 && !x.down && (t.unit u).marks = 2 then t.linkDown u else t

/-- Change a brick that is in service; the bank of one that is not is powered off (R18). -/
def State.modPowered (s : State) (b : BrickId) (f : Brick → Brick) : State := if s.inService b then s.modBrick b f else s

/-- An uncorrectable word as it stands from now on. -/
def State.markWord (s : State) (u : UnitRef) (addr : Nat) : State :=
  match u with
  | .bank b => s.modPowered b fun x => if x.wordUe (addr / 8) then x else { x with bankUe := x.bankUe ++ [addr / 8] }
  | .loft _ => s.setLine (addr / 64) { s.line (addr / 64) with ue := (s.line (addr / 64)).ue ||| BitVec.ofNat 8 (2 ^ (addr % 64 / 8)) }
  | .hbm _ _ => if s.hbmUe.contains (addr / 8) then s else { s with hbmUe := s.hbmUe ++ [addr / 8] }
  | .lane _ | .port _ => s

/-- ERROR_EVENT (R405): totals, the word that can no longer be corrected, and the window. -/
def execErrorEvent (u : UnitRef) (kind : ErrorKind) (addr : Nat) (s : State) : Outcome :=
  let x := s.unit u
  match kind with
  | .corrected =>
    let s := match u with
      | .bank b => s.modPowered b fun x => { x with corrected := x.corrected + 1 }
      | _ => s
    .next ((s.setUnit u { x with corrected := x.corrected + 1 }).weigh u 1 addr)
  | .retry => .next ((s.setUnit u { x with corrected := x.corrected + 1 }).weigh u 1 addr)
  | .uncorrectable => .next (((s.setUnit u { x with uncorrectable := x.uncorrectable + 1 }).markWord u addr).weigh u s.errwin.2.1 addr)

/-- PATROL_SCRUB (R208): one word every 2,048 cycles; an uncorrectable one is reported to the window and left as it is. -/
def execPatrolScrub (b : BrickId) (s : State) : Outcome :=
  let x := s.brick b
  let i := x.scrub % 8192
  let s1 := s.modBrick b fun x => { x with scrub := x.scrub + 1 }
  stepWhen (x.life ≠ .out && x.scrub < s.now / 2048) s
    (if x.wordUe i then s1.meetBad (.bank b) (8 * i) else s1)

/-! Writes of the management window -/

/-- BSR_CTL_PICK_SET (R82, R89). -/
def execBsrCtlPickSet (b : BrickId) (s : State) : Outcome := .next (s.modBrick b Brick.resumePick)
/-- BSR_CTL_PICK_CLEAR (R82). -/
def execBsrCtlPickClear (b : BrickId) (s : State) : Outcome := .next (s.modBrick b fun x => x.haltPick.wake)
/-- BSR_CTL_STEP (R82). -/
def execBsrCtlStep (b : BrickId) (on : Bool) (s : State) : Outcome := .next (s.modBrick b fun x => (x.setStep on).wake)
/-- BSR_CTL_PASS (R82): the next BKPT completes as NOP; a write that clears PASS again is a REGISTER_WRITE. -/
def execBsrCtlPass (b : BrickId) (s : State) : Outcome := .next (s.modBrick b fun x => (x.setPass true).wake)

/-- TSCFG_WRITE (R272): ignored whole where LEASE or DLWIN is out of range. -/
def execTscfgWrite (t : Nat) (value : Word) (s : State) : Outcome :=
  let lease := bits value.toNat 10 0
  let dlwin := bits value.toNat 31 16
  stepWhen (t ≤ 62 && 1 ≤ lease && lease ≤ 1024 && 256 ≤ dlwin) s (s.modTenancy t fun x => { x with lease, dlwin })

/-- ERRWIN_WRITE (R406): ignored whole where a field is 0. -/
def execErrwinWrite (value : Word) (s : State) : Outcome :=
  let v := value.toNat
  stepWhen (bits v 39 24 ≠ 0 && bits v 15 8 ≠ 0 && bits v 7 0 ≠ 0) s { s with errwin := (bits v 39 24, bits v 15 8, bits v 7 0) }

/-- REGISTER_WRITE (R8): by foreman firmware or the physical function, to which every register here belongs; a TDI's view holds none that it may write, so a write through one changes nothing (R224, R272, R410, R434). Reserved bits stay zero, PTROOT.EN is accepted only while the tenancy is live (R414), and a bind word only in a FREE slot (R370). -/
def execRegisterWrite (r : RegName) (value : Word) (s : State) : Outcome :=
  match r with
  | .ptroot t =>
    let live := (s.tenancy t).cfg.getLsbD 63
    stepWhen (t ≤ 62) s (s.modTenancy t fun x => { x with root := value &&& (if live then 0x0000_FFFF_FFFF_C001 else 0x0000_FFFF_FFFF_C000) })
  | .swaddr die => .next (s.modDie die fun d => { d with swaddr := value &&& 0x003F_FFFF_FFFF_F000 })
  | .flogTail die => .next (s.modDie die fun d => { d with tail := value.toNat % 256 })
  | .cqcons => .next { s with host := { s.host with cons := value.toNat % 256 } }
  | .mailbox slot i =>
    stepWhen (slot < 16 && i < 32) s
      { s with host := { s.host with mailbox := s.host.mailbox.set slot (modifyAt (fun _ => value) i (s.host.mailbox.getD slot (List.replicate 32 0))) } }
  | .kickReg =>
    .next { s with host := if s.host.kicks.length < 16 then { s.host with kicks := s.host.kicks ++ [value &&& 0xFFFF_FFFF] }
                           else { s.host with dropped := min (s.host.dropped + 1) (2 ^ 32 - 1) } }
  | .bind r i =>
    stepWhen (r.exists && (s.slot r).st = .free && 1 ≤ i) s (s.modSlot r fun x => { x with words := modifyAt (fun _ => value) i x.words })
  | .node n w => stepWhen (n < 4096) s { s with nodes := s.nodes.set n (modifyAt (fun _ => value) w (s.node n)) }
  | .tableEntry pa => .next ((s.settleLine 0 (pa / 64)).writeLine (pa / 8 * 8) (leBytes 8 value.toNat) false)
  | .invcmd die => .next (s.writeInvcmd die value)
  | .pass b => .next (s.modBrick b fun x => (x.setPass (value.getLsbD 3)).wake)
  | .tdi _ _ => .next s

/-! Scale-out receivers (R442) -/

/-- A link retry of a port (R405, R442). -/
def State.linkRetry (s : State) (p : Nat) : State :=
  (s.setUnit (.port p) { s.unit (.port p) with corrected := (s.unit (.port p)).corrected + 1 }).weigh (.port p) 1 0

/-- What a flit carries, once it is taken: credit, or a payload of at most 240 B; a type that is not sent is dropped. -/
def ScalePort.accept (p : ScalePort) (kind ten : Nat) (payload : List Byte) : ScalePort :=
  if kind = flCredit then (p.took ten).granted ten payload
  else if 1 ≤ kind && kind ≤ 3 then (p.took ten).deliver kind ten payload
  else p.took ten

/-- RING_FLIT_RECEIVE (R441, R442): a flit that fails its CRC or is out of sequence draws a replay, which is a link retry; an acknowledgement frees the replay buffer or starts a replay; a tenancy that does not own the port loses the flit; the others are delivered once and in order. A port that no tenancy holds carries checkpoint flits. -/
def execRingFlitReceive (port : Nat) (flit : List Byte) (s : State) : Outcome :=
  let p := s.port port
  let h := wordAt flit 0
  let kind := bits h 3 0
  let ten := bits h 9 4
  let seq := bits h 21 10
  let payload := (flit.drop 8).take (min 240 (bits h 29 22))
  let whole : Bool := flit.length = 256 && crc32 (flit.take 248) = fieldAt flit 248 4
  let owned : Bool := bit (s.tenancy ten).port.toNat port || (s.ownersPort port && (kind = flCkpt || kind = flCredit || kind = flAck))
  let lost (s : State) : State := s.modTenancy ten fun x => { x with drops := min (x.drops + 1) (2 ^ 32 - 1) }
  stepWhen (port < 36 && !(s.unit (.port port)).down) s
    (if !whole || (kind ≠ flAck && seq ≠ p.expect) then (s.modPort port fun p => p.sendAck ten).linkRetry port
    else if kind = flAck then
      if !owned then lost s
      else (fun (q : ScalePort × Bool) => let t := s.modPort port fun _ => q.1; if q.2 then t.linkRetry port else t) (p.acknowledged seq)
    else if !owned then lost (s.modPort port fun p => p.took ten)
    else s.modPort port fun p => p.accept kind ten payload)

/-! The fabric clock (R444) -/

def State.setClock (s : State) (f : Nat) : State := { s with clockTime := s.time, clockAt := s.now, fclk := f }

/-- POWER_LIMIT_STEP_DOWN (R444). -/
def execPowerLimitStepDown (watts : Nat) (s : State) : Outcome := stepWhen (3600 ≤ watts && 1 < s.fclk) s (s.setClock (s.fclk - 1))
/-- POWER_STEP_UP (R444). -/
def execPowerStepUp (watts : Nat) (s : State) : Outcome := stepWhen (watts < 3400 && s.fclk < 27) s (s.setClock (s.fclk + 1))

/-! Boot (R14-R20) -/

def State.bpmOf (mapOut : List Nat) : List Word :=
  (List.range 256).map fun i => mapOut.foldl (fun (w : Word) b => if b / 64 = i then w &&& ~~~(BitVec.ofNat 64 (2 ^ (b % 64))) else w) 0xFFFF_FFFF_FFFF_FFFF

/-- CAPB (R15). -/
def capbOf (mapOut : List Nat) (gen : Nat) : Word :=
  let out := (mapOut.filter (· < 16384)).eraseDups
  let edges := (out.filter fun b => BrickId.isEdge (BitVec.ofNat 14 b)).length
  let full := ((List.range 32).filter fun bay => out.all fun b => BrickId.bay (BitVec.ofNat 14 b) ≠ bay).length
  BitVec.ofNat 64 ((16384 - out.length) * 2 ^ 49 + (512 - edges) * 2 ^ 39 + min 511 out.length * 2 ^ 30 + full * 2 ^ 24 + gen % 256 * 2 ^ 16)

/-- The repair of lanes at boot (R443): a lane that went down takes one of its 2 spare lanes, and stays down once both are spent; every other unit starts afresh. -/
def repaired (units : List (UnitRef × ErrUnit)) : List (UnitRef × ErrUnit) :=
  units.filterMap fun e => match e.1 with
    | .lane _ => some (e.1, if e.2.down then (if e.2.spares < 2 then { spares := e.2.spares + 1 } else { down := true, spares := e.2.spares }) else { spares := e.2.spares })
    | _ => none

/-- BOOT (R9, R15, R17, R405, R407, R443): the map-out list takes bricks out of service, MAPGEN counts a changed list, ways are disabled, lanes are repaired, and all else starts as at reset; what the stacks and the host's memory hold stays. DESIGN CHOICE (log 2): the lists are compared as they stand, so one that holds the same bricks in another order is a changed list. -/
def execBoot (s : State) : Outcome :=
  let k := s.keystone
  let gen := if k.mapOut = k.previous then k.mapGen else (k.mapGen + 1) % 256
  .next { State.reset with
    agenda := s.agenda, epoch := s.epoch, focus := s.focus, free := s.free
    capb := capbOf k.mapOut gen
    bpm := State.bpmOf k.mapOut
    hbm := s.hbm, hbmUe := s.hbmUe
    units := repaired s.units
    host := { memory := s.host.memory, safeTier := s.host.safeTier }
    keystone := { mapOut := k.mapOut, previous := k.mapOut, mapGen := gen, retired := k.retired
                  disabledWays := k.disabledWays ++ k.nextWays, draws := k.draws } }

/-- MAPOUT_REMOVE (R20): the brick returns at the next boot. -/
def execMapoutRemove (b : BrickId) (s : State) : Outcome :=
  .next { s with keystone := { s.keystone with mapOut := s.keystone.mapOut.filter (· ≠ b.toNat) } }

end Sys2Proof.Machine
end

