-- ==== Sys2Proof/Machine/P256.lean ====
section
/-! DEFINITION. ECDSA on NIST P-256 with SHA-256 digests (R421, R422, R399), as FIPS 186-5 gives it. -/

namespace Sys2Proof.Machine

open Sys2Proof

def p256P : Nat := 0xFFFFFFFF00000001000000000000000000000000FFFFFFFFFFFFFFFFFFFFFFFF
def p256N : Nat := 0xFFFFFFFF00000000FFFFFFFFFFFFFFFFBCE6FAADA7179E84F3B9CAC2FC632551
def p256B : Nat := 0x5AC635D8AA3A93E7B3EBBD55769886BC651D06B0CC53B0F63BCE3C3E27D2604B
def p256G : Nat × Nat :=
  (0x6B17D1F2E12C4247F8BCE6E563A440F277037D812DEB33A0F4A13945D898C296, 0x4FE342E2FE1A7F9B8EE7EB4A7C0F9E162BCE33576B315ECECBB6406837BF51F5)

/-- b^e modulo m, over k bits of e. -/
def powMod (m b : Nat) : Nat → Nat → Nat
  | 0, _ => 1 % m
  | k + 1, e => let h := powMod m (b * b % m) k (e / 2); if e % 2 = 1 then b * h % m else h
def invMod (m a : Nat) : Nat := powMod m (a % m) 256 (m - 2)

/-- A point of the curve; `none` is the point at infinity. -/
abbrev Point := Option (Nat × Nat)

def addPoint (a b : Point) : Point :=
  match a, b with
  | none, q => q
  | p, none => p
  | some (x1, y1), some (x2, y2) =>
    let p := p256P
    if x1 = x2 && (y1 + y2) % p = 0 then none
    else
      let l := if x1 = x2 then (3 * x1 * x1 + (p - 3)) * invMod p (2 * y1) % p else (y2 + p - y1) * invMod p (x2 + p - x1) % p
      let x := (l * l + (p - x1) + (p - x2)) % p
      some (x, (l * (x1 + p - x) + (p - y1)) % p)

/-- k·P over n bits of k. -/
def mulPoint (a : Point) : Nat → Nat → Point
  | 0, _ => none
  | n + 1, k => let h := mulPoint (addPoint a a) n (k / 2); if k % 2 = 1 then addPoint a h else h

/-- A pair of coordinates that lies on the curve. -/
def onCurve (p : Nat × Nat) : Bool :=
  p.1 < p256P && p.2 < p256P && p.2 * p.2 % p256P = (p.1 * p.1 * p.1 + (p256P - 3) * p.1 + p256B) % p256P
def pointBytes (p : Nat × Nat) : List Byte := beBytes 32 p.1 ++ beBytes 32 p.2

/-- The signature (r, s) of a digest under a private key, with the per-message secret k. -/
def ecdsaSign (d k e : Nat) : Nat × Nat :=
  let r := match mulPoint (some p256G) 256 (k % p256N) with
    | some (x, _) => x % p256N
    | none => 0
  (r, invMod p256N k * (e + r * d) % p256N)

/-- Verification under a public point. -/
def ecdsaVerify (q : Point) (e : Nat) (sig : Nat × Nat) : Bool :=
  let (r, s) := sig
  let w := invMod p256N s
  0 < r && r < p256N && 0 < s && s < p256N &&
  match addPoint (mulPoint (some p256G) 256 (e * w % p256N)) (mulPoint q 256 (r * w % p256N)) with
  | some (x, _) => x % p256N = r
  | none => false

end Sys2Proof.Machine
end

