-- ==== Sys2Proof/Machine/HostSide.lean ====
section
/-! DEFINITION. The host's side: kicks, commands and completions (R436-R440), the summary (R409), tenancies (R410-R415), key slots and SPDM (R421-R427, R433), checkpoint and restore (R398, R399), TDIs and DMA (R432, R435). -/

namespace Sys2Proof.Machine

open Sys2Proof

/-! Kicks and completions (R437-R439) -/

def stOk : Nat := 0
def stKickStale : Nat := 1
def stKickSeq : Nat := 2
def stBadOpc : Nat := 3
def stBadLen : Nat := 4
def stRefused : Nat := 5
def stBusy : Nat := 6
def stBadSig : Nat := 7

def State.modHost (s : State) (f : HostLink → HostLink) : State := { s with host := f s.host }

/-- The completion ring takes an entry: it is not full and BASE is not 0 (R439). -/
def HostLink.ringOpen (h : HostLink) : Bool := (h.prod + 1) % 256 ≠ h.cons && h.cqbase ≠ 0

/-- An entry to be posted, in order. -/
def HostLink.post (h : HostLink) (seq status : Nat) (data : Nat) : HostLink := { h with posts := h.posts ++ [(seq, status, BitVec.ofNat 64 data)] }

/-- A slot of the mailbox. -/
def HostLink.slotWords (h : HostLink) (n : Nat) : List Word := h.mailbox.getD (n % 16) (List.replicate 32 0)

/-- A kick's header read: the command, where SEQ and CRC agree (R437). -/
def HostLink.readKick (h : HostLink) (k : Word) : Option Command :=
  let seq := k.toNat % 65536
  let ws := h.slotWords seq
  let w0 := (ws.getD 0 0).toNat
  let w1 := ws.getD 1 0
  if w0 % 65536 = seq && crc16 (leBytes 8 w0 ++ leBytes 8 w1.toNat) = bits k.toNat 31 16 then
    some { seq, opc := bits w0 23 16, len := bits w0 31 24, arg := w1, body := (ws.drop 2).take 30 }
  else none

/-- The command is copied and queued, and NEXT advances. -/
def HostLink.takeKick (h : HostLink) (c : Command) : HostLink :=
  { h with commands := h.commands ++ [c], next := (h.next + 1) % 65536, kicks := h.kicks.drop 1, tries := 0 }

/-- KICK (R437): the first look at the oldest kick. -/
def execKick (s : State) : Outcome :=
  let h := s.host
  match h.kicks with
  | [] => .next s
  | k :: rest =>
    let seq := k.toNat % 65536
    let out : HostLink :=
      if seq ≠ h.next then { h with kicks := rest }.post seq stKickSeq 0
      else match h.readKick k with
        | some c => h.takeKick c
        | none => { h with tries := 1, retryAt := s.time + 2000 * unitsPerNs }
    stepWhen (h.tries = 0 && h.ringOpen && h.posts.isEmpty) s { s with host := out }

/-- KICK_REREAD (R437): every 2 µs, which are fixed in time (R9); after the fifth read the kick is stale. It waits with the others while the ring is full (R439). -/
def execKickReread (s : State) : Outcome :=
  let h := s.host
  match h.kicks with
  | [] => .next s
  | k :: rest =>
    let out : HostLink := match h.readKick k with
      | some c => h.takeKick c
      | none =>
        if h.tries < 4 then { h with tries := h.tries + 1, retryAt := s.time + 2000 * unitsPerNs }
        else { h with kicks := rest, tries := 0 }.post (k.toNat % 65536) stKickStale 0
    stepWhen (1 ≤ h.tries && h.retryAt ≤ s.time && h.ringOpen && h.posts.isEmpty) s { s with host := out }

/-- The command that runs now: the oldest, once nothing waits to post (R438, R439). -/
def HostLink.running (h : HostLink) : Option Command := if h.posts.isEmpty && h.ringOpen then h.commands.head? else none

/-- A command ends: its entry waits to be posted. -/
def State.endCommand (s : State) (c : Command) (status data : Nat) : State :=
  s.modHost fun h => { h with commands := h.commands.drop 1 }.post c.seq status data

/-- COMPLETION_POST (R438-R440): the next entry enters host memory; an OPC that names no command is answered BADOPC in its turn. -/
def execCompletionPost (s : State) : Outcome :=
  let h := s.host
  match h.posts with
  | (seq, status, data) :: rest =>
    let a := h.cqbase.toNat / 4096 * 4096 + 16 * h.prod
    let w0 := seq + status * 2 ^ 16 + b2n h.phase * 2 ^ 24
    let prod := (h.prod + 1) % 256
    stepWhen h.ringOpen s
      { s with host := { h with
        posts := rest, prod, phase := if prod = 0 then !h.phase else h.phase
        memory := cellsWrite h.memory a (leBytes 8 w0 ++ leBytes 8 data.toNat) } }
  | [] => match h.running with
    | some c => stepWhen (6 < c.opc) s (s.endCommand c stBadOpc 0)
    | none => .next s

/-- CQBASE_WRITE (R439): accepted only while no command is queued or running; one that waits to post is still running, a KICKSTALE or KICKSEQ entry is no command. -/
def execCqbaseWrite (value : Word) (s : State) : Outcome :=
  stepWhen (s.host.commands.isEmpty && s.host.posts.all fun p => p.2.1 = stKickStale || p.2.1 = stKickSeq) s
    (s.modHost fun h => { h with cqbase := value &&& 0xFFFF_FFFF_FFFF_F000, prod := 0, cons := 0, phase := true })

/-- A host command in its turn: another LEN answers BADLEN (R440). -/
def runCommand (s : State) (opc len : Nat) (f : Command → Outcome) : Outcome :=
  match s.host.running with
  | none => .next s
  | some c =>
    if c.opc ≠ opc then .next s
    else if c.len ≠ len then .next (s.endCommand c stBadLen 0)
    else f c

/-- HOST_NOP (R440). -/
def execHostNop (s : State) : Outcome := runCommand s 0 0 fun c => .next (s.endCommand c stOk 0)

/-! SUMMARY (R409): which words of an entry hold which of its contents is the model's choice (log 21). -/

def Die.flogctl (d : Die) : Word := BitVec.ofNat 64 (d.ovf * 2 ^ 32 + d.head * 2 ^ 16 + d.tail)
def Tenancy.tscfg (t : Tenancy) : Word := BitVec.ofNat 64 (t.rebase % 65536 * 2 ^ 32 + t.dlwin * 2 ^ 16 + t.lease)
def SlotState.runs (x : SlotState) : Bool := x = .run || x = .drain

def State.summaryNodes (s : State) : List (List Byte) := (s.nodes.filter fun e => s.nodeLive e.1).map fun e => words8 (e.2.map (·.toNat))
def State.summarySlots (s : State) : List (List Byte) := allSlots.map fun r => words8 [(s.bstat r).toNat, (s.slot r).word 0]
def State.summaryRegions (s : State) : List (List Byte) :=
  (allSlots.filter fun r => SlotState.runs (s.slot r).st).map fun r =>
    padTo 32 (words8 [r.die + r.slot * 2 ^ 8 + min 255 (s.unreported r).length * 2 ^ 16 + (s.slot r).faultSeq * 2 ^ 32, s.leastRound r])
def State.summaryCommands (s : State) : List (List Byte) :=
  s.host.commands.zipIdx.map fun (c, i) => words8 [c.seq + c.opc * 2 ^ 16 + (if i = 0 then 1 else 0) * 2 ^ 24, 0]
/-- The units of R405, in the order in which the rule names their kinds. -/
def allUnits : List UnitRef :=
  ((List.range 16384).map fun b => .bank (BitVec.ofNat 14 b)) ++ (List.range 32).map .loft ++
  (List.range 768).map (fun n => .hbm (n / 64) (n % 64)) ++ (List.range 32).map .lane ++ (List.range 36).map .port
def State.summaryUnits (s : State) : List (List Byte) :=
  allUnits.map fun u => let x := s.unit u; words8 [x.corrected, x.uncorrectable, x.misses, x.count + b2n x.lasting * 2 ^ 63]
def State.summaryTenancies (s : State) : List (List Byte) :=
  (List.range 63).map fun n => let t := s.tenancy n; words8 [bits t.cfg.toNat 31 0, bits t.cfg.toNat 43 32, t.port.toNat, t.tscfg.toNat]
def State.summaryKeys (s : State) : List (List Byte) :=
  (List.range 256).map fun k => let q := s.keySlot k; words8 [q.st + q.tenancy * 2 ^ 4 + q.node * 2 ^ 20]
def State.summaryLogs (s : State) : List (List Byte) := (List.range 4).map fun d => words8 [(s.die d).flogctl.toNat, 0]

/-- The summary: header with the snapshot cycle, the highest completed sequence number and the entry counts, then the sections. -/
def State.summaryBytes (s : State) (done : Nat) : List Byte :=
  let parts := [s.summaryNodes, s.summarySlots, s.summaryRegions, s.summaryCommands, s.summaryUnits, s.summaryTenancies, s.summaryKeys, s.summaryLogs]
  padTo 64 (words8 [s.now, done] ++ parts.flatMap fun p => leBytes 2 p.length) ++ (parts.flatten).flatten

/-- SUMMARY (R409): every section is the state at one snapshot cycle; reading it clears nothing. -/
def execSummary (s : State) : Outcome :=
  runCommand s 1 0 fun c =>
    let l := s.summaryBytes ((c.seq + 65535) % 65536)
    .next ((s.modHost fun h => { h with memory := cellsWrite h.memory c.arg.toNat l }).endCommand c stOk l.length)

/-! Tenancies (R410-R415) -/

/-- A slot that holds something of a tenancy. -/
def Slot.busy (x : Slot) : Bool := match x.st with
  | .free | .done | .reject | .fault => false
  | _ => true
def State.slotsBusy (s : State) (t : Nat) : Bool := allSlots.any fun r => (s.slot r).tenancy = t && (s.slot r).busy

/-- A bay in use (R413). -/
def State.bayInUse (s : State) (t bay : Nat) : Bool :=
  (allSlots.any fun r => (s.slot r).tenancy = t && (s.slot r).busy && (s.slot r).bricks.any fun b => BrickId.bay b = bay) ||
  s.bricks.any fun e => e.2.life = .held && BrickId.bay (BitVec.ofNat 14 e.1) = bay

/-- A TENSET is refused (R413). -/
def State.tensetRefused (s : State) (t : Nat) (cfg lane port : Nat) : Bool :=
  let old := s.tenancy t
  let leaves (a b k : Nat) : Bool := bit a k && !bit b k
  62 < t || !bit cfg 63 ||
  s.tenancies.any (fun e => e.1 ≠ t && e.2.cfg.getLsbD 63 &&
    (e.2.cfg.toNat % 2 ^ 44 &&& cfg ≠ 0 || e.2.lane.toNat &&& lane ≠ 0 || e.2.port.toNat &&& port ≠ 0)) ||
  (List.range 32).any (fun k => bit lane k &&
    !bit cfg (8 * (boundaryDies (k / 8)).1 + k % 8) && !bit cfg (8 * (boundaryDies (k / 8)).2 + k % 8)) ||
  (List.range 32).any (fun k => leaves old.cfg.toNat cfg k && s.bayInUse t k) ||
  (List.range 12).any (fun e => leaves old.cfg.toNat cfg (32 + e) &&
    ((s.footing e).posts ++ (s.footing e).contexts).any fun q => q.tenancy = t) ||
  (((List.range 32).any (fun k => leaves old.lane.toNat lane k) || (List.range 36).any fun k => leaves old.port.toNat port k) && s.slotsBusy t)

/-- The keys that the keystone draws (R414). -/
def State.drawKey (s : State) : BitVec 256 × State :=
  (Config.drbg s.keystone.draws, { s with keystone := { s.keystone with draws := s.keystone.draws + 1 } })

/-- Link keys follow FENG: a new engine takes a fresh one, and one that leaves loses its own (R414, R430). -/
def State.linkKeys (s : State) (t cfg : Nat) : State :=
  (List.range 12).foldl (fun s e =>
    let has := (s.tenancy t).links.any fun l => l.1 = e
    if bit cfg (32 + e) && !has then
      let (k, s) := s.drawKey
      s.modTenancy t fun x => { x with links := x.links ++ [(e, k)] }
    else if !bit cfg (32 + e) then s.modTenancy t fun x => { x with links := x.links.filter fun l => l.1 ≠ e }
    else s) s

/-- The registers of R411 and R412 as bytes. -/
def regBytes (cfg lane port : Nat) : List Byte := words8 [cfg, lane, port]

/-- A TENSET takes effect (R414, R423). -/
def State.setTenancy (s : State) (t cfg lane port : Nat) : State :=
  let live := (s.tenancy t).cfg.getLsbD 63
  let s := s.modTenancy t fun x => { x with cfg := BitVec.ofNat 64 cfg, lane := BitVec.ofNat 64 lane, port := BitVec.ofNat 64 port }
  if live then (s.linkKeys t cfg).extendLog t (regBytes cfg lane port)
  else
    let (a, s) := s.drawKey
    let (b, s) := s.drawKey
    let (w, s) := s.drawKey
    (s.modTenancy t fun x => { x with
      xts := BitVec.ofNat 512 (a.toNat * 2 ^ 256 + b.toNat), wrap := w, links := [], log := sha256 (regBytes cfg lane port) }).linkKeys t cfg

/-- TENSET (R413, R414, R440). -/
def execTenset (s : State) : Outcome :=
  runCommand s 3 3 fun c =>
    let t := c.arg.toNat
    let cfg := (c.body.getD 0 0).toNat % 2 ^ 64 &&& 0x80000FFFFFFFFFFF
    let lane := (c.body.getD 1 0).toNat % 2 ^ 32
    let port := (c.body.getD 2 0).toNat % 2 ^ 36
    if s.tensetRefused t cfg lane port then .next (s.endCommand c stRefused 0)
    else .next ((s.setTenancy t cfg lane port).endCommand c stOk 0)

/-- A key slot is emptied: its key is erased, held chunks go, and its charges return (R424, R433). -/
def State.emptySlot (s : State) (k : Nat) : State :=
  let s := s.modKeySlot k fun _ => {}
  let s := { s with bricks := s.bricks.map fun (e : Nat × Brick) =>
    (e.1, { e.2 with edge := { e.2.edge with chunks := e.2.edge.chunks.filter fun c => c.slot ≠ k } }) }
  allSlots.foldl (fun s r =>
    if (s.slot r).keys.contains k then ((s.refund (s.slot r).node 5 1).modSlot r fun x => { x with keys := x.keys.filter (· ≠ k) }) else s) s

/-- TENCLR takes a tenancy down (R415). -/
def State.clearTenancy (s : State) (t : Nat) : State :=
  let cfg := (s.tenancy t).cfg.toNat
  let s := { s with
    loft := s.loft.filter fun e => !bit cfg (bayOf (64 * e.1))
    fills := s.fills.filter fun f => !bit cfg (bayOf (32 * f.sector))
    bricks := s.bricks.map fun (e : Nat × Brick) =>
      if bit cfg (BrickId.bay (BitVec.ofNat 14 e.1)) && s.inService (BitVec.ofNat 14 e.1) then (e.1, { e.2 with bank := [], bankUe := [] }) else e }
  let s := (List.range 12).foldl (fun s e => if bit cfg (32 + e) then s.modFooting e fun _ => {} else s) s
  let s := (List.range 256).foldl (fun s k => if (s.keySlot k).st ≠ 0 && (s.keySlot k).tenancy = t then s.emptySlot k else s) s
  s.modTenancy t fun x => { x with root := 0, cfg := 0, lane := 0, port := 0, xts := 0, wrap := 0, links := [] }

/-- TENCLR (R415, R440). -/
def execTenclr (s : State) : Outcome :=
  runCommand s 4 0 fun c =>
    let t := c.arg.toNat
    let held := s.bricks.any fun e => e.2.life = .held && bit (s.tenancy t).cfg.toNat (BrickId.bay (BitVec.ofNat 14 e.1))
    if 62 < t || s.slotsBusy t || held then .next (s.endCommand c stRefused 0)
    else .next ((s.clearTenancy t).endCommand c stOk 0)

/-! Key slots (R424-R427, R433) -/

/-- A 54-bit virtual address aligned to 8 KiB. DESIGN CHOICE (log 22): the other bits of a KEYMAP word are dropped. -/
def keyAddress (w : Word) : Nat := w.toNat % 2 ^ 54 / 8192 * 8192

/-- KEYMAP (R427, R440): only a loaded slot. -/
def execKeymap (s : State) : Outcome :=
  runCommand s 5 2 fun c =>
    let k := c.arg.toNat
    if 255 < k || (s.keySlot k).st ≠ 1 then .next (s.endCommand c stRefused 0)
    else .next ((s.modKeySlot k fun x => { x with wbase := keyAddress (c.body.getD 0 0), tva := keyAddress (c.body.getD 1 0) }).endCommand c stOk 0)

/-- The keystone answers in clear. -/
def State.spdmAnswer (s : State) (l : List Byte) : State := { s with keystone := { s.keystone with reply := l } }

def State.session (s : State) (k : Nat) : Option Session := s.keystone.sessions.find? fun e => e.id = k
def State.modSession (s : State) (k : Nat) (f : Session → Session) : State :=
  { s with keystone := { s.keystone with sessions := s.keystone.sessions.map fun e => if e.id = k then f e else e } }

/-- The keystone answers inside a session: the content and its tag under AES-256-GCM with the session's key and the number of the answer (R421). -/
def State.sessionAnswer (s : State) (k : Nat) (l : List Byte) : State :=
  match s.session k with
  | none => s
  | some e =>
    let nonce := beBytes 12 e.sent
    let cipher := gcmCrypt e.key nonce l
    (s.modSession k fun e => { e with sent := e.sent + 1 }).spdmAnswer (cipher ++ gcmTag e.key nonce [] cipher)

/-- Answers that refuse: INVALID_REQUEST and NOSLOT (R424). -/
def invalidRequest : List Byte := [0x7F, 0x01]
def noSlot : List Byte := [0x7F, 0x02]

/-- KSTAT (R425). -/
def KeySlot.kstat (q : KeySlot) : Word :=
  BitVec.ofNat 64 (q.hash.toNat % 2 ^ 32 * 2 ^ 32 + q.node % 4096 * 2 ^ 20 + min q.nreg 255 * 2 ^ 12 + q.tenancy % 64 * 16 + q.st % 4)

/-- KEYLOAD (R424): the lowest empty slot, inside a session. -/
def execKeyload (session t hash key : Nat) (s : State) : Outcome :=
  match s.session session with
  | none => .next s
  | some e =>
    if !(s.tenancy t).cfg.getLsbD 63 then .next (s.sessionAnswer session invalidRequest)
    else match (List.range 256).find? fun k => (s.keySlot k).st = 0 with
      | none => .next (s.sessionAnswer session noSlot)
      | some k =>
        .next ((s.modKeySlot k fun _ =>
          { hash := BitVec.ofNat 256 hash, key := BitVec.ofNat 256 key, tenancy := t, requester := e.requester, st := 1 }).sessionAnswer session (leBytes 2 k))

/-- KEYDROP (R424, R433): only in a session whose requester key the slot records. -/
def execKeydrop (session slot : Nat) (s : State) : Outcome :=
  match s.session session with
  | none => .next s
  | some e =>
    let q := s.keySlot slot
    if q.st ≠ 0 && e.requester.isSome && q.requester = e.requester then .next ((s.emptySlot slot).sessionAnswer session [])
    else .next (s.sessionAnswer session invalidRequest)

/-! SPDM (R421-R423) -/

/-- The alias key of this boot (R422). -/
def aliasKey : Nat := (Config.deriveKey 0 Config.fusedSecret Config.keystoneFirmware).toNat
def aliasPoint : Point := mulPoint (some p256G) 256 aliasKey

/-- A signature by the alias key, r then s. -/
def State.signed (s : State) (digest : Nat) : List Byte × State :=
  let (k, s) := s.drawKey
  let (r, v) := ecdsaSign aliasKey k.toNat digest
  (beBytes 32 r ++ beBytes 32 v, s)

/-- The alias certificate: its content for the alias key's point, and its signature by the identity key (R422). -/
def aliasCertificate : List Byte :=
  let body := match aliasPoint with
    | some (x, y) => Config.aliasCertificate x y
    | none => []
  let (r, v) := ecdsaSign Config.identityKey Config.aliasNonce (sha256 body).toNat
  body ++ beBytes 32 r ++ beBytes 32 v
/-- The chain of slot 0: the device identity certificate and the alias certificate (R422). -/
def certificateChain : List Byte := Config.identityCertificate ++ aliasCertificate

/-- SPDM_GET_CERTIFICATE (R422): the chain of slot 0. -/
def execSpdmGetCertificate (s : State) : Outcome := .next (s.spdmAnswer certificateChain)

/-- SPDM_CHALLENGE (R422). -/
def execSpdmChallenge (nonce : Nat) (s : State) : Outcome :=
  let (sig, s') := s.signed (Config.transcript 0 nonce certificateChain).toNat
  .next (s'.spdmAnswer sig)

/-- The measurement of an index (R423). -/
def State.measurement (s : State) (index : Nat) : Option (BitVec 256) :=
  match index with
  | 0x01 => some Config.keystoneFirmware
  | 0x02 => some Config.foremanFirmware
  | 0x03 => some Config.footingFirmware
  | 0x04 => some (sha256 (words8 (s.capb.toNat :: s.bpm.map (·.toNat))))
  | i => if 0x10 ≤ i && i ≤ 0x10 + 62 && (s.tenancy (i - 0x10)).cfg.getLsbD 63 then some (s.tenancy (i - 0x10)).log else none

/-- SPDM_GET_MEASUREMENTS (R422, R423): the measurement and its signature. -/
def execSpdmGetMeasurements (index nonce : Nat) (s : State) : Outcome :=
  match s.measurement index with
  | none => .next (s.spdmAnswer invalidRequest)
  | some m =>
    let v := beBytes 32 m.toNat
    let (sig, s') := s.signed (Config.transcript 1 nonce v).toNat
    .next (s'.spdmAnswer (v ++ sig))

/-- The lowest session number that is free, of the 8 (R421). -/
def State.freeSession (s : State) : Option Nat := (List.range 8).find? fun k => (s.session k).isNone

/-- A key exchange (R421): ECDHE on the requester's point with a fresh scalar. A requester that authenticates itself signs both ephemeral points with its own key, whose hash the session records; a signature that fails opens no session. -/
def State.openSession (s : State) (k : Nat) (p : Nat × Nat) (auth : Option ((Nat × Nat) × (Nat × Nat))) : State :=
  let (d, s) := s.drawKey
  let mine := (mulPoint (some p256G) 256 (d.toNat % p256N)).getD (0, 0)
  let secret := ((mulPoint (some p) 256 (d.toNat % p256N)).getD (0, 0)).1
  let points := pointBytes p ++ pointBytes mine
  let signed : Bool := match auth with
    | some (q, sig) => onCurve q && ecdsaVerify (some q) (Config.transcript 2 k points).toNat sig
    | none => true
  if !signed then s.spdmAnswer invalidRequest
  else
    let e : Session := { id := k, requester := auth.map fun a => (sha256 (pointBytes a.1)).toNat, key := Config.sessionKey secret points }
    { s with keystone := { s.keystone with sessions := s.keystone.sessions ++ [e] } }.spdmAnswer (leBytes 1 k ++ pointBytes mine)

/-- SPDM_KEY_EXCHANGE (R421): the requests that open, keep and end a secured session; a ninth session is rejected. A chunked request stands whole in its operand (log 22). -/
def execSpdmKeyExchange (request : SessionRequest) (s : State) : Outcome :=
  match request with
  | .exchange x y auth =>
    match s.freeSession with
    | some k => .next (if onCurve (x, y) then s.openSession k (x, y) auth else s.spdmAnswer invalidRequest)
    | none => .next (s.spdmAnswer invalidRequest)
  | .update k => .next (if (s.session k).isSome then (s.sessionAnswer k []).modSession k fun e => { e with key := Config.updatedKey e.key, sent := 0 } else s)
  | .heartbeat k => .next (s.sessionAnswer k [])
  | .leave k =>
    let t := s.sessionAnswer k []
    .next { t with keystone := { t.keystone with sessions := t.keystone.sessions.filter fun e => e.id ≠ k } }

/-! Checkpoint (R398, R399) -/

/-- The physical address of a byte of a stack, its 256 B blocks in ascending order (log 21). -/
def stackPa (stack o : Nat) : Nat :=
  let per := bayBytes / 3
  let n := o % per / 256
  (8 * (stack / 3) + o / per) * bayBytes + (n / 8 * 24 + 3 * (n % 8) + stack % 3) * 256 + o % 256
def stackBytes : Nat := 8 * (bayBytes / 3)

/-- The management SRAM of a die: the node table on die 0 (R366), the fault log (R400), its controls, and the bound granules of HELD bricks with their nodes (log 21). -/
def State.sram (s : State) (d : Nat) : List Byte :=
  padTo 0x40000 (if d = 0 then (List.range 4096).flatMap fun n => words8 ((s.node n).map (·.toNat)) else []) ++
  padTo 0x2000 ((List.range 256).flatMap fun k => words8 (((s.die d).log.getD k (List.replicate 4 0)).map (·.toNat))) ++
  padTo (0x100000 - 0x42000) (words8 [(s.die d).flogctl.toNat, (s.die d).seq] ++ (List.range 4096).flatMap fun k =>
    let x := s.brick (BitVec.ofNat 14 (4096 * d + k))
    if x.life = .held then leBytes 2 x.bound.toNat ++ leBytes 2 x.pinNode else [0, 0, 0, 0])

/-- The sealed key blob (R399). -/
def sealingKey : BitVec 256 := Config.deriveKey 1 Config.fusedSecret Config.keystoneFirmware
def State.keyBlob (s : State) : List Byte :=
  let live := s.tenancies.filter fun e => e.2.cfg.getLsbD 63
  let keys := (List.range 256).filter fun k => (s.keySlot k).st ≠ 0
  let ten := live.flatMap fun (t, x) =>
    words8 [t, x.cfg.toNat, x.lane.toNat, x.port.toNat, x.root.toNat, x.rebase, x.dlwin, x.lease, x.counter, x.links.length] ++ leBytes 64 x.xts.toNat ++
      leBytes 32 x.wrap.toNat ++ x.links.flatMap fun l => leBytes 8 l.1 ++ leBytes 32 l.2.toNat
  let slots := keys.flatMap fun k =>
    let q := s.keySlot k
    words8 [k, q.tenancy, b2n q.requester.isSome] ++ leBytes 32 q.key.toNat ++ leBytes 32 q.hash.toNat ++ leBytes 32 (q.requester.getD 0)
  let plain := words8 [live.length, keys.length] ++ ten ++ slots
  let cipher := gcmCrypt sealingKey (beBytes 12 0) plain
  cipher ++ gcmTag sealingKey (beBytes 12 0) [] cipher

/-- Banks of HELD bricks that a manifest of 59 segments has room for, beside the stacks, the SRAMs and the blob (R399). DESIGN CHOICE (log 21): further HELD bricks are left out. -/
def heldSegments : Nat := 59 - 12 - 4 - 1

/-- Segments: KIND, unit, bytes (R399). -/
def State.segments (s : State) : List (Nat × Nat × List Byte) :=
  ((List.range 12).map fun k => (1, k, (List.range stackBytes).map fun o => cellsGet s.hbm (stackPa k o))) ++
  (((s.bricks.filter fun e => e.2.life = .held).take heldSegments).map fun e => (2, e.1, cellsRead e.2.bank 0 65536)) ++
  ((List.range 4).map fun d => (3, d, s.sram d)) ++
  [(4, 0, s.keyBlob)]

/-- The manifest, signed, with the segments behind it (R399). -/
def State.checkpointBytes (s : State) (us : Nat) : List Byte × State :=
  let segs := s.segments
  let table := (segs.foldl (fun (p : List Byte × Nat) g =>
    (p.1 ++ words8 [g.1 + g.2.1 * 2 ^ 8, 0, g.2.2.length, p.2] ++ beBytes 32 (sha256 g.2.2).toNat, p.2 + g.2.2.length)) ([], 4096)).1
  let head := padTo 0x100 (words8 [2 ^ 60 + segs.length] ++ beBytes 32 (sha256 Config.identityCertificate).toNat ++ beBytes 32 Config.keystoneFirmware.toNat ++ leBytes 8 us)
  let body := padTo 0xFC0 (head ++ table)
  let (sig, s) := s.signed (sha256 body).toNat
  (body ++ sig ++ segs.flatMap fun g => g.2.2, s)

/-- Every loft line is written back (R398). -/
def State.flushLoft (s : State) : State := s.loft.foldl (fun s e => s.writeBack e.1 false) s

/-- The errors that a checkpoint's reads meet, each reported by its own path (R402, R405): HBM words, and words of the banks that it streams. -/
def State.meetStreamed (s : State) : State :=
  let s := s.hbmUe.foldl (fun s w => s.hbmUeRecord (8 * w) 8) s
  ((s.bricks.filter fun e => e.2.life = .held).take heldSegments).foldl (fun s e => e.2.bankUe.foldl (fun s w => s.meetBad (.bank (BitVec.ofNat 14 e.1)) (8 * w)) s) s

/-- The port mask of CHKPT and RESTORE (R440). -/
def Command.portMask (c : Command) : Nat := bits (c.body.getD 0 0).toNat 35 0

/-- CHKPT (R398): waves halt what may be halted, each to an address that foreman firmware chooses (a free draw, log 8); after them, and at most 1 s for regions that may not be halted, the device streams over the ports named. DESIGN CHOICE (log 21): it waits while none of them can carry the stream (R441). -/
def execChkpt (s : State) : Outcome :=
  runCommand s 2 1 fun c =>
    match c.started with
    | none => .next (s.modHost fun h => { h with commands := modifyAt (fun (c : Command) => { c with started := some s.ns }) 0 h.commands })
    | some t0 =>
      match allSlots.find? s.mayWave with
      | some r =>
        let (a, s) := s.draw
        .next (s.startWave r (2 ^ 63 + r.slot * 2 ^ 57 + 2 ^ 56) (a % 2 ^ 42 * 4096) false)
      | none =>
        let active := allSlots.filter fun r => (s.slot r).active
        if active.isEmpty then
          let (l, s') := s.flushLoft.meetStreamed.checkpointBytes s.us
          stepWhen (!(s.carriers c.portMask).isEmpty) s ((s'.modHost fun h => { h with safeTier := (h.safeTier.filter fun e => e.1 ≠ c.arg.toNat) ++ [(c.arg.toNat, l)] }).endCommand c stOk 0)
        else
          stepWhen (t0 + 1000000000 ≤ s.ns && active.all fun r => (s.slot r).pre = 0) s (s.endCommand c stBusy 0)

/-! Restore (R399) -/

/-- A segment of a manifest: KIND, unit, offset within the unit, its bytes, and whether its hash holds. -/
def manifestSegments (l : List Byte) : List (Nat × Nat × Nat × List Byte × Bool) :=
  (List.range (min 59 (wordAt l 0 % 65536))).map fun i =>
    let e := l.drop (0x100 + 64 * i)
    let bytes := (l.drop (wordAt e 24)).take (wordAt e 16)
    (bits (wordAt e 0) 7 0, bits (wordAt e 0) 23 8, wordAt e 8, bytes, beBytes 32 (sha256 bytes).toNat = (e.drop 32).take 32)

/-- A manifest that this keystone signed, under this firmware. -/
def manifestSigned (l : List Byte) : Bool :=
  ecdsaVerify aliasPoint (sha256 (l.take 0xFC0)).toNat (beValue ((l.drop 0xFC0).take 32), beValue ((l.drop 0xFE0).take 32)) &&
  (l.drop 0x28).take 32 = beBytes 32 Config.keystoneFirmware.toNat && wordAt l 0 / 2 ^ 60 = 1

/-- The management SRAM of a die takes recorded bytes: nodes, log, controls. -/
def State.writeSram (s : State) (d : Nat) (l : List Byte) : State :=
  let s := if d = 0 then { s with nodes := ((List.range 4096).filter fun n => !zeroAt l (64 * n) 64).map fun n => (n, (wordsAt l (64 * n) 8).map (BitVec.ofNat 64)) } else s
  let c := wordAt l 0x42000
  s.modDie d fun x => { x with
    log := ((List.range 256).filter fun k => !zeroAt l (0x40000 + 32 * k) 32).map fun k => (k, (wordsAt l (0x40000 + 32 * k) 4).map (BitVec.ofNat 64))
    ovf := bits c 63 32, head := bits c 23 16, tail := bits c 7 0, seq := wordAt l 0x42008 }

/-- The unit of a segment takes it: the bank of a brick that the present map-out list takes out of service is powered off, and its segment goes nowhere (R18). DESIGN CHOICE (log 21): R399 says nothing of such a segment. -/
def State.segmentLands (s : State) (g : Nat × Nat × Nat × List Byte × Bool) : Bool := g.1 ≠ 2 || s.inService (BitVec.ofNat 14 g.2.1)

/-- The offset in its stack of a physical address. -/
def stackOffset (pa : Nat) : Nat := pa / bayBytes % 8 * (bayBytes / 3) + (pa % bayBytes / 256 / 24 * 8 + pa % bayBytes / 256 % 24 / 3) * 256 + pa % 256
/-- A word of 8 bytes at an offset that a segment covers whole: written so, it loses its error (R208, R235, R408). -/
def segmentCovers (off len o : Nat) : Bool := off ≤ o && o + 8 ≤ off + len

/-- A segment is written to its unit. -/
def State.writeSegment (s : State) (g : Nat × Nat × Nat × List Byte × Bool) : State :=
  let (kind, unit', off, l, _) := g
  match kind with
  | 1 => { s with
      hbm := l.zipIdx.foldl (fun m p => cellsSet m (stackPa unit' (off + p.2)) p.1) s.hbm
      hbmUe := s.hbmUe.filter fun w => !(stackOf (8 * w) = unit' && segmentCovers off l.length (stackOffset (8 * w))) }
  | 2 => s.modBrick (BitVec.ofNat 14 unit') fun x =>
      { x with bank := cellsWrite x.bank off l, bankUe := x.bankUe.filter fun w => !segmentCovers off l.length (8 * w) }
  | 3 => s.writeSram unit' l
  | _ => s

/-- What a restore that fails zeroes: banks, and management SRAM; no register of a die lies there (R48, R366, R400). -/
def State.wipeSegment (s : State) (g : Nat × Nat × Nat × List Byte × Bool) : State :=
  match g.1 with
  | 2 => s.modBrick (BitVec.ofNat 14 g.2.1) fun x => { x with bank := [], bankUe := [] }
  | 3 => { s with nodes := if g.2.1 = 0 then [] else s.nodes }.modDie g.2.1 fun d => { d with log := [], ovf := 0, head := 0, tail := 0, seq := 0 }
  | _ => s

/-- HELD bricks as the SRAM of their die records them. -/
def State.reholdBrick (s : State) (g : Nat × Nat × Nat × List Byte × Bool) (sram : List Byte) : State :=
  let b := g.2.1
  let e := 0x42010 + 4 * (b % 4096)
  s.modBrick (BitVec.ofNat 14 b) fun x =>
    let bound := fieldAt sram e 2
    { x with life := .held, bound := BitVec.ofNat 16 bound, pinNode := fieldAt sram (e + 2) 2
             gmap := BitVec.ofNat 32 ((List.range 16).foldl (fun n k => n + 4 ^ k * b2n (bit bound k)) 0) }

/-- Read n tenancies, then m key slots, of an unsealed blob: a tenancy goes live, so its log starts from its registers (R423), and a key slot returns loaded, to be mapped again (R427). -/
def State.restoreTenancies (s : State) : Nat → List Byte → State × List Byte
  | 0, l => (s, l)
  | n + 1, l =>
    let w := wordsAt l 0 10
    let g (i : Nat) : Nat := w.getD i 0
    let links := (List.range (g 9)).map fun i => (wordAt l (176 + 40 * i), BitVec.ofNat 256 (fieldAt l (184 + 40 * i) 32))
    let s := s.modTenancy (g 0) fun x => { x with
      cfg := BitVec.ofNat 64 (g 1), lane := BitVec.ofNat 64 (g 2), port := BitVec.ofNat 64 (g 3), root := BitVec.ofNat 64 (g 4)
      rebase := g 5, dlwin := g 6, lease := g 7, counter := g 8
      xts := BitVec.ofNat 512 (fieldAt l 80 64), wrap := BitVec.ofNat 256 (fieldAt l 144 32), log := sha256 (regBytes (g 1) (g 2) (g 3)), links }
    s.restoreTenancies n (l.drop (176 + 40 * g 9))
def State.restoreKeys (s : State) : Nat → List Byte → State
  | 0, _ => s
  | n + 1, l =>
    let s := s.modKeySlot (wordAt l 0) fun _ => {
      tenancy := wordAt l 8, requester := if wordAt l 16 = 1 then some (fieldAt l 88 32) else none
      key := BitVec.ofNat 256 (fieldAt l 24 32), hash := BitVec.ofNat 256 (fieldAt l 56 32), st := 1 }
    s.restoreKeys n (l.drop 120)
def State.unsealKeys (s : State) (blob : List Byte) : State :=
  let n := blob.length - 16
  let plain := gcmCrypt sealingKey (beBytes 12 0) (blob.take n)
  let (s, rest) := s.restoreTenancies (wordAt plain 0) (plain.drop 16)
  s.restoreKeys (wordAt plain 8) rest

/-- What the safe tier holds at an address: the checkpoint that the device wrote there, or what the tier itself brings. -/
def State.safeTierAt (s : State) (a : Nat) (other : List Byte) : List Byte := ((s.host.safeTier.find? fun e => e.1 = a).map (·.2)).getD other

/-- A checkpoint that the keystone has signed is restored, segment by segment: a failed hash zeroes what was written (R399). -/
def State.restoreFrom (s : State) (c : Command) (tier : List Byte) : State :=
  let segs := manifestSegments tier
  let good := (segs.takeWhile fun g => g.2.2.2.2).filter s.segmentLands
  let written := good.foldl (fun s g => s.writeSegment g) { s with loft := [] }
  let bytesOf (p : Nat × Nat × Nat × List Byte × Bool → Bool) : List Byte := ((segs.find? p).map (·.2.2.2.1)).getD []
  if segs.any fun g => !g.2.2.2.2 then (good.foldl (fun s g => s.wipeSegment g) written).endCommand c stBadSig 0
  else
    let held := (good.filter fun g => g.1 = 2).foldl (fun s g => s.reholdBrick g (bytesOf fun h => h.1 = 3 && h.2.1 = g.2.1 / 4096)) written
    (held.unsealKeys (bytesOf fun g => g.1 = 4)).endCommand c stOk 0

/-- RESTORE (R399, R440): refused while a tenancy is live or a slot is not FREE; it reads the safe-tier address of ARG over the ports named, and waits while none of them can carry the stream (log 21); a bad signature or firmware changes nothing. -/
def execRestore (safeTier : List Byte) (s : State) : Outcome :=
  runCommand s 6 1 fun c =>
    let tier := s.safeTierAt c.arg.toNat safeTier
    if s.tenancies.any (fun e => e.2.cfg.getLsbD 63) || allSlots.any (fun r => (s.slot r).st ≠ .free) then .next (s.endCommand c stRefused 0)
    else stepWhen (!(s.carriers c.portMask).isEmpty) s (if manifestSigned tier then s.restoreFrom c tier else s.endCommand c stBadSig 0)

/-! TDIs and DMA (R432, R435) -/

/-- IDE streams that other TDIs hold, of the 8 selective streams in all (R435). -/
def State.streamsUsed (s : State) (t : Nat) : Nat := ((List.range 63).filter fun u => u ≠ t && (s.tenancy u).ide).length

/-- TDI_ENTER_RUN (R435): `bound` says whether an IDE stream is bound to the TDI, for which one must be left. PRESUMED from TDISP (log 22): a TDI is locked and started from CONFIG_UNLOCKED or CONFIG_LOCKED, not from ERROR or RUN. -/
def execTdiEnterRun (t : Nat) (bound : Bool) (s : State) : Outcome :=
  let old := (s.tenancy t).tdi
  stepWhen (t ≤ 62 && (old = .configUnlocked || old = .configLocked) && (!bound || s.streamsUsed t < 8)) s
    (s.modTenancy t fun x => { x with tdi := .run, ide := bound })

/-- The moves of a TDI that do not end in RUN (R435). PRESUMED from TDISP (log 22): out of RUN to any state, a lock, a stop to CONFIG_UNLOCKED, and an error. -/
def TdiState.leaves (old target : TdiState) : Bool :=
  target ≠ .run && target ≠ old && (old = .run || target = .configUnlocked || (old = .configUnlocked && target = .configLocked) || (old = .configLocked && target = .error))

/-- TDI_LEAVE_RUN (R435): the decrypted view goes at once. -/
def execTdiLeaveRun (t : Nat) (target : TdiState) (s : State) : Outcome :=
  stepWhen (t ≤ 62 && TdiState.leaves (s.tenancy t).tdi target) s (s.modTenancy t fun x => { x with tdi := target, ide := false })

/-- An access sees plaintext: over the IDE stream bound to a TDI in RUN, in a KW = 0 page (R432). -/
def State.hstPlain (s : State) (t : Nat) (ide : Bool) (leaf : Nat) : Bool :=
  ide && (s.tenancy t).tdi = .run && (s.tenancy t).ide && !pteKw leaf

/-- A write's bytes on one line, as plaintext: the line as stored takes them, and is decrypted (R432). -/
def State.hstLine (s : State) (ln o : Nat) (plain weights : Bool) (vs : List Byte) : List Byte :=
  let old := s.lineBytes ln weights
  let put (l : List Byte) : List Byte := (List.range 64).map fun j => if o ≤ j && j < o + vs.length then vs.getD (j - o) 0 else l.getD j 0
  if plain || weights then put old else s.fromStored ln weights (put (s.toStored ln weights old))

/-- Marks of a line's words that a write of n bytes at offset o does not cover whole (R235). -/
def LoftLine.keptUe (l : LoftLine) (o n : Nat) : BitVec 8 :=
  BitVec.ofNat 8 ((List.range 8).foldl (fun m w => if l.ue.getLsbD w && !(o ≤ 8 * w && 8 * w + 8 ≤ o + n) then m + 2 ^ w else m) 0)

/-- Perform a host write, line by line: where the bytes stand as ciphertext, each whole 16-byte block that the write touches changes with them, one that it covers only in part is read first (R233), and a word it covers only in part keeps its error (R235). -/
def State.hstWrite (s : State) (t : Nat) (ide : Bool) (vs : List Byte) (base : Nat) : List (Nat × Nat) → State
  | [] => s
  | (va, n) :: rest =>
    match s.translate { cls := .hst, tenancy := t } true va with
    | (.error _, s) => s
    | (.ok (pa, leaf), s) =>
      let ln := pa / 64
      let whole : Bool := s.hstPlain t ide leaf || pteKw leaf
      let o := if whole then pa % 64 else pa % 64 / 16 * 16
      let len := if whole then n else ceilDiv (pa % 64 + n) 16 * 16 - o
      let inPart (k : Nat) : Bool := o ≤ 16 * k && 16 * k < o + len && !(pa % 64 ≤ 16 * k && 16 * k + 16 ≤ pa % 64 + n)
      let s := if whole then s.settleLine t ln
        else ((List.range 4).filter inPart).foldl (fun s k => s.fetchLine t (64 * ln + 16 * k) 16 (pteDcls leaf) false) (s.settleLine t ln)
      let line := s.hstLine ln (pa % 64) (s.hstPlain t ide leaf) (pteKw leaf) ((vs.drop (va - base)).take n)
      let l := (s.line ln).write o ((line.drop o).take len)
      let s := s.putLine ln { l with ue := l.ue ||| (s.line ln).keptUe (pa % 64) n, weights := pteKw leaf }
      let (_, l) := (s.line ln).storeTs 0
      (s.setLine ln l).hstWrite t ide vs base rest

/-- What a host read returns: the line's bytes as HBM stores them, or plaintext (R432); none where it faults, or meets an uncorrectable word, which it reports (R408). -/
def State.hstRead (s : State) (t : Nat) (ide : Bool) : List (Nat × Nat) → Option (List Byte) × State
  | [] => (some [], s)
  | (va, n) :: rest =>
    match s.translate { cls := .hst, tenancy := t } false va with
    | (.error _, s) => (none, s)
    | (.ok (pa, leaf), s) =>
      let ln := pa / 64
      let s := s.fetchLine t pa n (pteDcls leaf) (pteKw leaf)
      if s.rangeBad pa n then (none, s.hbmUeRecord pa n)
      else
        let l := s.lineBytes ln (pteKw leaf)
        let v := if s.hstPlain t ide leaf || pteKw leaf then l else s.toStored ln false l
        match (s.setLine ln ((s.line ln).loadTs 0 (s.lease t)).2).hstRead t ide rest with
        | (some r, s) => (some ((v.drop (pa % 64)).take n ++ r), s)
        | (none, s) => (none, s)

/-- HST_ACCESS (R225, R432): one that faults writes nothing. -/
def execHstAccess (t : Nat) (ide : Bool) (va : Nat) (store : Option (List Byte)) (len : Nat) (s : State) : Outcome :=
  match store with
  | some vs => match s.writeFault { cls := .hst, tenancy := t } va vs.length with
    | (some _, s) => .next s
    | (none, s) => .next (s.hstWrite t ide vs va (piecesOf va vs.length))
  | none => match s.hstRead t ide (piecesOf va len) with
    | (some l, s) => .next { s with host := { s.host with dma := l } }
    | (none, s) => .next s

end Sys2Proof.Machine
end

