-- ==== Sys2Proof/Machine/Clock.lean ====
section
/-! DEFINITION. What has to happen before the clock advances: steps whose cycle a rule fixes (R69, R70, R75-R77, R182, R188, R236, R297, R335, R380, R403). Everything else may wait, and the order of what may happen is `Config.schedule` (log 1). -/

namespace Sys2Proof.Machine

open Sys2Proof

/-- The oldest uncommitted firing commits now (R75, R76, R277). -/
def State.commitDue (s : State) (b : BrickId) : Bool :=
  match (s.brick b).firings.find? fun f => !f.committed with
  | none => false
  | some f => f.ripe s.now && s.fenceReady b f

/-- A write-back is due (R69). -/
def State.writeBackDue (s : State) (b : BrickId) : Bool :=
  (List.range (s.brick b).firings.length).any fun k => ((s.brick b).nextWriteBack s.now k).isSome

/-- A trap that was found acts now (R77). -/
def State.trapDue (s : State) (b : BrickId) : Bool :=
  let x := s.brick b
  match x.trapped s.now with
  | none => false
  | some k =>
    match x.firings[k]? with
    | none => false
    | some f => x.pick || k + 1 < x.firings.length || (f.pastPoint s.now && k = 0)

/-- A later beat issues now (R70). -/
def State.beatDue (s : State) (b : BrickId) : Bool :=
  match (s.brick b).firings.find? Firing.unissued with
  | none => false
  | some f =>
    match ruleInfo f.instr with
    | none => false
    | some r =>
      let x := s.brick b
      beatReady s x r f && x.spanFree s.now ((x.firings.findIdx? Firing.unissued).getD 0) f (f.beatSpan s b r f.issued)

/-- A timed engine of a brick has come to its cycle: an accumulator (R297, R299, R301), a held PARAM (R261), a gutter that has stopped (R187), a dock (R324, R333, R335, R337), the QBLK buffer (R171). -/
def State.engineDue (s : State) (b : BrickId) : Bool :=
  let x := s.brick b
  s.accDue b ||
  (match x.edge.pp with
    | some (t, aligned) => aligned && (s.shape b (bits t.pay.toNat 59 57)).state = 0
    | none => false) ||
  (x.docks.any fun d => match d.st with
    | .landing ends false => ends < s.now
    | .copying _ _ ends => ends ≤ s.now
    | .firing _ ends => ends < s.now
    | .sending ends => ends < s.now
    | .finishing port _ ready => ready ≤ s.now && 1 ≤ x.room port && x.portClear port
    | _ => false) ||
  (x.inputs.any fun i => match i.gutter with
    | some g => x.gutterTraps g
    | none => false) ||
  (match x.qblk with
    | some (p, _ :: _, ready) => ready ≤ s.now && 1 ≤ x.room p && x.portClear p
    | some (_, [], _) => true
    | none => false)

/-- A brick has a step, other than a firing, whose cycle has come. -/
def State.brickDue (s : State) (b : BrickId) : Bool :=
  s.commitDue b || s.writeBackDue b || s.trapDue b || s.beatDue b || s.engineDue b ||
  alignReady s.now (s.brick b) || weepReady s.now (s.brick b) || (s.brick b).mayResume s.now

/-- A fill has come to its latest-service time (R236), or waits for a refresh that is not yet told or is over (R237). -/
def State.fillDue (s : State) (f : Fill) : Bool :=
  let stack := stackOf (32 * f.sector)
  let pc := channelOfPa (32 * f.sector)
  let listed : Bool := (s.stack stack).refreshing.any fun p => p.1 = pc
  let blocked : Bool := s.refreshElapsed stack pc < refreshBlock
  f.served.isNone &&
    ((match f.latest with
      | some t => t ≤ s.now && !s.refreshBusy stack pc && s.commandFree stack pc
      | none => false) || listed ≠ blocked)

/-- A region's controller has a step whose cycle has come: the first fault (R403), a count wave (R380), the region round (R381), a thermal notice (R383), the end of a round-edge wait (R390). -/
def State.regionDue (s : State) (r : RegionId) : Bool :=
  let x := s.slot r
  (match x.pending with
    | some (at', _) => at' < s.now && x.fault.isNone && x.underway
    | none => false) ||
  s.countDue r ||
  (x.active && x.round ≠ s.leastRound r && x.bricks.all fun b => (s.brick b).round ≠ s.leastRound r || (s.brick b).roundAt + 8 ≤ s.now) ||
  (match x.notices with
    | (at', t) :: _ => at' + 256 ≤ s.now && s.owns r x.noticeDest.place && s.accepts x.noticeDest t
    | [] => false) ||
  (match x.wave with
    | some w => w.target.isSome && w.started + w.limit ≤ s.now && x.bricks.any fun b => (s.brick b).wave ≠ .stopped
    | none => false)

/-- A course's scheduler has a record to issue in this cycle (R296), or the DONE of a task whose drain could not start (R299). -/
def State.courseDue (s : State) (k : Nat) (q : Sched) : Bool := s.issueDue (k / 64) (k % 64) || q.ends.any fun e => e.2.2 < s.now

/-- A query of an engine takes its place in the completion order in the cycle in which it reaches its point, and frees its context in the cycle after its record (R346, R363). -/
def State.footDue (s : State) (eng : Nat) (e : Footing) : Bool :=
  e.contexts.any fun q => s.queryReached eng q || (q.recOrder.isSome && q.out.isEmpty && q.doneAt < s.now)

/-- The clock may not advance yet. -/
def State.due (s : State) : Bool :=
  (s.bricks.any fun e =>
    let b : BrickId := BitVec.ofNat 14 e.1
    s.brickDue b || (pickSlot s b).isSome) ||
  (s.flights.zipIdx.any fun (f, n) => s.arrivalDue n f) || s.rebaseDue || s.fills.any s.fillDue || (s.reqs.any fun r => r.stage = .buffered && r.since + 64 ≤ s.now) || (s.hbmStacks.any fun e => e.2.hot.isSome && !e.2.tripped) ||
  (s.footings.any fun e => s.footDue e.1 e.2) || (s.scheds.any fun e => s.courseDue e.1 e.2) || s.slots.any fun e => s.regionDue (RegionId.ofKey e.1)

/-- The clock advances by a cycle, unless a step of this cycle is still due. -/
def State.advance (s : State) : State := if s.due then s else { s with now := s.now + 1 }

/-- The picker of a brick looks at its pool once this cycle's due steps and arrivals are done: the slot it fires, with the instruction there (R65, R66). -/
def State.picked (s : State) (b : BrickId) : Option (Nat × Instr) := if s.brickDue b || s.arriving b then none else pickSlot s b

/-! Placing an instruction where the next step takes it -/

/-- Tokens that a rule waits for on a channel (R65). -/
def fetchTokens (r : RuleInfo) (ch : Nat) : List Token :=
  let tested : Bool := r.h.tagEn = 1 && r.h.tagCh.toNat = ch
  let n := max (max (r.needs ch) (r.reads ch)) (b2n tested)
  (List.range n).map fun i => { tag := if tested && i = 0 then Tag.ofCode r.h.tagTag.toNat else .data, pay := 0 }

/-- A brick that runs with one instruction in slot 0, its guard and its INRDY met and nothing in flight. -/
def Brick.forFetch (x : Brick) (w : Word) : Brick :=
  let y : Brick :=
    { x.setPick true with
      life := .running, pool := w :: List.replicate 15 0, weep := .none, wave := .none, idle := none, firings := []
      dpFree := 0, divFree := 0, aged := (0, 0), qblk := none, ringFree := 0, barrierAt := 0, taskPort := [], footPort := [] }
  match ((decode true w).toInstr).bind ruleInfo with
  | none => y
  | some r =>
    { y with
      pend := 0
      pval := (x.pval &&& ~~~r.h.pcare) ||| (r.h.pval &&& r.h.pcare)
      outs := y.outs.map fun p => { p with skid := [] }
      inputs := y.inputs.zipIdx.map fun (q : Input × Nat) =>
        let ts := fetchTokens r q.2
        if ts.isEmpty then q.1 else { q.1 with queue := ts } }

end Sys2Proof.Machine
end

