-- ==== Sys2Proof/Machine/Dispatch.lean ====
section
/-! DEFINITION. One arm per constructor of Instr. -/

namespace Sys2Proof.Machine

open Sys2Proof

/-- The meaning of each row of the opcode table. -/
def exec (i : Instr) (s : State) : Host.Outcome State Fault Refusal :=
  match i with
  | .add h x => Sys2Proof.Machine.execAdd h x s
  | .sub h x => Sys2Proof.Machine.execSub h x s
  | .adc h x => Sys2Proof.Machine.execAdc h x s
  | .sbb h x => Sys2Proof.Machine.execSbb h x s
  | .addi h x => Sys2Proof.Machine.execAddi h x s
  | .mul h x => Sys2Proof.Machine.execMul h x s
  | .mulh h x => Sys2Proof.Machine.execMulh h x s
  | .mulhu h x => Sys2Proof.Machine.execMulhu h x s
  | .mad h x => Sys2Proof.Machine.execMad h x s
  | .divu h x => Sys2Proof.Machine.execDivu h x s
  | .remu h x => Sys2Proof.Machine.execRemu h x s
  | .divs h x => Sys2Proof.Machine.execDivs h x s
  | .rems h x => Sys2Proof.Machine.execRems h x s
  | .adds h x => Sys2Proof.Machine.execAdds h x s
  | .addsu h x => Sys2Proof.Machine.execAddsu h x s
  | .subs h x => Sys2Proof.Machine.execSubs h x s
  | .subsu h x => Sys2Proof.Machine.execSubsu h x s
  | .min h x => Sys2Proof.Machine.execMin h x s
  | .max h x => Sys2Proof.Machine.execMax h x s
  | .minu h x => Sys2Proof.Machine.execMinu h x s
  | .maxu h x => Sys2Proof.Machine.execMaxu h x s
  | .abs h x => Sys2Proof.Machine.execAbs h x s
  | .neg h x => Sys2Proof.Machine.execNeg h x s
  | .and h x => Sys2Proof.Machine.execAnd h x s
  | .or h x => Sys2Proof.Machine.execOr h x s
  | .xor h x => Sys2Proof.Machine.execXor h x s
  | .andn h x => Sys2Proof.Machine.execAndn h x s
  | .orn h x => Sys2Proof.Machine.execOrn h x s
  | .xnor h x => Sys2Proof.Machine.execXnor h x s
  | .andi h x => Sys2Proof.Machine.execAndi h x s
  | .ori h x => Sys2Proof.Machine.execOri h x s
  | .xori h x => Sys2Proof.Machine.execXori h x s
  | .shl h x => Sys2Proof.Machine.execShl h x s
  | .shr h x => Sys2Proof.Machine.execShr h x s
  | .sar h x => Sys2Proof.Machine.execSar h x s
  | .rol h x => Sys2Proof.Machine.execRol h x s
  | .shli h x => Sys2Proof.Machine.execShli h x s
  | .shri h x => Sys2Proof.Machine.execShri h x s
  | .sari h x => Sys2Proof.Machine.execSari h x s
  | .roli h x => Sys2Proof.Machine.execRoli h x s
  | .bext h x => Sys2Proof.Machine.execBext h x s
  | .bexts h x => Sys2Proof.Machine.execBexts h x s
  | .bins h x => Sys2Proof.Machine.execBins h x s
  | .sext h x => Sys2Proof.Machine.execSext h x s
  | .clz h x => Sys2Proof.Machine.execClz h x s
  | .ctz h x => Sys2Proof.Machine.execCtz h x s
  | .popc h x => Sys2Proof.Machine.execPopc h x s
  | .brev h x => Sys2Proof.Machine.execBrev h x s
  | .mov h x => Sys2Proof.Machine.execMov h x s
  | .movw h x => Sys2Proof.Machine.execMovw h x s
  | .movi h x => Sys2Proof.Machine.execMovi h x s
  | .movhi h x => Sys2Proof.Machine.execMovhi h x s
  | .sel h x => Sys2Proof.Machine.execSel h x s
  | .cmpeq h x => Sys2Proof.Machine.execCmpeq h x s
  | .cmpne h x => Sys2Proof.Machine.execCmpne h x s
  | .cmplt h x => Sys2Proof.Machine.execCmplt h x s
  | .cmpltu h x => Sys2Proof.Machine.execCmpltu h x s
  | .cmple h x => Sys2Proof.Machine.execCmple h x s
  | .cmpleu h x => Sys2Proof.Machine.execCmpleu h x s
  | .cmpeqi h x => Sys2Proof.Machine.execCmpeqi h x s
  | .cmplti h x => Sys2Proof.Machine.execCmplti h x s
  | .cmpltui h x => Sys2Proof.Machine.execCmpltui h x s
  | .btst h x => Sys2Proof.Machine.execBtst h x s
  | .fadd h x => Sys2Proof.Machine.execFadd h x s
  | .fsub h x => Sys2Proof.Machine.execFsub h x s
  | .fmul h x => Sys2Proof.Machine.execFmul h x s
  | .ffma h x => Sys2Proof.Machine.execFfma h x s
  | .ffms h x => Sys2Proof.Machine.execFfms h x s
  | .fmin h x => Sys2Proof.Machine.execFmin h x s
  | .fmax h x => Sys2Proof.Machine.execFmax h x s
  | .fminm h x => Sys2Proof.Machine.execFminm h x s
  | .fmaxm h x => Sys2Proof.Machine.execFmaxm h x s
  | .fcmpeq h x => Sys2Proof.Machine.execFcmpeq h x s
  | .fcmplt h x => Sys2Proof.Machine.execFcmplt h x s
  | .fcmple h x => Sys2Proof.Machine.execFcmple h x s
  | .fcmpun h x => Sys2Proof.Machine.execFcmpun h x s
  | .fabs h x => Sys2Proof.Machine.execFabs h x s
  | .fneg h x => Sys2Proof.Machine.execFneg h x s
  | .fscb h x => Sys2Proof.Machine.execFscb h x s
  | .fdiv h x => Sys2Proof.Machine.execFdiv h x s
  | .sfuExp2 h x => Sys2Proof.Machine.execSfuExp2 h x s
  | .sfuLog2 h x => Sys2Proof.Machine.execSfuLog2 h x s
  | .sfuRcp h x => Sys2Proof.Machine.execSfuRcp h x s
  | .sfuRsqrt h x => Sys2Proof.Machine.execSfuRsqrt h x s
  | .sfuSqrt h x => Sys2Proof.Machine.execSfuSqrt h x s
  | .sfuTanh h x => Sys2Proof.Machine.execSfuTanh h x s
  | .sfuSinpi h x => Sys2Proof.Machine.execSfuSinpi h x s
  | .sfuCospi h x => Sys2Proof.Machine.execSfuCospi h x s
  | .cvt h x => Sys2Proof.Machine.execCvt h x s
  | .cvtfi h x => Sys2Proof.Machine.execCvtfi h x s
  | .cvtif h x => Sys2Proof.Machine.execCvtif h x s
  | .frnd h x => Sys2Proof.Machine.execFrnd h x s
  | .fsum h x => Sys2Proof.Machine.execFsum h x s
  | .fmaxr h x => Sys2Proof.Machine.execFmaxr h x s
  | .fdot h x => Sys2Proof.Machine.execFdot h x s
  | .expd h x => Sys2Proof.Machine.execExpd h x s
  | .qblk h x => Sys2Proof.Machine.execQblk h x s
  | .dqblk h x => Sys2Proof.Machine.execDqblk h x s
  | .bpspl h x => Sys2Proof.Machine.execBpspl h x s
  | .bpjn h x => Sys2Proof.Machine.execBpjn h x s
  | .fcls h x => Sys2Proof.Machine.execFcls h x s
  | .plog h x => Sys2Proof.Machine.execPlog h x s
  | .psetv h x => Sys2Proof.Machine.execPsetv h x s
  | .ptos h x => Sys2Proof.Machine.execPtos h x s
  | .stop h x => Sys2Proof.Machine.execStop h x s
  | .trap h x => Sys2Proof.Machine.execTrap h x s
  | .bkpt h x => Sys2Proof.Machine.execBkpt h x s
  | .idle h x => Sys2Proof.Machine.execIdle h x s
  | .nop h x => Sys2Proof.Machine.execNop h x s
  | .ldb h x => Sys2Proof.Machine.execLdb h x s
  | .stb h x => Sys2Proof.Machine.execStb h x s
  | .ldbi h x => Sys2Proof.Machine.execLdbi h x s
  | .stbi h x => Sys2Proof.Machine.execStbi h x s
  | .atb h x => Sys2Proof.Machine.execAtb h x s
  | .casb h x => Sys2Proof.Machine.execCasb h x s
  | .spl h x => Sys2Proof.Machine.execSpl h x s
  | .fil h x => Sys2Proof.Machine.execFil h x s
  | .ldpw h x => Sys2Proof.Machine.execLdpw h x s
  | .emit h x => Sys2Proof.Machine.execEmit h x s
  | .eos h x => Sys2Proof.Machine.execEos h x s
  | .mark h x => Sys2Proof.Machine.execMark h x s
  | .weep h x => Sys2Proof.Machine.execWeep h x s
  | .drop h x => Sys2Proof.Machine.execDrop h x s
  | .rtag h x => Sys2Proof.Machine.execRtag h x s
  | .steer h x => Sys2Proof.Machine.execSteer h x s
  | .gld h x => Sys2Proof.Machine.execGld h x s
  | .gst h x => Sys2Proof.Machine.execGst h x s
  | .gat h x => Sys2Proof.Machine.execGat h x s
  | .strmArm h x => Sys2Proof.Machine.execStrmArm h x s
  | .strmAbort h x => Sys2Proof.Machine.execStrmAbort h x s
  | .strmStat h x => Sys2Proof.Machine.execStrmStat h x s
  | .ttq h x => Sys2Proof.Machine.execTtq h x s
  | .ttqTid h x => Sys2Proof.Machine.execTtqTid h x s
  | .slfFire h x => Sys2Proof.Machine.execSlfFire h x s
  | .slfHdrLaunch h x => Sys2Proof.Machine.execSlfHdrLaunch h x s
  | .slfHdrRd h x => Sys2Proof.Machine.execSlfHdrRd h x s
  | .slfHdrWr h x => Sys2Proof.Machine.execSlfHdrWr h x s
  | .slfFin h x => Sys2Proof.Machine.execSlfFin h x s
  | .slfRoute h x => Sys2Proof.Machine.execSlfRoute h x s
  | .slfPin h x => Sys2Proof.Machine.execSlfPin h x s
  | .slfUnpin h x => Sys2Proof.Machine.execSlfUnpin h x s
  | .slfLook h x => Sys2Proof.Machine.execSlfLook h x s
  | .fqryPost h x => Sys2Proof.Machine.execFqryPost h x s
  | .fqryCncl h x => Sys2Proof.Machine.execFqryCncl h x s
  | .sysXfence h x => Sys2Proof.Machine.execSysXfence h x s
  | .sysHandover h x => Sys2Proof.Machine.execSysHandover h x s
  | .sysRdbsr h x => Sys2Proof.Machine.execSysRdbsr h x s
  | .sysWrbsr h x => Sys2Proof.Machine.execSysWrbsr h x s
  | .sysWatch h x => Sys2Proof.Machine.execSysWatch h x s
  | .sysSink h x => Sys2Proof.Machine.execSysSink h x s
  | .sysWptr h x => Sys2Proof.Machine.execSysWptr h x s
  | .sysRdts h x => Sys2Proof.Machine.execSysRdts h x s
  | .beatIssue b => Sys2Proof.Machine.execBeatIssue b s
  | .beatWriteBack b k => Sys2Proof.Machine.execBeatWriteBack b k s
  | .firingCommit b => Sys2Proof.Machine.execFiringCommit b s
  | .preciseTrap b => Sys2Proof.Machine.execPreciseTrap b s
  | .pickerWake b => Sys2Proof.Machine.execPickerWake b s
  | .tokenArrival n => Sys2Proof.Machine.execTokenArrival n s
  | .gutterRefill b ch => Sys2Proof.Machine.execGutterRefill b ch s
  | .tokenForward p => Sys2Proof.Machine.execTokenForward p s
  | .branchHoldDeliver p branch => Sys2Proof.Machine.execBranchHoldDeliver p branch s
  | .brickAlign b => Sys2Proof.Machine.execBrickAlign b s
  | .regionRoundUpdate r => Sys2Proof.Machine.execRegionRoundUpdate r s
  | .brickWeep b => Sys2Proof.Machine.execBrickWeep b s
  | .weepOrder r => Sys2Proof.Machine.execWeepOrder r s
  | .reconfigApply b => Sys2Proof.Machine.execReconfigApply b s
  | .brickReclaim b => Sys2Proof.Machine.execBrickReclaim b s
  | .ownerRequest n => Sys2Proof.Machine.execOwnerRequest n s
  | .coalesceTimeout e line => Sys2Proof.Machine.execCoalesceTimeout e line s
  | .pageWalk n => Sys2Proof.Machine.execPageWalk n s
  | .loftAccess n => Sys2Proof.Machine.execLoftAccess n s
  | .loftFillDone line => Sys2Proof.Machine.execLoftFillDone line s
  | .hbmRequest line => Sys2Proof.Machine.execHbmRequest line s
  | .deadlineService line => Sys2Proof.Machine.execDeadlineService line s
  | .refreshStart stack pc => Sys2Proof.Machine.execRefreshStart stack pc s
  | .refreshEnd stack pc => Sys2Proof.Machine.execRefreshEnd stack pc s
  | .stackSensorReading stack temp => Sys2Proof.Machine.execStackSensorReading stack temp s
  | .thermtrip stack => Sys2Proof.Machine.execThermtrip stack s
  | .talwUpdate die rise => Sys2Proof.Machine.execTalwUpdate die rise s
  | .thermalNotice r stack => Sys2Proof.Machine.execThermalNotice r stack s
  | .rstallRead stack => Sys2Proof.Machine.execRstallRead stack s
  | .rebase t => Sys2Proof.Machine.execRebase t s
  | .invcmdVa die t page => Sys2Proof.Machine.execInvcmdVa die t page s
  | .invcmdTenancy die t => Sys2Proof.Machine.execInvcmdTenancy die t s
  | .invcmdComplete die => Sys2Proof.Machine.execInvcmdComplete die s
  | .globalReturn n => Sys2Proof.Machine.execGlobalReturn n s
  | .handoverMessage n => Sys2Proof.Machine.execHandoverMessage n s
  | .handoverRelease n => Sys2Proof.Machine.execHandoverRelease n s
  | .streamTileStart b r => Sys2Proof.Machine.execStreamTileStart b r s
  | .streamWordSend b r => Sys2Proof.Machine.execStreamWordSend b r s
  | .streamInputTake b r => Sys2Proof.Machine.execStreamInputTake b r s
  | .streamRunEnd b r => Sys2Proof.Machine.execStreamRunEnd b r s
  | .drawPortTake b => Sys2Proof.Machine.execDrawPortTake b s
  | .paramPortTake b => Sys2Proof.Machine.execParamPortTake b s
  | .paramApply b => Sys2Proof.Machine.execParamApply b s
  | .taskRecordArrival b => Sys2Proof.Machine.execTaskRecordArrival b s
  | .windowEnter die course => Sys2Proof.Machine.execWindowEnter die course s
  | .staleRecord die course k => Sys2Proof.Machine.execStaleRecord die course k s
  | .taskIssue die course => Sys2Proof.Machine.execTaskIssue die course s
  | .taskComputeEnd b acc => Sys2Proof.Machine.execTaskComputeEnd b acc s
  | .drainStart b acc => Sys2Proof.Machine.execDrainStart b acc s
  | .drainWord b acc => Sys2Proof.Machine.execDrainWord b acc s
  | .taskDone b acc => Sys2Proof.Machine.execTaskDone b acc s
  | .steerPortTake die course => Sys2Proof.Machine.execSteerPortTake die course s
  | .slateMapOperation n => Sys2Proof.Machine.execSlateMapOperation n s
  | .slateRelease n => Sys2Proof.Machine.execSlateRelease n s
  | .frameLand n => Sys2Proof.Machine.execFrameLand n s
  | .dockNotice b dock => Sys2Proof.Machine.execDockNotice b dock s
  | .launchCopyEnd b dock => Sys2Proof.Machine.execLaunchCopyEnd b dock s
  | .fireEnd b dock => Sys2Proof.Machine.execFireEnd b dock s
  | .ringPortSend b dock => Sys2Proof.Machine.execRingPortSend b dock s
  | .finTokenEmit b dock => Sys2Proof.Machine.execFinTokenEmit b dock s
  | .gatewayContribution die => Sys2Proof.Machine.execGatewayContribution die s
  | .gatewayCombine gid => Sys2Proof.Machine.execGatewayCombine gid s
  | .footingPacketArrival b => Sys2Proof.Machine.execFootingPacketArrival b s
  | .queryStart eng => Sys2Proof.Machine.execQueryStart eng s
  | .expansionStep eng q => Sys2Proof.Machine.execExpansionStep eng q s
  | .distanceRequest eng q k => Sys2Proof.Machine.execDistanceRequest eng q k s
  | .queryComplete eng q => Sys2Proof.Machine.execQueryComplete eng q s
  | .qblkBufferEmit b => Sys2Proof.Machine.execQblkBufferEmit b s
  | .regionCompletion r => Sys2Proof.Machine.execRegionCompletion r s
  | .completionWordStore r => Sys2Proof.Machine.execCompletionWordStore r s
  | .countWave r => Sys2Proof.Machine.execCountWave r s
  | .regionFault r => Sys2Proof.Machine.execRegionFault r s
  | .bindSubmit r w0 => Sys2Proof.Machine.execBindSubmit r w0 s
  | .reconfigSubmit r => Sys2Proof.Machine.execReconfigSubmit r s
  | .dispatchLoad die => Sys2Proof.Machine.execDispatchLoad die s
  | .heldRecordRelease r => Sys2Proof.Machine.execHeldRecordRelease r s
  | .bstatKill r node => Sys2Proof.Machine.execBstatKill r node s
  | .bstatClr r => Sys2Proof.Machine.execBstatClr r s
  | .bayGrant node baysAsked => Sys2Proof.Machine.execBayGrant node baysAsked s
  | .bayReturn node bay => Sys2Proof.Machine.execBayReturn node bay s
  | .swcmd die value => Sys2Proof.Machine.execSwcmd die value s
  | .setwStop b => Sys2Proof.Machine.execSetwStop b s
  | .setwWaitExpiry r => Sys2Proof.Machine.execSetwWaitExpiry r s
  | .imageCapture r => Sys2Proof.Machine.execImageCapture r s
  | .bsrCtlPickSet b => Sys2Proof.Machine.execBsrCtlPickSet b s
  | .bsrCtlPickClear b => Sys2Proof.Machine.execBsrCtlPickClear b s
  | .bsrCtlStep b on => Sys2Proof.Machine.execBsrCtlStep b on s
  | .bsrCtlPass b => Sys2Proof.Machine.execBsrCtlPass b s
  | .tscfgWrite t value => Sys2Proof.Machine.execTscfgWrite t value s
  | .errwinWrite value => Sys2Proof.Machine.execErrwinWrite value s
  | .registerWrite r value => Sys2Proof.Machine.execRegisterWrite r value s
  | .patrolScrub b => Sys2Proof.Machine.execPatrolScrub b s
  | .errorEvent u kind addr => Sys2Proof.Machine.execErrorEvent u kind addr s
  | .boot => Sys2Proof.Machine.execBoot s
  | .mapoutRemove b => Sys2Proof.Machine.execMapoutRemove b s
  | .kick => Sys2Proof.Machine.execKick s
  | .kickReread => Sys2Proof.Machine.execKickReread s
  | .completionPost => Sys2Proof.Machine.execCompletionPost s
  | .cqbaseWrite value => Sys2Proof.Machine.execCqbaseWrite value s
  | .hostNop => Sys2Proof.Machine.execHostNop s
  | .summary => Sys2Proof.Machine.execSummary s
  | .chkpt => Sys2Proof.Machine.execChkpt s
  | .tenset => Sys2Proof.Machine.execTenset s
  | .tenclr => Sys2Proof.Machine.execTenclr s
  | .keymap => Sys2Proof.Machine.execKeymap s
  | .restore safeTier => Sys2Proof.Machine.execRestore safeTier s
  | .keyload session t hash key => Sys2Proof.Machine.execKeyload session t hash key s
  | .keydrop session slot => Sys2Proof.Machine.execKeydrop session slot s
  | .spdmGetCertificate => Sys2Proof.Machine.execSpdmGetCertificate s
  | .spdmChallenge nonce => Sys2Proof.Machine.execSpdmChallenge nonce s
  | .spdmGetMeasurements index nonce => Sys2Proof.Machine.execSpdmGetMeasurements index nonce s
  | .spdmKeyExchange request => Sys2Proof.Machine.execSpdmKeyExchange request s
  | .weightChunkRead b va => Sys2Proof.Machine.execWeightChunkRead b va s
  | .ringFlitReceive port flit => Sys2Proof.Machine.execRingFlitReceive port flit s
  | .linkdown u => Sys2Proof.Machine.execLinkdown u s
  | .powerLimitStepDown watts => Sys2Proof.Machine.execPowerLimitStepDown watts s
  | .powerStepUp watts => Sys2Proof.Machine.execPowerStepUp watts s
  | .tdiLeaveRun t target => Sys2Proof.Machine.execTdiLeaveRun t target s
  | .internalAcknowledgement n => Sys2Proof.Machine.execInternalAcknowledgement n s
  | .hstAccess t ide va store len => Sys2Proof.Machine.execHstAccess t ide va store len s
  | .tdiEnterRun t bound => Sys2Proof.Machine.execTdiEnterRun t bound s

end Sys2Proof.Machine
end

