-- ==== Sys2Proof/Machine/Step.lean ====
section
/-! DEFINITION. One step of the machine: the next move of the agenda. -/

namespace Sys2Proof.Machine

open Sys2Proof

/-- One step. With the agenda at its end, the schedule gives the next moves (log 1). A tick advances the clock (R9). A picker's move fires its lowest eligible slot (R66). A hold keeps bank rules from their sub-banks for this cycle (R207). An event runs its row of the table; a rule runs from a pool alone. -/
def step (s : State) : Host.Outcome State Fault Refusal :=
  match s.agenda with
  | [] => .next { s with agenda := Config.schedule s.epoch, epoch := s.epoch + 1 }
  | .tick :: rest => .next ({ s with agenda := rest }.advance)
  | .pick b :: rest =>
    match ({ s with agenda := rest }).picked b with
    | none => .next { s with agenda := rest }
    | some (k, i) => exec i { s with agenda := rest, focus := (b, k) }
  | .hold b banks :: rest => .next ({ s with agenda := rest }.modBrick b fun x => { x with aged := (s.now, banks) })
  | .event i :: rest => if i.isRule then .next { s with agenda := rest } else exec i { s with agenda := rest }

/-- The machine about to fire one word from slot 0 of brick 0.0.0, an edge brick: its picker moves next (log 1). -/
def State.withFetchWord (s : State) (nbits w : Nat) : State :=
  if nbits ≤ 64 then { s.modBrick 0 fun x => x.forFetch (BitVec.ofNat 64 w) with agenda := [.pick 0] } else s

end Sys2Proof.Machine
end

