-- ==== Sys2Proof/Laws/Encoding.lean ====
section
/-! SUPPORT. The fields of a word survive its making: cutting the word of raw fields gives them back (R30, R32). -/

namespace Sys2Proof

/-- A field that lies in the low part of a concatenation. -/
theorem field_low {m n : Nat} (a : BitVec m) (b : BitVec n) (s l : Nat) (h : s + l ≤ n) : (a ++ b).extractLsb' s l = b.extractLsb' s l := by
  apply BitVec.eq_of_getLsbD_eq
  intro i hi
  simp [BitVec.getLsbD_append, hi, show s + i < n by omega]

/-- A field that lies in the high part of a concatenation. -/
theorem field_high {m n : Nat} (a : BitVec m) (b : BitVec n) (s l : Nat) (h : n ≤ s) : (a ++ b).extractLsb' s l = a.extractLsb' (s - n) l := by
  apply BitVec.eq_of_getLsbD_eq
  intro i hi
  simp [BitVec.getLsbD_append, hi, show ¬ s + i < n by omega, show s + i - n = s - n + i by omega]

/-- A field that is the whole. -/
theorem field_all {n : Nat} (b : BitVec n) : b.extractLsb' 0 n = b := by
  apply BitVec.eq_of_getLsbD_eq
  intro i hi
  simp [hi]

/-- The opcode of a word (R30). -/
theorem opcode_toWord (opc : Nat) (h : Head) (y : BitVec 30) : BitVec.extractLsb' 57 7 (h.toBits opc ++ y : Word) = BitVec.ofNat 7 opc :=
  (field_high (m := 34) (n := 30) _ _ 57 7 (by decide)).trans <|
  (field_high (m := 32) (n := 2) _ _ 27 7 (by decide)).trans <|
  (field_high (m := 30) (n := 2) _ _ 25 7 (by decide)).trans <|
  (field_high (m := 28) (n := 2) _ _ 23 7 (by decide)).trans <|
  (field_high (m := 27) (n := 1) _ _ 21 7 (by decide)).trans <|
  (field_high (m := 23) (n := 4) _ _ 20 7 (by decide)).trans <|
  (field_high (m := 15) (n := 8) _ _ 16 7 (by decide)).trans <|
  (field_high (m := 7) (n := 8) _ _ 8 7 (by decide)).trans <|
  (field_all _)

/-- The head of a word (R30). -/
theorem head_toWord (opc : Nat) (h : Head) (y : BitVec 30) : Head.ofWord (h.toBits opc ++ y) = h := by
  cases h
  simp only [Head.ofWord, Head.mk.injEq]
  refine ⟨?_, ?_, ?_, ?_, ?_, ?_, ?_⟩
  · exact (field_high (m := 34) (n := 30) _ _ 49 8 (by decide)).trans <|
      (field_high (m := 32) (n := 2) _ _ 19 8 (by decide)).trans <|
      (field_high (m := 30) (n := 2) _ _ 17 8 (by decide)).trans <|
      (field_high (m := 28) (n := 2) _ _ 15 8 (by decide)).trans <|
      (field_high (m := 27) (n := 1) _ _ 13 8 (by decide)).trans <|
      (field_high (m := 23) (n := 4) _ _ 12 8 (by decide)).trans <|
      (field_high (m := 15) (n := 8) _ _ 8 8 (by decide)).trans <|
      (field_low (m := 7) (n := 8) _ _ 0 8 (by decide)).trans <|
      (field_all _)
  · exact (field_high (m := 34) (n := 30) _ _ 41 8 (by decide)).trans <|
      (field_high (m := 32) (n := 2) _ _ 11 8 (by decide)).trans <|
      (field_high (m := 30) (n := 2) _ _ 9 8 (by decide)).trans <|
      (field_high (m := 28) (n := 2) _ _ 7 8 (by decide)).trans <|
      (field_high (m := 27) (n := 1) _ _ 5 8 (by decide)).trans <|
      (field_high (m := 23) (n := 4) _ _ 4 8 (by decide)).trans <|
      (field_low (m := 15) (n := 8) _ _ 0 8 (by decide)).trans <|
      (field_all _)
  · exact (field_high (m := 34) (n := 30) _ _ 37 4 (by decide)).trans <|
      (field_high (m := 32) (n := 2) _ _ 7 4 (by decide)).trans <|
      (field_high (m := 30) (n := 2) _ _ 5 4 (by decide)).trans <|
      (field_high (m := 28) (n := 2) _ _ 3 4 (by decide)).trans <|
      (field_high (m := 27) (n := 1) _ _ 1 4 (by decide)).trans <|
      (field_low (m := 23) (n := 4) _ _ 0 4 (by decide)).trans <|
      (field_all _)
  · exact (field_high (m := 34) (n := 30) _ _ 36 1 (by decide)).trans <|
      (field_high (m := 32) (n := 2) _ _ 6 1 (by decide)).trans <|
      (field_high (m := 30) (n := 2) _ _ 4 1 (by decide)).trans <|
      (field_high (m := 28) (n := 2) _ _ 2 1 (by decide)).trans <|
      (field_low (m := 27) (n := 1) _ _ 0 1 (by decide)).trans <|
      (field_all _)
  · exact (field_high (m := 34) (n := 30) _ _ 34 2 (by decide)).trans <|
      (field_high (m := 32) (n := 2) _ _ 4 2 (by decide)).trans <|
      (field_high (m := 30) (n := 2) _ _ 2 2 (by decide)).trans <|
      (field_low (m := 28) (n := 2) _ _ 0 2 (by decide)).trans <|
      (field_all _)
  · exact (field_high (m := 34) (n := 30) _ _ 32 2 (by decide)).trans <|
      (field_high (m := 32) (n := 2) _ _ 2 2 (by decide)).trans <|
      (field_low (m := 30) (n := 2) _ _ 0 2 (by decide)).trans <|
      (field_all _)
  · exact (field_high (m := 34) (n := 30) _ _ 30 2 (by decide)).trans <|
      (field_low (m := 32) (n := 2) _ _ 0 2 (by decide)).trans <|
      (field_all _)

/-- The T body of a word (R32). -/
theorem bodyT_toWord (y : BitVec 34) (x : TBody) : TBody.ofWord (y ++ x.toBits) = x := by
  cases x
  simp only [TBody.ofWord, TBody.mk.injEq]
  refine ⟨?_, ?_, ?_, ?_, ?_, ?_, ?_⟩
  · exact (field_low (m := 34) (n := 30) _ _ 27 3 (by decide)).trans <|
      (field_high (m := 29) (n := 1) _ _ 27 3 (by decide)).trans <|
      (field_high (m := 27) (n := 2) _ _ 26 3 (by decide)).trans <|
      (field_high (m := 24) (n := 3) _ _ 24 3 (by decide)).trans <|
      (field_high (m := 17) (n := 7) _ _ 21 3 (by decide)).trans <|
      (field_high (m := 10) (n := 7) _ _ 14 3 (by decide)).trans <|
      (field_high (m := 3) (n := 7) _ _ 7 3 (by decide)).trans <|
      (field_all _)
  · exact (field_low (m := 34) (n := 30) _ _ 20 7 (by decide)).trans <|
      (field_high (m := 29) (n := 1) _ _ 20 7 (by decide)).trans <|
      (field_high (m := 27) (n := 2) _ _ 19 7 (by decide)).trans <|
      (field_high (m := 24) (n := 3) _ _ 17 7 (by decide)).trans <|
      (field_high (m := 17) (n := 7) _ _ 14 7 (by decide)).trans <|
      (field_high (m := 10) (n := 7) _ _ 7 7 (by decide)).trans <|
      (field_low (m := 3) (n := 7) _ _ 0 7 (by decide)).trans <|
      (field_all _)
  · exact (field_low (m := 34) (n := 30) _ _ 13 7 (by decide)).trans <|
      (field_high (m := 29) (n := 1) _ _ 13 7 (by decide)).trans <|
      (field_high (m := 27) (n := 2) _ _ 12 7 (by decide)).trans <|
      (field_high (m := 24) (n := 3) _ _ 10 7 (by decide)).trans <|
      (field_high (m := 17) (n := 7) _ _ 7 7 (by decide)).trans <|
      (field_low (m := 10) (n := 7) _ _ 0 7 (by decide)).trans <|
      (field_all _)
  · exact (field_low (m := 34) (n := 30) _ _ 6 7 (by decide)).trans <|
      (field_high (m := 29) (n := 1) _ _ 6 7 (by decide)).trans <|
      (field_high (m := 27) (n := 2) _ _ 5 7 (by decide)).trans <|
      (field_high (m := 24) (n := 3) _ _ 3 7 (by decide)).trans <|
      (field_low (m := 17) (n := 7) _ _ 0 7 (by decide)).trans <|
      (field_all _)
  · exact (field_low (m := 34) (n := 30) _ _ 3 3 (by decide)).trans <|
      (field_high (m := 29) (n := 1) _ _ 3 3 (by decide)).trans <|
      (field_high (m := 27) (n := 2) _ _ 2 3 (by decide)).trans <|
      (field_low (m := 24) (n := 3) _ _ 0 3 (by decide)).trans <|
      (field_all _)
  · exact (field_low (m := 34) (n := 30) _ _ 1 2 (by decide)).trans <|
      (field_high (m := 29) (n := 1) _ _ 1 2 (by decide)).trans <|
      (field_low (m := 27) (n := 2) _ _ 0 2 (by decide)).trans <|
      (field_all _)
  · exact (field_low (m := 34) (n := 30) _ _ 0 1 (by decide)).trans <|
      (field_low (m := 29) (n := 1) _ _ 0 1 (by decide)).trans <|
      (field_all _)

/-- The U body of a word (R32). -/
theorem bodyU_toWord (y : BitVec 34) (x : UBody) : UBody.ofWord (y ++ x.toBits) = x := by
  cases x
  simp only [UBody.ofWord, UBody.mk.injEq]
  refine ⟨?_, ?_, ?_, ?_, ?_, ?_, ?_⟩
  · exact (field_low (m := 34) (n := 30) _ _ 27 3 (by decide)).trans <|
      (field_high (m := 29) (n := 1) _ _ 27 3 (by decide)).trans <|
      (field_high (m := 27) (n := 2) _ _ 26 3 (by decide)).trans <|
      (field_high (m := 24) (n := 3) _ _ 24 3 (by decide)).trans <|
      (field_high (m := 17) (n := 7) _ _ 21 3 (by decide)).trans <|
      (field_high (m := 10) (n := 7) _ _ 14 3 (by decide)).trans <|
      (field_high (m := 3) (n := 7) _ _ 7 3 (by decide)).trans <|
      (field_all _)
  · exact (field_low (m := 34) (n := 30) _ _ 20 7 (by decide)).trans <|
      (field_high (m := 29) (n := 1) _ _ 20 7 (by decide)).trans <|
      (field_high (m := 27) (n := 2) _ _ 19 7 (by decide)).trans <|
      (field_high (m := 24) (n := 3) _ _ 17 7 (by decide)).trans <|
      (field_high (m := 17) (n := 7) _ _ 14 7 (by decide)).trans <|
      (field_high (m := 10) (n := 7) _ _ 7 7 (by decide)).trans <|
      (field_low (m := 3) (n := 7) _ _ 0 7 (by decide)).trans <|
      (field_all _)
  · exact (field_low (m := 34) (n := 30) _ _ 13 7 (by decide)).trans <|
      (field_high (m := 29) (n := 1) _ _ 13 7 (by decide)).trans <|
      (field_high (m := 27) (n := 2) _ _ 12 7 (by decide)).trans <|
      (field_high (m := 24) (n := 3) _ _ 10 7 (by decide)).trans <|
      (field_high (m := 17) (n := 7) _ _ 7 7 (by decide)).trans <|
      (field_low (m := 10) (n := 7) _ _ 0 7 (by decide)).trans <|
      (field_all _)
  · exact (field_low (m := 34) (n := 30) _ _ 6 7 (by decide)).trans <|
      (field_high (m := 29) (n := 1) _ _ 6 7 (by decide)).trans <|
      (field_high (m := 27) (n := 2) _ _ 5 7 (by decide)).trans <|
      (field_high (m := 24) (n := 3) _ _ 3 7 (by decide)).trans <|
      (field_low (m := 17) (n := 7) _ _ 0 7 (by decide)).trans <|
      (field_all _)
  · exact (field_low (m := 34) (n := 30) _ _ 3 3 (by decide)).trans <|
      (field_high (m := 29) (n := 1) _ _ 3 3 (by decide)).trans <|
      (field_high (m := 27) (n := 2) _ _ 2 3 (by decide)).trans <|
      (field_low (m := 24) (n := 3) _ _ 0 3 (by decide)).trans <|
      (field_all _)
  · exact (field_low (m := 34) (n := 30) _ _ 1 2 (by decide)).trans <|
      (field_high (m := 29) (n := 1) _ _ 1 2 (by decide)).trans <|
      (field_low (m := 27) (n := 2) _ _ 0 2 (by decide)).trans <|
      (field_all _)
  · exact (field_low (m := 34) (n := 30) _ _ 0 1 (by decide)).trans <|
      (field_low (m := 29) (n := 1) _ _ 0 1 (by decide)).trans <|
      (field_all _)

/-- The I body of a word (R32). -/
theorem bodyI_toWord (y : BitVec 34) (x : IBody) : IBody.ofWord (y ++ x.toBits) = x := by
  cases x
  simp only [IBody.ofWord, IBody.mk.injEq]
  refine ⟨?_, ?_, ?_, ?_, ?_, ?_⟩
  · exact (field_low (m := 34) (n := 30) _ _ 27 3 (by decide)).trans <|
      (field_high (m := 29) (n := 1) _ _ 27 3 (by decide)).trans <|
      (field_high (m := 27) (n := 2) _ _ 26 3 (by decide)).trans <|
      (field_high (m := 24) (n := 3) _ _ 24 3 (by decide)).trans <|
      (field_high (m := 10) (n := 14) _ _ 21 3 (by decide)).trans <|
      (field_high (m := 3) (n := 7) _ _ 7 3 (by decide)).trans <|
      (field_all _)
  · exact (field_low (m := 34) (n := 30) _ _ 20 7 (by decide)).trans <|
      (field_high (m := 29) (n := 1) _ _ 20 7 (by decide)).trans <|
      (field_high (m := 27) (n := 2) _ _ 19 7 (by decide)).trans <|
      (field_high (m := 24) (n := 3) _ _ 17 7 (by decide)).trans <|
      (field_high (m := 10) (n := 14) _ _ 14 7 (by decide)).trans <|
      (field_low (m := 3) (n := 7) _ _ 0 7 (by decide)).trans <|
      (field_all _)
  · exact (field_low (m := 34) (n := 30) _ _ 6 14 (by decide)).trans <|
      (field_high (m := 29) (n := 1) _ _ 6 14 (by decide)).trans <|
      (field_high (m := 27) (n := 2) _ _ 5 14 (by decide)).trans <|
      (field_high (m := 24) (n := 3) _ _ 3 14 (by decide)).trans <|
      (field_low (m := 10) (n := 14) _ _ 0 14 (by decide)).trans <|
      (field_all _)
  · exact (field_low (m := 34) (n := 30) _ _ 3 3 (by decide)).trans <|
      (field_high (m := 29) (n := 1) _ _ 3 3 (by decide)).trans <|
      (field_high (m := 27) (n := 2) _ _ 2 3 (by decide)).trans <|
      (field_low (m := 24) (n := 3) _ _ 0 3 (by decide)).trans <|
      (field_all _)
  · exact (field_low (m := 34) (n := 30) _ _ 1 2 (by decide)).trans <|
      (field_high (m := 29) (n := 1) _ _ 1 2 (by decide)).trans <|
      (field_low (m := 27) (n := 2) _ _ 0 2 (by decide)).trans <|
      (field_all _)
  · exact (field_low (m := 34) (n := 30) _ _ 0 1 (by decide)).trans <|
      (field_low (m := 29) (n := 1) _ _ 0 1 (by decide)).trans <|
      (field_all _)

/-- The M body of a word (R32). -/
theorem bodyM_toWord (y : BitVec 34) (x : MBody) : MBody.ofWord (y ++ x.toBits) = x := by
  cases x
  simp only [MBody.ofWord, MBody.mk.injEq]
  refine ⟨?_, ?_, ?_, ?_, ?_, ?_, ?_⟩
  · exact (field_low (m := 34) (n := 30) _ _ 27 3 (by decide)).trans <|
      (field_high (m := 29) (n := 1) _ _ 27 3 (by decide)).trans <|
      (field_high (m := 27) (n := 2) _ _ 26 3 (by decide)).trans <|
      (field_high (m := 24) (n := 3) _ _ 24 3 (by decide)).trans <|
      (field_high (m := 17) (n := 7) _ _ 21 3 (by decide)).trans <|
      (field_high (m := 10) (n := 7) _ _ 14 3 (by decide)).trans <|
      (field_high (m := 3) (n := 7) _ _ 7 3 (by decide)).trans <|
      (field_all _)
  · exact (field_low (m := 34) (n := 30) _ _ 20 7 (by decide)).trans <|
      (field_high (m := 29) (n := 1) _ _ 20 7 (by decide)).trans <|
      (field_high (m := 27) (n := 2) _ _ 19 7 (by decide)).trans <|
      (field_high (m := 24) (n := 3) _ _ 17 7 (by decide)).trans <|
      (field_high (m := 17) (n := 7) _ _ 14 7 (by decide)).trans <|
      (field_high (m := 10) (n := 7) _ _ 7 7 (by decide)).trans <|
      (field_low (m := 3) (n := 7) _ _ 0 7 (by decide)).trans <|
      (field_all _)
  · exact (field_low (m := 34) (n := 30) _ _ 13 7 (by decide)).trans <|
      (field_high (m := 29) (n := 1) _ _ 13 7 (by decide)).trans <|
      (field_high (m := 27) (n := 2) _ _ 12 7 (by decide)).trans <|
      (field_high (m := 24) (n := 3) _ _ 10 7 (by decide)).trans <|
      (field_high (m := 17) (n := 7) _ _ 7 7 (by decide)).trans <|
      (field_low (m := 10) (n := 7) _ _ 0 7 (by decide)).trans <|
      (field_all _)
  · exact (field_low (m := 34) (n := 30) _ _ 6 7 (by decide)).trans <|
      (field_high (m := 29) (n := 1) _ _ 6 7 (by decide)).trans <|
      (field_high (m := 27) (n := 2) _ _ 5 7 (by decide)).trans <|
      (field_high (m := 24) (n := 3) _ _ 3 7 (by decide)).trans <|
      (field_low (m := 17) (n := 7) _ _ 0 7 (by decide)).trans <|
      (field_all _)
  · exact (field_low (m := 34) (n := 30) _ _ 3 3 (by decide)).trans <|
      (field_high (m := 29) (n := 1) _ _ 3 3 (by decide)).trans <|
      (field_high (m := 27) (n := 2) _ _ 2 3 (by decide)).trans <|
      (field_low (m := 24) (n := 3) _ _ 0 3 (by decide)).trans <|
      (field_all _)
  · exact (field_low (m := 34) (n := 30) _ _ 1 2 (by decide)).trans <|
      (field_high (m := 29) (n := 1) _ _ 1 2 (by decide)).trans <|
      (field_low (m := 27) (n := 2) _ _ 0 2 (by decide)).trans <|
      (field_all _)
  · exact (field_low (m := 34) (n := 30) _ _ 0 1 (by decide)).trans <|
      (field_low (m := 29) (n := 1) _ _ 0 1 (by decide)).trans <|
      (field_all _)

/-- The P body of a word (R32). -/
theorem bodyP_toWord (y : BitVec 34) (x : PBody) : PBody.ofWord (y ++ x.toBits) = x := by
  cases x
  simp only [PBody.ofWord, PBody.mk.injEq]
  refine ⟨?_, ?_, ?_, ?_, ?_, ?_, ?_⟩
  · exact (field_low (m := 34) (n := 30) _ _ 27 3 (by decide)).trans <|
      (field_high (m := 29) (n := 1) _ _ 27 3 (by decide)).trans <|
      (field_high (m := 21) (n := 8) _ _ 26 3 (by decide)).trans <|
      (field_high (m := 13) (n := 8) _ _ 18 3 (by decide)).trans <|
      (field_high (m := 9) (n := 4) _ _ 10 3 (by decide)).trans <|
      (field_high (m := 6) (n := 3) _ _ 6 3 (by decide)).trans <|
      (field_high (m := 3) (n := 3) _ _ 3 3 (by decide)).trans <|
      (field_all _)
  · exact (field_low (m := 34) (n := 30) _ _ 24 3 (by decide)).trans <|
      (field_high (m := 29) (n := 1) _ _ 24 3 (by decide)).trans <|
      (field_high (m := 21) (n := 8) _ _ 23 3 (by decide)).trans <|
      (field_high (m := 13) (n := 8) _ _ 15 3 (by decide)).trans <|
      (field_high (m := 9) (n := 4) _ _ 7 3 (by decide)).trans <|
      (field_high (m := 6) (n := 3) _ _ 3 3 (by decide)).trans <|
      (field_low (m := 3) (n := 3) _ _ 0 3 (by decide)).trans <|
      (field_all _)
  · exact (field_low (m := 34) (n := 30) _ _ 21 3 (by decide)).trans <|
      (field_high (m := 29) (n := 1) _ _ 21 3 (by decide)).trans <|
      (field_high (m := 21) (n := 8) _ _ 20 3 (by decide)).trans <|
      (field_high (m := 13) (n := 8) _ _ 12 3 (by decide)).trans <|
      (field_high (m := 9) (n := 4) _ _ 4 3 (by decide)).trans <|
      (field_low (m := 6) (n := 3) _ _ 0 3 (by decide)).trans <|
      (field_all _)
  · exact (field_low (m := 34) (n := 30) _ _ 17 4 (by decide)).trans <|
      (field_high (m := 29) (n := 1) _ _ 17 4 (by decide)).trans <|
      (field_high (m := 21) (n := 8) _ _ 16 4 (by decide)).trans <|
      (field_high (m := 13) (n := 8) _ _ 8 4 (by decide)).trans <|
      (field_low (m := 9) (n := 4) _ _ 0 4 (by decide)).trans <|
      (field_all _)
  · exact (field_low (m := 34) (n := 30) _ _ 9 8 (by decide)).trans <|
      (field_high (m := 29) (n := 1) _ _ 9 8 (by decide)).trans <|
      (field_high (m := 21) (n := 8) _ _ 8 8 (by decide)).trans <|
      (field_low (m := 13) (n := 8) _ _ 0 8 (by decide)).trans <|
      (field_all _)
  · exact (field_low (m := 34) (n := 30) _ _ 1 8 (by decide)).trans <|
      (field_high (m := 29) (n := 1) _ _ 1 8 (by decide)).trans <|
      (field_low (m := 21) (n := 8) _ _ 0 8 (by decide)).trans <|
      (field_all _)
  · exact (field_low (m := 34) (n := 30) _ _ 0 1 (by decide)).trans <|
      (field_low (m := 29) (n := 1) _ _ 0 1 (by decide)).trans <|
      (field_all _)

/-- The K body of a word (R32). -/
theorem bodyK_toWord (y : BitVec 34) (x : KBody) : KBody.ofWord (y ++ x.toBits) = x := by
  cases x
  simp only [KBody.ofWord, KBody.mk.injEq]
  refine ⟨?_, ?_, ?_, ?_, ?_, ?_, ?_⟩
  · exact (field_low (m := 34) (n := 30) _ _ 27 3 (by decide)).trans <|
      (field_high (m := 29) (n := 1) _ _ 27 3 (by decide)).trans <|
      (field_high (m := 18) (n := 11) _ _ 26 3 (by decide)).trans <|
      (field_high (m := 14) (n := 4) _ _ 15 3 (by decide)).trans <|
      (field_high (m := 7) (n := 7) _ _ 11 3 (by decide)).trans <|
      (field_high (m := 5) (n := 2) _ _ 4 3 (by decide)).trans <|
      (field_high (m := 3) (n := 2) _ _ 2 3 (by decide)).trans <|
      (field_all _)
  · exact (field_low (m := 34) (n := 30) _ _ 25 2 (by decide)).trans <|
      (field_high (m := 29) (n := 1) _ _ 25 2 (by decide)).trans <|
      (field_high (m := 18) (n := 11) _ _ 24 2 (by decide)).trans <|
      (field_high (m := 14) (n := 4) _ _ 13 2 (by decide)).trans <|
      (field_high (m := 7) (n := 7) _ _ 9 2 (by decide)).trans <|
      (field_high (m := 5) (n := 2) _ _ 2 2 (by decide)).trans <|
      (field_low (m := 3) (n := 2) _ _ 0 2 (by decide)).trans <|
      (field_all _)
  · exact (field_low (m := 34) (n := 30) _ _ 23 2 (by decide)).trans <|
      (field_high (m := 29) (n := 1) _ _ 23 2 (by decide)).trans <|
      (field_high (m := 18) (n := 11) _ _ 22 2 (by decide)).trans <|
      (field_high (m := 14) (n := 4) _ _ 11 2 (by decide)).trans <|
      (field_high (m := 7) (n := 7) _ _ 7 2 (by decide)).trans <|
      (field_low (m := 5) (n := 2) _ _ 0 2 (by decide)).trans <|
      (field_all _)
  · exact (field_low (m := 34) (n := 30) _ _ 16 7 (by decide)).trans <|
      (field_high (m := 29) (n := 1) _ _ 16 7 (by decide)).trans <|
      (field_high (m := 18) (n := 11) _ _ 15 7 (by decide)).trans <|
      (field_high (m := 14) (n := 4) _ _ 4 7 (by decide)).trans <|
      (field_low (m := 7) (n := 7) _ _ 0 7 (by decide)).trans <|
      (field_all _)
  · exact (field_low (m := 34) (n := 30) _ _ 12 4 (by decide)).trans <|
      (field_high (m := 29) (n := 1) _ _ 12 4 (by decide)).trans <|
      (field_high (m := 18) (n := 11) _ _ 11 4 (by decide)).trans <|
      (field_low (m := 14) (n := 4) _ _ 0 4 (by decide)).trans <|
      (field_all _)
  · exact (field_low (m := 34) (n := 30) _ _ 1 11 (by decide)).trans <|
      (field_high (m := 29) (n := 1) _ _ 1 11 (by decide)).trans <|
      (field_low (m := 18) (n := 11) _ _ 0 11 (by decide)).trans <|
      (field_all _)
  · exact (field_low (m := 34) (n := 30) _ _ 0 1 (by decide)).trans <|
      (field_low (m := 29) (n := 1) _ _ 0 1 (by decide)).trans <|
      (field_all _)

/-- The X body of a word (R32). -/
theorem bodyX_toWord (y : BitVec 34) (x : XBody) : XBody.ofWord (y ++ x.toBits) = x := by
  cases x
  simp only [XBody.ofWord, XBody.mk.injEq]
  refine ⟨?_, ?_, ?_, ?_, ?_, ?_⟩
  · exact (field_low (m := 34) (n := 30) _ _ 24 6 (by decide)).trans <|
      (field_high (m := 29) (n := 1) _ _ 24 6 (by decide)).trans <|
      (field_high (m := 27) (n := 2) _ _ 23 6 (by decide)).trans <|
      (field_high (m := 20) (n := 7) _ _ 21 6 (by decide)).trans <|
      (field_high (m := 13) (n := 7) _ _ 14 6 (by decide)).trans <|
      (field_high (m := 6) (n := 7) _ _ 7 6 (by decide)).trans <|
      (field_all _)
  · exact (field_low (m := 34) (n := 30) _ _ 17 7 (by decide)).trans <|
      (field_high (m := 29) (n := 1) _ _ 17 7 (by decide)).trans <|
      (field_high (m := 27) (n := 2) _ _ 16 7 (by decide)).trans <|
      (field_high (m := 20) (n := 7) _ _ 14 7 (by decide)).trans <|
      (field_high (m := 13) (n := 7) _ _ 7 7 (by decide)).trans <|
      (field_low (m := 6) (n := 7) _ _ 0 7 (by decide)).trans <|
      (field_all _)
  · exact (field_low (m := 34) (n := 30) _ _ 10 7 (by decide)).trans <|
      (field_high (m := 29) (n := 1) _ _ 10 7 (by decide)).trans <|
      (field_high (m := 27) (n := 2) _ _ 9 7 (by decide)).trans <|
      (field_high (m := 20) (n := 7) _ _ 7 7 (by decide)).trans <|
      (field_low (m := 13) (n := 7) _ _ 0 7 (by decide)).trans <|
      (field_all _)
  · exact (field_low (m := 34) (n := 30) _ _ 3 7 (by decide)).trans <|
      (field_high (m := 29) (n := 1) _ _ 3 7 (by decide)).trans <|
      (field_high (m := 27) (n := 2) _ _ 2 7 (by decide)).trans <|
      (field_low (m := 20) (n := 7) _ _ 0 7 (by decide)).trans <|
      (field_all _)
  · exact (field_low (m := 34) (n := 30) _ _ 1 2 (by decide)).trans <|
      (field_high (m := 29) (n := 1) _ _ 1 2 (by decide)).trans <|
      (field_low (m := 27) (n := 2) _ _ 0 2 (by decide)).trans <|
      (field_all _)
  · exact (field_low (m := 34) (n := 30) _ _ 0 1 (by decide)).trans <|
      (field_low (m := 29) (n := 1) _ _ 0 1 (by decide)).trans <|
      (field_all _)

/-- A word of format T is cut into the fields it was made of. -/
theorem ofWord_fT (opc : Nat) (h : Head) (x : TBody) (ho : opc < 128) (hf : formatOf opc = .t) :
    Raw.ofWord (Raw.fT opc h x).toWord = .fT opc h x := by
  have e : (BitVec.extractLsb' 57 7 (h.toBits opc ++ x.toBits : Word)).toNat = opc := by
    rw [opcode_toWord]; simp only [BitVec.toNat_ofNat]; omega
  simp only [Raw.toWord, Raw.ofWord]
  rw [e, hf]
  simp only [head_toWord, bodyT_toWord]

/-- A word of format U is cut into the fields it was made of. -/
theorem ofWord_fU (opc : Nat) (h : Head) (x : UBody) (ho : opc < 128) (hf : formatOf opc = .u) :
    Raw.ofWord (Raw.fU opc h x).toWord = .fU opc h x := by
  have e : (BitVec.extractLsb' 57 7 (h.toBits opc ++ x.toBits : Word)).toNat = opc := by
    rw [opcode_toWord]; simp only [BitVec.toNat_ofNat]; omega
  simp only [Raw.toWord, Raw.ofWord]
  rw [e, hf]
  simp only [head_toWord, bodyU_toWord]

/-- A word of format I is cut into the fields it was made of. -/
theorem ofWord_fI (opc : Nat) (h : Head) (x : IBody) (ho : opc < 128) (hf : formatOf opc = .i) :
    Raw.ofWord (Raw.fI opc h x).toWord = .fI opc h x := by
  have e : (BitVec.extractLsb' 57 7 (h.toBits opc ++ x.toBits : Word)).toNat = opc := by
    rw [opcode_toWord]; simp only [BitVec.toNat_ofNat]; omega
  simp only [Raw.toWord, Raw.ofWord]
  rw [e, hf]
  simp only [head_toWord, bodyI_toWord]

/-- A word of format M is cut into the fields it was made of. -/
theorem ofWord_fM (opc : Nat) (h : Head) (x : MBody) (ho : opc < 128) (hf : formatOf opc = .m) :
    Raw.ofWord (Raw.fM opc h x).toWord = .fM opc h x := by
  have e : (BitVec.extractLsb' 57 7 (h.toBits opc ++ x.toBits : Word)).toNat = opc := by
    rw [opcode_toWord]; simp only [BitVec.toNat_ofNat]; omega
  simp only [Raw.toWord, Raw.ofWord]
  rw [e, hf]
  simp only [head_toWord, bodyM_toWord]

/-- A word of format P is cut into the fields it was made of. -/
theorem ofWord_fP (opc : Nat) (h : Head) (x : PBody) (ho : opc < 128) (hf : formatOf opc = .p) :
    Raw.ofWord (Raw.fP opc h x).toWord = .fP opc h x := by
  have e : (BitVec.extractLsb' 57 7 (h.toBits opc ++ x.toBits : Word)).toNat = opc := by
    rw [opcode_toWord]; simp only [BitVec.toNat_ofNat]; omega
  simp only [Raw.toWord, Raw.ofWord]
  rw [e, hf]
  simp only [head_toWord, bodyP_toWord]

/-- A word of format K is cut into the fields it was made of. -/
theorem ofWord_fK (opc : Nat) (h : Head) (x : KBody) (ho : opc < 128) (hf : formatOf opc = .k) :
    Raw.ofWord (Raw.fK opc h x).toWord = .fK opc h x := by
  have e : (BitVec.extractLsb' 57 7 (h.toBits opc ++ x.toBits : Word)).toNat = opc := by
    rw [opcode_toWord]; simp only [BitVec.toNat_ofNat]; omega
  simp only [Raw.toWord, Raw.ofWord]
  rw [e, hf]
  simp only [head_toWord, bodyK_toWord]

/-- A word of format X is cut into the fields it was made of. -/
theorem ofWord_fX (opc : Nat) (h : Head) (x : XBody) (ho : opc < 128) (hf : formatOf opc = .x) :
    Raw.ofWord (Raw.fX opc h x).toWord = .fX opc h x := by
  have e : (BitVec.extractLsb' 57 7 (h.toBits opc ++ x.toBits : Word)).toNat = opc := by
    rw [opcode_toWord]; simp only [BitVec.toNat_ofNat]; omega
  simp only [Raw.toWord, Raw.ofWord]
  rw [e, hf]
  simp only [head_toWord, bodyX_toWord]

/-- A word whose opcode is not 0 is no INV word. -/
theorem toWord_ne_zero (opc : Nat) (h : Head) (y : BitVec 30) (ho : opc < 128) (hp : 0 < opc) : (h.toBits opc ++ y : Word) ≠ 0 := by
  intro hz
  have e := opcode_toWord opc h y
  rw [hz] at e
  have := congrArg BitVec.toNat e
  simp only [BitVec.toNat_ofNat] at this
  have h0 : (BitVec.extractLsb' 57 7 (0 : Word)).toNat = 0 := by decide
  omega

end Sys2Proof
end

