-- ==== Sys2Proof/Laws/PerInstr.lean ====
section
/-! SUPPORT. Family `FieldsKept`, one lemma per constructor: the word that an instruction is encoded to is cut into exactly its opcode, head and body, and is no INV word (R29, R30, R32, R44). -/

namespace Sys2Proof.Laws.FieldsKept

open Sys2Proof

/-- The word of the instruction, if it has one, is not 0 and is cut into the fields it was made of. -/
def Statement (i : Instr) : Prop := ∀ r, toRaw i = some r → Raw.ofWord r.toWord = r ∧ r.toWord ≠ 0

theorem add (h : Head) (x : TBody) : Statement (.add h x) := by
  intro r e; cases e; exact ⟨ofWord_fT 0x01 h x (by decide) (by decide), toWord_ne_zero 0x01 h _ (by decide) (by decide)⟩
theorem sub (h : Head) (x : TBody) : Statement (.sub h x) := by
  intro r e; cases e; exact ⟨ofWord_fT 0x02 h x (by decide) (by decide), toWord_ne_zero 0x02 h _ (by decide) (by decide)⟩
theorem adc (h : Head) (x : TBody) : Statement (.adc h x) := by
  intro r e; cases e; exact ⟨ofWord_fT 0x03 h x (by decide) (by decide), toWord_ne_zero 0x03 h _ (by decide) (by decide)⟩
theorem sbb (h : Head) (x : TBody) : Statement (.sbb h x) := by
  intro r e; cases e; exact ⟨ofWord_fT 0x04 h x (by decide) (by decide), toWord_ne_zero 0x04 h _ (by decide) (by decide)⟩
theorem addi (h : Head) (x : IBody) : Statement (.addi h x) := by
  intro r e; cases e; exact ⟨ofWord_fI 0x05 h x (by decide) (by decide), toWord_ne_zero 0x05 h _ (by decide) (by decide)⟩
theorem mul (h : Head) (x : TBody) : Statement (.mul h x) := by
  intro r e; cases e; exact ⟨ofWord_fT 0x06 h x (by decide) (by decide), toWord_ne_zero 0x06 h _ (by decide) (by decide)⟩
theorem mulh (h : Head) (x : TBody) : Statement (.mulh h x) := by
  intro r e; cases e; exact ⟨ofWord_fT 0x07 h x (by decide) (by decide), toWord_ne_zero 0x07 h _ (by decide) (by decide)⟩
theorem mulhu (h : Head) (x : TBody) : Statement (.mulhu h x) := by
  intro r e; cases e; exact ⟨ofWord_fT 0x08 h x (by decide) (by decide), toWord_ne_zero 0x08 h _ (by decide) (by decide)⟩
theorem mad (h : Head) (x : TBody) : Statement (.mad h x) := by
  intro r e; cases e; exact ⟨ofWord_fT 0x09 h x (by decide) (by decide), toWord_ne_zero 0x09 h _ (by decide) (by decide)⟩
theorem divu (h : Head) (x : TBody) : Statement (.divu h x) := by
  intro r e; cases e; exact ⟨ofWord_fT 0x0A h x (by decide) (by decide), toWord_ne_zero 0x0A h _ (by decide) (by decide)⟩
theorem remu (h : Head) (x : TBody) : Statement (.remu h x) := by
  intro r e; cases e; exact ⟨ofWord_fT 0x0B h x (by decide) (by decide), toWord_ne_zero 0x0B h _ (by decide) (by decide)⟩
theorem divs (h : Head) (x : TBody) : Statement (.divs h x) := by
  intro r e; cases e; exact ⟨ofWord_fT 0x0C h x (by decide) (by decide), toWord_ne_zero 0x0C h _ (by decide) (by decide)⟩
theorem rems (h : Head) (x : TBody) : Statement (.rems h x) := by
  intro r e; cases e; exact ⟨ofWord_fT 0x0D h x (by decide) (by decide), toWord_ne_zero 0x0D h _ (by decide) (by decide)⟩
theorem adds (h : Head) (x : TBody) : Statement (.adds h x) := by
  intro r e; cases e; exact ⟨ofWord_fT 0x0E h x (by decide) (by decide), toWord_ne_zero 0x0E h _ (by decide) (by decide)⟩
theorem addsu (h : Head) (x : TBody) : Statement (.addsu h x) := by
  intro r e; cases e; exact ⟨ofWord_fT 0x0F h x (by decide) (by decide), toWord_ne_zero 0x0F h _ (by decide) (by decide)⟩
theorem subs (h : Head) (x : TBody) : Statement (.subs h x) := by
  intro r e; cases e; exact ⟨ofWord_fT 0x10 h x (by decide) (by decide), toWord_ne_zero 0x10 h _ (by decide) (by decide)⟩
theorem subsu (h : Head) (x : TBody) : Statement (.subsu h x) := by
  intro r e; cases e; exact ⟨ofWord_fT 0x11 h x (by decide) (by decide), toWord_ne_zero 0x11 h _ (by decide) (by decide)⟩
theorem min (h : Head) (x : TBody) : Statement (.min h x) := by
  intro r e; cases e; exact ⟨ofWord_fT 0x12 h x (by decide) (by decide), toWord_ne_zero 0x12 h _ (by decide) (by decide)⟩
theorem max (h : Head) (x : TBody) : Statement (.max h x) := by
  intro r e; cases e; exact ⟨ofWord_fT 0x13 h x (by decide) (by decide), toWord_ne_zero 0x13 h _ (by decide) (by decide)⟩
theorem minu (h : Head) (x : TBody) : Statement (.minu h x) := by
  intro r e; cases e; exact ⟨ofWord_fT 0x14 h x (by decide) (by decide), toWord_ne_zero 0x14 h _ (by decide) (by decide)⟩
theorem maxu (h : Head) (x : TBody) : Statement (.maxu h x) := by
  intro r e; cases e; exact ⟨ofWord_fT 0x15 h x (by decide) (by decide), toWord_ne_zero 0x15 h _ (by decide) (by decide)⟩
theorem abs (h : Head) (x : UBody) : Statement (.abs h x) := by
  intro r e; cases e; exact ⟨ofWord_fU 0x16 h x (by decide) (by decide), toWord_ne_zero 0x16 h _ (by decide) (by decide)⟩
theorem neg (h : Head) (x : UBody) : Statement (.neg h x) := by
  intro r e; cases e; exact ⟨ofWord_fU 0x17 h x (by decide) (by decide), toWord_ne_zero 0x17 h _ (by decide) (by decide)⟩
theorem and (h : Head) (x : TBody) : Statement (.and h x) := by
  intro r e; cases e; exact ⟨ofWord_fT 0x18 h x (by decide) (by decide), toWord_ne_zero 0x18 h _ (by decide) (by decide)⟩
theorem or (h : Head) (x : TBody) : Statement (.or h x) := by
  intro r e; cases e; exact ⟨ofWord_fT 0x19 h x (by decide) (by decide), toWord_ne_zero 0x19 h _ (by decide) (by decide)⟩
theorem xor (h : Head) (x : TBody) : Statement (.xor h x) := by
  intro r e; cases e; exact ⟨ofWord_fT 0x1A h x (by decide) (by decide), toWord_ne_zero 0x1A h _ (by decide) (by decide)⟩
theorem andn (h : Head) (x : TBody) : Statement (.andn h x) := by
  intro r e; cases e; exact ⟨ofWord_fT 0x1B h x (by decide) (by decide), toWord_ne_zero 0x1B h _ (by decide) (by decide)⟩
theorem orn (h : Head) (x : TBody) : Statement (.orn h x) := by
  intro r e; cases e; exact ⟨ofWord_fT 0x1C h x (by decide) (by decide), toWord_ne_zero 0x1C h _ (by decide) (by decide)⟩
theorem xnor (h : Head) (x : TBody) : Statement (.xnor h x) := by
  intro r e; cases e; exact ⟨ofWord_fT 0x1D h x (by decide) (by decide), toWord_ne_zero 0x1D h _ (by decide) (by decide)⟩
theorem andi (h : Head) (x : IBody) : Statement (.andi h x) := by
  intro r e; cases e; exact ⟨ofWord_fI 0x1E h x (by decide) (by decide), toWord_ne_zero 0x1E h _ (by decide) (by decide)⟩
theorem ori (h : Head) (x : IBody) : Statement (.ori h x) := by
  intro r e; cases e; exact ⟨ofWord_fI 0x1F h x (by decide) (by decide), toWord_ne_zero 0x1F h _ (by decide) (by decide)⟩
theorem xori (h : Head) (x : IBody) : Statement (.xori h x) := by
  intro r e; cases e; exact ⟨ofWord_fI 0x20 h x (by decide) (by decide), toWord_ne_zero 0x20 h _ (by decide) (by decide)⟩
theorem shl (h : Head) (x : TBody) : Statement (.shl h x) := by
  intro r e; cases e; exact ⟨ofWord_fT 0x21 h x (by decide) (by decide), toWord_ne_zero 0x21 h _ (by decide) (by decide)⟩
theorem shr (h : Head) (x : TBody) : Statement (.shr h x) := by
  intro r e; cases e; exact ⟨ofWord_fT 0x22 h x (by decide) (by decide), toWord_ne_zero 0x22 h _ (by decide) (by decide)⟩
theorem sar (h : Head) (x : TBody) : Statement (.sar h x) := by
  intro r e; cases e; exact ⟨ofWord_fT 0x23 h x (by decide) (by decide), toWord_ne_zero 0x23 h _ (by decide) (by decide)⟩
theorem rol (h : Head) (x : TBody) : Statement (.rol h x) := by
  intro r e; cases e; exact ⟨ofWord_fT 0x24 h x (by decide) (by decide), toWord_ne_zero 0x24 h _ (by decide) (by decide)⟩
theorem shli (h : Head) (x : UBody) : Statement (.shli h x) := by
  intro r e; cases e; exact ⟨ofWord_fU 0x25 h x (by decide) (by decide), toWord_ne_zero 0x25 h _ (by decide) (by decide)⟩
theorem shri (h : Head) (x : UBody) : Statement (.shri h x) := by
  intro r e; cases e; exact ⟨ofWord_fU 0x26 h x (by decide) (by decide), toWord_ne_zero 0x26 h _ (by decide) (by decide)⟩
theorem sari (h : Head) (x : UBody) : Statement (.sari h x) := by
  intro r e; cases e; exact ⟨ofWord_fU 0x27 h x (by decide) (by decide), toWord_ne_zero 0x27 h _ (by decide) (by decide)⟩
theorem roli (h : Head) (x : UBody) : Statement (.roli h x) := by
  intro r e; cases e; exact ⟨ofWord_fU 0x28 h x (by decide) (by decide), toWord_ne_zero 0x28 h _ (by decide) (by decide)⟩
theorem bext (h : Head) (x : UBody) : Statement (.bext h x) := by
  intro r e; cases e; exact ⟨ofWord_fU 0x29 h x (by decide) (by decide), toWord_ne_zero 0x29 h _ (by decide) (by decide)⟩
theorem bexts (h : Head) (x : UBody) : Statement (.bexts h x) := by
  intro r e; cases e; exact ⟨ofWord_fU 0x2A h x (by decide) (by decide), toWord_ne_zero 0x2A h _ (by decide) (by decide)⟩
theorem bins (h : Head) (x : UBody) : Statement (.bins h x) := by
  intro r e; cases e; exact ⟨ofWord_fU 0x2B h x (by decide) (by decide), toWord_ne_zero 0x2B h _ (by decide) (by decide)⟩
theorem sext (h : Head) (x : UBody) : Statement (.sext h x) := by
  intro r e; cases e; exact ⟨ofWord_fU 0x2C h x (by decide) (by decide), toWord_ne_zero 0x2C h _ (by decide) (by decide)⟩
theorem clz (h : Head) (x : UBody) : Statement (.clz h x) := by
  intro r e; cases e; exact ⟨ofWord_fU 0x2D h x (by decide) (by decide), toWord_ne_zero 0x2D h _ (by decide) (by decide)⟩
theorem ctz (h : Head) (x : UBody) : Statement (.ctz h x) := by
  intro r e; cases e; exact ⟨ofWord_fU 0x2E h x (by decide) (by decide), toWord_ne_zero 0x2E h _ (by decide) (by decide)⟩
theorem popc (h : Head) (x : UBody) : Statement (.popc h x) := by
  intro r e; cases e; exact ⟨ofWord_fU 0x2F h x (by decide) (by decide), toWord_ne_zero 0x2F h _ (by decide) (by decide)⟩
theorem brev (h : Head) (x : UBody) : Statement (.brev h x) := by
  intro r e; cases e; exact ⟨ofWord_fU 0x30 h x (by decide) (by decide), toWord_ne_zero 0x30 h _ (by decide) (by decide)⟩
theorem mov (h : Head) (x : TBody) : Statement (.mov h x) := by
  intro r e; cases e; exact ⟨ofWord_fT 0x31 h x (by decide) (by decide), toWord_ne_zero 0x31 h _ (by decide) (by decide)⟩
theorem movw (h : Head) (x : UBody) : Statement (.movw h x) := by
  intro r e; cases e; exact ⟨ofWord_fU 0x32 h x (by decide) (by decide), toWord_ne_zero 0x32 h _ (by decide) (by decide)⟩
theorem movi (h : Head) (x : IBody) : Statement (.movi h x) := by
  intro r e; cases e; exact ⟨ofWord_fI 0x33 h x (by decide) (by decide), toWord_ne_zero 0x33 h _ (by decide) (by decide)⟩
theorem movhi (h : Head) (x : IBody) : Statement (.movhi h x) := by
  intro r e; cases e; exact ⟨ofWord_fI 0x34 h x (by decide) (by decide), toWord_ne_zero 0x34 h _ (by decide) (by decide)⟩
theorem sel (h : Head) (x : TBody) : Statement (.sel h x) := by
  intro r e; cases e; exact ⟨ofWord_fT 0x35 h x (by decide) (by decide), toWord_ne_zero 0x35 h _ (by decide) (by decide)⟩
theorem cmpeq (h : Head) (x : TBody) : Statement (.cmpeq h x) := by
  intro r e; cases e; exact ⟨ofWord_fT 0x36 h x (by decide) (by decide), toWord_ne_zero 0x36 h _ (by decide) (by decide)⟩
theorem cmpne (h : Head) (x : TBody) : Statement (.cmpne h x) := by
  intro r e; cases e; exact ⟨ofWord_fT 0x37 h x (by decide) (by decide), toWord_ne_zero 0x37 h _ (by decide) (by decide)⟩
theorem cmplt (h : Head) (x : TBody) : Statement (.cmplt h x) := by
  intro r e; cases e; exact ⟨ofWord_fT 0x38 h x (by decide) (by decide), toWord_ne_zero 0x38 h _ (by decide) (by decide)⟩
theorem cmpltu (h : Head) (x : TBody) : Statement (.cmpltu h x) := by
  intro r e; cases e; exact ⟨ofWord_fT 0x39 h x (by decide) (by decide), toWord_ne_zero 0x39 h _ (by decide) (by decide)⟩
theorem cmple (h : Head) (x : TBody) : Statement (.cmple h x) := by
  intro r e; cases e; exact ⟨ofWord_fT 0x3A h x (by decide) (by decide), toWord_ne_zero 0x3A h _ (by decide) (by decide)⟩
theorem cmpleu (h : Head) (x : TBody) : Statement (.cmpleu h x) := by
  intro r e; cases e; exact ⟨ofWord_fT 0x3B h x (by decide) (by decide), toWord_ne_zero 0x3B h _ (by decide) (by decide)⟩
theorem cmpeqi (h : Head) (x : IBody) : Statement (.cmpeqi h x) := by
  intro r e; cases e; exact ⟨ofWord_fI 0x3C h x (by decide) (by decide), toWord_ne_zero 0x3C h _ (by decide) (by decide)⟩
theorem cmplti (h : Head) (x : IBody) : Statement (.cmplti h x) := by
  intro r e; cases e; exact ⟨ofWord_fI 0x3D h x (by decide) (by decide), toWord_ne_zero 0x3D h _ (by decide) (by decide)⟩
theorem cmpltui (h : Head) (x : IBody) : Statement (.cmpltui h x) := by
  intro r e; cases e; exact ⟨ofWord_fI 0x3E h x (by decide) (by decide), toWord_ne_zero 0x3E h _ (by decide) (by decide)⟩
theorem btst (h : Head) (x : UBody) : Statement (.btst h x) := by
  intro r e; cases e; exact ⟨ofWord_fU 0x3F h x (by decide) (by decide), toWord_ne_zero 0x3F h _ (by decide) (by decide)⟩
theorem fadd (h : Head) (x : TBody) : Statement (.fadd h x) := by
  intro r e; cases e; exact ⟨ofWord_fT 0x40 h x (by decide) (by decide), toWord_ne_zero 0x40 h _ (by decide) (by decide)⟩
theorem fsub (h : Head) (x : TBody) : Statement (.fsub h x) := by
  intro r e; cases e; exact ⟨ofWord_fT 0x41 h x (by decide) (by decide), toWord_ne_zero 0x41 h _ (by decide) (by decide)⟩
theorem fmul (h : Head) (x : TBody) : Statement (.fmul h x) := by
  intro r e; cases e; exact ⟨ofWord_fT 0x42 h x (by decide) (by decide), toWord_ne_zero 0x42 h _ (by decide) (by decide)⟩
theorem ffma (h : Head) (x : TBody) : Statement (.ffma h x) := by
  intro r e; cases e; exact ⟨ofWord_fT 0x43 h x (by decide) (by decide), toWord_ne_zero 0x43 h _ (by decide) (by decide)⟩
theorem ffms (h : Head) (x : TBody) : Statement (.ffms h x) := by
  intro r e; cases e; exact ⟨ofWord_fT 0x44 h x (by decide) (by decide), toWord_ne_zero 0x44 h _ (by decide) (by decide)⟩
theorem fmin (h : Head) (x : TBody) : Statement (.fmin h x) := by
  intro r e; cases e; exact ⟨ofWord_fT 0x45 h x (by decide) (by decide), toWord_ne_zero 0x45 h _ (by decide) (by decide)⟩
theorem fmax (h : Head) (x : TBody) : Statement (.fmax h x) := by
  intro r e; cases e; exact ⟨ofWord_fT 0x46 h x (by decide) (by decide), toWord_ne_zero 0x46 h _ (by decide) (by decide)⟩
theorem fminm (h : Head) (x : TBody) : Statement (.fminm h x) := by
  intro r e; cases e; exact ⟨ofWord_fT 0x47 h x (by decide) (by decide), toWord_ne_zero 0x47 h _ (by decide) (by decide)⟩
theorem fmaxm (h : Head) (x : TBody) : Statement (.fmaxm h x) := by
  intro r e; cases e; exact ⟨ofWord_fT 0x48 h x (by decide) (by decide), toWord_ne_zero 0x48 h _ (by decide) (by decide)⟩
theorem fcmpeq (h : Head) (x : TBody) : Statement (.fcmpeq h x) := by
  intro r e; cases e; exact ⟨ofWord_fT 0x49 h x (by decide) (by decide), toWord_ne_zero 0x49 h _ (by decide) (by decide)⟩
theorem fcmplt (h : Head) (x : TBody) : Statement (.fcmplt h x) := by
  intro r e; cases e; exact ⟨ofWord_fT 0x4A h x (by decide) (by decide), toWord_ne_zero 0x4A h _ (by decide) (by decide)⟩
theorem fcmple (h : Head) (x : TBody) : Statement (.fcmple h x) := by
  intro r e; cases e; exact ⟨ofWord_fT 0x4B h x (by decide) (by decide), toWord_ne_zero 0x4B h _ (by decide) (by decide)⟩
theorem fcmpun (h : Head) (x : TBody) : Statement (.fcmpun h x) := by
  intro r e; cases e; exact ⟨ofWord_fT 0x4C h x (by decide) (by decide), toWord_ne_zero 0x4C h _ (by decide) (by decide)⟩
theorem fabs (h : Head) (x : UBody) : Statement (.fabs h x) := by
  intro r e; cases e; exact ⟨ofWord_fU 0x4D h x (by decide) (by decide), toWord_ne_zero 0x4D h _ (by decide) (by decide)⟩
theorem fneg (h : Head) (x : UBody) : Statement (.fneg h x) := by
  intro r e; cases e; exact ⟨ofWord_fU 0x4E h x (by decide) (by decide), toWord_ne_zero 0x4E h _ (by decide) (by decide)⟩
theorem fscb (h : Head) (x : TBody) : Statement (.fscb h x) := by
  intro r e; cases e; exact ⟨ofWord_fT 0x4F h x (by decide) (by decide), toWord_ne_zero 0x4F h _ (by decide) (by decide)⟩
theorem fdiv (h : Head) (x : TBody) : Statement (.fdiv h x) := by
  intro r e; cases e; exact ⟨ofWord_fT 0x50 h x (by decide) (by decide), toWord_ne_zero 0x50 h _ (by decide) (by decide)⟩
theorem sfuExp2 (h : Head) (x : UBody) : Statement (.sfuExp2 h x) := by
  intro r e; cases e; exact ⟨ofWord_fU 0x51 h x (by decide) (by decide), toWord_ne_zero 0x51 h _ (by decide) (by decide)⟩
theorem sfuLog2 (h : Head) (x : UBody) : Statement (.sfuLog2 h x) := by
  intro r e; cases e; exact ⟨ofWord_fU 0x51 h x (by decide) (by decide), toWord_ne_zero 0x51 h _ (by decide) (by decide)⟩
theorem sfuRcp (h : Head) (x : UBody) : Statement (.sfuRcp h x) := by
  intro r e; cases e; exact ⟨ofWord_fU 0x51 h x (by decide) (by decide), toWord_ne_zero 0x51 h _ (by decide) (by decide)⟩
theorem sfuRsqrt (h : Head) (x : UBody) : Statement (.sfuRsqrt h x) := by
  intro r e; cases e; exact ⟨ofWord_fU 0x51 h x (by decide) (by decide), toWord_ne_zero 0x51 h _ (by decide) (by decide)⟩
theorem sfuSqrt (h : Head) (x : UBody) : Statement (.sfuSqrt h x) := by
  intro r e; cases e; exact ⟨ofWord_fU 0x51 h x (by decide) (by decide), toWord_ne_zero 0x51 h _ (by decide) (by decide)⟩
theorem sfuTanh (h : Head) (x : UBody) : Statement (.sfuTanh h x) := by
  intro r e; cases e; exact ⟨ofWord_fU 0x51 h x (by decide) (by decide), toWord_ne_zero 0x51 h _ (by decide) (by decide)⟩
theorem sfuSinpi (h : Head) (x : UBody) : Statement (.sfuSinpi h x) := by
  intro r e; cases e; exact ⟨ofWord_fU 0x51 h x (by decide) (by decide), toWord_ne_zero 0x51 h _ (by decide) (by decide)⟩
theorem sfuCospi (h : Head) (x : UBody) : Statement (.sfuCospi h x) := by
  intro r e; cases e; exact ⟨ofWord_fU 0x51 h x (by decide) (by decide), toWord_ne_zero 0x51 h _ (by decide) (by decide)⟩
theorem cvt (h : Head) (x : UBody) : Statement (.cvt h x) := by
  intro r e; cases e; exact ⟨ofWord_fU 0x52 h x (by decide) (by decide), toWord_ne_zero 0x52 h _ (by decide) (by decide)⟩
theorem cvtfi (h : Head) (x : UBody) : Statement (.cvtfi h x) := by
  intro r e; cases e; exact ⟨ofWord_fU 0x53 h x (by decide) (by decide), toWord_ne_zero 0x53 h _ (by decide) (by decide)⟩
theorem cvtif (h : Head) (x : UBody) : Statement (.cvtif h x) := by
  intro r e; cases e; exact ⟨ofWord_fU 0x54 h x (by decide) (by decide), toWord_ne_zero 0x54 h _ (by decide) (by decide)⟩
theorem frnd (h : Head) (x : UBody) : Statement (.frnd h x) := by
  intro r e; cases e; exact ⟨ofWord_fU 0x55 h x (by decide) (by decide), toWord_ne_zero 0x55 h _ (by decide) (by decide)⟩
theorem fsum (h : Head) (x : TBody) : Statement (.fsum h x) := by
  intro r e; cases e; exact ⟨ofWord_fT 0x56 h x (by decide) (by decide), toWord_ne_zero 0x56 h _ (by decide) (by decide)⟩
theorem fmaxr (h : Head) (x : TBody) : Statement (.fmaxr h x) := by
  intro r e; cases e; exact ⟨ofWord_fT 0x57 h x (by decide) (by decide), toWord_ne_zero 0x57 h _ (by decide) (by decide)⟩
theorem fdot (h : Head) (x : TBody) : Statement (.fdot h x) := by
  intro r e; cases e; exact ⟨ofWord_fT 0x58 h x (by decide) (by decide), toWord_ne_zero 0x58 h _ (by decide) (by decide)⟩
theorem expd (h : Head) (x : TBody) : Statement (.expd h x) := by
  intro r e; cases e; exact ⟨ofWord_fT 0x59 h x (by decide) (by decide), toWord_ne_zero 0x59 h _ (by decide) (by decide)⟩
theorem qblk (h : Head) (x : UBody) : Statement (.qblk h x) := by
  intro r e; cases e; exact ⟨ofWord_fU 0x5A h x (by decide) (by decide), toWord_ne_zero 0x5A h _ (by decide) (by decide)⟩
theorem dqblk (h : Head) (x : TBody) : Statement (.dqblk h x) := by
  intro r e; cases e; exact ⟨ofWord_fT 0x5B h x (by decide) (by decide), toWord_ne_zero 0x5B h _ (by decide) (by decide)⟩
theorem bpspl (h : Head) (x : TBody) : Statement (.bpspl h x) := by
  intro r e; cases e; exact ⟨ofWord_fT 0x5C h x (by decide) (by decide), toWord_ne_zero 0x5C h _ (by decide) (by decide)⟩
theorem bpjn (h : Head) (x : TBody) : Statement (.bpjn h x) := by
  intro r e; cases e; exact ⟨ofWord_fT 0x5D h x (by decide) (by decide), toWord_ne_zero 0x5D h _ (by decide) (by decide)⟩
theorem fcls (h : Head) (x : UBody) : Statement (.fcls h x) := by
  intro r e; cases e; exact ⟨ofWord_fU 0x5E h x (by decide) (by decide), toWord_ne_zero 0x5E h _ (by decide) (by decide)⟩
theorem plog (h : Head) (x : PBody) : Statement (.plog h x) := by
  intro r e; cases e; exact ⟨ofWord_fP 0x60 h x (by decide) (by decide), toWord_ne_zero 0x60 h _ (by decide) (by decide)⟩
theorem psetv (h : Head) (x : PBody) : Statement (.psetv h x) := by
  intro r e; cases e; exact ⟨ofWord_fP 0x61 h x (by decide) (by decide), toWord_ne_zero 0x61 h _ (by decide) (by decide)⟩
theorem ptos (h : Head) (x : UBody) : Statement (.ptos h x) := by
  intro r e; cases e; exact ⟨ofWord_fU 0x62 h x (by decide) (by decide), toWord_ne_zero 0x62 h _ (by decide) (by decide)⟩
theorem stop (h : Head) (x : UBody) : Statement (.stop h x) := by
  intro r e; cases e; exact ⟨ofWord_fU 0x63 h x (by decide) (by decide), toWord_ne_zero 0x63 h _ (by decide) (by decide)⟩
theorem trap (h : Head) (x : UBody) : Statement (.trap h x) := by
  intro r e; cases e; exact ⟨ofWord_fU 0x64 h x (by decide) (by decide), toWord_ne_zero 0x64 h _ (by decide) (by decide)⟩
theorem bkpt (h : Head) (x : UBody) : Statement (.bkpt h x) := by
  intro r e; cases e; exact ⟨ofWord_fU 0x65 h x (by decide) (by decide), toWord_ne_zero 0x65 h _ (by decide) (by decide)⟩
theorem idle (h : Head) (x : UBody) : Statement (.idle h x) := by
  intro r e; cases e; exact ⟨ofWord_fU 0x66 h x (by decide) (by decide), toWord_ne_zero 0x66 h _ (by decide) (by decide)⟩
theorem nop (h : Head) (x : UBody) : Statement (.nop h x) := by
  intro r e; cases e; exact ⟨ofWord_fU 0x67 h x (by decide) (by decide), toWord_ne_zero 0x67 h _ (by decide) (by decide)⟩
theorem ldb (h : Head) (x : MBody) : Statement (.ldb h x) := by
  intro r e; cases e; exact ⟨ofWord_fM 0x68 h x (by decide) (by decide), toWord_ne_zero 0x68 h _ (by decide) (by decide)⟩
theorem stb (h : Head) (x : MBody) : Statement (.stb h x) := by
  intro r e; cases e; exact ⟨ofWord_fM 0x69 h x (by decide) (by decide), toWord_ne_zero 0x69 h _ (by decide) (by decide)⟩
theorem ldbi (h : Head) (x : MBody) : Statement (.ldbi h x) := by
  intro r e; cases e; exact ⟨ofWord_fM 0x6A h x (by decide) (by decide), toWord_ne_zero 0x6A h _ (by decide) (by decide)⟩
theorem stbi (h : Head) (x : MBody) : Statement (.stbi h x) := by
  intro r e; cases e; exact ⟨ofWord_fM 0x6B h x (by decide) (by decide), toWord_ne_zero 0x6B h _ (by decide) (by decide)⟩
theorem atb (h : Head) (x : MBody) : Statement (.atb h x) := by
  intro r e; cases e; exact ⟨ofWord_fM 0x6C h x (by decide) (by decide), toWord_ne_zero 0x6C h _ (by decide) (by decide)⟩
theorem casb (h : Head) (x : MBody) : Statement (.casb h x) := by
  intro r e; cases e; exact ⟨ofWord_fM 0x6D h x (by decide) (by decide), toWord_ne_zero 0x6D h _ (by decide) (by decide)⟩
theorem spl (h : Head) (x : MBody) : Statement (.spl h x) := by
  intro r e; cases e; exact ⟨ofWord_fM 0x6E h x (by decide) (by decide), toWord_ne_zero 0x6E h _ (by decide) (by decide)⟩
theorem fil (h : Head) (x : MBody) : Statement (.fil h x) := by
  intro r e; cases e; exact ⟨ofWord_fM 0x6F h x (by decide) (by decide), toWord_ne_zero 0x6F h _ (by decide) (by decide)⟩
theorem ldpw (h : Head) (x : UBody) : Statement (.ldpw h x) := by
  intro r e; cases e; exact ⟨ofWord_fU 0x77 h x (by decide) (by decide), toWord_ne_zero 0x77 h _ (by decide) (by decide)⟩
theorem emit (h : Head) (x : KBody) : Statement (.emit h x) := by
  intro r e; cases e; exact ⟨ofWord_fK 0x70 h x (by decide) (by decide), toWord_ne_zero 0x70 h _ (by decide) (by decide)⟩
theorem eos (h : Head) (x : KBody) : Statement (.eos h x) := by
  intro r e; cases e; exact ⟨ofWord_fK 0x71 h x (by decide) (by decide), toWord_ne_zero 0x71 h _ (by decide) (by decide)⟩
theorem mark (h : Head) (x : KBody) : Statement (.mark h x) := by
  intro r e; cases e; exact ⟨ofWord_fK 0x72 h x (by decide) (by decide), toWord_ne_zero 0x72 h _ (by decide) (by decide)⟩
theorem weep (h : Head) (x : KBody) : Statement (.weep h x) := by
  intro r e; cases e; exact ⟨ofWord_fK 0x73 h x (by decide) (by decide), toWord_ne_zero 0x73 h _ (by decide) (by decide)⟩
theorem drop (h : Head) (x : KBody) : Statement (.drop h x) := by
  intro r e; cases e; exact ⟨ofWord_fK 0x74 h x (by decide) (by decide), toWord_ne_zero 0x74 h _ (by decide) (by decide)⟩
theorem rtag (h : Head) (x : KBody) : Statement (.rtag h x) := by
  intro r e; cases e; exact ⟨ofWord_fK 0x75 h x (by decide) (by decide), toWord_ne_zero 0x75 h _ (by decide) (by decide)⟩
theorem steer (h : Head) (x : KBody) : Statement (.steer h x) := by
  intro r e; cases e; exact ⟨ofWord_fK 0x76 h x (by decide) (by decide), toWord_ne_zero 0x76 h _ (by decide) (by decide)⟩
theorem gld (h : Head) (x : XBody) : Statement (.gld h x) := by
  intro r e; cases e; exact ⟨ofWord_fX 0x78 h x (by decide) (by decide), toWord_ne_zero 0x78 h _ (by decide) (by decide)⟩
theorem gst (h : Head) (x : XBody) : Statement (.gst h x) := by
  intro r e; cases e; exact ⟨ofWord_fX 0x79 h x (by decide) (by decide), toWord_ne_zero 0x79 h _ (by decide) (by decide)⟩
theorem gat (h : Head) (x : XBody) : Statement (.gat h x) := by
  intro r e; cases e; exact ⟨ofWord_fX 0x7A h x (by decide) (by decide), toWord_ne_zero 0x7A h _ (by decide) (by decide)⟩
theorem strmArm (h : Head) (x : XBody) : Statement (.strmArm h x) := by
  intro r e; cases e; exact ⟨ofWord_fX 0x7B h x (by decide) (by decide), toWord_ne_zero 0x7B h _ (by decide) (by decide)⟩
theorem strmAbort (h : Head) (x : XBody) : Statement (.strmAbort h x) := by
  intro r e; cases e; exact ⟨ofWord_fX 0x7B h x (by decide) (by decide), toWord_ne_zero 0x7B h _ (by decide) (by decide)⟩
theorem strmStat (h : Head) (x : XBody) : Statement (.strmStat h x) := by
  intro r e; cases e; exact ⟨ofWord_fX 0x7B h x (by decide) (by decide), toWord_ne_zero 0x7B h _ (by decide) (by decide)⟩
theorem ttq (h : Head) (x : XBody) : Statement (.ttq h x) := by
  intro r e; cases e; exact ⟨ofWord_fX 0x7C h x (by decide) (by decide), toWord_ne_zero 0x7C h _ (by decide) (by decide)⟩
theorem ttqTid (h : Head) (x : XBody) : Statement (.ttqTid h x) := by
  intro r e; cases e; exact ⟨ofWord_fX 0x7C h x (by decide) (by decide), toWord_ne_zero 0x7C h _ (by decide) (by decide)⟩
theorem slfFire (h : Head) (x : XBody) : Statement (.slfFire h x) := by
  intro r e; cases e; exact ⟨ofWord_fX 0x7D h x (by decide) (by decide), toWord_ne_zero 0x7D h _ (by decide) (by decide)⟩
theorem slfHdrLaunch (h : Head) (x : XBody) : Statement (.slfHdrLaunch h x) := by
  intro r e; cases e; exact ⟨ofWord_fX 0x7D h x (by decide) (by decide), toWord_ne_zero 0x7D h _ (by decide) (by decide)⟩
theorem slfHdrRd (h : Head) (x : XBody) : Statement (.slfHdrRd h x) := by
  intro r e; cases e; exact ⟨ofWord_fX 0x7D h x (by decide) (by decide), toWord_ne_zero 0x7D h _ (by decide) (by decide)⟩
theorem slfHdrWr (h : Head) (x : XBody) : Statement (.slfHdrWr h x) := by
  intro r e; cases e; exact ⟨ofWord_fX 0x7D h x (by decide) (by decide), toWord_ne_zero 0x7D h _ (by decide) (by decide)⟩
theorem slfFin (h : Head) (x : XBody) : Statement (.slfFin h x) := by
  intro r e; cases e; exact ⟨ofWord_fX 0x7D h x (by decide) (by decide), toWord_ne_zero 0x7D h _ (by decide) (by decide)⟩
theorem slfRoute (h : Head) (x : XBody) : Statement (.slfRoute h x) := by
  intro r e; cases e; exact ⟨ofWord_fX 0x7D h x (by decide) (by decide), toWord_ne_zero 0x7D h _ (by decide) (by decide)⟩
theorem slfPin (h : Head) (x : XBody) : Statement (.slfPin h x) := by
  intro r e; cases e; exact ⟨ofWord_fX 0x7D h x (by decide) (by decide), toWord_ne_zero 0x7D h _ (by decide) (by decide)⟩
theorem slfUnpin (h : Head) (x : XBody) : Statement (.slfUnpin h x) := by
  intro r e; cases e; exact ⟨ofWord_fX 0x7D h x (by decide) (by decide), toWord_ne_zero 0x7D h _ (by decide) (by decide)⟩
theorem slfLook (h : Head) (x : XBody) : Statement (.slfLook h x) := by
  intro r e; cases e; exact ⟨ofWord_fX 0x7D h x (by decide) (by decide), toWord_ne_zero 0x7D h _ (by decide) (by decide)⟩
theorem fqryPost (h : Head) (x : XBody) : Statement (.fqryPost h x) := by
  intro r e; cases e; exact ⟨ofWord_fX 0x7E h x (by decide) (by decide), toWord_ne_zero 0x7E h _ (by decide) (by decide)⟩
theorem fqryCncl (h : Head) (x : XBody) : Statement (.fqryCncl h x) := by
  intro r e; cases e; exact ⟨ofWord_fX 0x7E h x (by decide) (by decide), toWord_ne_zero 0x7E h _ (by decide) (by decide)⟩
theorem sysXfence (h : Head) (x : XBody) : Statement (.sysXfence h x) := by
  intro r e; cases e; exact ⟨ofWord_fX 0x7F h x (by decide) (by decide), toWord_ne_zero 0x7F h _ (by decide) (by decide)⟩
theorem sysHandover (h : Head) (x : XBody) : Statement (.sysHandover h x) := by
  intro r e; cases e; exact ⟨ofWord_fX 0x7F h x (by decide) (by decide), toWord_ne_zero 0x7F h _ (by decide) (by decide)⟩
theorem sysRdbsr (h : Head) (x : XBody) : Statement (.sysRdbsr h x) := by
  intro r e; cases e; exact ⟨ofWord_fX 0x7F h x (by decide) (by decide), toWord_ne_zero 0x7F h _ (by decide) (by decide)⟩
theorem sysWrbsr (h : Head) (x : XBody) : Statement (.sysWrbsr h x) := by
  intro r e; cases e; exact ⟨ofWord_fX 0x7F h x (by decide) (by decide), toWord_ne_zero 0x7F h _ (by decide) (by decide)⟩
theorem sysWatch (h : Head) (x : XBody) : Statement (.sysWatch h x) := by
  intro r e; cases e; exact ⟨ofWord_fX 0x7F h x (by decide) (by decide), toWord_ne_zero 0x7F h _ (by decide) (by decide)⟩
theorem sysSink (h : Head) (x : XBody) : Statement (.sysSink h x) := by
  intro r e; cases e; exact ⟨ofWord_fX 0x7F h x (by decide) (by decide), toWord_ne_zero 0x7F h _ (by decide) (by decide)⟩
theorem sysWptr (h : Head) (x : XBody) : Statement (.sysWptr h x) := by
  intro r e; cases e; exact ⟨ofWord_fX 0x7F h x (by decide) (by decide), toWord_ne_zero 0x7F h _ (by decide) (by decide)⟩
theorem sysRdts (h : Head) (x : XBody) : Statement (.sysRdts h x) := by
  intro r e; cases e; exact ⟨ofWord_fX 0x7F h x (by decide) (by decide), toWord_ne_zero 0x7F h _ (by decide) (by decide)⟩
theorem beatIssue (b : BrickId) : Statement (.beatIssue b) := by intro r e; cases e
theorem beatWriteBack (b : BrickId) (k : Nat) : Statement (.beatWriteBack b k) := by intro r e; cases e
theorem firingCommit (b : BrickId) : Statement (.firingCommit b) := by intro r e; cases e
theorem preciseTrap (b : BrickId) : Statement (.preciseTrap b) := by intro r e; cases e
theorem pickerWake (b : BrickId) : Statement (.pickerWake b) := by intro r e; cases e
theorem tokenArrival (n : Nat) : Statement (.tokenArrival n) := by intro r e; cases e
theorem gutterRefill (b : BrickId) (ch : Nat) : Statement (.gutterRefill b ch) := by intro r e; cases e
theorem tokenForward (p : PortRef) : Statement (.tokenForward p) := by intro r e; cases e
theorem branchHoldDeliver (p : PortRef) (branch : Nat) : Statement (.branchHoldDeliver p branch) := by intro r e; cases e
theorem brickAlign (b : BrickId) : Statement (.brickAlign b) := by intro r e; cases e
theorem regionRoundUpdate (r : RegionId) : Statement (.regionRoundUpdate r) := by intro r e; cases e
theorem brickWeep (b : BrickId) : Statement (.brickWeep b) := by intro r e; cases e
theorem weepOrder (r : RegionId) : Statement (.weepOrder r) := by intro r e; cases e
theorem reconfigApply (b : BrickId) : Statement (.reconfigApply b) := by intro r e; cases e
theorem brickReclaim (b : BrickId) : Statement (.brickReclaim b) := by intro r e; cases e
theorem ownerRequest (n : Nat) : Statement (.ownerRequest n) := by intro r e; cases e
theorem coalesceTimeout (e : BrickId) (line : Nat) : Statement (.coalesceTimeout e line) := by intro r e; cases e
theorem pageWalk (n : Nat) : Statement (.pageWalk n) := by intro r e; cases e
theorem loftAccess (n : Nat) : Statement (.loftAccess n) := by intro r e; cases e
theorem loftFillDone (line : Nat) : Statement (.loftFillDone line) := by intro r e; cases e
theorem hbmRequest (line : Nat) : Statement (.hbmRequest line) := by intro r e; cases e
theorem deadlineService (line : Nat) : Statement (.deadlineService line) := by intro r e; cases e
theorem refreshStart (stack pc : Nat) : Statement (.refreshStart stack pc) := by intro r e; cases e
theorem refreshEnd (stack pc : Nat) : Statement (.refreshEnd stack pc) := by intro r e; cases e
theorem stackSensorReading (stack temp : Nat) : Statement (.stackSensorReading stack temp) := by intro r e; cases e
theorem thermtrip (stack : Nat) : Statement (.thermtrip stack) := by intro r e; cases e
theorem talwUpdate (die rise : Nat) : Statement (.talwUpdate die rise) := by intro r e; cases e
theorem thermalNotice (r : RegionId) (stack : Nat) : Statement (.thermalNotice r stack) := by intro r e; cases e
theorem rstallRead (stack : Nat) : Statement (.rstallRead stack) := by intro r e; cases e
theorem rebase (t : Nat) : Statement (.rebase t) := by intro r e; cases e
theorem invcmdVa (die t page : Nat) : Statement (.invcmdVa die t page) := by intro r e; cases e
theorem invcmdTenancy (die t : Nat) : Statement (.invcmdTenancy die t) := by intro r e; cases e
theorem invcmdComplete (die : Nat) : Statement (.invcmdComplete die) := by intro r e; cases e
theorem globalReturn (n : Nat) : Statement (.globalReturn n) := by intro r e; cases e
theorem handoverMessage (n : Nat) : Statement (.handoverMessage n) := by intro r e; cases e
theorem handoverRelease (n : Nat) : Statement (.handoverRelease n) := by intro r e; cases e
theorem streamTileStart (b : BrickId) (r : Nat) : Statement (.streamTileStart b r) := by intro r e; cases e
theorem streamWordSend (b : BrickId) (r : Nat) : Statement (.streamWordSend b r) := by intro r e; cases e
theorem streamInputTake (b : BrickId) (r : Nat) : Statement (.streamInputTake b r) := by intro r e; cases e
theorem streamRunEnd (b : BrickId) (r : Nat) : Statement (.streamRunEnd b r) := by intro r e; cases e
theorem drawPortTake (b : BrickId) : Statement (.drawPortTake b) := by intro r e; cases e
theorem paramPortTake (b : BrickId) : Statement (.paramPortTake b) := by intro r e; cases e
theorem paramApply (b : BrickId) : Statement (.paramApply b) := by intro r e; cases e
theorem taskRecordArrival (b : BrickId) : Statement (.taskRecordArrival b) := by intro r e; cases e
theorem windowEnter (die course : Nat) : Statement (.windowEnter die course) := by intro r e; cases e
theorem staleRecord (die course : Nat) (k : Nat) : Statement (.staleRecord die course k) := by intro r e; cases e
theorem taskIssue (die course : Nat) : Statement (.taskIssue die course) := by intro r e; cases e
theorem taskComputeEnd (b : BrickId) (acc : Nat) : Statement (.taskComputeEnd b acc) := by intro r e; cases e
theorem drainStart (b : BrickId) (acc : Nat) : Statement (.drainStart b acc) := by intro r e; cases e
theorem drainWord (b : BrickId) (acc : Nat) : Statement (.drainWord b acc) := by intro r e; cases e
theorem taskDone (b : BrickId) (acc : Nat) : Statement (.taskDone b acc) := by intro r e; cases e
theorem steerPortTake (die course : Nat) : Statement (.steerPortTake die course) := by intro r e; cases e
theorem slateMapOperation (n : Nat) : Statement (.slateMapOperation n) := by intro r e; cases e
theorem slateRelease (n : Nat) : Statement (.slateRelease n) := by intro r e; cases e
theorem frameLand (n : Nat) : Statement (.frameLand n) := by intro r e; cases e
theorem dockNotice (b : BrickId) (dock : Nat) : Statement (.dockNotice b dock) := by intro r e; cases e
theorem launchCopyEnd (b : BrickId) (dock : Nat) : Statement (.launchCopyEnd b dock) := by intro r e; cases e
theorem fireEnd (b : BrickId) (dock : Nat) : Statement (.fireEnd b dock) := by intro r e; cases e
theorem ringPortSend (b : BrickId) (dock : Nat) : Statement (.ringPortSend b dock) := by intro r e; cases e
theorem finTokenEmit (b : BrickId) (dock : Nat) : Statement (.finTokenEmit b dock) := by intro r e; cases e
theorem gatewayContribution (die : Nat) : Statement (.gatewayContribution die) := by intro r e; cases e
theorem gatewayCombine (gid : Nat) : Statement (.gatewayCombine gid) := by intro r e; cases e
theorem footingPacketArrival (b : BrickId) : Statement (.footingPacketArrival b) := by intro r e; cases e
theorem queryStart (eng : Nat) : Statement (.queryStart eng) := by intro r e; cases e
theorem expansionStep (eng q : Nat) : Statement (.expansionStep eng q) := by intro r e; cases e
theorem distanceRequest (eng q k : Nat) : Statement (.distanceRequest eng q k) := by intro r e; cases e
theorem queryComplete (eng q : Nat) : Statement (.queryComplete eng q) := by intro r e; cases e
theorem qblkBufferEmit (b : BrickId) : Statement (.qblkBufferEmit b) := by intro r e; cases e
theorem regionCompletion (r : RegionId) : Statement (.regionCompletion r) := by intro r e; cases e
theorem completionWordStore (r : RegionId) : Statement (.completionWordStore r) := by intro r e; cases e
theorem countWave (r : RegionId) : Statement (.countWave r) := by intro r e; cases e
theorem regionFault (r : RegionId) : Statement (.regionFault r) := by intro r e; cases e
theorem bindSubmit (r : RegionId) (w0 : Word) : Statement (.bindSubmit r w0) := by intro r e; cases e
theorem reconfigSubmit (r : RegionId) : Statement (.reconfigSubmit r) := by intro r e; cases e
theorem dispatchLoad (die : Nat) : Statement (.dispatchLoad die) := by intro r e; cases e
theorem heldRecordRelease (r : RegionId) : Statement (.heldRecordRelease r) := by intro r e; cases e
theorem bstatKill (r : RegionId) (node : Nat) : Statement (.bstatKill r node) := by intro r e; cases e
theorem bstatClr (r : RegionId) : Statement (.bstatClr r) := by intro r e; cases e
theorem bayGrant (node : Nat) (baysAsked : Nat) : Statement (.bayGrant node baysAsked) := by intro r e; cases e
theorem bayReturn (node bay : Nat) : Statement (.bayReturn node bay) := by intro r e; cases e
theorem swcmd (die : Nat) (value : Word) : Statement (.swcmd die value) := by intro r e; cases e
theorem setwStop (b : BrickId) : Statement (.setwStop b) := by intro r e; cases e
theorem setwWaitExpiry (r : RegionId) : Statement (.setwWaitExpiry r) := by intro r e; cases e
theorem imageCapture (r : RegionId) : Statement (.imageCapture r) := by intro r e; cases e
theorem bsrCtlPickSet (b : BrickId) : Statement (.bsrCtlPickSet b) := by intro r e; cases e
theorem bsrCtlPickClear (b : BrickId) : Statement (.bsrCtlPickClear b) := by intro r e; cases e
theorem bsrCtlStep (b : BrickId) (on : Bool) : Statement (.bsrCtlStep b on) := by intro r e; cases e
theorem bsrCtlPass (b : BrickId) : Statement (.bsrCtlPass b) := by intro r e; cases e
theorem tscfgWrite (t : Nat) (value : Word) : Statement (.tscfgWrite t value) := by intro r e; cases e
theorem errwinWrite (value : Word) : Statement (.errwinWrite value) := by intro r e; cases e
theorem registerWrite (r : RegName) (value : Word) : Statement (.registerWrite r value) := by intro r e; cases e
theorem patrolScrub (b : BrickId) : Statement (.patrolScrub b) := by intro r e; cases e
theorem errorEvent (u : UnitRef) (kind : ErrorKind) (addr : Nat) : Statement (.errorEvent u kind addr) := by intro r e; cases e
theorem boot : Statement .boot := by intro r e; cases e
theorem mapoutRemove (b : BrickId) : Statement (.mapoutRemove b) := by intro r e; cases e
theorem kick : Statement .kick := by intro r e; cases e
theorem kickReread : Statement .kickReread := by intro r e; cases e
theorem completionPost : Statement .completionPost := by intro r e; cases e
theorem cqbaseWrite (value : Word) : Statement (.cqbaseWrite value) := by intro r e; cases e
theorem hostNop : Statement .hostNop := by intro r e; cases e
theorem summary : Statement .summary := by intro r e; cases e
theorem chkpt : Statement .chkpt := by intro r e; cases e
theorem tenset : Statement .tenset := by intro r e; cases e
theorem tenclr : Statement .tenclr := by intro r e; cases e
theorem keymap : Statement .keymap := by intro r e; cases e
theorem restore (safeTier : List Byte) : Statement (.restore safeTier) := by intro r e; cases e
theorem keyload (session t hash key : Nat) : Statement (.keyload session t hash key) := by intro r e; cases e
theorem keydrop (session slot : Nat) : Statement (.keydrop session slot) := by intro r e; cases e
theorem spdmGetCertificate : Statement .spdmGetCertificate := by intro r e; cases e
theorem spdmChallenge (nonce : Nat) : Statement (.spdmChallenge nonce) := by intro r e; cases e
theorem spdmGetMeasurements (index nonce : Nat) : Statement (.spdmGetMeasurements index nonce) := by intro r e; cases e
theorem spdmKeyExchange (request : SessionRequest) : Statement (.spdmKeyExchange request) := by intro r e; cases e
theorem weightChunkRead (b : BrickId) (va : Nat) : Statement (.weightChunkRead b va) := by intro r e; cases e
theorem ringFlitReceive (port : Nat) (flit : List Byte) : Statement (.ringFlitReceive port flit) := by intro r e; cases e
theorem linkdown (u : UnitRef) : Statement (.linkdown u) := by intro r e; cases e
theorem powerLimitStepDown (watts : Nat) : Statement (.powerLimitStepDown watts) := by intro r e; cases e
theorem powerStepUp (watts : Nat) : Statement (.powerStepUp watts) := by intro r e; cases e
theorem tdiLeaveRun (t : Nat) (target : TdiState) : Statement (.tdiLeaveRun t target) := by intro r e; cases e
theorem internalAcknowledgement (n : Nat) : Statement (.internalAcknowledgement n) := by intro r e; cases e
theorem hstAccess (t : Nat) (ide : Bool) (va : Nat) (store : Option (List Byte)) (len : Nat) : Statement (.hstAccess t ide va store len) := by intro r e; cases e
theorem tdiEnterRun (t : Nat) (bound : Bool) : Statement (.tdiEnterRun t bound) := by intro r e; cases e

end Sys2Proof.Laws.FieldsKept
end

