-- ==== Sys2Proof/Machine/View.lean ====
section
/-! DEFINITION. What a management-window read answers: the registers of the physical function's view, and of a tenancy's TDI (R434). A read changes nothing but RSTALL (R237), whose read is the step RSTALL_READ. -/

namespace Sys2Proof.Machine

open Sys2Proof

/-- The readable registers, each under its own name. -/
inductive ReadReg where
  /-- CAPB (R15) -/
  | capb
  /-- word i of BPM (R16) -/
  | bpm (i : Nat)
  /-- TRUSSBASE of die 0 (R366) -/
  | trussbase
  /-- LDDIAG and LDWORD of a die (R48) -/
  | lddiag (die : Nat)
  | ldword (die : Nat)
  /-- INVCMD of a die (R229) -/
  | invcmd (die : Nat)
  /-- TALW of a die (R239) -/
  | talw (die : Nat)
  /-- SWADDR and SWCMD of a die (R387) -/
  | swaddr (die : Nat)
  | swcmd (die : Nat)
  /-- FLOGCTL of a die, and word w of entry k of its fault log (R400, R401) -/
  | flogctl (die : Nat)
  | flog (die k w : Nat)
  /-- RSTALL of a stack (R237) -/
  | rstall (stack : Nat)
  /-- word i of a bind slot, and BSTAT (R370, R371) -/
  | bind (r : RegionId) (i : Nat)
  | bstat (r : RegionId)
  /-- TQST of a course (R302) -/
  | tqst (die course : Nat)
  /-- ERRWIN (R406) -/
  | errwin
  /-- FCLK (R444) -/
  | fclk
  /-- TENCFG, TENLANE and TENPORT of a tenancy (R411, R412) -/
  | tencfg (t : Nat)
  | tenlane (t : Nat)
  | tenport (t : Nat)
  /-- PWDROP of a tenancy (R419) -/
  | pwdrop (t : Nat)
  /-- PTROOT and TSCFG of a tenancy (R224, R272) -/
  | ptroot (t : Nat)
  | tscfg (t : Nat)
  /-- KSTAT of a key slot (R425) -/
  | kstat (k : Nat)
  /-- CQPROD and KDROP (R437, R439) -/
  | cqprod
  | kdrop
  /-- word i of mailbox slot n (R436) -/
  | mailbox (n i : Nat)
  /-- status register n of a brick, and its GMAP (R80, R205) -/
  | bsr (b : BrickId) (n : Nat)
  | gmap (b : BrickId)
  /-- word w of a truss node (R366) -/
  | node (n w : Nat)
  deriving DecidableEq, Repr

/-- PWDROP (R419). -/
def Tenancy.pwdrop (x : Tenancy) : Word := BitVec.ofNat 64 (x.drops * 2 ^ 32 + x.lbay % 32)

/-- ERRWIN (R406). -/
def State.errwinWord (s : State) : Word := BitVec.ofNat 64 (s.errwin.1 * 2 ^ 24 + s.errwin.2.1 * 2 ^ 8 + s.errwin.2.2)

/-- `bsr` registers in the management window: as a rule reads them, but that PEND reads what it holds (R80, R81); numbers 0x11 to 0x7F, which are unassigned, read 0. -/
def State.bsrWindow (s : State) (b : BrickId) (n : Nat) : Nat :=
  let x := s.brick b
  if n = 2 then x.pval.toNat + x.pend.toNat * 2 ^ 8 else if n ≤ 0x10 then bsrRead x s.now n else 0

/-- Word w of entry k of a die's fault log; an entry never written reads 0 (log 2). -/
def Die.logWord (d : Die) (k w : Nat) : Word := (d.log.getD (k % 256) []).getD w 0

/-- The physical function's view: every register, and no key material (R434). -/
def State.window (s : State) : ReadReg → Word
  | .capb => s.capb
  | .bpm i => s.bpm.getD i 0
  | .trussbase => 0
  | .lddiag d => (s.die d).lddiag
  | .ldword d => (s.die d).ldword
  | .invcmd d => (s.die d).invcmd
  | .talw d => (s.die d).talw
  | .swaddr d => (s.die d).swaddr
  | .swcmd d => (s.die d).swcmd
  | .flogctl d => (s.die d).flogctl
  | .flog d k w => (s.die d).logWord k w
  | .rstall st => s.rstall st
  | .bind r i => BitVec.ofNat 64 ((s.slot r).word i)
  | .bstat r => s.bstat r
  | .tqst d c => BitVec.ofNat 64 (s.tqst d c)
  | .errwin => s.errwinWord
  | .fclk => BitVec.ofNat 64 (s.fclk % 32)
  | .tencfg t => (s.tenancy t).cfg
  | .tenlane t => (s.tenancy t).lane
  | .tenport t => (s.tenancy t).port
  | .pwdrop t => (s.tenancy t).pwdrop
  | .ptroot t => (s.tenancy t).root
  | .tscfg t => (s.tenancy t).tscfg
  | .kstat k => (s.keySlot k).kstat
  | .cqprod => BitVec.ofNat 64 (b2n s.host.phase * 2 ^ 8 + s.host.prod)
  | .kdrop => BitVec.ofNat 64 s.host.dropped
  | .mailbox n i => (s.host.slotWords n).getD i 0
  | .bsr b n => BitVec.ofNat 64 (s.bsrWindow b n)
  | .gmap b => (s.brick b).gmap.zeroExtend 64
  | .node n w => BitVec.ofNat 64 (s.nodeWord n w)

/-- TEN of a fault record (R401). -/
def recordTen (w0 : Word) : Nat := bits w0.toNat 55 50

/-- What is a tenancy's own (R434): its registers of R411, R412 and R419, its PTROOT and TSCFG, KSTAT of the slots that it holds, and fault records with its TEN. -/
def State.ownRegister (s : State) (t : Nat) : ReadReg → Bool
  | .tencfg u | .tenlane u | .tenport u | .pwdrop u | .ptroot u | .tscfg u => u = t
  | .kstat k => (s.keySlot k).st ≠ 0 && (s.keySlot k).tenancy = t
  | .flog d k _ => !((s.die d).log.getD (k % 256) []).isEmpty && recordTen ((s.die d).logWord k 0) = t
  | .capb | .bpm _ | .trussbase | .lddiag _ | .ldword _ | .invcmd _ | .talw _ | .swaddr _ | .swcmd _ | .flogctl _ | .rstall _ | .bind .. | .bstat _
  | .tqst .. | .errwin | .fclk | .cqprod | .kdrop | .mailbox .. | .bsr .. | .gmap _ | .node .. => false

/-- The management view of tenancy t's TDI: none where it does not hold the register (R434). -/
def State.tdiView (s : State) (t : Nat) (r : ReadReg) : Option Word := if s.ownRegister t r then some (s.window r) else none

end Sys2Proof.Machine
end

