-- ==== Sys2Proof/Safety.lean ====
section
/-! DEFINITION. The terms in which statements are made: the canonical form of the memories, the clock, when a rule may fire, what it then computes, and the operands it reads. -/

namespace Sys2Proof.Machine

open Sys2Proof

/-- Every memory is in its one canonical form: HBM, the host's memory, and the bank of every listed brick. -/
def State.memWf (s : State) : Prop :=
  Memory.wf s.hbm = true ∧ Memory.wf s.host.memory = true ∧ ∀ e ∈ s.bricks, Memory.wf e.2.bank = true

/-- The fabric clock runs between 0.1 and 2.7 GHz, in steps of 100 MHz, since a cycle that has passed, and no field of the error window is zero (R9, R406, R444). -/
def State.clockOk (s : State) : Prop :=
  1 ≤ s.fclk ∧ s.fclk ≤ 27 ∧ s.clockAt ≤ s.now ∧ 1 ≤ s.errwin.1 ∧ 1 ≤ s.errwin.2.1 ∧ 1 ≤ s.errwin.2.2

/-- The word in the slot in focus. -/
def State.focusWord (s : State) : Word := (s.brick s.focus.1).pool.getD s.focus.2 0

/-- The picker of the brick in focus runs, and the slot in focus is eligible with instruction `i` (R65). -/
def MayFire (i : Instr) (s : State) : Prop :=
  pickerRuns s.now (s.brick s.focus.1) = true ∧ eligible s s.focus.1 s.focus.2 s.focusWord i = true

/-- Whenever the rule may fire, it fires, and every beat of it computes `o` (R65, R70). -/
def Computes (i : Instr) (o : Beat) : Prop :=
  beatOf i = some o ∧ ∀ s, MayFire i s → ∃ r, ruleInfo i = some r ∧ exec i s = .next (fired i o s r)

/-- Whenever the rule may fire, it completes its fire cycle: a next state, in which its firing is the last in flight in its brick (R65, R67). -/
def Completes (i : Instr) : Prop :=
  ∀ s, MayFire i s → ∃ t f, exec i s = .next t ∧ (t.brick s.focus.1).firings = (s.brick s.focus.1).firings ++ [f] ∧
    f.instr = i ∧ f.slot = s.focus.2 ∧ f.fired = s.now ∧ f.issued = 1 ∧ f.committed = false

/-- The value of the A, B and D operands in a beat (R37, R38, R107). -/
abbrev srcA (s : State) (b : BrickId) (f : Firing) (r : RuleInfo) (n : Nat) : Nat := fieldValue s b f r r.au r.a n
abbrev srcB (s : State) (b : BrickId) (f : Firing) (r : RuleInfo) (n : Nat) : Nat := fieldValue s b f r r.bu r.b n
abbrev srcD (s : State) (b : BrickId) (f : Firing) (r : RuleInfo) (n : Nat) : Nat := fieldValue s b f r r.du r.d n

end Sys2Proof.Machine
end

