-- ==== Sys2Proof/Certificates/Slice0/Obligations.lean ====
section
/-! DEFINITION. The statements for the provers. -/

open Sys2Proof Sys2Proof.Machine

/-! ## Rules: what each computes

`Computes i o` says that the rule `i` fires, with every beat of it giving `o`, at every state whose picker runs and finds the slot in focus eligible. A beat's value goes to D, its flag to PMODE 10, its `cmp` to a compare's predicate. `beatAB wid op` is the beat that reads A and B at w bits and writes `(op w A B).1` with the flag `(op w A B).2`. -/

/-- R111, R112: ADD, SUB, ADDI, and the chained carry of ADC and SBB, which starts from p[PDST] as read at the fire cycle. -/
def Obligations.AddAndSubtract : Prop :=
  ∀ (h : Head) (x : TBody) (y : IBody),
    Computes (.add h x) (beatAB x.wid fun w a b => ((a + b) % 2 ^ w, decide (2 ^ w ≤ a + b))) ∧
    Computes (.sub h x) (beatAB x.wid fun w a b => (lowBits w ((a : Int) - b), decide ((a : Int) - b < 0))) ∧
    Computes (.addi h y) (beatDI y fun w d i => ((d + i) % 2 ^ w, decide (2 ^ w ≤ d + i))) ∧
    Computes (.adc h x) (fun s b f r n =>
      let w := intBits x.wid.toNat
      let t := srcA s b f r n + srcB s b f r n + b2n (if n = 0 then bit f.preds x.pdst.toNat else f.chain)
      { write := some (t % 2 ^ w), judge := t % 2 ^ w, flag := decide (2 ^ w ≤ t), chain := decide (2 ^ w ≤ t) }) ∧
    Computes (.sbb h x) (fun s b f r n =>
      let w := intBits x.wid.toNat
      let t : Int := (srcA s b f r n : Int) - srcB s b f r n - b2n (if n = 0 then bit f.preds x.pdst.toNat else f.chain)
      { write := some (lowBits w t), judge := lowBits w t, flag := decide (t < 0), chain := decide (t < 0) })

/-- R113: MUL with its signed-overflow flag, the high halves of MULH and MULHU, and MAD. -/
def Obligations.Multiply : Prop :=
  ∀ (h : Head) (x : TBody),
    Computes (.mul h x) (beatAB x.wid fun w a b =>
      (a * b % 2 ^ w, decide (signed w a * signed w b < -(2 ^ (w - 1)) ∨ 2 ^ (w - 1) ≤ signed w a * signed w b))) ∧
    Computes (.mulh h x) (beatAB x.wid fun w a b => (lowBits w (signed w a * signed w b / 2 ^ w), false)) ∧
    Computes (.mulhu h x) (beatAB x.wid fun w a b => (a * b / 2 ^ w % 2 ^ w, false)) ∧
    Computes (.mad h x) (fun s b f r n => .value ((srcA s b f r n * srcB s b f r n + srcD s b f r n) % 2 ^ intBits x.wid.toNat))

/-- R114: no divide traps; a divisor of zero and the one signed overflow give fixed results and set the flag; the signed quotient rounds toward zero. -/
def Obligations.Divide : Prop :=
  ∀ (h : Head) (x : TBody),
    Computes (.divu h x) (beatAB x.wid fun w a b => if b = 0 then (2 ^ w - 1, true) else (a / b, false)) ∧
    Computes (.remu h x) (beatAB x.wid fun _ a b => if b = 0 then (a, true) else (a - b * (a / b), false)) ∧
    Computes (.divs h x) (beatAB x.wid fun w a b =>
      if signed w b = 0 then (lowBits w (-1), true)
      else if (signed w a).tdiv (signed w b) = 2 ^ (w - 1) then (lowBits w (-(2 ^ (w - 1))), true)
      else (lowBits w ((signed w a).tdiv (signed w b)), false)) ∧
    Computes (.rems h x) (beatAB x.wid fun w a b =>
      if signed w b = 0 then (a, true)
      else if (signed w a).tdiv (signed w b) = 2 ^ (w - 1) then (0, true)
      else (lowBits w (signed w a - signed w b * (signed w a).tdiv (signed w b)), false))

/-- R115, R116: the saturating instructions clamp the exact result to the range and flag that they did; MIN to MAXU return A on equal operands and flag a strict preference for B; ABS and NEG flag the one input whose result wraps. -/
def Obligations.SaturateMinMax : Prop :=
  ∀ (h : Head) (x : TBody) (y : UBody),
    let clamp : Nat → Int → Int → Int → Nat × Bool := fun w lo hi t => (lowBits w (max lo (min hi t)), decide (t < lo ∨ hi < t))
    Computes (.adds h x) (beatAB x.wid fun w a b => clamp w (-(2 ^ (w - 1))) (2 ^ (w - 1) - 1) (signed w a + signed w b)) ∧
    Computes (.addsu h x) (beatAB x.wid fun w a b => clamp w 0 (2 ^ w - 1) ((a : Int) + b)) ∧
    Computes (.subs h x) (beatAB x.wid fun w a b => clamp w (-(2 ^ (w - 1))) (2 ^ (w - 1) - 1) (signed w a - signed w b)) ∧
    Computes (.subsu h x) (beatAB x.wid fun w a b => clamp w 0 (2 ^ w - 1) ((a : Int) - b)) ∧
    Computes (.min h x) (beatAB x.wid fun w a b => if signed w b < signed w a then (b, true) else (a, false)) ∧
    Computes (.max h x) (beatAB x.wid fun w a b => if signed w b > signed w a then (b, true) else (a, false)) ∧
    Computes (.minu h x) (beatAB x.wid fun _ a b => if b < a then (b, true) else (a, false)) ∧
    Computes (.maxu h x) (beatAB x.wid fun _ a b => if b > a then (b, true) else (a, false)) ∧
    Computes (.abs h y) (beatAI y.wid y.imm7 fun w a _ =>
      (if signed w a < 0 then lowBits w (-signed w a) else a, decide (signed w a = -(2 ^ (w - 1))))) ∧
    Computes (.neg h y) (beatAI y.wid y.imm7 fun w a _ => (lowBits w (-signed w a), decide (signed w a = -(2 ^ (w - 1)))))

/-- R117: the logic instructions act bit by bit within w bits and have no flag; the immediate forms combine D with I. -/
def Obligations.Logic : Prop :=
  ∀ (h : Head) (x : TBody) (y : IBody),
    (∀ w a i, (notW w a).testBit i = (decide (i < w) && !a.testBit i)) ∧
    Computes (.and h x) (beatAB x.wid fun _ a b => (a &&& b, false)) ∧
    Computes (.or h x) (beatAB x.wid fun _ a b => (a ||| b, false)) ∧
    Computes (.xor h x) (beatAB x.wid fun _ a b => (a ^^^ b, false)) ∧
    Computes (.andn h x) (beatAB x.wid fun w a b => (a &&& notW w b, false)) ∧
    Computes (.orn h x) (beatAB x.wid fun w a b => (a ||| notW w b, false)) ∧
    Computes (.xnor h x) (beatAB x.wid fun w a b => (notW w (a ^^^ b), false)) ∧
    Computes (.andi h y) (beatDI y fun _ d i => (d &&& i, false)) ∧
    Computes (.ori h y) (beatDI y fun _ d i => (d ||| i, false)) ∧
    Computes (.xori h y) (beatDI y fun _ d i => (d ^^^ i, false))

/-- R118, R119: shifts and rotates, by the count of B or of IMM7, with the last bit shifted out, or the bit that a rotation brings into bit 0, as the flag. -/
def Obligations.ShiftAndRotate : Prop :=
  ∀ (h : Head) (x : TBody) (y : UBody),
    let shl : Nat → Nat → Nat → Nat × Bool := fun w a n =>
      (if n ≥ w then 0 else a * 2 ^ n % 2 ^ w, if n = 0 ∨ n > w then false else bit a (w - n))
    let shr : Nat → Nat → Nat → Nat × Bool := fun w a n =>
      (if n ≥ w then 0 else a / 2 ^ n, if n = 0 ∨ n > w then false else bit a (n - 1))
    let sar : Nat → Nat → Nat → Nat × Bool := fun w a n =>
      (if n ≥ w then (if signed w a < 0 then 2 ^ w - 1 else 0) else lowBits w (signed w a / 2 ^ n),
        if n = 0 then false else if n > w then bit a (w - 1) else bit a (n - 1))
    let rol : Nat → Nat → Nat → Nat × Bool := fun w a n =>
      ((a * 2 ^ (n % w) ||| a / 2 ^ (w - n % w)) % 2 ^ w, if n % w = 0 then false else bit a (w - n % w))
    Computes (.shl h x) (beatAB x.wid shl) ∧ Computes (.shr h x) (beatAB x.wid shr) ∧
    Computes (.sar h x) (beatAB x.wid sar) ∧ Computes (.rol h x) (beatAB x.wid rol) ∧
    Computes (.shli h y) (beatAI y.wid y.imm7 shl) ∧ Computes (.shri h y) (beatAI y.wid y.imm7 shr) ∧
    Computes (.sari h y) (beatAI y.wid y.imm7 sar) ∧ Computes (.roli h y) (beatAI y.wid y.imm7 rol)

/-- R120, R121: the field of BEXT, BEXTS and BINS lies at offset IMM7[1:0] with length IMM7[6:2] + 1; SEXT; the counts, and BREV bit by bit. -/
def Obligations.FieldsAndCounts : Prop :=
  ∀ (h : Head) (y : UBody),
    Computes (.bext h y) (beatAI y.wid y.imm7 fun _ a imm => (bits a (imm % 4 + imm / 4) (imm % 4), false)) ∧
    Computes (.bexts h y) (beatAI y.wid y.imm7 fun w a imm => (lowBits w (signed (imm / 4 + 1) (bits a (imm % 4 + imm / 4) (imm % 4))), false)) ∧
    Computes (.bins h y) (fun s b f r n =>
      .value (insertBits (srcD s b f r n) (y.imm7.toNat % 4) (y.imm7.toNat / 4 + 1) (srcA s b f r n))) ∧
    Computes (.sext h y) (beatAI y.wid y.imm7 fun w a imm => (lowBits w (signed (imm + 1) (a % 2 ^ (imm + 1))), false)) ∧
    (∃ lead trail rev : Nat → Nat → Nat,
      (∀ w, lead w 0 = w ∧ trail w 0 = w) ∧
      (∀ w a k, k < w → bit a k = true → (∀ j, k < j → j < w → bit a j = false) → lead w a = w - 1 - k) ∧
      (∀ w a k, k < w → bit a k = true → (∀ j, j < k → bit a j = false) → trail w a = k) ∧
      (∀ w a i, bit (rev w a) i = (decide (i < w) && bit a (w - 1 - i))) ∧
      Computes (.clz h y) (beatAI y.wid y.imm7 fun w a _ => (lead w a, decide (a = 0))) ∧
      Computes (.ctz h y) (beatAI y.wid y.imm7 fun w a _ => (trail w a, decide (a = 0))) ∧
      Computes (.brev h y) (beatAI y.wid y.imm7 fun w a _ => (rev w a, false))) ∧
    Computes (.popc h y) (beatAI y.wid y.imm7 fun w a _ =>
      ((onesBelow w a).length, decide ((onesBelow w a).length % 2 = 1)))

/-- R122 to R125: the moves between widths, the constants, and SEL by p[PDST] as read at the fire cycle. -/
def Obligations.MoveAndSelect : Prop :=
  ∀ (h : Head) (x : TBody) (y : UBody) (z : IBody),
    Computes (.mov h x) (beatAB x.wid fun _ a _ => (a, false)) ∧
    Computes (.movw h y) (beatAI y.wid y.imm7 fun w a imm =>
      (if intBits (imm % 8) ≥ w then a % 2 ^ w else if bit imm 3 then lowBits w (signed (intBits (imm % 8)) a) else a, false)) ∧
    Computes (.movi h z) (fun _ _ _ _ _ => .value (lowBits (intBits z.wid.toNat) (signed 14 z.imm14.toNat))) ∧
    Computes (.movhi h z) (fun s b f r n => .value ((srcD s b f r n * 2 ^ 14 ||| z.imm14.toNat) % 2 ^ intBits z.wid.toNat)) ∧
    Computes (.sel h x) (fun s b f r n => .value (if bit f.preds x.pdst.toNat then srcA s b f r n else srcB s b f r n))

/-- R126, R127: a compare writes all ones or zero over the D slices; the immediate compares and BTST write no operand. -/
def Obligations.Compares : Prop :=
  ∀ (h : Head) (x : TBody) (y : IBody) (z : UBody),
    Computes (.cmpeq h x) (beatCmp x.wid fun _ a b => decide (a = b)) ∧
    Computes (.cmpne h x) (beatCmp x.wid fun _ a b => decide (a ≠ b)) ∧
    Computes (.cmplt h x) (beatCmp x.wid fun w a b => decide (signed w a < signed w b)) ∧
    Computes (.cmpltu h x) (beatCmp x.wid fun _ a b => decide (a < b)) ∧
    Computes (.cmple h x) (beatCmp x.wid fun w a b => decide (signed w a ≤ signed w b)) ∧
    Computes (.cmpleu h x) (beatCmp x.wid fun _ a b => decide (a ≤ b)) ∧
    Computes (.cmpeqi h y) (fun s b f r n => { cmp := decide (srcD s b f r n = immI (intBits y.wid.toNat) y.imm14) }) ∧
    Computes (.cmplti h y) (fun s b f r n =>
      { cmp := decide (signed (intBits y.wid.toNat) (srcD s b f r n) < signed (intBits y.wid.toNat) (immI (intBits y.wid.toNat) y.imm14)) }) ∧
    Computes (.cmpltui h y) (fun s b f r n => { cmp := decide (srcD s b f r n < immI (intBits y.wid.toNat) y.imm14) }) ∧
    Computes (.btst h z) (fun s b f r n => { cmp := bit (srcA s b f r n) z.imm7.toNat })

/-- R157, R158: each operation is formed exactly on the flushed operands and rounded once; FSCB scales by B as an 8-bit signed exponent. -/
def Obligations.FloatArithmetic : Prop :=
  ∀ (h : Head) (x : TBody),
    Computes (.fadd h x) (beatFF x.wid fun m a b => Val.sum [a, b] (m % 4)) ∧
    Computes (.fsub h x) (beatFF x.wid fun m a b => Val.sum [a, b.neg] (m % 4)) ∧
    Computes (.fmul h x) (beatFF x.wid fun _ a b => Val.mul a b) ∧
    Computes (.fdiv h x) (beatFF x.wid fun _ a b => Val.div a b) ∧
    Computes (.ffma h x) (beatFFD x.wid fun m a b d => Val.sum [Val.mul a b, d] (m % 4)) ∧
    Computes (.ffms h x) (beatFFD x.wid fun m a b d => Val.sum [d, (Val.mul a b).neg] (m % 4)) ∧
    Computes (.fscb h x) (fun s b f r n =>
      let g := Fmt.ofWid x.wid.toNat
      let a := ftzIn (bit f.fmode 2) (g.dec (srcA s b f r n))
      .rounded g f.fmode [a.1] (a.1.scale (signed 8 (srcB s b f r n % 256))) a.2)

/-- R159 to R162: the pick of FMIN to FMAXM with −0 below +0, the compares with their answers for NaN, the class test on the raw encoding, and the sign operations that neither decode, flush nor round. -/
def Obligations.FloatOrderAndSign : Prop :=
  ∀ (h : Head) (x : TBody) (y : UBody),
    Computes (.fmin h x) (beatPick x.wid fun a b => Val.below b a) ∧
    Computes (.fmax h x) (beatPick x.wid fun a b => Val.below a b) ∧
    Computes (.fminm h x) (beatPick x.wid fun a b => Val.lt b.abs a.abs || (Val.eq b.abs a.abs && Val.below b a)) ∧
    Computes (.fmaxm h x) (beatPick x.wid fun a b => Val.lt a.abs b.abs || (Val.eq a.abs b.abs && Val.below a b)) ∧
    Computes (.fcmpeq h x) (beatFCmp x.wid Val.eq) ∧
    Computes (.fcmplt h x) (beatFCmp x.wid Val.lt) ∧
    Computes (.fcmple h x) (beatFCmp x.wid fun a b => Val.lt a b || Val.eq a b) ∧
    Computes (.fcmpun h x) (beatFCmp x.wid fun a b => a.isNan || b.isNan) ∧
    (∀ a b : Val, a = .nan ∨ b = .nan → Val.eq a b = false ∧ Val.lt a b = false) ∧
    Computes (.fcls h y) (fun s b f r n =>
      { cmp := (classBits (Fmt.ofWid y.wid.toNat) (srcA s b f r n)).any fun k => bit y.imm7.toNat k }) ∧
    Computes (.fabs h y) (fun s b f r n =>
      let g := Fmt.ofWid y.wid.toNat
      if (g.dec (srcA s b f r n)).isNan then .value g.nan true else .value (srcA s b f r n % 2 ^ (g.bits - 1))) ∧
    Computes (.fneg h y) (fun s b f r n =>
      let g := Fmt.ofWid y.wid.toNat
      if (g.dec (srcA s b f r n)).isNan then .value g.nan true
      else .value (cat (b2n (!bit (srcA s b f r n) (g.bits - 1))) (g.bits - 1) (srcA s b f r n)))

/-- R163, R164: every SFU sub-operation and EXPD fires whenever it may; it decodes and flushes its operands, computes its function in one value, and hands that one value to the rounding; the special operands have the results of R163's table. The exact cases are stated as values: RCP, SQRT and RSQRT through their integer root with a sticky bit, EXP2 and LOG2 at powers of two. A value that is no dyadic number is bracketed until both ends round alike, which no statement here says (log 9). -/
def Obligations.SpecialFunctions : Prop :=
  (∀ (h : Head) (x : TBody) (y : UBody),
    let sfu : (Fmt → Nat → Val → Val × Nat) → Beat := fun op s b f r n =>
      let g := Fmt.ofWid y.wid.toNat
      let a := ftzIn (bit f.fmode 2) (g.dec (srcA s b f r n))
      let v := op g (f.fmode % 4) a.1
      .rounded g f.fmode [a.1] v.1 (a.2 ||| v.2)
    Computes (.sfuExp2 h y) (sfu sfuExp2) ∧ Computes (.sfuLog2 h y) (sfu sfuLog2) ∧
    Computes (.sfuRcp h y) (sfu sfuRcp) ∧ Computes (.sfuRsqrt h y) (sfu sfuRsqrt) ∧
    Computes (.sfuSqrt h y) (sfu sfuSqrt) ∧ Computes (.sfuTanh h y) (sfu sfuTanh) ∧
    Computes (.sfuSinpi h y) (sfu sfuSinpi) ∧ Computes (.sfuCospi h y) (sfu sfuCospi) ∧
    Computes (.expd h x) (fun s b f r n =>
      let g := Fmt.ofWid x.wid.toNat
      let a := ftzIn (bit f.fmode 2) (g.dec (srcA s b f r n))
      let c := ftzIn (bit f.fmode 2) (g.dec (srcB s b f r n))
      .rounded g f.fmode [a.1, c.1] (exp2Val g (f.fmode % 4) (Val.sum [a.1, c.1.neg] 0)) (a.2 ||| c.2)) ∧
    Completes (.sfuExp2 h y) ∧ Completes (.sfuLog2 h y) ∧ Completes (.sfuRcp h y) ∧ Completes (.sfuRsqrt h y) ∧
    Completes (.sfuSqrt h y) ∧ Completes (.sfuTanh h y) ∧ Completes (.sfuSinpi h y) ∧ Completes (.sfuCospi h y) ∧
    Completes (.expd h x)) ∧
  (∀ (g : Fmt) (rm : Nat) (s : Bool) (e : Int),
    sfuExp2 g rm (.inf true) = (.zero false, 0) ∧ sfuExp2 g rm (.inf false) = (.inf false, 0) ∧
    sfuLog2 g rm (.fin s 0 e) = (.inf true, flDZ) ∧ sfuLog2 g rm (.inf false) = (.inf false, 0) ∧
    sfuLog2 g rm (.inf true) = (.nan, flNV) ∧
    sfuRcp g rm (.fin s 0 e) = (.inf s, flDZ) ∧ sfuRcp g rm (.inf s) = (.zero s, 0) ∧
    sfuRsqrt g rm (.fin s 0 e) = (.inf s, flDZ) ∧ sfuRsqrt g rm (.inf false) = (.zero false, 0) ∧
    sfuRsqrt g rm (.inf true) = (.nan, flNV) ∧
    sfuSqrt g rm (.fin s 0 e) = (.fin s 0 e, 0) ∧ sfuSqrt g rm (.inf false) = (.inf false, 0) ∧
    sfuSqrt g rm (.inf true) = (.nan, flNV) ∧
    sfuTanh g rm (.fin s 0 e) = (.fin s 0 e, 0) ∧ sfuTanh g rm (.inf s) = (.fin s 1 0, 0) ∧
    sfuSinpi g rm (.fin s 0 e) = (.fin s 0 e, 0) ∧ sfuSinpi g rm (.inf s) = (.nan, flNV) ∧
    sfuCospi g rm (.inf s) = (.nan, flNV)) ∧
  (∀ (g : Fmt) (rm m : Nat) (e : Int), m ≠ 0 →
    sfuLog2 g rm (.fin true m e) = (.nan, flNV) ∧ sfuRsqrt g rm (.fin true m e) = (.nan, flNV) ∧
    sfuSqrt g rm (.fin true m e) = (.nan, flNV) ∧
    (∀ s : Bool, 0 ≤ e → sfuSinpi g rm (.fin s m e) = (.zero s, 0)) ∧
    (∃ r, let c := m * 2 ^ ((e % 2).toNat + 128)
      r * r ≤ c ∧ c < (r + 1) * (r + 1) ∧
      sfuSqrt g rm (.fin false m e) = (.fin false (2 * r + b2n (r * r ≠ c)) ((e - e % 2) / 2 - 65), 0)) ∧
    (∃ r, let c := m * 2 ^ (e % 2).toNat
      r * r * c ≤ 2 ^ 256 ∧ 2 ^ 256 < (r + 1) * (r + 1) * c ∧
      sfuRsqrt g rm (.fin false m e) = (.fin false (2 * r + b2n (r * r * c ≠ 2 ^ 256)) (-((e - e % 2) / 2) - 129), 0)) ∧
    (∀ (s : Bool) (k : Nat), sfuSinpi g rm (.fin s (m * 2 ^ k) (-(k : Int))) = (.zero s, 0))) ∧
  (∀ (g : Fmt) (rm n : Nat) (s : Bool) (e : Int) (a : Val),
    sfuRcp g rm a = (Val.one.div a, if a.isZero = true then flDZ else 0) ∧
    (-5000 ≤ e → e ≤ 5000 → sfuExp2 g rm (Val.ofInt e) = (.fin false 1 e, 0)) ∧
    sfuLog2 g rm (.fin false 1 e) = (Val.ofInt e, 0) ∧
    sfuCospi g rm (.fin s 0 e) = (.fin false 1 0, 0) ∧ sfuCospi g rm (.fin s (2 * n + 1) (-1)) = (.zero false, 0))

/-- R166: CVT, CVTIF, CVTFI with its clamp and flags, and FRND. -/
def Obligations.Conversions : Prop :=
  ∀ (h : Head) (y : UBody),
    Computes (.cvt h y) (fun s b f r n =>
      let g := Fmt.ofWid y.wid.toNat
      let a := ftzIn (bit f.fmode 2) ((Fmt.ofWid (y.imm7.toNat % 8)).dec (srcA s b f r n))
      .rounded g f.fmode [a.1] a.1 a.2) ∧
    Computes (.cvtif h y) (fun s b f r n =>
      .rounded (Fmt.ofWid y.wid.toNat) f.fmode []
        (Val.ofInt (if bit y.imm7.toNat 3 then signed (intBits (y.imm7.toNat % 8)) (srcA s b f r n) else srcA s b f r n)) 0) ∧
    Computes (.cvtfi h y) (fun s b f r n =>
      let v := ftzIn (bit f.fmode 2) ((Fmt.ofWid y.wid.toNat).dec (srcA s b f r n))
      let w := intBits (y.imm7.toNat % 8)
      let lo : Int := if bit y.imm7.toNat 3 then -(2 ^ (w - 1)) else 0
      let hi : Int := if bit y.imm7.toNat 3 then 2 ^ (w - 1) - 1 else 2 ^ w - 1
      match v.1 with
      | .nan => .value 0 true (v.2 ||| flNV)
      | .inf neg => .value (lowBits w (if neg then lo else hi)) true (v.2 ||| flNV ||| flSAT ||| flNX)
      | .fin .. =>
        let t := (toIntegral (if bit y.imm7.toNat 4 then 1 else f.fmode % 4) v.1).units 0
        let n := if hi < t then hi else if t < lo then lo else t
        let bad : Bool := decide (hi < t ∨ t < lo)
        .value (lowBits w n) bad (v.2 ||| flagIf bad (flNV ||| flSAT) ||| flagIf (!Val.eq (Val.ofInt n) v.1) flNX)) ∧
    Computes (.frnd h y) (fun s b f r n =>
      let g := Fmt.ofWid y.wid.toNat
      let v := ftzIn (bit f.fmode 2) (g.dec (srcA s b f r n))
      let t := toIntegral (if bit y.imm7.toNat 2 then y.imm7.toNat % 4 else f.fmode % 4) v.1
      .value (g.enc t) (v.1.isFinite && !Val.eq t v.1) (v.2 ||| flagIf (v.1.isFinite && !Val.eq t v.1) flNX))

/-- R146, R167 to R169: FSUM, FMAXR and FDOT gather their beats and write once, at the last beat: dot32grp from D for the sums, a value of D and the elements below none of them for FMAXR; and each of the three fires whenever it may. -/
def Obligations.Reductions : Prop :=
  ∀ (h : Head) (x : TBody),
    let g := Fmt.ofWid x.wid.toNat
    (Completes (.fsum h x) ∧ Completes (.fdot h x) ∧ Completes (.fmaxr h x)) ∧
    (∃ o, Computes (.fsum h x) o ∧ ∀ s b f r n,
      let flush := fun c => (ftzIn (bit f.fmode 2) c).1
      let as := (f.acc ++ [srcA s b f r n]).map fun c => flush (g.dec c)
      (n + 1 ≠ r.beats → (o s b f r n).acc = f.acc ++ [srcA s b f r n] ∧ (o s b f r n).write = none) ∧
      (n + 1 = r.beats → (o s b f r n).write =
        some (fp32.enc (flush (dot32grp as (as.map fun _ => Val.one) (flush (fp32.dec (srcD s b f r 0)))))))) ∧
    (∃ o, Computes (.fdot h x) o ∧ ∀ s b f r n,
      let flush := fun c => (ftzIn (bit f.fmode 2) c).1
      let words := unzipWords (f.acc ++ [srcA s b f r n, srcB s b f r n])
      let elements := fun ws : List Nat => ws.flatMap fun w => (List.range (64 / g.bits)).map fun j =>
        flush (g.dec (bits w (g.bits * j + g.bits - 1) (g.bits * j)))
      (n + 1 ≠ r.beats → (o s b f r n).acc = f.acc ++ [srcA s b f r n, srcB s b f r n] ∧ (o s b f r n).write = none) ∧
      (n + 1 = r.beats → (o s b f r n).write =
        some (fp32.enc (flush (dot32grp (elements words.1) (elements words.2) (flush (fp32.dec (srcD s b f r 0)))))))) ∧
    (∃ o, Computes (.fmaxr h x) o ∧ ∀ s b f r n,
      let flush := fun c => (ftzIn (bit f.fmode 2) c).1
      let as := (f.acc ++ [srcA s b f r n]).map fun c => flush (g.dec c)
      let d := flush (g.dec (srcD s b f r 0))
      (n + 1 ≠ r.beats → (o s b f r n).acc = f.acc ++ [srcA s b f r n] ∧ (o s b f r n).write = none) ∧
      (n + 1 = r.beats → (d.isNan || as.any Val.isNan) = true → (o s b f r n).write = some (g.enc .nan)) ∧
      (n + 1 = r.beats → (d.isNan || as.any Val.isNan) = false → ∃ top, (o s b f r n).write = some (g.enc top) ∧
        top ∈ d :: as ∧ (∀ a ∈ d :: as, Val.below top a = false) ∧ (o s b f r n).flag = as.any fun a => Val.below d a))

/-- R170 to R173: QBLK hands the block of its elements to the buffer at its last beat: the scale of the greatest element, or 0xFF or 0, and each element rounded and packed in its place; DQBLK decodes element e + n of a packed word, or the canonical NaN with NV; BPSPL and BPJN move the bits of R173. -/
def Obligations.BlocksAndPlanes : Prop :=
  ∀ (h : Head) (x : TBody) (y : UBody),
    (∃ o, Computes (.qblk h y) o ∧ ∀ s b f r n,
      let src := Fmt.ofWid (y.imm7.toNat % 8)
      let xs := (f.acc ++ [srcA s b f r n]).map fun c => (ftzIn (bit f.fmode 2) (src.dec c)).1
      let q := quantise (Fmt.ofWid y.wid.toNat) f.fmode xs
      (n + 1 ≠ r.beats → (o s b f r n).acc = f.acc ++ [srcA s b f r n] ∧ (o s b f r n).effects = []) ∧
      (n + 1 = r.beats → (o s b f r n).judge = q.1 ∧
        (o s b f r n).effects = [.qblk (y.d.toNat - 112) ((q.1 :: q.2.1).map (BitVec.ofNat 64)) (s.now + r.latency + 2)])) ∧
    (∀ (g : Fmt) (m : Nat) (xs : List Val), (xs.any fun v => !v.isFinite) = true →
      (quantise g m xs).1 = 0xFF ∧ ∀ w ∈ (quantise g m xs).2.1, w = 0) ∧
    (∀ (g : Fmt) (m : Nat) (xs : List Val), (xs.all Val.isZero) = true →
      (quantise g m xs).1 = 0 ∧ ∀ w ∈ (quantise g m xs).2.1, w = 0) ∧
    (∀ (g : Fmt) (m : Nat) (xs : List Val) (e : Int), g = e4m3 ∨ g = e5m2 ∨ g = e2m1 → xs.length = 32 → (∀ v ∈ xs, v.isFinite = true) →
      (∃ v ∈ xs, Val.lt v.abs (.fin false 1 e) = false) → (∀ v ∈ xs, Val.lt v.abs (.fin false 1 (e + 1)) = true) →
      let k := (e - (if g = e4m3 then 8 else if g = e5m2 then 15 else 2) + 127).toNat
      let q := quantise g m xs
      q.1 = k ∧ q.2.1.length = 32 * g.bits / 64 ∧
      ∀ i v, xs[i]? = some v →
        let at0 := g.bits * (i % (64 / g.bits))
        let c := (g.round (m % 4) (v.scale (127 - (k : Int)))).1
        bits (q.2.1.getD (i / (64 / g.bits)) 0) (at0 + g.bits - 1) at0 =
          g.enc (if (ftzIn (bit m 2) (c.scale ((k : Int) - 127))).2 ≠ 0 then .zero c.sign else c)) ∧
    Computes (.dqblk h x) (fun s b f r n =>
      let g := Fmt.ofWid x.wid.toNat
      let v := srcB s b f r n
      let sf := if bits v 13 12 = 0 then e2m1 else if bits v 13 12 = 1 then e4m3 else e5m2
      let j := bits v 11 8 + n
      if bits v 13 12 = 3 ∨ bits v 15 14 ≠ 0 ∨ 64 / sf.bits ≤ j then { write := some g.nan, judge := g.nan, flag := true, sticky := flNV }
      else
        let c := bits (srcA s b f r n) (sf.bits * j + sf.bits - 1) (sf.bits * j)
        let e := ftzIn (bit f.fmode 2) (if v % 256 = 0xFF then .nan else (sf.dec c).scale ((v % 256 : Nat) - 127))
        .rounded g f.fmode [e.1] e.1 e.2) ∧
    (∃ split join : Nat → Nat → Nat,
      Computes (.bpspl h x) (fun s b f r n => .value (split 8 (srcA s b f r n))) ∧
      Computes (.bpjn h x) (fun s b f r n => .value (join (min 8 (srcB s b f r n)) (srcA s b f r n))) ∧
      (∀ a i j, i < 8 → j < 8 → bit (split 8 a) (8 * i + j) = bit a (8 * j + 7 - i)) ∧
      (∀ p a i j, p ≤ 8 → i < 8 → j < 8 → bit (join p a) (8 * j + 7 - i) = (decide (i < p) && bit a (8 * i + j))))

/-- R85 to R87: PLOG reads its truth table at 2·p[PA] + p[PB]; PSETV writes the predicates of its mask; PTOS and STOP copy predicates to slices and back. -/
def Obligations.PredicateRules : Prop :=
  ∀ (h : Head) (x : PBody) (y : UBody),
    Computes (.plog h x) (fun _ _ f _ _ =>
      { preds := [(x.pd.toNat, x.fn.getLsbD (2 * b2n (bit f.preds x.pa.toNat) + b2n (bit f.preds x.pb.toNat)))] }) ∧
    (∃ o, Computes (.psetv h x) o ∧ ∀ s b f r n p v, (p, v) ∈ (o s b f r n).preds ↔ p < 8 ∧ x.mask.getLsbD p = true ∧ v = x.val.getLsbD p) ∧
    Computes (.ptos h y) (fun _ _ f _ _ => .value (if y.wid = 0 then f.preds % 16 else f.preds)) ∧
    Computes (.stop h y) (fun s b f r n =>
      { preds := if y.wid = 1 then (List.range 8).map fun p => (p, bit (srcA s b f r n) p)
          else (List.range 4).map fun p => (4 * (y.imm7.toNat % 2) + p, bit (srcA s b f r n) p) })

/-- R88 to R91: TRAP raises SWTRAP with its code and the value of A; BKPT raises its class while BKEN is set and PASS does not let it through, and otherwise completes as NOP; IDLE asks for the picker to be suspended at its commit; NOP's beat does nothing. -/
def Obligations.ControlRules : Prop :=
  ∀ (h : Head) (y : UBody),
    Computes (.trap h y) (fun s b f r n => { trap := some { cls := 0x01, detail := y.imm7.toNat, beat := n, val := srcA s b f r n } }) ∧
    (∃ o, Computes (.bkpt h y) o ∧ ∀ s b f r n,
      ((s.brick b).bken = true → ((s.brick b).pass = false ∨ (s.brick b).tcls.toNat % 16 ≠ f.slot) →
        (o s b f r n) = { trap := some { cls := 0x02, detail := y.imm7.toNat, beat := n } }) ∧
      ((s.brick b).bken = false → o s b f r n = {}) ∧
      ((s.brick b).pass = true → (s.brick b).tcls.toNat % 16 = f.slot → o s b f r n = {})) ∧
    Computes (.idle h y) (fun _ _ _ _ _ => { effects := [.idle] }) ∧
    Computes (.nop h y) (fun _ _ _ _ _ => {})

/-- R80, R93 to R95, R82: RDBSR and RDTS give a register zero-extended; WRBSR's commit writes BKEN alone of `bsr.ctl`, clears the sticky bits written as one, and sets `bsr.fmode`. -/
def Obligations.StatusRegisterRules : Prop :=
  (∀ (h : Head) (x : XBody),
    Computes (.sysRdbsr h x) (fun s b f _ _ => .value (bsrRead { s.brick b with pts := max (s.brick b).pts f.carry } s.now x.b.toNat)) ∧
    Computes (.sysWrbsr h x) (fun s b f r n => { effects := [.wrbsr x.b.toNat (srcA s b f r n)] }) ∧
    Computes (.sysRdts h x) (fun s b f _ _ => .value (bsrRead { s.brick b with pts := max (s.brick b).pts f.carry } s.now 0x10)) ∧
    (∀ s, MayFire (.sysRdbsr h x) s ∨ MayFire (.sysWrbsr h x) s ∨ MayFire (.sysRdts h x) s → (s.brick s.focus.1).firings = []) ∧
    ∀ s, (MayFire (.sysRdbsr h x) s → ∃ t f, exec (.sysRdbsr h x) s = .next t ∧ (t.brick s.focus.1).firings = [f] ∧ f.instr = .sysRdbsr h x) ∧
      (MayFire (.sysWrbsr h x) s → ∃ t f, exec (.sysWrbsr h x) s = .next t ∧ (t.brick s.focus.1).firings = [f] ∧ f.instr = .sysWrbsr h x) ∧
      (MayFire (.sysRdts h x) s → ∃ t f, exec (.sysRdts h x) s = .next t ∧ (t.brick s.focus.1).firings = [f] ∧ f.instr = .sysRdts h x)) ∧
  (∀ (y : Brick) (now : Nat),
    bsrRead y now 0x00 = y.fires % 2 ^ 48 ∧ bsrRead y now 0x01 = ((if y.life = .bound then 0 else (now : Int)) - y.cycleBase).toNat % 2 ^ 64 ∧
    bsrRead y now 0x02 = y.pval.toNat ∧ bsrRead y now 0x03 = y.ctl.toNat ∧ bsrRead y now 0x04 = y.tcls.toNat ∧
    bsrRead y now 0x05 = y.tfire % 2 ^ 48 ∧ (∀ k, k < 4 → bsrRead y now (6 + k) = (y.thead.getD k 0).toNat) ∧
    bsrRead y now 0x0A = y.tword.toNat ∧ bsrRead y now 0x0B = y.tval.toNat ∧ bsrRead y now 0x0C = y.sticky.toNat ∧
    bsrRead y now 0x0D = y.fmode.toNat ∧ bsrRead y now 0x0E = y.round ∧ bsrRead y now 0x0F = y.overBsr.toNat ∧
    bsrRead y now 0x10 = y.ts ∧ (y.firings = [] → y.ts = y.pts)) ∧
  (∀ (y : Brick) (v : Nat),
    (∀ k, k < 4 → (bsrWrite y 0x03 v).ctl.getLsbD k = if k = 1 then bit v 1 else y.ctl.getLsbD k) ∧
    (∀ k, k < 9 → (bsrWrite y 0x0C v).sticky.getLsbD k = (y.sticky.getLsbD k && !bit v k)) ∧
    bsrWrite y 0x0D v = { y with fmode := BitVec.ofNat 3 v })

/-- R196, R197, R199 to R201: the tokens of EMIT, EOS, RTAG and STEER, and DROP, which delivers nothing. -/
def Obligations.ChannelRules : Prop :=
  ∀ (h : Head) (x : KBody),
    Computes (.emit h x) (fun s b f r n =>
      let v := if x.a = 116 then x.imm11.toNat else srcA s b f r n
      { out := some (.tok (if x.tag = 0 then { tag := .data, pay := BitVec.ofNat 64 v }
          else { tag := .ctrl, pay := BitVec.ofNat 64 (x.csub.toNat * 2 ^ 60 + v % 2 ^ 60) })) }) ∧
    Computes (.eos h x) (fun s b f r n =>
      { out := some (if x.csub.getLsbD 2 then .eosAuto (eosToken x.imm11.toNat (x.csub.getLsbD 1) (x.csub.getLsbD 0) 0).pay
          else .tok (eosToken x.imm11.toNat (x.csub.getLsbD 1) (x.csub.getLsbD 0) (srcA s b f r n))) }) ∧
    Computes (.drop h x) (fun _ _ _ _ _ => {}) ∧
    Computes (.rtag h x) (fun s b f r n =>
      { out := some (.tok (if x.tag = 3 then { tag := .ctrl, pay := BitVec.ofNat 64 (0xE * 2 ^ 60 + srcA s b f r n % 2 ^ 60) }
          else { tag := Tag.ofCode x.tag.toNat, pay := BitVec.ofNat 64 (srcA s b f r n) })) }) ∧
    Computes (.steer h x) (fun s b f r n =>
      { out := some (.tok { tag := .ctrl, pay := BitVec.ofNat 64 (2 * 2 ^ 60 + (srcA s b f r n * 2 ^ 16 + x.imm11.toNat % 8) % 2 ^ 60) }) })

/-- R198, R191, R188: MARK and WEEP may fire only where no input is connected and every connected output has room; each gives one token to every connected output, and asks its commit for the round or the weep. -/
def Obligations.MarkAndWeep : Prop :=
  ∀ (h : Head) (x : KBody),
    (∃ o, Computes (.mark h x) o ∧ ∀ s b f r n, (o s b f r n).effects = [.mark] ∧
      ((o s b f r n).wbs.filterMap fun w => w.port.map (·.1)) = (List.range 4).filter fun p => ((s.brick b).out p).connected) ∧
    (∃ o, Computes (.weep h x) o ∧ ∀ s b f r n, (o s b f r n).effects = [.weep] ∧
      ((o s b f r n).wbs.filterMap (·.port)) =
        ((List.range 4).filter fun p => ((s.brick b).out p).connected).map fun p => (p, .tok (weepToken (s.regionGen (s.brick b))))) ∧
    (∀ (s : State) (b : BrickId) (k c : Nat) (f : Firing), (s.brick b).firings[k]? = some f →
      let m := ((s.brick b).round + 1) % 2 ^ 48
      let t := s.applyEffect b k c .mark
      (t.brick b).round = m ∧
      ((t.brick b).firings[k]?.map fun g => g.wbs.filterMap (·.port)) =
        some (f.wbs.filterMap fun w => w.port.map fun q => (q.1, .tok { tag := .mark, pay := BitVec.ofNat 64 m }))) ∧
    (∀ s, MayFire (.mark h x) s ∨ MayFire (.weep h x) s →
      (∀ i ∈ (s.brick s.focus.1).inputs, i.connected = false) ∧ ∀ p, p < 4 → 1 ≤ (s.brick s.focus.1).room p)

/-- R209 to R211, R215, R218: where the bank rules read and write, the value a load delivers, the store that waits for the commit, the A update of the strided forms with its flag, and the beats that trap BANKADDR. -/
def Obligations.BankLoadsAndStores : Prop :=
  (∀ (h : Head) (x : MBody),
    let w := x.wid.toNat
    let e := containerBytes w
    let load : Brick → Nat → Nat → Nat → BeatOut := fun y n lo len =>
      match bankTrap y lo len n false false false with
      | some t => { trap := some t }
      | none => .value (nibblesRead y.bank lo (intBits w / 4))
    let store : Brick → Nat → Nat → Nat → Nat → BeatOut := fun y n lo len v =>
      match bankTrap y lo len n true true false with
      | some t => { trap := some t }
      | none => { effects := [.bank lo len v] }
    let strided : Firing → RuleInfo → Nat → Nat → BeatOut → State → BeatOut := fun _ r n a o s =>
      if n + 1 = r.beats then
        { o with
          wbs := [{ due := s.now + 2, beat := n, lo := some (r.a, 4, (a + r.beats * x.off7.toNat * e) % 65536) }]
          flag := decide (65536 ≤ a + r.beats * x.off7.toNat * e) }
      else o
    let first : Nat → Nat → Nat := fun a n => if w = 0 then 2 * a + x.off7.toNat + n else 2 * (a + (x.off7.toNat + n) * e)
    Computes (.ldb h x) (fun s b f r n => load (s.brick b) n (first (srcA s b f r n % 65536) n) (containerNibbles w)) ∧
    Computes (.stb h x) (fun s b f r n =>
      store (s.brick b) n (first (srcA s b f r n % 65536) n) (containerNibbles w) (srcD s b f r n)) ∧
    Computes (.ldbi h x) (fun s b f r n =>
      strided f r n (srcA s b f r n % 65536)
        (load (s.brick b) n (2 * (srcA s b f r n % 65536 + n * x.off7.toNat * e)) (containerNibbles w)) s) ∧
    Computes (.stbi h x) (fun s b f r n =>
      strided f r n (srcA s b f r n % 65536)
        (store (s.brick b) n (2 * (srcA s b f r n % 65536 + n * x.off7.toNat * e)) (containerNibbles w) (srcD s b f r n)) s) ∧
    Computes (.spl h x) (fun s b f r n =>
      store (s.brick b) n (2 * (srcA s b f r n % 65536) + x.off7.toNat) (intBits w / 4) (srcD s b f r n)) ∧
    Computes (.fil h x) (fun s b f r n =>
      load (s.brick b) n (2 * (srcA s b f r n % 65536) + x.off7.toNat) (intBits w / 4))) ∧
  (∀ (y : Brick) (lo len n : Nat) (write merge misaligned : Bool), 0 < len →
    (bankTrap y lo len n write merge misaligned = some { cls := 0x05, detail := 0, beat := n } ↔
      misaligned = true ∨ 131072 < lo + len ∨ ∃ a, lo / 2 ≤ a ∧ a ≤ (lo + len - 1) / 2 ∧
        (y.part (a / 4096) = 2 ∨ y.inGutter a = true ∨ y.inDock a = true ∨ y.slateHold a = true ∨ (write = true ∧ y.part (a / 4096) = 1))))

/-- R212, R216, R217: an atomic traps or leaves one locked operation for its commit; the operation's new value by its code; LDPW reads its window or traps PWUNB, and past the window's end reads zero with PWOOB (R220); and each of the three fires whenever it may. -/
def Obligations.AtomicsAndWindows : Prop :=
  (∀ (h : Head) (x : MBody) (y : UBody),
    let e := containerBytes x.wid.toNat
    let w := intBits x.wid.toNat
    (Completes (.atb h x) ∧ Completes (.casb h x) ∧ Completes (.ldpw h y)) ∧
    let atomic : State → BrickId → Nat → Nat → Nat → Nat → Nat → BeatOut := fun s b n a op v new =>
      match bankTrap (s.brick b) (2 * a) (2 * e) n true false (decide (a % e ≠ 0)) with
      | some t => { trap := some t }
      | none => { effects := [.atomic op (8 * e) a v new s.now] }
    Computes (.atb h x) (fun s b f r n =>
      atomic s b n (srcA s b f r n % 65536 + x.off7.toNat % 8 * e) (x.off7.toNat / 8) (srcD s b f r n) 0) ∧
    Computes (.casb h x) (fun s b f r n =>
      atomic s b n (srcA s b f r n % 65536 + x.off7.toNat * e) 16 (srcD s b f r n % 2 ^ w) (srcD s b f r n / 2 ^ w % 2 ^ w)) ∧
    Computes (.ldpw h y) (fun s b f r n =>
      let j := srcA s b f r n % 65536 + y.imm7.toNat % 8 + b2n (bit y.imm7.toNat 3) * n
      match paramWindow s b (bits y.imm7.toNat 6 4) with
      | none => { trap := some { cls := 0x04, detail := bits y.imm7.toNat 6 4, beat := n } }
      | some data =>
        if 8 * data.length < (j + 1) * intBits y.wid.toNat then .value 0 false flPWOOB
        else .value (bits (leValue data) ((j + 1) * intBits y.wid.toNat - 1) (j * intBits y.wid.toNat)))) ∧
  (∀ w old v new : Nat,
    atomicOp 0 w old v new = (old + v) % 2 ^ w ∧ atomicOp 1 w old v new = old &&& v ∧ atomicOp 2 w old v new = old ||| v ∧
    atomicOp 3 w old v new = old ^^^ v ∧
    atomicOp 4 w old v new = (if signed w v < signed w old then v else old) ∧
    atomicOp 5 w old v new = (if signed w old < signed w v then v else old) ∧
    atomicOp 6 w old v new = min old v ∧ atomicOp 7 w old v new = max old v ∧ atomicOp 8 w old v new = v ∧
    (old < 2 ^ w → v < 2 ^ w → atomicOp 9 w old v new = min (old + v) (2 ^ w - 1)) ∧
    atomicOp 16 w old v new = (if old = v then new else old))

/-- R245, R247, R249, R277, R279, R280: each beat of a global rule is one request at its address, or GADDR where the address has a bit above 53; XFENCE and HANDOVER act at their commit. -/
def Obligations.GlobalRules : Prop :=
  ∀ (h : Head) (x : XBody),
    let m := x.sub.toNat
    let request : Nat → Nat → ReqKind → List Byte → Nat → Bool → BeatOut := fun n a kind data rch dcl =>
      if 2 ^ 54 ≤ a then { trap := some { cls := 0x07, detail := 0, beat := n } } else { effects := [.global kind a data rch dcl] }
    let address : State → BrickId → Firing → RuleInfo → Nat → Nat → Nat := fun s b f r n size =>
      if r.a < 112 then (srcA s b f r n + n * size) % 2 ^ 64 else srcA s b f r n
    Computes (.gld h x) (fun s b f r n =>
      request n (address s b f r n (2 ^ (m % 4))) (.load (bit m 3) (m % 4)) [] (bits m 5 4) (bit m 2)) ∧
    Computes (.gst h x) (fun s b f r n =>
      request n (address s b f r n (gstBits x / 8)) .store (leBytes (gstBits x / 8) (srcD s b f r n)) 0 (bit m 2)) ∧
    Computes (.gat h x) (fun s b f r n =>
      request n (address s b f r n (gatBits x / 8))
        (.atomic (x.b.toNat % 16) (gatBits x) (srcD s b f r n % 2 ^ gatBits x) (srcD s b f r n / 2 ^ gatBits x % 2 ^ gatBits x)) []
        (bits m 5 4) (bit m 3)) ∧
    Computes (.sysXfence h x) (fun _ _ _ _ _ => { effects := [.fence (x.b.toNat % 64)] }) ∧
    Computes (.sysHandover h x) (fun s b f r n =>
      if 2 ^ 54 ≤ srcA s b f r n then { trap := some { cls := 0x07, detail := 0, beat := n } }
      else { effects := [.handover (srcD s b f r n % 2 ^ 14) (srcA s b f r n) x.b.toNat] })

/-- R259, R260, R262, R377: WPTR and STRM.stat read their register; STRM.arm, STRM.abort, WATCH and SINK act at their commit. -/
def Obligations.StreamAndWatchRules : Prop :=
  ∀ (h : Head) (x : XBody),
    Computes (.sysWptr h x) (fun s b _ _ _ =>
      { BeatOut.value ((s.brick b).wp.getD (x.b.toNat % 2) 0) with effects := [.observe 1 ((s.brick b).wpTs.getD (x.b.toNat % 2) 0)] }) ∧
    Computes (.strmStat h x) (fun s b _ _ _ =>
      let k := (s.brick b).edge.shapes.getD (x.sub.toNat / 8) {}
      .value (k.state % 4 * 2 ^ 48 + k.tiles % 2 ^ 32 * 2 ^ 16 + k.credit % 2 ^ 16)) ∧
    Computes (.strmArm h x) (fun _ _ _ _ _ => { effects := [.strm (x.sub.toNat / 8) 0] }) ∧
    Computes (.strmAbort h x) (fun _ _ _ _ _ => { effects := [.strm (x.sub.toNat / 8) 1] }) ∧
    Computes (.sysWatch h x) (fun s b f r n =>
      { effects := [.watch (x.d.toNat / 8 % 4) (if x.a = 116 then none
          else some { tag := Tag.ofCode (x.b.toNat % 4), target := srcA s b f r n, pred := x.d.toNat % 8 })] }) ∧
    Computes (.sysSink h x) (fun s b f r n => { effects := [.sink (x.d.toNat % 4) (srcA s b f r n)] }) ∧
    (∀ s, MayFire (.strmArm h x) s → ((s.brick s.focus.1).edge.shapes.getD (x.sub.toNat / 8) {}).state ≠ 1)

/-- R292, R313, R314, R358, R360: TTQ, the slate-map rules and FQRY read their block of the bank at issue, trap as their rule says, and otherwise leave the block for the commit. -/
def Obligations.RecordRules : Prop :=
  ∀ (h : Head) (x : XBody),
    (∃ o p, Computes (.ttq h x) o ∧ Computes (.ttqTid h x) p ∧ ∀ s b f r n,
      let y := s.brick b
      let off := srcA s b f r n % 65536
      (off % 64 ≠ 0 ∨ bankDenied y (2 * off) 128 false = true →
        (o s b f r n).trap = some { cls := 0x05, detail := 0, beat := n } ∧ (p s b f r n).trap = some { cls := 0x05, detail := 0, beat := n }) ∧
      (off % 64 = 0 → bankDenied y (2 * off) 128 false = false → spanUe y (2 * off) 128 false = none →
        o s b f r n = { effects := [.task (y.wordsAt off 8)] } ∧
        p s b f r n = { effects := [.task (modifyAt (fun w => BitVec.ofNat 64 (insertBits w.toNat 56 8 (srcB s b f r n % 256))) 0 (y.wordsAt off 8))] })) ∧
    (∃ o p q, Computes (.slfPin h x) o ∧ Computes (.slfUnpin h x) p ∧ Computes (.slfLook h x) q ∧ ∀ s b f r n,
      let y := s.brick b
      let off := srcA s b f r n % 65536
      let ws := y.wordsAt off 4
      let word := fun k => (ws.getD k 0).toNat
      (off % 32 ≠ 0 ∨ bankDenied y (2 * off) 64 false = true →
        (o s b f r n).trap = some { cls := 0x05, detail := 0, beat := n } ∧ (p s b f r n).trap = some { cls := 0x05, detail := 0, beat := n } ∧
        (q s b f r n).trap = some { cls := 0x05, detail := 0, beat := n }) ∧
      (off % 32 = 0 → bankDenied y (2 * off) 64 false = false → spanUe y (2 * off) 64 false = none →
        (∀ k, k < 4 → y.wordUe (off / 8 + k) = false) →
        ((2 ^ 54 ≤ word 0 ∨ 2 ^ 54 ≤ word 3) → (o s b f r n).trap = some { cls := 0x07, detail := 0, beat := n } ∧
          (p s b f r n).trap = some { cls := 0x07, detail := 0, beat := n } ∧ (q s b f r n).trap = some { cls := 0x07, detail := 0, beat := n }) ∧
        (word 0 < 2 ^ 54 → word 3 < 2 ^ 54 → word 1 % 256 ≠ 0 → (o s b f r n).trap = some { cls := 0x08, detail := 0x01, beat := n } ∧
          (p s b f r n).trap = some { cls := 0x08, detail := 0x01, beat := n } ∧ (q s b f r n).trap = some { cls := 0x08, detail := 0x01, beat := n }) ∧
        (word 0 < 2 ^ 54 → word 1 % 256 = 0 → word 2 = 0 → word 3 = 0 →
          q s b f r n = { effects := [.map .look (x.d.toNat % 4) ws] } ∧
          p s b f r n = { effects := [.map (if x.b.toNat % 4 = 0 then .unpinDrop else if x.b.toNat % 4 = 1 then .unpinKeep else .unpinErase)
            (x.d.toNat % 4) ws] }) ∧
        (word 0 < 2 ^ 54 → word 1 % 256 = 0 → bits (word 2) 63 17 = 0 → bits (word 2) 16 13 = 6 ∨ bits (word 2) 16 13 = 7 →
          0 < bits (word 2) 10 4 → bits (word 2) 10 4 ≤ slatePmax (bits (word 2) 12 11) →
          (x.b.toNat % 4 = 0 → bits (word 2) 3 0 + slateGranules (bits (word 2) 12 11) ≤ 16 → word 3 % 8192 = 0 → word 3 < 2 ^ 54 →
            o s b f r n = { effects := [.map .pinResident (x.d.toNat % 4) ws] }) ∧
          (x.b.toNat % 4 = 1 → 0 < word 3 → word 3 % 8192 = 0 → word 3 < 2 ^ 54 →
            o s b f r n = { effects := [.map .pinStored (x.d.toNat % 4) ws] })) ∧
        (word 0 < 2 ^ 54 → word 1 % 256 = 0 → word 2 % 256 = 0 → word 3 = 0 → 2 ≤ x.b.toNat % 4 →
          o s b f r n = { effects := [.map .pinShare (x.d.toNat % 4) ws] }))) ∧
    (∃ o, Computes (.fqryPost h x) o ∧ ∀ s b f r n,
      let y := s.brick b
      let off := srcA s b f r n % 65536
      let ws := y.wordsAt off 8
      (off % 64 ≠ 0 ∨ bankDenied y (2 * off) 128 false = true → (o s b f r n).trap = some { cls := 0x05, detail := 0, beat := n }) ∧
      (off % 64 = 0 → bankDenied y (2 * off) 128 false = false → (ws.getD 0 0).getLsbD 50 = false → spanUe y (2 * off) 128 false = none →
        (2 ^ 54 ≤ (ws.getD 1 0).toNat → (o s b f r n).trap = some { cls := 0x07, detail := 0, beat := n }) ∧
        ((ws.getD 1 0).toNat < 2 ^ 54 → (ws.getD 2 0).toNat < 2 ^ 54 → (ws.getD 3 0).toNat < 2 ^ 54 →
          packetDetail s b ws x.b.toNat = none → o s b f r n = { effects := [.post x.b.toNat ws []] }))) ∧
    Computes (.fqryCncl h x) (fun s b f r n => { effects := [.cancel x.b.toNat (srcA s b f r n % 2 ^ 32)] })

/-- R330 to R335: a dock rule at a dock that is not DOCKED, or at the wrong stop, traps SLFFMT with its DETAIL; otherwise it acts at its commit, and HDR read delivers the word. A rule on a dock that A names is decided at its trap point, two cycles after its issue, on the dock as it then stands. -/
def Obligations.DockRules : Prop :=
  ∀ (h : Head) (x : XBody),
    let slf : Nat → Nat → BeatOut := fun d n => { trap := some { cls := 0x08, detail := d, beat := n } }
    Computes (.slfFire h x) (fun s b f r n =>
      let k := srcA s b f r n % 65536 % 2
      if ((s.brick b).dock k).st ≠ .docked then slf 0x10 n
      else if ((s.brick b).dock k).stop = .home then slf 0x13 n
      else { effects := [.fire k (bit x.b.toNat 0)] }) ∧
    Computes (.slfFin h x) (fun s b f r n =>
      let k := srcA s b f r n % 65536 % 2
      if ((s.brick b).dock k).st ≠ .docked then slf 0x10 n
      else if ((s.brick b).dock k).stop ≠ .home then slf 0x13 n
      else { effects := [.fin k (x.d.toNat - 112)] }) ∧
    Computes (.slfRoute h x) (fun s b f r n =>
      let k := srcA s b f r n % 65536 % 2
      if ((s.brick b).dock k).st ≠ .docked then slf 0x10 n else { effects := [.route k] }) ∧
    Computes (.slfHdrRd h x) (fun s b f r n =>
      let k := srcA s b f r n % 65536 % 2
      let w := bits (srcA s b f r n % 65536) 11 1
      if ((s.brick b).dock k).st ≠ .docked then slf 0x10 n
      else if ceilDiv (yealmSize ((s.brick b).dockWord k 1)) 8 ≤ w then slf 0x14 n
      else .value (leValue (cellsRead (s.brick b).bank (k * 0x3000 + 8 * w) 8))) ∧
    Computes (.slfHdrWr h x) (fun s b f r n =>
      let k := srcA s b f r n % 65536 % 2
      let w := bits (srcA s b f r n % 65536) 11 1
      if ((s.brick b).dock k).st ≠ .docked then slf 0x10 n
      else if w = 0 ∨ w = 1 ∨ 7 ≤ w then slf 0x11 n
      else { effects := [.hdrWrite k w (srcD s b f r n)] }) ∧
    (∃ o, Computes (.slfHdrLaunch h x) o ∧ ∀ s b f r n,
      let y := s.brick b
      let off := srcA s b f r n % 65536
      let size := yealmSize ((y.wordsAt off 8).getD 1 0).toNat
      (off % 64 ≠ 0 → (o s b f r n).trap = some { cls := 0x05, detail := 0, beat := n }) ∧
      (off % 64 = 0 → bankDenied y (2 * off) 128 false = false → bankDenied y (2 * off) (2 * size) false = false → spanUe y (2 * off) 128 false = none →
        o s b f r n = if launchMalformed b (y.wordsAt off 8) then slf 0x12 n else { effects := [.launch off] })) ∧
    (∀ s, MayFire (.slfHdrLaunch h x) s → (s.brick s.focus.1).dockRoom s.now = true ∧ (s.brick s.focus.1).ringFree ≤ s.now) ∧
    (∀ i ∈ [Instr.slfFire h x, .slfFin h x, .slfRoute h x, .slfHdrRd h x, .slfHdrWr h x], judgedLate i = true ∧ trapDelay i = some 2) ∧
    ∀ (s : State) (b : BrickId) (f : Firing) (r : RuleInfo) (o : Beat),
      judgedLate f.instr = true → ruleInfo f.instr = some r → beatOf f.instr = some o →
      (∀ t, (o s b f r 0).trap = some t → s.decided b f = { f with trap := some t, found := s.now - 1, wbs := [], effects := [] }) ∧
      ((o s b f r 0).trap = none →
        s.decided b f = { f with wbs := resultWriteBack r f.port 0 s.now (o s b f r 0) [], effects := (o s b f r 0).effects })

/-! ## Rules: firing, commit, write-back, trap -/

/-- R65: a rule fires exactly when its picker runs and its slot is eligible: each of the 152 rules then answers a next state in which its firing is the last in flight, and otherwise it changes nothing. -/
def Obligations.IneligibleRuleFiresNothing : Prop :=
  ∀ i : Instr, i.isRule = true → Completes i ∧ ∀ s : State, ¬ MayFire i s → exec i s = .next s

/-- R65, R70, R171, R198, R213, R246, R259, R280, R292, R330, R333, R358: where a rule may fire, PICK is 1, its guard holds on predicates that are not pending, its tag test holds, each channel of INRDY holds BEATS entries ahead of a MARK or WEEP (one for the D of a reduction), its output port has room for min(BEATS, 4) entries, no slice it touches is busy, every beat of the firings before it has issued, its words are free of the firings in flight (R213), no serialising firing is in flight, and every engine that the rule needs is free: the divider, the places of a return channel, the QBLK buffer, the shape record, the places of the task port and the footing port, the ring engine, a dock for a launch, the handover. For a reduction the count of room, and for a sub-bank the schedule's choice of the requests that hold it, are the model's reading (logs 10 and 1). -/
def Obligations.EligibleMeans : Prop :=
  ∀ (i : Instr) (s : State) (r : RuleInfo), MayFire i s → ruleInfo i = some r →
    let x := s.brick s.focus.1
    x.ctl.getLsbD 0 = true ∧
    (∀ p, p < 8 → r.h.pcare.getLsbD p = true → x.pend.getLsbD p = false ∧ x.pval.getLsbD p = r.h.pval.getLsbD p) ∧
    (∀ p, p < 8 → bit (predReads i r ||| predWrites i r) p = true → x.pend.getLsbD p = false) ∧
    (r.h.tagEn = 1 → ∃ t rest, x.visible r.h.tagCh.toNat = t :: rest ∧ t.tag = Tag.ofCode r.h.tagTag.toNat) ∧
    (∀ ch, ch < 4 → bit r.h.inrdy.toNat ch = true → (r.isReduction && RuleInfo.channelOf r.du r.d = some ch) = false →
      r.beats ≤ ((x.visible ch).takeWhile fun t => !t.isBarrier).length) ∧
    (∀ ch, ch < 4 → bit r.h.inrdy.toNat ch = true → (r.isReduction && RuleInfo.channelOf r.du r.d = some ch) = true →
      1 ≤ ((x.visible ch).takeWhile fun t => !t.isBarrier).length) ∧
    (∀ p, rulePort i r = some p → min r.beats 4 ≤ x.room p) ∧
    (∀ g ∈ r.sliceReads ++ r.sliceWrites, busyRange x g = false) ∧
    x.dpFree ≤ s.now ∧ (∀ f ∈ x.firings, f.unissued = false) ∧
    (∀ p ∈ portsEntered x i r, portHeld x p = false) ∧
    comparatorOk x (mkFiring s s.focus.1 s.focus.2 s.focusWord i r) = true ∧
    (∀ f ∈ x.firings, RuleInfo.isSerial f.instr = false) ∧
    (RuleInfo.isSerial i = true → x.firings = []) ∧
    subBanksFree s s.focus.1 r (mkFiring s s.focus.1 s.focus.2 s.focusWord i r) = true ∧
    (r.usesDivider = true → x.divFree ≤ s.now) ∧
    (∀ ch n, returnsOf i = some (ch, n) →
      (x.input ch).queue.length + s.credited (.input s.focus.1 ch) .queue + (x.input ch).ret + n * r.beats ≤ 32) ∧
    (∀ h y, i = .qblk h y → x.qblk = none ∧ ∀ f ∈ x.firings, ∀ h' y', f.instr = .qblk h' y' → f.committed = true) ∧
    (∀ h y, i = .mark h y ∨ i = .weep h y → x.noConnectedInput = true ∧ x.outputsHaveRoom = true) ∧
    (∀ h y, i = .strmArm h y → (x.edge.shapes.getD (y.sub.toNat / 8) {}).state ≠ 1) ∧
    (∀ h y, i = .ttq h y ∨ i = .ttqTid h y → x.taskPort.length < 2 ∧
      (x.taskPort ≠ [] → ∀ f ∈ x.firings, ∀ h' y', f.instr = .ttq h' y' ∨ f.instr = .ttqTid h' y' → f.committed = true)) ∧
    (∀ h y, i = .fqryPost h y → x.footPort.length < 2 ∧
      (x.footPort ≠ [] → ∀ f ∈ x.firings, ∀ h' y', f.instr = .fqryPost h' y' → f.committed = true)) ∧
    (isDockRule i = true → ringHeld x s.now = false) ∧
    (∀ h y, i = .slfHdrLaunch h y → x.dockRoom s.now = true) ∧
    (∀ h y, i = .sysHandover h y → ∀ w ∈ s.handovers, w.old = s.focus.1 → w.sent = true)

/-- R65, R67, R99: the frame of every rule at its fire cycle. Only the brick in focus changes, and of it only the firings in flight, the pending predicates, the return places, the note that an event of R90 has come, the datapath and divider times and PASS: every slice, predicate value, queue, port, byte of the bank and of global memory, and every other register, `bsr.ts` among them, stays. -/
def Obligations.FiringFrame : Prop :=
  ∀ (i : Instr) (s t : State), i.isRule = true → exec i s = .next t →
    let x := s.brick s.focus.1
    let y := t.brick s.focus.1
    t = { s with bricks := t.bricks } ∧
    (∀ c, c ≠ s.focus.1 → t.brick c = s.brick c) ∧
    y = { x with ctl := y.ctl, pend := y.pend, firings := y.firings, stirred := y.stirred, dpFree := y.dpFree, divFree := y.divFree, inputs := y.inputs } ∧
    (∀ k, k < 3 → y.ctl.getLsbD k = x.ctl.getLsbD k) ∧
    (∀ p, p < 8 → x.pend.getLsbD p = true → y.pend.getLsbD p = true) ∧
    y.inputs.map (fun q => { q with ret := 0 }) = x.inputs.map (fun q => { q with ret := 0 }) ∧
    (y = x ∨ ∃ f, y.firings = x.firings ++ [f] ∧ f.instr = i ∧ f.slot = s.focus.2 ∧ f.fired = s.now ∧ f.committed = false ∧ f.issued = 1)

/-- R63, R69, R72, R75, R77: what a firing of one beat holds after its fire cycle: its result for latency + 1 cycles later with the predicate of PMODE, its effects and sticky flags for the commit, or nothing but its trap. WRBSR, RDBSR, RDTS and WPTR with nothing to write back still end with a write-back of latency 1 (R94). A dock rule on a dock that A names holds nothing yet: it is decided at its trap point (R331). Of several traps the lowest beat's is taken (log 10). -/
def Obligations.OneBeatFiring : Prop :=
  ∀ (i : Instr) (o : Beat) (s : State) (r : RuleInfo), MayFire i s → ruleInfo i = some r → r.beats = 1 → beatOf i = some o →
    let b := s.focus.1
    let f0 := mkFiring s b s.focus.2 s.focusWord i r
    let out : BeatOut := if judgedLate i = true then {} else o s b f0 r 0
    let due := resultWriteBack r f0.port 0 (s.now + r.latency + 1) out
      ((if isBankAtomic i then [] else pmodeWrites r f0 out (if r.isCompare then out.cmp else out.chain) ++ out.preds)) ++ out.wbs
    ∃ t f, exec i s = .next t ∧ (t.brick b).firings = (s.brick b).firings ++ [f] ∧ f.trap.isSome = (f0.trap.isSome || out.trap.isSome) ∧
      (f.trap = none →
        f.effects = out.effects ∧ f.sticky = out.sticky ∧
        ((∀ h x, i ≠ .sysWrbsr h x ∧ i ≠ .sysRdbsr h x ∧ i ≠ .sysRdts h x ∧ i ≠ .sysWptr h x) → f.wbs = due) ∧
        (RuleInfo.isSerial i = true → (∀ h x, i ≠ .sysXfence h x) → f.wbs = if due.isEmpty then [{ due := s.now + 2, beat := 0 }] else due)) ∧
      (f.trap.isSome = true → f.effects = [] ∧ f.wbs = [] ∧ f.sticky = 0)

/-- R75, R76, R77, R80, R153, R277, R280, R331: FIRING_COMMIT of the oldest firing, past its trap point, with no trap and in no cycle before its own (XFENCE and HANDOVER one later): a dock rule is decided there and may trap yet; otherwise `bsr.fires` counts it, the sticky flags of all its beats are set, those of the beats still to issue among them (the model's reading of R153, log 10), `bsr.ts` takes the timestamp its predicates carry, the entries it took leave their queues and return their credit, and its effects are applied in order; slices and predicates wait for their write-back. -/
def Obligations.FiringCommits : Prop :=
  (∀ (s : State) (b : BrickId) (k : Nat) (f : Firing),
    (s.brick b).oldest = some k → (s.brick b).firings[k]? = some f → f.trap = none → f.pastPoint s.now = true → f.fired + commitDelay f.instr < s.now → s.fenceReady b f = true →
      let g := s.decided b f
      (judgedLate f.instr = false → g = f) ∧
      (g.trap.isSome = true → exec (.firingCommit b) s = .next (s.modFiring b k fun _ => g)) ∧
      (g.trap = none →
        let s2 := g.effects.foldl (fun t e => t.applyEffect b k (s.now - 1) e) (s.setBrick b ((s.brick b).commitFiring k { g with sticky := s.stickyAhead b g }))
        exec (.firingCommit b) s = .next ((s2.modBrick b Brick.dropFinished).noteTs b (s2.brick b).pts))) ∧
  (∀ (x : Brick) (k : Nat) (f : Firing),
    let y := x.commitFiring k f
    let gone := ((List.range 4).map fun ch => ((x.input ch).queue.take (f.take.getD ch 0)).length).sum
    y.fires = (x.fires + 1) % 2 ^ 48 ∧ y.sticky = x.sticky ||| BitVec.ofNat 9 f.sticky ∧ y.pts = max x.pts f.carry ∧ (x.stepMode = true → y.pick = false) ∧
    y.slices = x.slices ∧ y.pval = x.pval ∧ y.pend = x.pend ∧ y.bank = x.bank ∧ y.outs = x.outs ∧
    y.sent = x.sent + gone ∧ y.rcvd = x.rcvd + gone ∧
    (x.inputs.length = 4 → ∀ ch, ch < 4 → (y.input ch).queue = (x.input ch).queue.drop (f.take.getD ch 0)) ∧
    (∀ j, j ≠ k → y.firings[j]? = x.firings[j]?))

/-- R208 to R210, R212: a store that a commit applies changes the nibbles of its container and no other, and only bytes of that container. -/
def Obligations.StoreAtCommit : Prop :=
  ∀ (s : State) (b : BrickId) (k c nib len v : Nat), Memory.wf (s.brick b).bank = true →
    let t := s.applyEffect b k c (.bank nib len v)
    t = { s with bricks := t.bricks } ∧
    (∀ d, d ≠ b → t.brick d = s.brick d) ∧
    t.brick b = { s.brick b with bank := (t.brick b).bank, bankUe := (t.brick b).bankUe } ∧
    Memory.wf (t.brick b).bank = true ∧
    (∀ j, j < len → nibbleGet (t.brick b).bank (nib + j) = v / 16 ^ j % 16) ∧
    (∀ m, m < nib ∨ nib + len ≤ m → nibbleGet (t.brick b).bank m = nibbleGet (s.brick b).bank m)

/-- R69, R72, R73, R99, R175: BEAT_WRITE_BACK of a committed firing: D's slices take the value and every other slice keeps its own; the predicates of the beat take theirs and stop being pending, and a watch that waited for one of them may then write its own; a port's token enters its skid buffer; the write-back leaves the firing; and nothing else changes but the mark of a weep that is done and the note of an event of R90. -/
def Obligations.BeatWritesBack : Prop :=
  (∀ (s : State) (b : BrickId) (k j : Nat) (w : WriteBack), (s.brick b).nextWriteBack s.now k = some (j, w) →
    exec (.beatWriteBack b k) s = .next (s.setBrick b ((s.brick b).writeBack k j w))) ∧
  (∀ (x : Brick) (k j : Nat) (w : WriteBack),
    let y := x.writeBack k j w
    let z := (x.writePreds w.preds).settleWatches
    (w.lo = none → y.slices = x.slices) ∧
    (∀ lo n v, w.lo = some (lo, n, v) → 0 < n → lo + n ≤ 112 →
      readSlices y.slices lo n = v % 2 ^ (4 * n) ∧
      ∀ m, m < lo ∨ lo + n ≤ m → m < 112 → readSlices y.slices m 1 = readSlices x.slices m 1) ∧
    (w.port = none → y.outs = x.outs) ∧
    (∀ p o, w.port = some (p, o) → y.outs = (x.modOut p fun q => q.push o).outs) ∧
    y.pval = z.pval ∧ y.pend = z.pend ∧ y.predTs = z.predTs ∧ y.inputs = z.inputs ∧
    y.firings = (modifyAt (fun f => { f with
      wbs := removeAt j f.wbs
      entered := f.entered + match w.port with
        | some q => if f.port = some q.1 then 1 else 0
        | none => 0 }) k x.firings).filter (fun f => !f.finished) ∧
    y = { x with slices := y.slices, outs := y.outs, pval := y.pval, pend := y.pend, predTs := y.predTs, inputs := y.inputs, firings := y.firings,
                 weep := y.weep, idle := y.idle, stirred := y.stirred }) ∧
  (∀ (q : Port) (o : Out),
    (q.connected = true → (q.push o).skid = q.skid ++ [{ tok := o.token q.count, todo := List.range q.route.length }]) ∧
    (q.connected = false → (q.push o).skid = q.skid) ∧ q.push o = { q with count := (q.push o).count, skid := (q.push o).skid }) ∧
  (∀ (x : Brick) (p : Nat) (v : Bool), p < 8 →
    (x.writePreds [(p, v)]).pred p = v ∧ (x.writePreds [(p, v)]).pending p = false ∧
    ∀ q, q < 8 → q ≠ p → (x.writePreds [(p, v)]).pred q = x.pred q ∧ (x.writePreds [(p, v)]).pending q = x.pending q) ∧
  (∀ x : Brick, (∀ ch w, ch < 4 → (x.input ch).watch = some w → w.fired = true ∨ w.seen < w.target ∨ x.pending w.pred = true) →
    x.settleWatches = x)

/-- R70, R77, R103: BEAT_ISSUE of the firing with beats to issue: the next beat computes from the state as it stands, the datapath is taken for the rule's spacing, and the next beat follows no earlier than its pace. The last beat brings the predicates and is an event of R90; a firing that has committed gives its effects at once, and no flags, which its commit set (log 10). -/
def Obligations.BeatIssues : Prop :=
  ∀ (s : State) (b : BrickId) (k : Nat) (f : Firing) (r : RuleInfo) (o : Beat),
    (s.brick b).firings.findIdx? Firing.unissued = some k → (s.brick b).firings[k]? = some f →
    ruleInfo f.instr = some r → beatOf f.instr = some o → beatReady s (s.brick b) r f = true →
    (s.brick b).spanFree s.now k f (f.beatSpan s b r f.issued) = true →
    let x := s.brick b
    let f := f.cover (f.beatSpan s b r f.issued)
    let out : BeatOut := if judgedLate f.instr = true then {} else o s b f r f.issued
    let g := recordBeat s.now r f out
    let y : Brick := { x.modFiring k (fun _ => if g.committed = true then { g with effects := [], sticky := 0 } else g) with
      dpFree := s.now + r.spacing, divFree := if r.usesDivider = true then s.now + r.spacing else x.divFree }
    let u := s.setBrick b (if g.issued = r.beats then y.wake else y)
    (f.committed = false → exec (.beatIssue b) s = .next (u.modBrick b Brick.dropFinished)) ∧
    (f.committed = true →
      exec (.beatIssue b) s = .next ((g.effects.foldl (fun t e => t.applyEffect b k (s.now - 1) e) u).modBrick b Brick.dropFinished)) ∧
    g.issued = f.issued + 1 ∧ g.next = s.now + r.pace ∧ g.committed = f.committed ∧
    (f.trap = none → out.trap = none → f.issued + 1 < r.beats →
      g.wbs = f.wbs ++ resultWriteBack r f.port f.issued (s.now + r.latency + 1) out [] ++ out.wbs ∧
      g.effects = f.effects ++ out.effects) ∧
    (f.trap = none → out.trap = none → f.issued + 1 = r.beats →
      g.wbs = f.wbs ++ resultWriteBack r f.port f.issued (s.now + r.latency + 1) out
        (if isBankAtomic f.instr = true then []
          else pmodeWrites r f out (if r.isCompare = true then combineCompare r.f.pmode f.issued f.chain out.cmp else out.chain) ++ out.preds) ++ out.wbs ∧
      g.effects = f.effects ++ out.effects) ∧
    (∀ t, f.trap = none → out.trap = some t → g.trap = some { t with beat := f.issued } ∧ g.wbs = [] ∧ g.effects = []) ∧
    (∀ t, f.trap = some t → g.trap = some t ∧ g.wbs = f.wbs ∧ g.effects = f.effects)

/-- R77, R78, R79, R80, R83, R89, R403: PRECISE_TRAP of the oldest firing whose trap has been found first clears PICK and discards every later firing; once the earlier ones have committed and written back and the trap point is past, it writes the record with VALID and removes the firing, which has changed no slice, port or byte, and of the predicates at most one that a watch was waiting to write; the region faults BRKTRAP unless the class is BKPT. Of several traps the lowest beat's is taken (log 10). -/
def Obligations.TrapIsPrecise : Prop :=
  (∀ (s : State) (b : BrickId) (k : Nat) (f : Firing) (t : Trap),
    (s.brick b).trapped s.now = some k → (s.brick b).firings[k]? = some f → f.trap = some t →
    (((s.brick b).pick = true ∨ k + 1 < (s.brick b).firings.length) →
      exec (.preciseTrap b) s = .next (s.modBrick b fun x => x.discardAfter k)) ∧
    ((s.brick b).pick = false → k + 1 = (s.brick b).firings.length → f.pastPoint s.now = true → k = 0 →
      exec (.preciseTrap b) s = .next
        (((s.modBrick b fun x => { x.release f with firings := removeAt k (x.release f).firings }).modBrick b Brick.settleWatches).takeTrap
          b t.cls t.detail t.beat f.slot t.val f.word f.snap))) ∧
  (∀ (x : Brick) (now : Nat), x.trapped now = x.firings.findIdx? fun f => f.trap.isSome && decide (f.found < now)) ∧
  (∀ (x : Brick) (k : Nat),
    (x.discardAfter k).pick = false ∧ (x.discardAfter k).firings = x.firings.take (k + 1) ∧ (x.discardAfter k).slices = x.slices ∧
    (x.discardAfter k).bank = x.bank ∧ (x.discardAfter k).outs = x.outs ∧ (x.discardAfter k).fires = x.fires ∧
    ∀ p, p < 8 → (∀ ch w, ch < 4 → (x.input ch).watch = some w → w.pred = p → w.fired = true ∨ w.seen < w.target) →
      (x.discardAfter k).pred p = x.pred p) ∧
  (∀ (x : Brick) (f : Firing),
    x.release f = { x with pend := (x.release f).pend, inputs := (x.release f).inputs } ∧
    (x.release f).inputs.map (fun q => { q with ret := 0 }) = x.inputs.map (fun q => { q with ret := 0 }) ∧
    ∀ p, p < 8 → x.pend.getLsbD p = false → (x.release f).pend.getLsbD p = false) ∧
  (∀ (s : State) (b : BrickId) (cls detail beat slot val : Nat) (word : Word) (snap : List (Option Token)), ∃ blank,
    let t := s.takeTrap b cls detail beat slot val word snap
    let y := (s.brick b).recordTrap cls detail beat slot val word snap blank
    t.brick b = y ∧ (∀ c, c ≠ b → t.brick c = s.brick c) ∧ (cls = 0x02 → t.slots = s.slots) ∧
    ∀ g, (s.brick b).region = some g → cls ≠ 0x02 →
      t.slots = (s.raiseFault g { code := 0x01, fire := y.tfire, cls, detail, data := word.toNat, brick := b.toNat }).slots) ∧
  (∀ (s : State) (g : RegionId) (r : Record),
    (s.slot g).active = true → (s.slot g).fault = none → (s.slot g).ended = false → (s.slot g).pending = none →
      (s.raiseFault g r).slot g = { s.slot g with pending := some (s.now, (s.regionRecord g r).words 0 0) }) ∧
  (∀ (x : Brick) (cls detail beat slot val : Nat) (word : Word) (snap : List (Option Token)) (blank : Nat → Nat),
    let y := x.recordTrap cls detail beat slot val word snap blank
    cls < 256 → detail < 256 → beat < 32 → slot < 16 →
    bits y.tcls.toNat 23 16 = cls ∧ bits y.tcls.toNat 31 24 = detail ∧ bits y.tcls.toNat 9 5 = beat ∧ bits y.tcls.toNat 3 0 = slot ∧
    y.trapValid = true ∧ y.pick = false ∧ y.tword = word ∧ y.tval = BitVec.ofNat 64 val ∧ y.tfire = (x.fires + 1) % 2 ^ 48 ∧
    y.slices = x.slices ∧ y.pval = x.pval ∧ y.bank = x.bank ∧ y.outs = x.outs ∧ y.inputs = x.inputs)

/-- R65, R69, R72, R75, R99: the life of a one-beat rule that writes slices, on a brick with nothing else in flight. It fires; from a later cycle on it commits; from latency + 1 cycles on it writes back: then D's slices hold the value of its beat and every other slice, the bank and global memory are as they were before it fired. -/
def Obligations.OneBeatRuleLife : Prop :=
  ∀ (i : Instr) (o : Beat) (s : State) (r : RuleInfo) (v m n : Nat),
    let b := s.focus.1
    let f0 := mkFiring s b s.focus.2 s.focusWord i r
    let out := o s b f0 r 0
    MayFire i s → ruleInfo i = some r → beatOf i = some o → r.beats = 1 → r.d < 112 → r.du.writes = true → 0 < r.du.slices → r.d + r.du.slices ≤ 112 →
    (∀ h x, i ≠ .sysWrbsr h x ∧ i ≠ .sysRdbsr h x ∧ i ≠ .sysRdts h x ∧ i ≠ .sysWptr h x) → trapDelay i = none → commitDelay i = 0 → (s.brick b).firings = [] → f0.trap = none → out.trap = none → out.effects = [] →
    out.wbs = [] → out.out = none → out.write = some v →
    s.now < m → s.now + r.latency + 1 ≤ n →
    ∃ t1 t2 t3, exec i s = .next t1 ∧ exec (.firingCommit b) { t1 with now := m } = .next t2 ∧
      exec (.beatWriteBack b 0) { t2 with now := n } = .next t3 ∧
      readSlices (t3.brick b).slices r.d r.du.slices = v % 2 ^ (4 * r.du.slices) ∧
      (∀ k, k < r.d ∨ r.d + r.du.slices ≤ k → k < 112 → readSlices (t3.brick b).slices k 1 = readSlices (s.brick b).slices k 1) ∧
      (t3.brick b).bank = (s.brick b).bank ∧ t3.hbm = s.hbm ∧ (t3.brick b).fires = ((s.brick b).fires + 1) % 2 ^ 48


/-! ## The machine: steps, invariants, encoding, reset -/

/-- R66: in each cycle the picker fires the lowest-numbered eligible slot, and only that slot; when no slot is eligible, nothing fires. The picker's move of a brick whose due steps are done is the meaning of the instruction decoded in the lowest eligible slot, with that slot in focus; a cycle does not pass while a slot is eligible; and after a firing no slot is eligible in the same cycle. Nothing else of the state decides, so the picker has no memory. That the picker moves by a move of the agenda, after the steps and arrivals that are due in its cycle, and that the clock waits for it, is the model's choice (log 1). -/
def Obligations.StepFiresLowestEligibleSlot : Prop :=
  (∀ (s : State) (b : BrickId) (rest : List Move), s.agenda = .pick b :: rest →
    let u : State := { s with agenda := rest }
    let word (k : Nat) : Word := (s.brick b).pool.getD k 0
    let fires (k : Nat) (i : Instr) : Prop := decode (BrickId.isEdge b) (word k) = .instr i ∧ eligible u b k (word k) i = true
    (u.brickDue b = false → u.arriving b = false → pickerRuns s.now (s.brick b) = true →
      (∀ k i, k < 16 → fires k i → (∀ j, j < k → ∀ i', ¬ fires j i') → step s = exec i { u with focus := (b, k) }) ∧
      ((∀ k, k < 16 → ∀ i, ¬ fires k i) → step s = .next u)) ∧
    ((u.brickDue b = true ∨ u.arriving b = true ∨ pickerRuns s.now (s.brick b) = false) → step s = .next u)) ∧
  (∀ (s : State) (b : BrickId) (k : Nat) (i : Instr) (rest : List Move), s.agenda = .tick :: rest → k < 16 →
    let u : State := { s with agenda := rest }
    let word : Word := (s.brick b).pool.getD k 0
    pickerRuns s.now (s.brick b) = true → decode (BrickId.isEdge b) word = .instr i → eligible u b k word i = true → step s = .next u) ∧
  ∀ (i : Instr) (s t : State), MayFire i s → exec i s = .next t → t.now = s.now ∧ pickSlot t s.focus.1 = none

/-- What a step does with each other move of the agenda (R9, R207; the model's choice of moves, log 1): a tick advances the clock by a cycle unless a step of this cycle is still due, a hold keeps a brick's bank rules from its sub-banks for this cycle, an event of another agent runs its meaning, and an empty agenda takes the schedule's next moves. -/
def Obligations.StepRunsTheOtherMoves : Prop :=
  (∀ (s : State) (rest : List Move), s.agenda = .tick :: rest →
    ∃ t, step s = .next t ∧ t = { s with agenda := rest, now := t.now } ∧
      t.now = (if ({ s with agenda := rest } : State).due then s.now else s.now + 1)) ∧
  (∀ (s : State) (b : BrickId) (banks : BitVec 8) (rest : List Move), s.agenda = .hold b banks :: rest →
    ∃ t, step s = .next t ∧ t = { s with agenda := rest, bricks := t.bricks } ∧ t.brick b = { s.brick b with aged := (s.now, banks) } ∧
      ∀ c, c ≠ b → t.brick c = s.brick c) ∧
  (∀ (s : State) (i : Instr) (rest : List Move), s.agenda = .event i :: rest →
    (i.isRule = false → step s = exec i { s with agenda := rest }) ∧ (i.isRule = true → step s = .next { s with agenda := rest })) ∧
  (∀ s : State, s.agenda = [] → step s = .next { s with agenda := Config.schedule s.epoch, epoch := s.epoch + 1 })

/-- Every instruction and every step answers a next state, in every state: the machine has no fault and no refusal. That an event which is not enabled, or names no instance, leaves the state as it is, is the model's choice (logs 1 and 4); which effect each event has, the other statements say. -/
def Obligations.EveryStepAnswersNext : Prop :=
  (∀ (i : Instr) (s : State), ∃ t, exec i s = .next t) ∧ ∀ s : State, ∃ t, step s = .next t

/-- R9, R406, R444: every step keeps the clock between 0.1 and 2.7 GHz, the last change of the clock in the past, and every field of ERRWIN nonzero. -/
def Obligations.ClockInvariantKept : Prop := ∀ s t : State, s.clockOk → step s = .next t → t.clockOk

/-- R8, R16, R17, R406, R444: over all instructions, `CAPB` and `BPM` change only at a boot, the clock only at a boot and at the power limit's steps, ERRWIN only at a boot and at a write of it; no instruction but a boot sets the cycle counter, and none changes the agenda. -/
def Obligations.OnlyCertainMovesChange : Prop :=
  ∀ (i : Instr) (s t : State), exec i s = .next t →
    (i ≠ .boot → t.capb = s.capb ∧ t.bpm = s.bpm ∧ t.now = s.now) ∧
    (i ≠ .boot → (∀ w, i ≠ .powerLimitStepDown w) → (∀ w, i ≠ .powerStepUp w) →
      t.fclk = s.fclk ∧ t.clockAt = s.clockAt ∧ t.clockTime = s.clockTime) ∧
    (i ≠ .boot → (∀ v, i ≠ .errwinWrite v) → t.errwin = s.errwin) ∧
    t.agenda = s.agenda ∧ t.epoch = s.epoch

/-- R27, R30 to R47: the word of every well-formed rule decodes to that rule, with every operand at every value that the encoding admits. -/
def Obligations.DecodeOfEncode : Prop :=
  ∀ (edge : Bool) (i : Instr) (w : Word), i.wf edge = true → encode i = some w → decode edge w = .instr i

/-- R47: every word that the decoder accepts is the word of the rule that it decodes to, and that rule is well formed; so no two words decode to one rule. -/
def Obligations.EncodeOfDecode : Prop :=
  ∀ (edge : Bool) (w : Word) (i : Instr), decode edge w = .instr i → encode i = some w ∧ i.wf edge = true

/-- R29, R30, R32, R44: for every instruction of the table, the word that encodes it is cut into exactly the opcode, head and body that it was made of, and is no INV word. -/
def Obligations.FieldsKept : Prop := ∀ i : Instr, Laws.FieldsKept.Statement i

/-- R27 to R46: words written out from the encoding tables decode to the instructions they stand for: FMUL, MOVI.16, ADC.64, PLOG.andn, LDB.16, EOS, GLD, FIRE. -/
def Obligations.WrittenWordsDecode : Prop :=
  (∃ h x, decode true 0x841404746F1E0212 = .instr (.fmul h x)) ∧
  (∃ h x, decode true 0x66000000194FFEC0 = .instr (.movi h x)) ∧
  (∃ h x, decode true 0x060000607F0E1C64 = .instr (.adc h x)) ∧
  (∃ h x, decode true 0xC000000019480000 = .instr (.plog h x)) ∧
  (∃ h x, decode true 0xD0000000188000C0 = .instr (.ldb h x)) ∧
  (∃ h x, decode true 0xE20A025528714000 = .instr (.eos h x)) ∧
  (∃ h x, decode true 0xF000000069E803A0 = .instr (.gld h x)) ∧
  (∃ h x, decode true 0xFA00010000E9CC08 = .instr (.slfFire h x))

/-- R29: the word 0 is INV, which the picker never finds eligible; any other word whose opcode is 0x00 is a non-instruction, with reason INVBITS. -/
def Obligations.InvIsNoInstruction : Prop :=
  (∀ edge : Bool, decode edge 0 = .inv) ∧
  (∀ (edge : Bool) (w : Word), w ≠ 0 → w.toNat / 2 ^ 57 = 0 → decode edge w = .rejected .invbits) ∧
  (∀ (s : State) (b : BrickId) (k : Nat) (i : Instr), (s.brick b).pool.getD k 0 = 0 → pickSlot s b ≠ some (k, i))

/-- R2, R37, R38, R68: a brick's identifier holds the die in [13:12], the course in [11:6] and the column in [5:0], its bay is floor(c / 8) of its die, and a rule reads the identifier through `bid`. The other operand codes: slices, channel heads, zero, `beat` and `cyc`, each taken to the operand's width. -/
def Obligations.OperandCodes : Prop :=
  (∀ d c k : Nat, d < 4 → c < 64 → k < 64 →
    let b := BrickId.mk d c k
    b.toNat = d * 2 ^ 12 + c * 2 ^ 6 + k ∧ BrickId.die b = d ∧ BrickId.course b = c ∧ BrickId.col b = k ∧ BrickId.bay b = 8 * d + c / 8) ∧
  ∀ (s : State) (b : BrickId) (f : Firing) (r : RuleInfo) (u : Use) (i : Nat), u.reads = true →
    let n := u.slices
    fieldValue s b f r u 118 i = b.toNat % 2 ^ (4 * n) ∧
    fieldValue s b f r u 116 i = 0 ∧
    fieldValue s b f r u 117 i = i % 2 ^ (4 * n) ∧
    fieldValue s b f r u 119 i = (s.brick b).cycle s.now % 2 ^ (4 * n) ∧
    (∀ c, c < 112 → f.wbs = [] → fieldValue s b f r u c i = readSlices (s.brick b).slices c n) ∧
    (∀ ch t, ch < 4 → (f.heads.getD ch [])[if r.f.keep then 0 else i]? = some t →
      fieldValue s b f r u (112 + ch) i = t.pay.toNat % 2 ^ (4 * n))

/-- R9, R15, R16, R23, R60, R64, R81 to R83, R190, R239, R272, R406, R444: what reset leaves: the counts of a part with nothing mapped out, 2.7 GHz, every bind slot FREE, and every brick FREE and in service, with its pool INV, slices and predicates zero, PICK clear and no trap; the clock invariant and the canonical form of the memories hold. FREE slots and bricks, a part with nothing mapped out and the zeros that no rule gives are the model's reset values (log 2), and so is the cycle count 0 (log 1). -/
def Obligations.ResetState : Prop :=
  let s := State.reset
  s.clockOk ∧ s.memWf ∧ s.now = 0 ∧ s.fclk = 27 ∧ s.errwin = (1000, 4, 8) ∧
  bits s.capb.toNat 63 49 = 16384 ∧ bits s.capb.toNat 48 39 = 512 ∧ bits s.capb.toNat 38 30 = 0 ∧ bits s.capb.toNat 29 24 = 32 ∧
  (∀ b : BrickId, s.inService b = true) ∧
  (∀ r : RegionId, (s.slot r).st = .free ∧ s.bstat r = 0) ∧
  (∀ t : Nat, (s.tenancy t).cfg = 0 ∧ (s.tenancy t).lease = 16 ∧ (s.tenancy t).dlwin = 2048) ∧
  (∀ d : Nat, (s.die d).talw = 0xFFFF_0000_0000 ∧ (s.die d).flogctl = 0) ∧
  (∀ b : BrickId, let x := s.brick b
    x.life = .free ∧ x.pool = List.replicate 16 0 ∧ readSlices x.slices 0 112 = 0 ∧ x.pval = 0 ∧ x.pend = 0 ∧
    x.pick = false ∧ x.trapValid = false ∧ x.sticky = 0 ∧ x.round = 0 ∧ x.pts = 0 ∧ x.region = none) ∧
  ∀ (b : BrickId) (i : Instr), exec i { s with focus := (b, 0) } = .next { s with focus := (b, 0) } ∨ i.isRule = false

/-- R6, R203: the memories, HBM, the host's memory and every bank, as lists of bytes. The canonical form, and that an unlisted byte reads as zero, are the model's choice (log 3). The form holds at reset and every step keeps it; a write of bytes keeps it, reads back as what was written, and leaves every other byte alone; equal contents are equal memories. -/
def Obligations.MemoryCanonical : Prop :=
  State.reset.memWf ∧ (∀ s t : State, s.memWf → step s = .next t → t.memWf) ∧
  (∀ (l : List Host.Cell) (a : Nat) (vs : List Byte), Memory.wf l = true →
    Memory.wf (cellsWrite l a vs) = true ∧
    (∀ k v, vs[k]? = some v → cellsGet (cellsWrite l a vs) (a + k) = v) ∧
    ∀ c, c < a ∨ a + vs.length ≤ c → cellsGet (cellsWrite l a vs) c = cellsGet l c) ∧
  (∀ l m : List Host.Cell, Memory.wf l = true → Memory.wf m = true → (∀ a, cellsGet l a = cellsGet m a) → l = m)


/-! ## Events of the other agents: when each takes place, and the next state -/

/-- R183 to R188, R191, R90, R171, R381: tokens leave skid buffers, travel, arrive and are refilled; bricks align, weep and wake. A brick that aligns counts its round, drops the MARK of every connected input and sends one on. When a move that is due at no fixed cycle happens is the model's choice (log 1); the head words of an empty channel are free (log 12). -/
def Obligations.TokensMove : Prop :=
  (∀ (s : State) (n : Nat) (f : Flight), s.flights[n]? = some f → f.due ≤ s.now → firstOfItsPath s.flights n f = true → s.placeFor f = true →
    exec (.tokenArrival n) s = .next (({ s with flights := removeAt n s.flights }.arrive f).rcvd f.src 1)) ∧
  (∀ (s : State) (f : Flight) (b : BrickId) (ch : Nat), f.dest = .input b ch → (s.brick b).discard = false →
    ((s.brick b).input ch).watch = none → ((s.brick b).input ch).gutter = none →
    s.arrive f = s.modBrick b fun x => (x.modInput ch fun i => { i with queue := i.queue ++ [f.tok] }).wake) ∧
  (∀ (s : State) (f : Flight) (b : BrickId) (k : Nat),
    f.dest ∈ [.input b k, .streamIn b k, .draw b, .param b, .bank b k, .ring b] → (s.brick b).discard = true → s.arrive f = s) ∧
  (∀ (s : State) (b : BrickId) (ch : Nat) (g : Gutter), ((s.brick b).input ch).gutter = some g → 0 < g.count → g.stopped = false → g.trap = none →
    0 < ((s.brick b).input ch).queueFree →
    let ue := (s.brick b).wordUe (g.addr 0 / 8) || (s.brick b).wordUe (g.addr 0 / 8 + 1)
    (ue = false → exec (.gutterRefill b ch) s = .next (s.modBrick b fun x =>
      (x.modInput ch fun i => { i with
        queue := i.queue ++ [x.gutterHead g]
        gutter := some { g with head := (g.head + 1) % g.capacity, count := g.count - 1, notes := g.notes.drop 1 } }).wake)) ∧
    (ue = true → ∃ t, exec (.gutterRefill b ch) s = .next t ∧ (t.brick b).pick = false ∧ (t.brick b).bank = (s.brick b).bank ∧
      (ch < (s.brick b).inputs.length → ((t.brick b).input ch).gutter = some { g with stopped := true, trap := some (g.addr 0 / 4096) } ∧
        ((t.brick b).input ch).queue = ((s.brick b).input ch).queue))) ∧
  (∀ (s : State) (b : BrickId) (ch part : Nat) (g : Gutter), ((s.brick b).input ch).gutter = some g → g.trap = some part →
    (∀ f ∈ (s.brick b).firings, f.committed = true) → (s.brick b).trapValid = false →
    exec (.gutterRefill b ch) s = .next
      ((s.modBrick b fun x => x.modInput ch fun i => { i with gutter := some { g with trap := none } }).takeTrap
        b 0x06 part 0 0 0 0 (s.brick b).headSnap)) ∧
  (∀ (s : State) (p : PortRef) (k : Nat), ((s.portOf p).skid.findIdx? fun e => !e.forked) = some k → s.frozen p = false →
    let branches := ((s.portOf p).skid.getD k { tok := dataToken 0, todo := [] }).todo
    let t := branches.foldl (fun s br => if s.branchOpen p k br then s.sendBranch p k br else s) s
    exec (.tokenForward p) s = .next ((t.setPort p { t.portOf p with skid := modifyAt (fun e => { e with forked := true }) k (t.portOf p).skid }).retirePort p)) ∧
  (∀ (s : State) (p : PortRef) (br k : Nat), ((s.portOf p).skid.findIdx? fun e => e.forked && e.todo.contains br) = some k →
    s.frozen p = false → s.branchOpen p k br = true →
    exec (.branchHoldDeliver p br) s = .next ((s.sendBranch p k br).retirePort p)) ∧
  (∀ (s : State) (b : BrickId), alignReady s.now (s.brick b) = true → ∃ t, exec (.brickAlign b) s = .next t ∧
    t = { s with bricks := t.bricks } ∧ (∀ c, c ≠ b → t.brick c = s.brick c) ∧
    (t.brick b).round = ((s.brick b).round + 1) % 2 ^ 48 ∧
    (t.brick b).inputs = ((s.brick b).dequeueHeads Token.isMark).inputs ∧
    (t.brick b).outs = ((s.brick b).pushConnected (markToken (((s.brick b).round + 1) % 2 ^ 48))).outs ∧
    (t.brick b).slices = (s.brick b).slices ∧ (t.brick b).pval = (s.brick b).pval ∧ (t.brick b).bank = (s.brick b).bank) ∧
  (∀ (s : State) (b : BrickId),
    let x := s.brick b
    let ordered : Bool := x.weep = .ordered && x.firings.isEmpty && x.outputsHaveRoom
    (ordered = true → exec (.brickWeep b) s = .next (s.modBrick b fun x => x.doWeep (s.regionGen x) false)) ∧
    (ordered = false → weepReady s.now x = true → exec (.brickWeep b) s = .next (s.modBrick b fun x => x.doWeep (s.regionGen x) true)) ∧
    (∀ gen heads, (x.doWeep gen heads).pick = false ∧ (x.doWeep gen heads).weep ≠ .none ∧ (x.doWeep gen heads).slices = x.slices)) ∧
  (∀ (s : State) (b : BrickId), (s.brick b).mayResume s.now = true → exec (.pickerWake b) s = .next (s.modBrick b fun x => { x with idle := none })) ∧
  (∀ (s : State) (b : BrickId) (p : Nat) (w : Word) (ws : List Word) (ready : Nat), (s.brick b).qblk = some (p, w :: ws, ready) → ready ≤ s.now →
    1 ≤ (s.brick b).room p → (s.brick b).portClear p = true →
    let y := (s.brick b).modOut p fun q => q.push (.tok { tag := .data, pay := w })
    (ws ≠ [] → exec (.qblkBufferEmit b) s = .next (s.setBrick b { y with qblk := some (p, ws, s.now + 1) })) ∧
    (ws = [] → exec (.qblkBufferEmit b) s = .next (s.setBrick b { y with qblk := none }.wake))) ∧
  (∀ (s : State) (r : RegionId), (s.slot r).active = true → (s.slot r).round ≠ s.leastRound r →
    exec (.regionRoundUpdate r) s = .next
      ((s.slot r).bricks.foldl (fun s b => s.modBrick b Brick.wake) (s.modSlot r fun x => { x with round := s.leastRound r })))

/-- R24 to R26, R192, R368, R370, R371, R373 to R375: bind slots take records, dispatch checks, holds, loads and starts them in the order of their GO writes, a reconfiguration is submitted and applied, under the key slots, the measurement log and the schedulers of its target, an ended slot is freed, and bays are granted and returned. The readings of log 18 and the time of a load (log 1) are the model's. -/
def Obligations.RegionsStart : Prop :=
  (∀ (s : State) (r : RegionId) (w : Word), r.exists = true → (s.slot r).st = .free →
    let words := modifyAt (fun _ => w) 0 (s.slot r).words
    (w.getLsbD 63 = true → exec (.bindSubmit r w) s = .next (s.modSlot r fun _ => { words, st := .valid, order := s.nextOrder })) ∧
    (w.getLsbD 63 = false → exec (.bindSubmit r w) s = .next (s.modSlot r fun x => { x with words }))) ∧
  (∀ (s : State) (die : Nat) (r : RegionId), s.loading die = some r → (s.slot r).ranAt ≤ s.now →
    exec (.dispatchLoad die) s = .next (s.startRun r)) ∧
  (∀ (s : State) (die : Nat) (r : RegionId), s.loading die = none → s.nextValid die = some r → (s.slot r).rcf = false →
    exec (.dispatchLoad die) s = .next (match s.check r with
      | (.error code, u) => u.modSlot r fun x => { x with st := .reject, reason := code }
      | (.ok a, u) =>
        let bricks := a.bricks.map (·.1)
        if u.mustHold (u.slot r) bricks || u.behindHeld r bricks then u.modSlot r fun x => { x with st := .hold, bricks } else u.loadStart r a)) ∧
  (∀ (s : State) (r : RegionId), (s.slot r).st = .hold → (s.slot r).rcf = false → s.loading r.die = none →
    s.mustHold (s.slot r) (s.slot r).bricks = false → s.behindHeld r (s.slot r).bricks = false →
    exec (.heldRecordRelease r) s = .next ((s.modSlot r fun x => { x with bricks := [] }).admitRegion r)) ∧
  (∀ (s : State) (r : RegionId), (s.slot r).rcf = true →
    ((s.slot r).st = .valid ∧ s.nextValid r.die = some r ∧ s.loading r.die = none ∨
      (s.slot r).st = .hold ∧ s.reconfiguring ((s.slot r).target r) = false) →
    let y := s.slot ((s.slot r).target r)
    ((s.slot r).reconfigFormat y = false → exec (.reconfigSubmit r) s = .next (s.reject r rejFormat)) ∧
    ((s.slot r).reconfigFormat y = true → s.nodeOk (s.slot r) = true → (y.st ≠ .run ∨ y.wave.isSome = true) →
      exec (.reconfigSubmit r) s = .next (s.reject r rejImage)) ∧
    ((s.slot r).reconfigFormat y = true → s.nodeOk (s.slot r) = true → y.st = .run → y.wave = none → s.reconfiguring ((s.slot r).target r) = false →
      exec (.reconfigSubmit r) s = .next (match s.readLoad ((s.slot r).target r) (s.slot r).tenancy (s.slot r).img with
        | (none, u) => u.reject r rejImage
        | (some img, u) => match img.placed y with
          | none => u.reject r rejImage
          | some placed =>
            if placed.map (·.1) ≠ y.bricks then u.reject r rejImage
            else match poolFailures (placed.map fun p => (p.1, p.2.pool)) with
              | (b, k, reason, w) :: more => ((u.noteLoadBad r ((b, k, reason, w) :: more)).reject r rejLoadBad).raiseFault ((s.slot r).target r)
                  { code := 0x04, brick := b.toNat, cls := k, detail := reason, count := more.length + 1, data := w.toNat }
              | [] => match u.reconfigCheck y img placed with
                | some code => u.reject r code
                | none =>
                  let keys := (u.matchingKeys (s.slot r).tenancy img.hash).filter fun k => !y.keys.contains k
                  if u.chargeFits (s.slot r).node 5 keys.length = false then u.reject r rejBudget
                  else u.sendReconfig r img.hash keys (newBinds y (LoadImage.plan { img with courses := [] } y placed)) placed))) ∧
  (∀ (s : State) (r : RegionId) (hash : Nat) (keys : List Nat) (binds : List (Nat × Nat)) (placed : List (BrickId × BrickPart)),
    let u := s.sendReconfig r hash keys binds placed
    (u.slot r).st = .run ∧ (∀ b, u.brick b = { s.brick b with hold := (u.brick b).hold }) ∧
    ((placed.map (·.1)).Nodup → ∀ p ∈ placed, (u.brick p.1).hold = some (holdOf (s.slot ((s.slot r).target r)) (s.slot r) r p))) ∧
  (∀ (s : State) (b : BrickId) (h : Hold) (r : RegionId), (s.brick b).hold = some h → (s.brick b).region = some r → (s.brick b).weep = .wept →
    (s.brick b).pick = false → (s.brick b).firings = [] → (s.brick b).gutterFits h.gutters = true →
    let s1 := ((s.stopLive b).modBrick b fun x => x.applyHold h).connectRegion r
    let waits (c : BrickId) : Bool := (s1.brick c).hold.isSome
    let mates := (s1.slot r).bricks
    let sameCourse (c : BrickId) : Bool := BrickId.die c = BrickId.die b && BrickId.course c = BrickId.course b
    let s2 := s1.modSched (BrickId.die b) (BrickId.course b) fun q => if q.region = some r then { q with gen := h.gen } else q
    ((∃ c ∈ mates, sameCourse c = true ∧ waits c = true) → exec (.reconfigApply b) s = .next s1) ∧
    ((∀ c ∈ mates, sameCourse c = true → waits c = false) → (∃ c ∈ mates, waits c = true) → exec (.reconfigApply b) s = .next s2) ∧
    ((∀ c ∈ mates, waits c = false) → exec (.reconfigApply b) s = .next
      ((s2.modSlot r fun y => { y with words := modifyAt (fun w => BitVec.ofNat 64 (insertBits w.toNat 23 16 h.gen)) 0 y.words }).modSlot h.slot
        fun y => { y with st := .done }))) ∧
  (∀ (x : Brick) (h : Hold), (x.applyHold h).pool = h.pool ∧ (x.applyHold h).hold = none ∧ (x.applyHold h).pick = true ∧ (x.applyHold h).weep = .none) ∧
  (∀ (s : State) (r : RegionId), ((s.slot r).st = .done ∨ (s.slot r).st = .reject ∨ (s.slot r).st = .fault) →
    ∃ t, exec (.bstatClr r) s = .next t ∧ t.slot r = {} ∧ t = { s with slots := t.slots }) ∧
  (∀ (s : State) (node n : Nat), s.nodeLive node = true → n ≤ ((List.range 32).filter (s.bayFree node)).length →
    let mask := s.bayMask node n
    (∀ m ∈ s.lineage 4096 node, ((List.range 32).filter fun k => bit mask k || s.bayCharged m k).length ≤ s.effective m 0) →
    exec (.bayGrant node n) s = .next { s with nodes := s.nodes.set node (modifyAt (fun w => w ||| BitVec.ofNat 64 mask) 4 (s.node node)) }) ∧
  (∀ (s : State) (node bay : Nat), bit (s.nodeWord node 4) bay = true →
    (∀ i, i < 512 → (s.brick (BrickId.mk (bay / 8) (8 * (bay % 8) + i / 64) (i % 64))).life = .free ∨
      (s.brick (BrickId.mk (bay / 8) (8 * (bay % 8) + i / 64) (i % 64))).life = .out) →
    exec (.bayReturn node bay) s = .next
      { s with nodes := s.nodes.set node (modifyAt (fun w => BitVec.ofNat 64 (w.toNat - 2 ^ bay)) 4 (s.node node)) })

/-- R23, R191, R206, R282, R369, R378 to R380, R387 to R391, R403: a region completes, faults, is killed or is halted by a wave; its bricks weep, its completion word is stored, its image is written, and its bricks leave DRAINING. The readings of log 19 and the times of log 1 are the model's. -/
def Obligations.RegionsEnd : Prop :=
  (∀ (s : State) (r : RegionId), (s.slot r).st = .run → (s.slot r).rcf = false → (s.slot r).wave = none → (s.slot r).pending = none → s.unreported r = [] →
    exec (.regionCompletion r) s = .next (((s.dropReconfigs r 0).drainBricks r).modSlot r fun x => { x with st := .drain, kind := 1 })) ∧
  (∀ (s : State) (r : RegionId) (at' : Nat) (ws : List Word), (s.slot r).pending = some (at', ws) → at' < s.now → (s.slot r).fault = none →
    ((s.slot r).st = .run ∨ (s.slot r).st = .drain) →
    let code := bits (ws.getD 0 0).toNat 63 56
    ∃ t, exec (.regionFault r) s = .next t ∧ (t.slot r).st = .drain ∧ (t.slot r).kind = 2 ∧ (t.slot r).fault = some code ∧
      (t.slot r).reason = code ∧ (t.slot r).pending = none ∧ (t.slot r).wave = none) ∧
  (∀ (s : State) (r : RegionId), (s.slot r).st = .drain →
    ((s.slot r).kind = 1 → exec (.weepOrder r) s = .next ((s.slot r).bricks.foldl (fun s b => s.modBrick b fun y =>
      if y.noConnectedInput && y.weep = .none then { y.setPick false with weep := .ordered } else y) s)) ∧
    ((s.slot r).kind = 2 ∨ (s.slot r).kind = 3 ∧ (s.slot r).ended = true →
      (∃ b ∈ (s.slot r).bricks, (s.brick b).region = some r ∧ (s.brick b).discard = false) →
      let hard := (s.slot r).bricks.foldl (fun s b => s.modBrick b Brick.orderDirect) ((s.stopEngines r).modSlot r fun x => { x with wave := none })
      exec (.weepOrder r) s = .next { hard with flights := hard.flights.filter fun f => match f.dest with
        | .param b => !s.owns r b
        | _ => true })) ∧
  (∀ (s : State) (r : RegionId), (s.slot r).st = .drain → (s.slot r).ended = false → ((s.slot r).kind = 1 ∨ (s.slot r).kind = 2) →
    s.allWept r = true → s.accessesDone r = true → s.linksEmpty r = true → (∀ b ∈ (s.slot r).bricks, (s.brick b).firings = []) →
    ((s.slot r).kind = 1 → s.enginesDone r = true) → ((s.slot r).kind = 2 → s.enginesSettled r = true) →
    exec (.completionWordStore r) s = .next ((((s.storeCompletion r).idleRecords r).modSlot r fun x => { x with ended := true }).settleSlot r)) ∧
  (∀ (s : State) (b : BrickId) (r : RegionId), (s.brick b).region = some r → (s.brick b).life = .draining → (s.slot r).ended = true →
    (∀ a ∈ (s.brick b).accs, a.busy = false) → s.allWept r = true → s.linksEmpty r = true →
    let c := (BrickId.die b, BrickId.course b)
    let y := (s.brick b).reclaimed (!((s.slot r).kind = 3 && bit (s.die r.die).swcmd.toNat 56))
    let s1 := (s.setBrick b y).refund (s.brick b).pinNode 1 ((s.brick b).pinned.length - popCount 16 y.bound.toNat)
    (s1.courseEmpty r c = false → exec (.brickReclaim b) s = .next (s1.settleSlot r)) ∧
    (s1.courseEmpty r c = true → exec (.brickReclaim b) s = .next
      (({ s1 with params := s1.params.set (64 * c.1 + c.2) ((s1.params.getD (64 * c.1 + c.2) []).filter fun w => w.region ≠ r) } : State).settleSlot r))) ∧
  (∀ (x : Brick) (keep : Bool), let y := x.reclaimed keep
    y.region = none ∧ y.pool = List.replicate 16 0 ∧ (y.life = .free ∨ y.life = .held) ∧ (keep = false → y.life = .free ∧ y.bound = 0) ∧ y.bank = x.bank ∧
    y.slices = x.slices ∧ y.pval = x.pval ∧ y.inputs = x.inputs ∧ y.edge.shapes = x.edge.shapes ∧ y.fires = x.fires ∧ y.sticky = x.sticky) ∧
  (∀ (s : State) (r : RegionId), s.countDue r = true →
    let sums := s.counts r
    let quiet := !s.regionBusy r && sums.1 = sums.2
    let t := s.modSlot r fun x => { x with lastWave := if quiet then some sums else none, countedAt := s.now }
    ((quiet = false ∨ (s.slot r).lastWave ≠ some sums) → exec (.countWave r) s = .next t) ∧
    (quiet = true → (s.slot r).lastWave = some sums → exec (.countWave r) s = .next
      (t.raiseFault r { code := 0x03, brick := lowestBrick (s.unreported r), count := (s.unreported r).length, data := lowestBrick (s.unreported r) }))) ∧
  (∀ (s : State) (r : RegionId) (node : Nat), (s.slot r).st = .run → (s.slot r).rcf = false →
    exec (.bstatKill r node) s = .next (s.raiseFault r { code := 0x06, data := node % 4096 })) ∧
  (∀ (s : State) (die : Nat) (v : Word), let r : RegionId := { die, slot := bits v.toNat 62 57 }
    (v.getLsbD 63 = true → s.mayWave r = true →
      exec (.swcmd die v) s = .next (s.startWave r v.toNat (s.die die).swaddr.toNat ((s.slot r).pre = 1))) ∧
    (v.getLsbD 63 = true → ((s.slot r).st ≠ .run ∨ (s.slot r).pre ≠ 1 ∧ (s.slot r).pre ≠ 2 ∨ (s.die die).swcmd.getLsbD 63 = true ∨ s.reconfiguring r = true) →
      exec (.swcmd die v) s = .next s) ∧
    (v.getLsbD 63 = false → (s.die die).swcmd.getLsbD 63 = false → ∃ t, exec (.swcmd die v) s = .next t ∧ t = { s with dies := t.dies } ∧
      (t.die die).swcmd.getLsbD 63 = false ∧ (∀ k, 48 ≤ k → k < 63 → (t.die die).swcmd.getLsbD k = v.getLsbD k) ∧ (t.die die).swaddr = (s.die die).swaddr)) ∧
  (∀ (s : State) (b : BrickId) (r : RegionId) (w : Wave), (s.brick b).region = some r → (s.slot r).wave = some w →
    (w.target = none ∨ (s.brick b).trapValid = true ∧ (s.brick b).pick = false) →
    exec (.setwStop b) s = .next (s.modBrick b Brick.stopAtWave)) ∧
  (∀ x : Brick, x.wave ≠ .stopped → x.stopAtWave.pick = false ∧ x.stopAtWave.wave = .stopped ∧ x.stopAtWave.life = .draining ∧ x.stopAtWave.picked = x.pick) ∧
  (∀ (s : State) (r : RegionId) (w : Wave) (n : Nat), (s.slot r).wave = some w → w.target = some n → w.started + w.limit ≤ s.now →
    (∃ b ∈ (s.slot r).bricks, (s.brick b).wave ≠ .stopped) →
    exec (.setwWaitExpiry r) s = .next ((((s.slot r).bricks.foldl (fun s b => s.modBrick b Brick.stopAtWave) s).modSlot r fun x =>
      { x with wave := some { w with target := none }, cut := false }).cancelRegion r)) ∧
  (∀ (s : State) (r : RegionId) (w : Wave), (s.slot r).wave = some w → (s.slot r).ended = false →
    (∀ b ∈ (s.slot r).bricks, (s.brick b).wave = .stopped ∧ (s.brick b).firings = []) →
    (s.liveQueries r = true → exec (.imageCapture r) s = .next (s.cancelRegion r)) ∧
    (s.liveQueries r = false → (s.slot r).pending = none → s.accessesDone r = true → s.linksEmpty r = true → s.enginesSettled r = true →
      exec (.imageCapture r) s = .next (s.capture r w)))

/-- R228, R229, R232 to R236, R240 to R242, R246 to R248, R267, R273, R280, R281, R428: a global request travels to its owner, through a walk where its page is unknown, to its home slice and back; lines are coalesced, filled from HBM and flushed; pages change owner, timestamps are rebased, and invalidations start and complete. The order of service and the times of travel (log 1), the refresh phases (log 8) and the life of timestamps (log 14) are the model's. -/
def Obligations.GlobalRequestsTravel : Prop :=
  (∀ (s : State) (n : Nat) (r : Req) (g : RegionId), s.req n = some r → (s.brick r.brick).region = some g → r.stage = .waiting →
    (s.tenancy r.tenancy).rebasing = false → (s.brick r.brick).pts ≤ tsLimit → s.mayLeave r = true →
    let e := s.ownerOf g (BrickId.die r.brick) (r.va / 8192)
    s.portRoom e r = true →
    let r' := { r with owner := e, pts := (s.brick r.brick).pts, order := s.nextId }
    let t : State := { s with nextId := s.nextId + 1 }
    (s.handoverHolds g e (r.va / 8192) = true → exec (.ownerRequest n) s = .next (t.modReq n fun _ => { r' with stage := .held })) ∧
    (s.handoverHolds g e (r.va / 8192) = false → exec (.ownerRequest n) s = .next (t.ownerTake r'))) ∧
  (∀ (s : State) (e : BrickId) (line : Nat) (r : Req), r ∈ s.reqs → r.owner = e → r.stage = .buffered → r.lines.1 ≤ line → line ≤ r.lines.2 →
    r.since + 64 ≤ s.now →
    exec (.coalesceTimeout e line) s = .next { s with reqs := s.reqs.map fun q =>
      if q.owner = e && q.stage = .buffered && q.lines.1 ≤ line && line ≤ q.lines.2 then { q with stage := .toLoft } else q }) ∧
  (∀ (s : State) (n : Nat) (r : Req), s.req n = some r → r.stage = .miss → s.missOf n = some (r.owner, r.tenancy, r.miss)) ∧
  (∀ (s : State) (n : Nat) (e : BrickId) (t va : Nat), s.missOf n = some (e, t, va) → (t, va / 8192) ∈ s.bayWalks (BrickId.bay e) →
    let walk := s.walkShare (BrickId.bay e) t va
    let u := ((s.bayMisses (BrickId.bay e)).filter fun q => q.walkPage = (t, va / 8192)).foldl (State.takeWalk walk.1) walk.2
    exec (.pageWalk n) s = .next (((s.bayEngines (BrickId.bay e)).filter fun w => w.page = (t, va / 8192)).foldl (State.answerWalk walk.1) u)) ∧
  (∀ (s : State) (q : Req) (f : Fail) (x : TlbEntry),
    State.takeWalk (.error f) s q = s.failReq q f q.miss ∧ State.takeWalk (.ok x) s q = (s.touchTlb q.owner x).onward q) ∧
  (∀ (s : State) (n : Nat) (r : Req) (k : Nat), s.req n = some r → r.nextPart = some k → r.stage = .toLoft →
    let p := r.parts.getD k { va := 0, len := 0 }
    s.lineTurn r p = true → (r.isLoad = false → s.mayStore (p.pa / 64) = true) →
    (∀ dec sz, r.kind = .load dec sz → ∀ slot, p.key = some slot →
      (∀ m c, (s.keySlot slot).chunkOf p.va = some m → s.heldChunk r.owner (s.brick r.brick).region slot m = some c →
        exec (.loftAccess n) s = .next (s.chunkPart r slot m c.data)) ∧
      ((∀ m, (s.keySlot slot).chunkOf p.va = some m → s.heldChunk r.owner (s.brick r.brick).region slot m = none) →
        exec (.loftAccess n) s = .next (s.modReq n fun r => { r with stage := .flash }))) ∧
    (∀ dec sz, r.kind = .load dec sz → p.key = none → ∀ c, s.l1Hit r p = some c →
      exec (.loftAccess n) s = .next (s.modReq n fun r => r.perform k (((c.data.drop (p.pa % 64)).take p.len).map some) false (max r.pts c.wts))) ∧
    ((r.net = true ∨ s.outstanding r.owner < (s.brick r.owner).edge.window) →
      let u := s.draw.2.modReq n fun r => { r with net := true, marked := r.marked || s.draw.1 % 2 = 1 }
      (∀ dec sz, r.kind = .load dec sz → p.key = none → s.l1Hit r p = none →
        exec (.loftAccess n) s = .next ((u.loadPart r k p).shareLoads r.owner (p.pa / 64))) ∧
      (r.kind = .store → exec (.loftAccess n) s = .next (u.storePart r k p)) ∧
      (∀ op w v y, r.kind = .atomic op w v y → s.missingSectors p.pa p.len = [] → exec (.loftAccess n) s = .next (u.atomicPart r p op w v y)) ∧
      (∀ op w v y, r.kind = .atomic op w v y → s.missingSectors p.pa p.len ≠ [] →
        exec (.loftAccess n) s = .next ((s.missingSectors p.pa p.len).foldl (fun v x => v.askFill r.tenancy x r.dcl)
          (u.modReq n fun r => { r with parts := modifyAt (fun p => { p with performed := true }) k r.parts }))))) ∧
  (∀ (s : State) (line : Nat) (f : Fill) (data : List Byte) (ue : Nat), (s.fills.find? fun f => f.sector = line) = some f → f.served = some (data, ue) →
    exec (.loftFillDone line) s = .next (s.fillDone line data ue)) ∧
  (∀ (s : State) (line : Nat), s.fillReady line = true → exec (.hbmRequest line) s = .next (s.serveFill line)) ∧
  (∀ (s : State) (line : Nat) (f : Fill) (t : Nat), (s.fills.find? fun f => f.sector = line) = some f → f.latest = some t → s.fillReady line = true →
    t ≤ s.now → exec (.deadlineService line) s = .next (s.serveFill line)) ∧
  (∀ (s : State) (line : Nat) (f : Fill) (t : Nat), f ∈ s.fills → f.sector = line → f.served = none → f.latest = some t → t < s.now →
    let u := UnitRef.hbm (stackOf (32 * line)) (channelOfPa (32 * line))
    (s.serveFill line).unit u = { s.unit u with misses := (s.unit u).misses + 1 }) ∧
  (∀ (s : State) (b : BrickId) (va : Nat) (r : Req),
    (s.reqs.find? fun r => r.owner = b && r.stage = .flash && r.parts.any fun p => !p.performed && p.va ≤ va && va < p.va + p.len) = some r →
    let k := r.nextPart.getD 0
    let p := r.parts.getD k { va := 0, len := 0 }
    let slot := p.key.getD 0
    let q : Access := { cls := .brk, tenancy := r.tenancy, floor := r.pts, region := (s.brick r.brick).region, via := some b, dcl := r.dcl }
    exec (.weightChunkRead b va) s = .next (match (s.keySlot slot).chunkOf p.va with
      | none => s.failReq r .integ va
      | some m => match s.readChunk q slot m with
        | (.error f, u) => u.failReq r f va
        | (.ok data, u) => u.chunkPart r slot m data)) ∧
  (∀ (s : State) (n : Nat) (r : Req), s.req n = some r → r.stage = .done → r.isStore = false → s.returnTurn r.brick r.rch r.seq = true →
    let tok : Token := match r.fault with
      | some p => { tag := .ctrl, pay := p, cls := some .brk, ts := r.ts }
      | none => { tag := .data, pay := r.result, cls := some .brk, ts := r.ts }
    exec (.globalReturn n) s = .next ((((((s.dropReq n).replyTo r).modBrick r.brick fun x =>
      x.raisePts r.ts).landReturn r.brick r.rch tok).rcvd r.brick 1).noteTs r.brick r.ts)) ∧
  (∀ (s : State) (n : Nat) (r : Req), s.req n = some r → r.stage = .done → r.isStore = true →
    exec (.internalAcknowledgement n) s = .next (((((s.dropReq n).replyTo r).modBrick r.brick fun x => x.raisePts r.ts).rcvd r.brick 1).noteTs r.brick r.ts)) ∧
  (∀ (s : State) (n : Nat) (h : Handover), s.handovers[n]? = some h → h.sent = false →
    (∀ r ∈ s.reqs, r.owner = h.old → r.order < h.before → r.stage ≠ .waiting → r.stage ≠ .done →
      r.va / 8192 < h.first ∨ h.first + h.count ≤ r.va / 8192) →
    exec (.handoverMessage n) s = .next
      (({ s with handovers := modifyAt (fun h => { h with sent := true }) n s.handovers } : State).modBrick h.old Brick.wake)) ∧
  (∀ (s : State) (n : Nat) (h : Handover), s.handovers[n]? = some h → h.sent = true →
    ∃ held : List Req, held.Perm (s.reqs.filter fun r => r.stage = .held && r.owner = h.new && h.first ≤ r.va / 8192 && r.va / 8192 < h.first + h.count) ∧
      held.Pairwise (fun a b => a.order ≤ b.order) ∧
      exec (.handoverRelease n) s = .next (held.foldl (fun u r => if u.handoverHolds h.region r.owner (r.va / 8192) then u else u.ownerTake r)
        (({ s with handovers := removeAt n s.handovers } : State).dropCopies h.new (s.slot h.region).tenancy))) ∧
  (∀ (s : State) (t : Nat),
    ((s.tenancy t).rebasing = false → s.nearLimit t = true → exec (.rebase t) s = .next (s.modTenancy t fun x => { x with rebasing := true })) ∧
    ((s.tenancy t).rebasing = true → (∀ r ∈ s.reqs, r.tenancy = t → r.stage = .waiting) → (∀ m ∈ s.maps, m.tenancy = t → m.phase = .desc) →
      exec (.rebase t) s = .next ((s.resetTs t).modTenancy t fun x => { x with rebasing := false, rebase := (x.rebase + 1) % 65536 }))) ∧
  (∀ (s : State) (die t page : Nat), (s.die die).invBusy = false →
    exec (.invcmdVa die t page) s = .next (s.invalidate die (t * 2 ^ 55 + page * 8192)
      (fun x => x.tenancy = t && x.page = page * 8192 / 2 ^ leafBits x.level)) ∧
    exec (.invcmdTenancy die t) s = .next (s.invalidate die (2 ^ 61 + t * 2 ^ 55) (fun x => x.tenancy = t))) ∧
  (∀ (s : State) (die : Nat), (s.die die).invBusy = true →
    (∀ n ∈ (s.die die).invMarks, s.req n = none ∨ ∃ r, s.req n = some r ∧ r.isStore = true ∧ r.stage = .done) →
    ∃ t, exec (.invcmdComplete die) s = .next t ∧ t = { s with dies := t.dies } ∧ (t.die die).invBusy = false ∧ (t.die die).invMarks = [])

/-- R228, R250 to R258, R261, R263, R511: the stream engine starts a tile for a unit of credit, sends tokens and words, takes what arrives at a stream input, ends a run and notifies, and takes credits and parameters; a step whose page no TLB entry holds first asks for its walk. The readings of log 17 and the times of log 1 are the model's. -/
def Obligations.StreamEngineSteps : Prop :=
  (∀ (s : State) (b : BrickId) (r : Nat), s.waveCame b = false →
    let x := s.shape b r
    (x.state = 1 → x.dkind ≠ 0 → x.tileLeft = 0 → x.fin = false → 0 < x.credit → x.next < x.length → s.sourceRoom b x = true →
      exec (.streamTileStart b r) s = .next (s.modShape b r fun x => { x with credit := x.credit - 1, tileLeft := min x.tile (x.length - x.next) })) ∧
    (∀ t rest, x.notes = t :: rest → s.routeRoom b x.nrt = true →
      exec (.streamWordSend b r) s = .next ((s.pushRoute b x.nrt t).modShape b r fun x => { x with notes := x.notes.drop 1 })) ∧
    (∀ t rest, x.notes = [] → x.outq = t :: rest → s.routeRoom b (x.dst % 8) = true → (t.tag ≠ .data ∨ x.sendAt ≤ s.now) →
      exec (.streamWordSend b r) s = .next ((s.pushRoute b (x.dst % 8) t).modShape b r fun x =>
        { x with
          outq := x.outq.drop 1
          sent := if t.tag = .data then x.sent + 1 else if t.tag = .eos then 0 else x.sent
          sendAt := if t.tag = .data then s.now + 1 else x.sendAt })) ∧
    (x.notes = [] → x.outq = [] → x.state = 1 → x.skind = 0 → x.tileLeft ≠ 0 → x.fin = false → x.sendAt ≤ s.now → s.sourceRoom b x = true →
      s.missing (s.wordAccesses b x x.src false) = none → exec (.streamWordSend b r) s = .next (s.nextWord b r)) ∧
    (x.state = 1 → x.fin = true → x.outq = [] →
      let done : Token := { ctrlToken 5 (r * 2 ^ 57 + b2n (x.next < x.length) * 2 ^ 56 + x.next % 2 ^ 32) with cls := some .stm, ts := x.ts }
      exec (.streamRunEnd b r) s = .next ((s.modShape b r fun x =>
        { x with state := 0, fin := false, tileLeft := 0, notes := if x.dkind ≠ 1 && x.nen then x.notes ++ [done] else x.notes }).modBrick b Brick.wake)) ∧
    (∀ t rest, (s.brick b).edge.si.getD (x.src % 8) [] = t :: rest → x.skind = 1 → x.takeAt ≤ s.now → x.outq = [] → x.state ≠ 2 →
      (x.dkind = 1 → s.routeRoom b (x.dst % 8) = true) → (x.writesToken t = true → s.missing (s.wordAccesses b x x.dst true) = none) →
      let t' := (s.popInput b r (x.src % 8)).returned b 1
      let gen := s.regionGen (s.brick b)
      (t.isMark = true → exec (.streamInputTake b r) s = .next
        (if x.dkind = 1 then t'.modShape b r fun x => { x with outq := x.outq ++ [t] } else t')) ∧
      (t.isMark = false → t.isWeep = false → x.surplus = true → t.tag = .data → exec (.streamInputTake b r) s = .next (t'.dropWord b r)) ∧
      (t.isMark = false → t.isWeep = false → x.surplus = true → t.tag = .eos →
        exec (.streamInputTake b r) s = .next (t'.modShape b r fun x => { x with surplus := false })) ∧
      (t.isMark = false → t.isWeep = false → x.surplus = false → x.state = 1 → x.fin = false →
        (t.tag = .eos → exec (.streamInputTake b r) s = .next (t'.modShape b r fun x => x.close (bit t.pay.toNat 33) gen)) ∧
        (t.tag = .data → (x.dkind = 0 ∨ x.tileLeft ≠ 0) → exec (.streamInputTake b r) s = .next (t'.dataWord b r t)) ∧
        (t.tag = .ctrl → t.subtype = 8 → (x.dkind = 0 ∨ x.tileLeft ≠ 0) → exec (.streamInputTake b r) s = .next (t'.scaleWord b r t))) ∧
      (t.isMark = false → t.isWeep = true → (x.state = 1 ∧ x.fin = true → False) →
        let live : Bool := x.state = 1 && !x.fin
        let ended := if live && !x.surplus then t'.modShape b r fun x => x.close false gen else t'
        let passed := if x.weepBit then ended else if x.dkind = 1 then ended.modShape b r fun x => { x with outq := x.outq ++ [t] } else ended
        exec (.streamInputTake b r) s = .next (passed.modShape b r fun x => { x with surplus := false }))) ∧
    (∀ t rest, (s.brick b).edge.dp = t :: rest → (s.brick b).edge.dpAt ≤ s.now →
      let s' := (s.modBrick b fun x => { x with edge := { x.edge with dp := rest, dpAt := s.now + 1 } }).returned b 1
      let v := t.pay.toNat
      (t.tag = .ctrl → t.subtype = 4 → exec (.drawPortTake b) s = .next (s'.modShape b (bits v 59 57) fun x =>
        { x with
          credit := min 65535 (x.credit + bits v 15 0)
          notes := if x.skind = 1 && x.dkind = 1 && x.nen then x.notes ++ [ctrlToken 4 (x.urec * 2 ^ 57 + bits v 56 0)] else x.notes })) ∧
      ((t.tag ≠ .ctrl ∨ t.subtype ≠ 4) → exec (.drawPortTake b) s = .next s'))) ∧
  (∀ (s : State) (b : BrickId) (n : Nat) (f : Flight), (s.flights.findIdx? fun f => f.dest = .param b && f.due ≤ s.now) = some n → s.flights[n]? = some f →
    let s' := (({ s with flights := removeAt n s.flights } : State).rcvd f.src 1).returned b 1
    (f.tok.tag = .ctrl → f.tok.subtype = 3 → (s.brick b).discard = false → (s.brick b).edge.pp = none →
      exec (.paramPortTake b) s = .next (s'.modBrick b fun x => { x with edge := { x.edge with pp := some (f.tok, false) } })) ∧
    ((f.tok.tag ≠ .ctrl ∨ f.tok.subtype ≠ 3 ∨ (s.brick b).discard = true) → exec (.paramPortTake b) s = .next s')) ∧
  (∀ (s : State) (l : List (Access × Nat × Nat)) (o : Host.Outcome State Fault Refusal),
    (s.missing l = none → s.paged l o = o) ∧
    ∀ e ten va, s.missing l = some (e, ten, va) → (∀ w ∈ s.walks, w.edge = e → w.page ≠ (ten, va / 8192)) → s.missRoom e ten va = true →
      s.paged l o = .next { s with walks := s.walks ++ [{ id := s.nextId, edge := e, tenancy := ten, va }], nextId := s.nextId + 1 }) ∧
  (∀ (s : State) (b : BrickId) (t : Token), (s.brick b).edge.pp = some (t, true) →
    let v := t.pay.toNat
    let r := bits v 59 57
    let y := (s.shape b r).param (bits v 56 54) (bits v 53 0)
    let s' := s.modBrick b fun x => { x with edge := { x.edge with pp := none } }
    (s.shape b r).state = 0 →
    (bits v 56 54 ≠ 7 → y.malformed = false → exec (.paramApply b) s = .next (s'.modShape b r fun _ => y)) ∧
    ((bits v 56 54 = 7 ∨ y.malformed = true) → (s.shape b r).dkind = 1 → exec (.paramApply b) s = .next
      (s'.modShape b r fun x => { x with outq := x.outq ++ [{ tag := .ctrl, pay := BitVec.ofNat 64 (7 * 2 ^ 60 + 7 * 2 ^ 56) }] })) ∧
    ((bits v 56 54 = 7 ∨ y.malformed = true) → (s.shape b r).dkind ≠ 1 → exec (.paramApply b) s = .next
      (s'.raiseAt b { code := 0x02, detail := 7, data := 7 * 2 ^ 60 + 7 * 2 ^ 56 })))

/-- R286, R287, R292 to R301, R341 to R343, R509: a task record arrives, enters the window or is dropped as stale, issues to the lowest idle accumulator, computes, drains word by word and ends with its DONE; a gateway takes contributions, combines a complete group and delivers it, while groups delivered before go on. That the operands are read at the end of the computation, and what becomes of a record that cannot be written or read (log 16), and the gateway's readings (log 13, log 17) are the model's. -/
def Obligations.SlabsAndGatewaysStep : Prop :=
  (∀ (s : State) (b : BrickId) (t : Task) (rest : List Task), (s.brick b).taskPort = t :: rest → (s.brick b).taskAt ≤ s.now →
    let die := BrickId.die b
    let c := BrickId.course b
    (s.sched die c).ring.length + (s.sched die c).window.length < (s.sched die c).size → (s.sched die c).region = (s.brick b).region →
    let s' := ((s.modBrick b fun x => { x with taskPort := rest, taskAt := s.now + 1 }.wake).rcvd b 1).returned b 1
    (s.taskMalformed die c t = true → exec (.taskRecordArrival b) s = .next
      ((s'.modSched die c fun q => { q with malf := min 255 (q.malf + 1) }).tellDone die c t tskMalf 0)) ∧
    (s.taskMalformed die c t = false → exec (.taskRecordArrival b) s = .next (s'.queueTask die c t))) ∧
  (∀ (s : State) (die c : Nat) (t0 : Task) (rest : List Task), (s.sched die c).ring = t0 :: rest → s.schedStopped die c = false →
    let q := s.sched die c
    let t := (s.ringHead q t0).1
    let s1 := (s.ringHead q t0).2
    let popped (q : Sched) : Sched := { q with ring := rest, head := (q.head + 1) % q.size }
    (q.isStale t = true → exec (.windowEnter die c) s = .next
      ((s1.modSched die c fun q => { popped q with stale := min 255 (q.stale + 1) }).tellDone die c t tskStale 0)) ∧
    (q.isStale t = false → q.window.length < 32 → (q.entry t.tid = boardFree ∨ q.entry t.tid = boardDone ∨ q.entry t.tid = boardFault) →
      exec (.windowEnter die c) s = .next (s1.modSched die c fun q =>
        ({ popped q with window := q.window ++ [{ t with prev := (s.sched die c).entry t.tid }] }).setEntry s.now t.tid boardQueued))) ∧
  (∀ (s : State) (die c k : Nat) (t : Task), (s.sched die c).window[k]? = some t → (s.sched die c).isStale t = true → s.schedStopped die c = false →
    exec (.staleRecord die c k) s = .next ((s.modSched die c fun q =>
      ({ q with window := removeAt k q.window, stale := min 255 (q.stale + 1) }).setEntry s.now t.tid t.prev).tellDone die c t tskStale 0)) ∧
  (∀ (s : State) (die c k : Nat), let q := s.sched die c
    q.window.findIdx? (q.depFailed s.now) = some k → s.schedStopped die c = false → s.courseSettled die c = true →
    let t := q.window.getD k { words := [] }
    exec (.taskIssue die c) s = .next ((s.modSched die c fun q =>
      ({ q with window := removeAt k q.window }).setEntry s.now t.tid boardFault).tellDone die c t tskDepFlt 0)) ∧
  (∀ (s : State) (die c k a : Nat) (b : BrickId), let q := s.sched die c
    q.window.findIdx? (q.depFailed s.now) = none → q.window.findIdx? (q.isReady s.now) = some k →
    ((s.slabSet die c).find? fun b => (s.brick b).freeAcc.isSome) = some b → (s.brick b).freeAcc = some a → q.issueAt ≤ s.now → s.schedStopped die c = false → s.courseSettled die c = true →
    let t := q.window.getD k { words := [] }
    let left (v : Nat) : State := s.modSched die c fun q => ({ q with window := removeAt k q.window, issueAt := s.now + 1 }).setEntry s.now t.tid v
    let good := s.rangesOk die c (t.operandRanges 1 ++ t.operandRanges 2 ++ t.loadRanges) && (t.stw || s.drainOk q t t.ridx)
    (good = true → exec (.taskIssue die c) s = .next
      ((left boardRun).modAcc b a fun _ => { tile := [], work := .computing t (s.now + 16 + t.ks * t.stepCycles) })) ∧
    (good = false → exec (.taskIssue die c) s = .next ((left boardFault).tellDone die c t tskBank (BrickId.col b)))) ∧
  (∀ (s : State) (b : BrickId) (acc : Nat) (t : Task) (ends : Nat), ((s.brick b).acc acc).work = .computing t ends → ends < s.now →
    let die := BrickId.die b
    let c := BrickId.course b
    let bad := s.badWord die c (t.operandRanges 1 ++ t.operandRanges 2 ++ t.loadRanges)
    (s.tornDown b = true → exec (.taskComputeEnd b acc) s = .next (s.modAcc b acc fun _ => {})) ∧
    (∀ o a, s.tornDown b = false → bad = some (o, a) →
      exec (.taskComputeEnd b acc) s = .next ((s.meetBad (.bank o) a).endTask b acc t tskEcc)) ∧
    (s.tornDown b = false → bad = none →
      exec (.taskComputeEnd b acc) s = .next (s.modAcc b acc fun _ => { tile := s.slabTile die c t, work := .waiting t (ends + 1) }))) ∧
  (∀ (s : State) (b : BrickId) (acc : Nat) (t : Task) (start r : Nat), ((s.brick b).acc acc).work = .waiting t start → start ≤ s.now → s.waveCame b = false →
    let die := BrickId.die b
    let c := BrickId.course b
    let q := s.sched die c
    (if t.stw then q.steer.getD t.tid none else some t.ridx) = some r →
    let s' := if t.stw then s.modSched die c fun q => { q with steer := modifyAt (fun _ => none) t.tid q.steer } else s
    (s.drainOk q t r = true → exec (.drainStart b acc) s = .next
      (s'.modAcc b acc fun a => { a with work := .draining t r 0 s.now (List.range (q.routes.getD r ([], true)).1.length) [] })) ∧
    (s.drainOk q t r = false → exec (.drainStart b acc) s = .next ((s'.modAcc b acc fun _ => {}).modSched die c fun q =>
      { q with ends := q.ends ++ [(t, BrickId.col b, s.now + 4)] }))) ∧
  (∀ (s : State) (b : BrickId) (acc : Nat) (t : Task) (r j next : Nat) (todo held : List Nat),
    ((s.brick b).acc acc).work = .draining t r j next todo held → next ≤ s.now → s.waveCame b = false →
    let tile := ((s.brick b).acc acc).tile
    let dests := ((s.sched (BrickId.die b) (BrickId.course b)).routes.getD r ([], true)).1
    let noeos := ((s.sched (BrickId.die b) (BrickId.course b)).routes.getD r ([], true)).2
    (∀ target base, bankRoute dests = some (target, base) →
      let at' := base + t.doff + j * t.perWord / 32 * t.drs + j * t.perWord % 32 * t.outBytes
      ((s.brick target).scratchRange at' 8 = true → exec (.drainWord b acc) s = .next ((s.modBrick target fun x =>
          x.store at' (leBytes 8 (t.drainWord tile j))).modAcc b acc fun a =>
        { a with work := if j + 1 = t.words8 then .ending t 0 (s.now + 4) else .draining t r (j + 1) (s.now + 1) todo held })) ∧
      ((s.brick target).scratchRange at' 8 = false →
        exec (.drainWord b acc) s = .next (s.modAcc b acc fun a => { a with work := .ending t tskBank (s.now + 4) }))) ∧
    (bankRoute dests = none →
      let total := t.words8 + (if noeos = true ∨ dests = [] then 0 else 1)
      let p := s.drainFork b acc t dests total j todo held
      let j' := if p.1 = [] ∧ j < total then j + 1 else j
      let work : AccWork :=
        if j' = total ∧ p.2.1 = [] then .ending t 0 (s.now + (if total = t.words8 then 4 else 3))
        else .draining t r j' (s.now + 1) (if p.1 = [] then List.range dests.length else p.1) p.2.1
      exec (.drainWord b acc) s = .next (p.2.2.modAcc b acc fun a => { a with work }))) ∧
  (∀ (s : State) (b : BrickId) (acc : Nat) (t : Task) (d : Dest) (total j : Nat), j < total →
    let tok : Token := { (if j = t.words8 then eosToken t.tid false false t.words8 else dataToken (t.drainWord ((s.brick b).acc acc).tile j)) with
      cls := some .slb, ts := t.ts }
    (s.accepts d tok = true → s.drainFork b acc t [d] total j [0] [] = ([], [], s.launch b (drainPort acc) d tok)) ∧
    (s.accepts d tok = false → s.drainFork b acc t [d] total j [0] [] = ([], [0], s))) ∧
  (∀ (s : State) (b : BrickId) (acc : Nat) (t : Task) (status due : Nat), ((s.brick b).acc acc).work = .ending t status due → due < s.now →
    exec (.taskDone b acc) s = .next (s.endTask b acc t status)) ∧
  (∀ (s : State) (die c : Nat) (t : Token) (rest : List Token), (s.sched die c).port = t :: rest → (s.sched die c).takeAt ≤ s.now →
    let v := bits t.pay.toNat 47 16
    let good : Bool := t.tag = .ctrl && t.subtype = 2 && v < 256
    (good = true → exec (.steerPortTake die c) s = .next (s.modSched die c fun q =>
      { q with port := rest, takeAt := s.now + 1, sent := q.sent + 1, rcvd := q.rcvd + 1, steer := modifyAt (fun _ => some (t.pay.toNat % 8)) v q.steer })) ∧
    (good = false → exec (.steerPortTake die c) s = .next (s.modSched die c fun q =>
      { q with port := rest, takeAt := s.now + 1, sent := q.sent + 1, rcvd := q.rcvd + 1, malf := min 255 (q.malf + 1) }))) ∧
  (∀ (s : State) (die : Nat) (b : BrickId) (t : Token) (rest : List (BrickId × Token)), (s.gateway die).port = (b, t) :: rest →
    exec (.gatewayContribution die) s = .next ((s.modGateway die fun g => ({ g with port := rest }).take b t).returned b 1)) ∧
  (∀ (s : State) (gid : Nat),
    let s1 := (List.range 4).foldl (fun s d => s.deliver d gid) s
    (s.gwReady gid = none → exec (.gatewayCombine gid) s = .next s1) ∧
    (∀ g, s.gwReady gid = some g → exec (.gatewayCombine gid) s = .next ((g.deliveries gid).foldl
      (fun (v : State) d => v.modGateway d.1 fun w => { w with out := w.out ++ [d.2] })
      (g.parts.foldl (fun (v : State) p => v.modGateway p.1 fun w => { w with contribs := p.2.foldl (fun l c => l.erase c) w.contribs }) s1))))

/-- R305 to R317, R324 to R337: a slate-map operation makes its accesses in turn and releases granules; frames leave a dock, land, park, announce themselves; a launch copy, a visit and FIN end. The readings of log 17 and the times of log 1 are the model's. -/
def Obligations.YealmsAndSlatesStep : Prop :=
  (∀ (s : State) (n : Nat) (m : MapOp), (s.maps.find? fun m => m.id = n) = some m → s.mapMayStep m = true → m.phase ≠ .release → m.phase ≠ .done →
    let go : Outcome := .next (s.mapAccess { m with ts := max m.ts (s.brick m.brick).pts })
    ((s.mapAccessTo m m.nextVa).via = none → exec (.slateMapOperation n) s = go) ∧
    (∀ e, (s.mapAccessTo m m.nextVa).via = some e →
      ((∃ g, (s.brick (s.mapAgent m)).region = some g ∧ s.handoverHolds g e (m.nextVa / 8192) = true) → exec (.slateMapOperation n) s = .next s) ∧
      ((∀ g, (s.brick (s.mapAgent m)).region = some g → s.handoverHolds g e (m.nextVa / 8192) = false) →
        (s.aheadAt e m.tenancy (m.nextVa / 64) = [] → s.missing [(s.mapAccessTo m m.nextVa, m.nextVa, m.nextLen)] = none →
          exec (.slateMapOperation n) s = go) ∧
        (s.aheadAt e m.tenancy (m.nextVa / 64) ≠ [] → exec (.slateMapOperation n) s = .next (s.flushLine e (m.nextVa / 64)))))) ∧
  (∀ (s : State) (m : MapOp), m.phase = .desc →
    let w2 := wordNat m.block 2
    let pins : Bool := m.kind = .pinResident || m.kind = .pinStored
    s.mapAccess m = match s.mapRead m (wordNat m.block 0) 8 with
      | (.error (e, a), u) => u.failMap m e a
      | (.ok (d, ts), u) =>
        let m' := { m with desc := d, ts := max m.ts ts }
        if descMalformed d then u.stopMap m' slBadmap
        else if !keyInRange d m.key then u.stopMap m' slRange
        else if pins && (pinDc w2 ≠ descDc d || pinFmt w2 ≠ descFmt d) then u.stopMap m' slGeom
        else u.modMap m.id fun _ => { m' with phase := .dir }) ∧
  (∀ (s : State) (n : Nat) (m : MapOp), (s.maps.find? fun m => m.id = n) = some m → m.phase = .release →
    let h : BrickId := BitVec.ofNat 14 (entLoc m.entry)
    let gran := bits (entLoc m.entry) 17 14
    ((s.brick h).life = .held ∨ (∀ f ∈ (s.brick h).firings, ∀ h' x, f.instr = .slfFire h' x → f.committed = true) ∧ (∀ d ∈ (s.brick h).docks, ∀ fwd ends, d.st ≠ .firing fwd ends) ∧ (s.brick h).visiting gran = false) →
    ((s.mapAccessTo m m.nextVa).via = none ∨ ∃ e, (s.mapAccessTo m m.nextVa).via = some e ∧
      (∀ g, (s.brick (s.mapAgent m)).region = some g → s.handoverHolds g e (m.nextVa / 8192) = false) ∧
      s.aheadAt e m.tenancy (m.nextVa / 64) = [] ∧ s.missing [(s.mapAccessTo m m.nextVa, m.nextVa, m.nextLen)] = none) →
    let s1 := s.releaseGranules h (MapOp.granules (descDc m.desc) gran) false
    let s2 := if (s.brick h).life = .held && (s1.brick h).pinned.isEmpty then s1.modBrick h fun x => { x with life := .free } else s1
    let keep : Bool := m.kind = .unpinDrop && entBack m.entry ≠ 0
    exec (.slateRelease n) s = .next (s2.lockEntry m (entryVa m.shard m.index) fun e =>
      let new := if keep then mkEntry stStored (entCount e) 0 (entRef e) (entBack e) else mkEntry 0 0 0 (entRef e) (if m.kind = .unpinErase then 0 else entBack e)
      (some new, fun s m => s.okMap m false new))) ∧
  (∀ (s : State) (n : Nat) (f : Frame), s.frames[n]? = some f → f.due ≤ s.now →
    (f.parked = true ∨ ∀ g ∈ s.frames.take n, g.parked = true ∨ ¬ (g.src = f.src ∧ g.target = f.target)) →
    let k := ((s.brick f.target).docks.findIdx? fun d => d.st = .empty).getD 0
    (s.frameFits n f = true → exec (.frameLand n) s = .next
      (let landed := (({ s with frames := removeAt n s.frames } : State).landFrame f.target k f.stop f.data f.ue f.ts f.floor).modBrick f.target fun x =>
        { x with away := x.away - b2n f.returning }
       if f.parked = true then landed else landed.rcvd f.src 1)) ∧
    (s.frameFits n f = false → f.parked = false → exec (.frameLand n) s = .next
      (({ s with frames := removeAt n s.frames ++ [{ f with parked := true }] } : State).rcvd f.src 1))) ∧
  (∀ (s : State) (b : BrickId) (k ends : Nat) (fetch : Bool), ((s.brick b).dock k).st = .landing ends fetch → ends < s.now →
    (fetch = true → ((s.brick b).dock k).fetched = true → s.missing [s.fetchAccess b k] = none) →
    let t := if fetch then s.fetchSlate b k else s
    exec (.dockNotice b k) s = .next
      (({ t with nextId := t.nextId + 1 } : State).modBrick b fun x => x.modDock k fun d => { d with st := .noticing t.nextId })) ∧
  (∀ (s : State) (b : BrickId) (k order : Nat), ((s.brick b).dock k).st = .noticing order →
    (∀ d ∈ (s.brick b).docks, ∀ o, d.st = .noticing o → order ≤ o) →
    let ch := (s.brick b).note.getD 0
    let tok := (s.brick b).notice k
    s.accepts (.input b ch) tok = true → exec (.dockNotice b k) s = .next
      (((s.modBrick b fun x => x.modDock k fun d => { d with st := .docked }).arriveInput b ch tok).modBrick b Brick.wake)) ∧
  (∀ (s : State) (b : BrickId) (k off len ends : Nat), ((s.brick b).dock k).st = .copying off len ends → ends ≤ s.now →
    exec (.launchCopyEnd b k) s = .next (s.modBrick b fun x =>
      ((x.launchCopy k off).modDock k fun d => { d with st := .docked }).wake)) ∧
  (∀ (s : State) (b : BrickId) (k ends : Nat) (fwd : Bool), ((s.brick b).dock k).st = .firing fwd ends → ends < s.now → s.missing (s.visitAccesses b k) = none →
    let t := s.fireVisit b k
    (fwd = true → exec (.fireEnd b k) s = .next (t.modBrick b fun x => x.modDock k fun d => { d with st := .leaving (s.now + 1) })) ∧
    (fwd = false → exec (.fireEnd b k) s = .next (t.modBrick b fun x => (x.modDock k fun d => { d with st := .docked }).wake))) ∧
  (∀ (s : State) (b : BrickId) (k ready : Nat),
    (((s.brick b).dock k).st = .leaving ready → ready ≤ s.now → (∀ d ∈ (s.brick b).docks, (∃ other, d.st = .leaving other ∨ d.st = .firing true other) → ((s.brick b).dock k).order ≤ d.order) →
      ((s.brick b).goesHome k = false → s.missing [(s.hopAccess b k, (s.brick b).hopVa k, 16)] = none) →
      exec (.ringPortSend b k) s = .next (s.sendFrame b k)) ∧
    (((s.brick b).dock k).st = .sending ready → ready < s.now → exec (.ringPortSend b k) s = .next (s.modBrick b fun x => (x.modDock k fun _ => {}).wake))) ∧
  (∀ (s : State) (b : BrickId) (k port next ready : Nat), ((s.brick b).dock k).st = .finishing port next ready → ready ≤ s.now →
    1 ≤ (s.brick b).room port → (s.brick b).portClear port = true →
    let x := s.brick b
    let y := if x.discard = true then x else x.modOut port fun p => p.push (.tok (x.finToken k next))
    (next ≠ x.finWords k → exec (.finTokenEmit b k) s = .next (s.setBrick b
      ((y.setDockWord k 7 (x.finMask k)).modDock k fun d => { d with st := .finishing port (next + 1) (s.now + 1) }))) ∧
    (next = x.finWords k → exec (.finTokenEmit b k) s = .next
      (s.setBrick b ((y.setDockWord k 6 (insertBits (y.dockWord k 6) 32 1 1)).modDock k fun _ => {}).wake)))

/-- R346 to R363: a footing engine takes a packet, starts a query on a free context, answers its requests, expands, and completes it with its results before its record. The readings of log 17 and the times of log 1 are the model's. -/
def Obligations.FootingQueriesStep : Prop :=
  (∀ (s : State) (b : BrickId) (eng : Nat) (packet : List Word) (inline : List Byte) (rest : List (Nat × List Word × List Byte)) (g : RegionId),
    (s.brick b).footPort = (eng, packet, inline) :: rest → (s.brick b).region = some g → (s.footing eng).posts.length < 16 →
    let q : Query := { id := s.nextId, region := g, brick := b, eng, tenancy := (s.brick b).tenancy, packet, vector := inline, floor := (s.brick b).fence, node := (s.slot g).node }
    exec (.footingPacketArrival b) s = .next
      (((({ s with nextId := s.nextId + 1 } : State).modBrick b fun x => { x with footPort := rest }.wake).modFooting eng fun e => { e with posts := e.posts ++ [q] }).returned b 1)) ∧
  (∀ (s : State) (eng : Nat) (q : Query) (rest : List Query), (s.footing eng).posts = q :: rest → (s.footing eng).used < 64 → s.chargeFits q.node 4 1 = true →
    let s1 := s.charge q.node 4 1
    let q1 := { q with started := true }
    let enter (u : State) (q2 : Query) : State := u.modFooting eng fun e => { e with posts := rest, contexts := e.contexts ++ [q2] }
    ((∃ o ∈ (s.footing eng).contexts, o.qid = q.qid) → exec (.queryStart eng) s = .next (enter s1 (q1.finish fqDupqid))) ∧
    ((∀ o ∈ (s.footing eng).contexts, o.qid ≠ q.qid) → exec (.queryStart eng) s = .next (enter (s1.openQuery q1).2 (s1.openQuery q1).1))) ∧
  (∀ (s : State) (eng q k : Nat) (qu : Query) (r : FootReq), s.query eng q = some qu → qu.reqs[k]? = some r → r.reply = none → r.status = 0 →
    exec (.distanceRequest eng q k) s = .next ((s.answer qu r).2.2.modQuery eng q fun x =>
      { x with reqs := modifyAt (fun _ => (s.answer qu r).1) k x.reqs, ts := max x.ts (s.answer qu r).2.1 })) ∧
  (∀ (s : State) (eng q : Nat) (qu : Query), s.query eng q = some qu → qu.started = true → qu.finished = false →
    (∀ r ∈ qu.reqs, r.reply.isSome = true ∨ r.status ≠ 0) →
    (∀ r, (qu.reqs.find? fun r => r.status ≠ 0) = some r → exec (.expansionStep eng q) s = .next (s.modQuery eng q fun _ => qu.finish r.status)) ∧
    ((∀ r ∈ qu.reqs, r.status = 0) → qu.phase = 1 →
      let ids := qu.reqs.flatMap fun r => match r.reply with
        | some (_, l) => l
        | none => []
      let p := s.visitAll { qu with phase := 2, reqs := [] } ids
      exec (.expansionStep eng q) s = .next (p.2.modQuery eng q fun _ => p.1)) ∧
    ((∀ r ∈ qu.reqs, r.status = 0) → qu.phase ≠ 1 →
      let offered := qu.reqs.foldl (fun q r => match r.reply with
        | some (d, _) => q.offer (d, r.node)
        | none => q) qu
      exec (.expansionStep eng q) s = .next (s.modQuery eng q fun _ =>
        ({ offered with reqs := [], steps := if qu.phase = 2 then qu.steps + 1 else qu.steps } : Query).advance))) ∧
  (∀ (s : State) (eng q : Nat) (qu : Query), s.query eng q = some qu → qu.finished = true →
    (qu.prepared = false → exec (.queryComplete eng q) s = .next ((s.prepareQuery qu).2.modQuery eng q fun _ => (s.prepareQuery qu).1)) ∧
    (qu.prepared = true →
      (∀ b ch t rest, qu.out = (b, ch, t) :: rest → (s.footing eng).turn s.now qu = true → s.accepts (.input b ch) t = true →
        exec (.queryComplete eng q) s = .next
          ((s.launch qu.brick (if qu.recOrder.isSome = true then footPortOf eng else resultPort eng qu.id) (.input b ch) t).modQuery eng q fun x => { x with out := rest, doneAt := s.now })) ∧
      (∀ c rest, qu.out = [] → qu.recOrder = none → qu.copies = c :: rest → exec (.queryComplete eng q) s = .next
        (s.modQuery eng q fun x => { x with copies := rest })) ∧
      (qu.out = [] → qu.recOrder = none → qu.copies = [] → (qu.toMemory = true ∨ s.resultsFlying eng qu = false) → exec (.queryComplete eng q) s = .next
        (s.modQuery eng q fun x => { x with recOrder := some s.now, out := x.record2 eng })) ∧
      (qu.out = [] → qu.recOrder.isSome = true → qu.doneAt < s.now →
        let t := s.modFooting eng fun e => { e with contexts := e.contexts.filter fun x => x.id ≠ q }
        exec (.queryComplete eng q) s = .next (((if qu.started then t.refund qu.node 4 1 else t).rcvd qu.brick 1).noteTs qu.brick qu.ts))))

/-- R9, R208, R237 to R239, R383, R402, R405 to R408, R442, R444: refreshes start and end, stacks heat up and trip, errors are weighed, links go down, flits are received, and the power limit moves the clock by 100 MHz. The model's choices: refresh phases (log 8) and how they go on when the interval changes (log 1); an error on the bank of a mapped-out brick counts at its unit and reaches no bank (log 18); an event of kind uncorrectable weighs UEW itself and each meeting of the word weighs UEW again, one notice stands for its die's ALLOW, readings are whole degrees, and the argument of TALW_UPDATE is its rise (log 19); what an acknowledgement carries, when a replay starts and when credit returns (log 20). -/
def Obligations.HeatErrorsAndPower : Prop :=
  (∀ (s : State) (stack pc : Nat), stack < 12 → pc < 64 → s.refreshElapsed stack pc < refreshBlock →
    (∀ p ∈ (s.stack stack).refreshing, p.1 ≠ pc) →
    exec (.refreshStart stack pc) s = .next (s.modStack stack fun x => { x with refreshing := x.refreshing ++ [(pc, s.now - s.refreshElapsed stack pc / s.cycleUnits)] })) ∧
  (∀ (s : State) (stack pc start : Nat), ((s.stack stack).refreshing.find? fun p => p.1 = pc) = some (pc, start) →
    refreshBlock ≤ s.refreshElapsed stack pc →
    let waits := (s.fills.filter fun f => stackOf (32 * f.sector) = stack && channelOfPa (32 * f.sector) = pc).map s.fillWait
    (∀ f ∈ s.fills, stackOf (32 * f.sector) = stack → channelOfPa (32 * f.sector) = pc → s.fillWait f = if f.served.isNone then s.now - max f.arrived start else 0) ∧
    exec (.refreshEnd stack pc) s = .next ((s.modStack stack fun x => { x with refreshing := x.refreshing.filter fun p => p.1 ≠ pc }).modStack stack fun x =>
      { x with stall := min (x.stall + waits.foldl (· + ·) 0) (2 ^ 48 - 1) })) ∧
  (∀ (s : State) (stack temp : Nat), stack < 12 → ∃ t, exec (.stackSensorReading stack temp) s = .next t ∧
    t = { s with hbmStacks := t.hbmStacks } ∧ (∀ k, k ≠ stack → t.stack k = s.stack k) ∧ (t.stack stack).temp = temp ∧
    ((s.stack stack).hot = none → (t.stack stack).hot = if 105 ≤ temp then some temp else none) ∧ (∀ m, (s.stack stack).hot = some m → (t.stack stack).hot = some m) ∧
    (85 < temp → (t.stack stack).doubled = true) ∧ (temp ≤ 83 → (t.stack stack).doubled = false) ∧
    (83 < temp → temp ≤ 85 → (t.stack stack).doubled = (s.stack stack).doubled) ∧
    ((t.stack stack).doubled = (s.stack stack).doubled → (t.stack stack).grid = (s.stack stack).grid) ∧
    (∀ pc, pc < 64 → (t.stack stack).doubled ≠ (s.stack stack).doubled → t.refreshElapsed stack pc =
      if s.refreshElapsed stack pc < t.refreshNs stack * unitsPerNs then s.refreshElapsed stack pc else 0) ∧
    (95 ≤ temp → (t.stack stack).throttled = true) ∧ (temp ≤ 92 → (t.stack stack).throttled = false) ∧
    (92 < temp → temp < 95 → (t.stack stack).throttled = (s.stack stack).throttled)) ∧
  (∀ (s : State) (stack peak : Nat), stack < 12 → (s.stack stack).hot = some peak → (s.stack stack).tripped = false →
    exec (.thermtrip stack) s = .next ((s.regionsOn (stack / 3)).foldl (fun s r => s.raiseFault r { code := 0x05, detail := 0x42 })
      ((s.modStack stack fun x => { x with tripped := true }).writeRecord { code := 0x42, die := stack / 3, detail := stack, data := peak }))) ∧
  (∀ (s : State) (die rise : Nat), die < 4 →
    exec (.talwUpdate die rise) s = .next (allSlots.foldl (fun u r => u.noteCrossing die r)
      (s.modDie die fun d => { d with talw := BitVec.ofNat 64 (s.talwValue die rise) }))) ∧
  (∀ (s : State) (die : Nat) (r : RegionId),
    let x := s.slot r
    let d := s.die die
    let low : Bool := d.allow < x.tth
    let stack := s.hottestStack die
    (x.st = .run → x.therm = 1 → (∃ c ∈ x.bricks, BrickId.die c = die) → low ≠ x.hot.contains die →
      s.noteCrossing die r = s.modSlot r fun y => { y with
        hot := if low then die :: y.hot else y.hot.filter (· ≠ die)
        notices := y.notices ++ [(s.now, ctrlToken 0xE (stack * 2 ^ 56 + d.allow * 2 ^ 32 + b2n d.throt * 2 ^ 31))] }) ∧
    ((x.st ≠ .run ∨ x.therm ≠ 1 ∨ (∀ c ∈ x.bricks, BrickId.die c ≠ die) ∨ low = x.hot.contains die) → s.noteCrossing die r = s)) ∧
  (∀ (s : State) (r : RegionId) (stack at' : Nat) (t : Token) (rest : List (Nat × Token)), (s.slot r).notices = (at', t) :: rest →
    let b : BrickId := BitVec.ofNat 14 ((s.slot r).word 7 % 2 ^ 14)
    let dest := Dest.input b (bits ((s.slot r).word 7) 15 14)
    bits t.pay.toNat 59 56 = stack → s.owns r b = true → s.accepts dest t = true →
    exec (.thermalNotice r stack) s = .next ((s.modSlot r fun x => { x with notices := rest }).launch b noticePort dest t)) ∧
  (∀ (s : State) (stack : Nat), ∃ t, exec (.rstallRead stack) s = .next t ∧ t = { s with hbmStacks := t.hbmStacks } ∧
    t.stack stack = { s.stack stack with stall := 0 } ∧ ∀ k, k ≠ stack → t.stack k = s.stack k) ∧
  (∀ (s : State) (u : UnitRef), UnitRef.isLink u = true → (s.unit u).down = false → exec (.linkdown u) s = .next (s.linkDown u)) ∧
  (∀ (s : State) (u : UnitRef) (addr : Nat),
    let x := s.unit u
    let s1 := match u with
      | .bank b => if s.inService b then s.modBrick b fun x => { x with corrected := x.corrected + 1 } else s
      | _ => s
    exec (.errorEvent u .corrected addr) s = .next ((s1.setUnit u { x with corrected := x.corrected + 1 }).weigh u 1 addr) ∧
    exec (.errorEvent u .retry addr) s = .next ((s.setUnit u { x with corrected := x.corrected + 1 }).weigh u 1 addr) ∧
    exec (.errorEvent u .uncorrectable addr) s = .next
      (((s.setUnit u { x with uncorrectable := x.uncorrectable + 1 }).markWord u addr).weigh u s.errwin.2.1 addr)) ∧
  (∀ (s : State) (u : UnitRef) (w addr : Nat),
    let x := s.unit u
    let fresh : Bool := match x.open? with
      | none => true
      | some t => s.errwin.1 * 1000000 * unitsPerNs ≤ s.time - t
    let c := (if fresh then 0 else x.count) + w
    c < s.errwin.2.2 → s.weigh u w addr = s.setUnit u { x with open? := if fresh then some s.time else x.open?, count := c }) ∧
  (∀ (s : State) (b : BrickId), (s.brick b).life ≠ .out → (s.brick b).scrub < s.now / 2048 →
    let i := (s.brick b).scrub % 8192
    let u := UnitRef.bank b
    let s1 := s.modBrick b fun x => { x with scrub := x.scrub + 1 }
    ((s.brick b).wordUe i = false → exec (.patrolScrub b) s = .next s1) ∧
    ((s.brick b).wordUe i = true → exec (.patrolScrub b) s = .next (s1.meetBad u (8 * i)))) ∧
  (∀ (s : State) (u : UnitRef) (addr : Nat), UnitRef.isLink u = false →
    s.meetBad u addr = (s.setUnit u { s.unit u with uncorrectable := (s.unit u).uncorrectable + 1 }).weigh u s.errwin.2.1 addr) ∧
  (∀ (s : State) (port : Nat) (flit : List Byte), port < 36 → (s.unit (.port port)).down = false →
    let p := s.port port
    let h := wordAt flit 0
    let u := UnitRef.port port
    let kind := bits h 3 0
    let ten := bits h 9 4
    let payload := (flit.drop 8).take (min 240 (bits h 29 22))
    let whole : Bool := flit.length = 256 && crc32 (flit.take 248) = fieldAt flit 248 4
    let lost (t : State) : State := t.modTenancy ten fun x => { x with drops := min (x.drops + 1) (2 ^ 32 - 1) }
    let retried (t : State) : State := (t.setUnit u { t.unit u with corrected := (t.unit u).corrected + 1 }).weigh u 1 0
    let owned := bit (s.tenancy ten).port.toNat port = true ∨ (s.ownersPort port = true ∧ (kind = flCkpt ∨ kind = flCredit ∨ kind = flAck))
    (whole = false ∨ (kind ≠ flAck ∧ bits h 21 10 ≠ p.expect) → exec (.ringFlitReceive port flit) s = .next
      (retried (s.modPort port fun p => { p with tx := p.tx ++ [linkFlit flAck ten p.acked []] }))) ∧
    (whole = true → kind = flAck → ¬ owned → exec (.ringFlitReceive port flit) s = .next (lost s)) ∧
    (whole = true → kind = flAck → owned → (p.acknowledged (bits h 21 10)).2 = false → exec (.ringFlitReceive port flit) s = .next
      (s.modPort port fun _ => (p.acknowledged (bits h 21 10)).1)) ∧
    (whole = true → kind = flAck → owned → (p.acknowledged (bits h 21 10)).2 = true → exec (.ringFlitReceive port flit) s = .next
      (retried (s.modPort port fun _ => (p.acknowledged (bits h 21 10)).1))) ∧
    (whole = true → kind ≠ flAck → bits h 21 10 = p.expect → ¬ owned → exec (.ringFlitReceive port flit) s = .next (lost (s.modPort port fun p => p.took ten))) ∧
    (whole = true → kind ≠ flAck → bits h 21 10 = p.expect → owned → exec (.ringFlitReceive port flit) s = .next (s.modPort port fun p => p.accept kind ten payload))) ∧
  (∀ (p : ScalePort) (kind ten seq n : Nat) (l : List Byte),
    let q := p.accept kind ten l
    let k := (seq + 4097 + p.replay.length - p.seq) % 4096
    q.expect = (p.expect + 1) % 4096 ∧ q.acked = p.expect ∧ (1 ≤ kind → kind ≤ 3 → q.rx = p.rx ++ [(kind, ten, l)]) ∧ (kind = 0 ∨ 4 ≤ kind → q.rx = p.rx) ∧
    (kind = flCredit → p.queue = [] → q.credit = p.credit.set ten (p.credit.getD ten 0 + leValue l)) ∧
    (0 < k → k ≤ p.replay.length → p.acknowledged seq = ({ p with replay := p.replay.drop k }.sendAll, false)) ∧
    ((k = 0 ∨ p.replay.length < k) → p.replay ≠ [] → p.acknowledged seq = ({ p with tx := p.tx ++ p.replay }, true)) ∧
    (p.replay.length ≤ 512 → (p.pump n).replay.length ≤ 512) ∧
    (∀ rest, p.queue = (kind, ten, l) :: rest → kind ≠ flCredit → p.replay.length < 512 → 0 < p.credit.getD ten 0 →
      p.pump (n + 1) = ScalePort.pump n { p with
        queue := rest, seq := (p.seq + 1) % 4096, replay := p.replay ++ [linkFlit kind ten p.seq l], tx := p.tx ++ [linkFlit kind ten p.seq l]
        credit := p.credit.set ten (p.credit.getD ten 0 - 1) })) ∧
  (∀ (s : State) (watts : Nat),
    (3600 ≤ watts → 1 < s.fclk → exec (.powerLimitStepDown watts) s = .next { s with fclk := s.fclk - 1, clockAt := s.now, clockTime := s.time }) ∧
    (watts < 3400 → s.fclk < 27 → exec (.powerStepUp watts) s = .next { s with fclk := s.fclk + 1, clockAt := s.now, clockTime := s.time }))

/-- R8, R15 to R20, R82, R89, R224, R229, R272, R370, R400, R406, R414, R434, R437, R439: what writes of the management window do, reserved bits staying zero; what a tenancy's TDI sees of it, its own registers, key slots and fault records and nothing else; and what a boot leaves. The model's choices: PICK = 1 is ignored at a brick that weeps, and a boot keeps HBM and host memory (log 22); a write through a TDI is ignored (log 5); a boot leaves every other field as at reset, and the map-out lists are compared as they stand (log 2). -/
def Obligations.ManagementWrites : Prop :=
  (∀ (s : State) (b : BrickId),
    (∃ t, exec (.bsrCtlPickSet b) s = .next t ∧ t = { s with bricks := t.bricks } ∧ (∀ c, c ≠ b → t.brick c = s.brick c) ∧
      ((s.brick b).weep = .none → (t.brick b).pick = true ∧ (t.brick b).trapValid = false ∧ (t.brick b).ctl = ((s.brick b).setPick true).ctl) ∧
      ((s.brick b).weep ≠ .none → (t.brick b).ctl = (s.brick b).ctl ∧ (t.brick b).tcls = (s.brick b).tcls) ∧
      (t.brick b).slices = (s.brick b).slices ∧ (t.brick b).pval = (s.brick b).pval ∧ (t.brick b).bank = (s.brick b).bank) ∧
    exec (.bsrCtlPickClear b) s = .next (s.modBrick b fun x => { (x.setPick false).wake with picked := false }) ∧
    (∀ on, exec (.bsrCtlStep b on) s = .next (s.modBrick b fun x => (x.setStep on).wake)) ∧
    exec (.bsrCtlPass b) s = .next (s.modBrick b fun x => (x.setPass true).wake)) ∧
  (∀ (x : Brick) (v : Bool),
    ((x.setPick v).pick = v ∧ (x.setPick v).bken = x.bken ∧ (x.setPick v).stepMode = x.stepMode ∧ (x.setPick v).pass = x.pass) ∧
    ((x.setStep v).stepMode = v ∧ (x.setStep v).pick = x.pick ∧ (x.setStep v).bken = x.bken ∧ (x.setStep v).pass = x.pass) ∧
    ((x.setPass v).pass = v ∧ (x.setPass v).pick = x.pick ∧ (x.setPass v).bken = x.bken ∧ (x.setPass v).stepMode = x.stepMode) ∧
    ((x.setBken v).bken = v ∧ (x.setBken v).pick = x.pick ∧ (x.setBken v).stepMode = x.stepMode ∧ (x.setBken v).pass = x.pass)) ∧
  (∀ (s : State) (t : Nat) (v : Word),
    let lease := bits v.toNat 10 0
    let dlwin := bits v.toNat 31 16
    (t ≤ 62 → 1 ≤ lease → lease ≤ 1024 → 256 ≤ dlwin → exec (.tscfgWrite t v) s = .next (s.modTenancy t fun x => { x with lease, dlwin })) ∧
    ((lease = 0 ∨ 1024 < lease ∨ dlwin < 256) → exec (.tscfgWrite t v) s = .next s)) ∧
  (∀ (s : State) (v : Word),
    let f := (bits v.toNat 39 24, bits v.toNat 15 8, bits v.toNat 7 0)
    (f.1 ≠ 0 → f.2.1 ≠ 0 → f.2.2 ≠ 0 → exec (.errwinWrite v) s = .next { s with errwin := f }) ∧
    ((f.1 = 0 ∨ f.2.1 = 0 ∨ f.2.2 = 0) → exec (.errwinWrite v) s = .next s)) ∧
  (∀ (s : State) (v : Word),
    (∀ t, t ≤ 62 → ∃ u, exec (.registerWrite (.ptroot t) v) s = .next u ∧ u = { s with tenancies := u.tenancies } ∧
      (u.tenancy t).root.toNat = bits v.toNat 47 14 * 2 ^ 14 + (if (s.tenancy t).cfg.getLsbD 63 then v.toNat % 2 else 0)) ∧
    (∀ d, exec (.registerWrite (.swaddr d) v) s = .next (s.modDie d fun d => { d with swaddr := v &&& 0x003F_FFFF_FFFF_F000 })) ∧
    (∀ d, exec (.registerWrite (.flogTail d) v) s = .next (s.modDie d fun d => { d with tail := v.toNat % 256 })) ∧
    (exec (.registerWrite .cqcons v) s = .next { s with host := { s.host with cons := v.toNat % 256 } }) ∧
    (∀ k i, k < 16 → i < 32 → exec (.registerWrite (.mailbox k i) v) s = .next
      { s with host := { s.host with mailbox := s.host.mailbox.set k (modifyAt (fun _ => v) i (s.host.mailbox.getD k (List.replicate 32 0))) } }) ∧
    (s.host.kicks.length < 16 → exec (.registerWrite .kickReg v) s = .next { s with host := { s.host with kicks := s.host.kicks ++ [v &&& 0xFFFF_FFFF] } }) ∧
    (16 ≤ s.host.kicks.length → exec (.registerWrite .kickReg v) s = .next { s with host := { s.host with dropped := min (s.host.dropped + 1) (2 ^ 32 - 1) } }) ∧
    (∀ r i, r.exists = true → 1 ≤ i → (s.slot r).st = .free → exec (.registerWrite (.bind r i) v) s = .next (s.modSlot r fun x => { x with words := modifyAt (fun _ => v) i x.words })) ∧
    (∀ r i, r.exists = false ∨ (s.slot r).st ≠ .free → exec (.registerWrite (.bind r i) v) s = .next s) ∧
    (∀ n w, n < 4096 → exec (.registerWrite (.node n w) v) s = .next { s with nodes := s.nodes.set n (modifyAt (fun _ => v) w (s.node n)) }) ∧
    (∀ pa, s.lineLocked (pa / 64) = false → s.mayStore (pa / 64) = true → exec (.registerWrite (.tableEntry pa) v) s = .next (s.writeLine (pa / 8 * 8) (leBytes 8 v.toNat) false)) ∧
    (∀ d, let ten := bits v.toNat 60 55
      let va := bits v.toNat 53 13 * 8192
      let fields := bits v.toNat 62 55 * 2 ^ 55 + va
      ((s.die d).invBusy = true ∨ 2 ≤ bits v.toNat 62 61 → exec (.registerWrite (.invcmd d) v) s = .next s) ∧
      ((s.die d).invBusy = false → bits v.toNat 62 61 < 2 → bit v.toNat 63 = false →
        exec (.registerWrite (.invcmd d) v) s = .next (s.modDie d fun d => { d with invcmd := BitVec.ofNat 64 fields })) ∧
      ((s.die d).invBusy = false → bits v.toNat 62 61 = 0 → bit v.toNat 63 = true →
        exec (.registerWrite (.invcmd d) v) s = .next (s.invalidate d fields fun x => x.tenancy = ten && x.page = va / 2 ^ leafBits x.level)) ∧
      ((s.die d).invBusy = false → bits v.toNat 62 61 = 1 → bit v.toNat 63 = true →
        exec (.registerWrite (.invcmd d) v) s = .next (s.invalidate d fields fun x => x.tenancy = ten)))) ∧
  (∀ (s : State) (b : BrickId) (v : Word), exec (.registerWrite (.pass b) v) s = .next (s.modBrick b fun x => (x.setPass (v.getLsbD 3)).wake)) ∧
  (∀ (s : State) (t : Nat) (r : RegName) (v : Word), exec (.registerWrite (.tdi t r) v) s = .next s) ∧
  (∀ (s : State) (t u : Nat),
    (u = t → s.tdiView t (.tencfg u) = some (s.tenancy t).cfg ∧ s.tdiView t (.tenlane u) = some (s.tenancy t).lane ∧
      s.tdiView t (.tenport u) = some (s.tenancy t).port ∧ s.tdiView t (.pwdrop u) = some (s.tenancy t).pwdrop ∧
      s.tdiView t (.ptroot u) = some (s.tenancy t).root ∧ s.tdiView t (.tscfg u) = some (s.tenancy t).tscfg) ∧
    (u ≠ t → s.tdiView t (.tencfg u) = none ∧ s.tdiView t (.tenlane u) = none ∧ s.tdiView t (.tenport u) = none ∧
      s.tdiView t (.pwdrop u) = none ∧ s.tdiView t (.ptroot u) = none ∧ s.tdiView t (.tscfg u) = none) ∧
    (∀ k, s.tdiView t (.kstat k) = if (s.keySlot k).st ≠ 0 ∧ (s.keySlot k).tenancy = t then some (s.keySlot k).kstat else none) ∧
    (∀ d k w, (s.die d).log.getD (k % 256) [] ≠ [] → s.tdiView t (.flog d k w) =
      if bits ((s.die d).logWord k 0).toNat 55 50 = t then some ((s.die d).logWord k w) else none) ∧
    (∀ r, s.tdiView t r ≠ none → s.tdiView t r = some (s.window r)) ∧
    s.tdiView t .capb = none ∧ s.tdiView t .errwin = none ∧ s.tdiView t .cqprod = none ∧ s.tdiView t .kdrop = none ∧
    ∀ d i n b r, s.tdiView t (.bpm i) = none ∧ s.tdiView t (.flogctl d) = none ∧ s.tdiView t (.mailbox n i) = none ∧
      s.tdiView t (.bind r i) = none ∧ s.tdiView t (.bstat r) = none ∧ s.tdiView t (.bsr b n) = none ∧ s.tdiView t (.node n i) = none) ∧
  (∀ (s : State) (b : BrickId), exec (.mapoutRemove b) s = .next
    { s with keystone := { s.keystone with mapOut := s.keystone.mapOut.filter (· ≠ b.toNat) } }) ∧
  (∀ s : State, ∃ t, exec .boot s = .next t ∧
    t.now = 0 ∧ t.fclk = 27 ∧ t.errwin = (1000, 4, 8) ∧ t.slots = [] ∧ t.bricks = [] ∧ t.reqs = [] ∧ t.loft = [] ∧ t.hbm = s.hbm ∧ t.host.memory = s.host.memory ∧
    t.bpm = State.bpmOf s.keystone.mapOut ∧ bits t.capb.toNat 15 0 = 0 ∧
    bits t.capb.toNat 23 16 = (if s.keystone.mapOut = s.keystone.previous then s.keystone.mapGen else s.keystone.mapGen + 1) % 256 ∧
    t.keystone.mapOut = s.keystone.mapOut ∧ t.keystone.previous = s.keystone.mapOut ∧
    (∀ n x, (UnitRef.lane n, x) ∈ t.units ↔ ∃ y, (UnitRef.lane n, y) ∈ s.units ∧
      x = if y.down then (if y.spares < 2 then { spares := y.spares + 1 } else { down := true, spares := y.spares }) else { spares := y.spares }) ∧
    ∀ u x, (∀ n, u ≠ .lane n) → (u, x) ∉ t.units)

/-- R398, R399, R409 to R415, R421 to R427, R432, R433, R435 to R440: a kick is read, reread and answered; each command of the host runs in its turn and leaves its entry to be posted; the keystone answers SPDM; TDIs enter and leave RUN; a host access reads or writes. The model's choices: the bytes that are signed and the derivation of a session's keys (log 7); the wave addresses of CHKPT (log 8); the layouts of SUMMARY and of a checkpoint, with 0xFFFF where no command came before, and the carriers that CHKPT and RESTORE wait for (log 21); which state a TDI enters RUN from, and that KICKSTALE and KICKSEQ do not hold CQBASE (log 22); the times of log 1. -/
def Obligations.HostCommandsRun : Prop :=
  (∀ (s : State) (k : Word) (rest : List Word), s.host.kicks = k :: rest →
    let h := s.host
    let seq := k.toNat % 65536
    (h.tries = 0 → h.ringOpen = true → h.posts = [] →
      (seq ≠ h.next → exec .kick s = .next { s with host := ({ h with kicks := rest } : HostLink).post seq stKickSeq 0 }) ∧
      (∀ c, seq = h.next → h.readKick k = some c → exec .kick s = .next { s with host := h.takeKick c }) ∧
      (seq = h.next → h.readKick k = none → exec .kick s = .next { s with host := { h with tries := 1, retryAt := s.time + 2000 * unitsPerNs } })) ∧
    (1 ≤ h.tries → h.retryAt ≤ s.time → h.ringOpen = true → h.posts = [] →
      (∀ c, h.readKick k = some c → exec .kickReread s = .next { s with host := h.takeKick c }) ∧
      (h.readKick k = none → h.tries < 4 → exec .kickReread s = .next { s with host := { h with tries := h.tries + 1, retryAt := s.time + 2000 * unitsPerNs } }) ∧
      (h.readKick k = none → 4 ≤ h.tries → exec .kickReread s = .next { s with host := ({ h with kicks := rest, tries := 0 } : HostLink).post seq stKickStale 0 }))) ∧
  (∀ (s : State) (seq status : Nat) (data : Word) (rest : List (Nat × Nat × Word)), s.host.posts = (seq, status, data) :: rest → s.host.ringOpen = true →
    let h := s.host
    let prod := (h.prod + 1) % 256
    exec .completionPost s = .next { s with host := { h with
      posts := rest, prod, phase := if prod = 0 then !h.phase else h.phase
      memory := cellsWrite h.memory (h.cqbase.toNat / 4096 * 4096 + 16 * h.prod) (leBytes 8 (seq + status * 2 ^ 16 + b2n h.phase * 2 ^ 24) ++ leBytes 8 data.toNat) } }) ∧
  (∀ (s : State) (v : Word), s.host.commands = [] → (∀ p ∈ s.host.posts, p.2.1 = stKickStale ∨ p.2.1 = stKickSeq) →
    exec (.cqbaseWrite v) s = .next { s with host := { s.host with cqbase := v &&& 0xFFFF_FFFF_FFFF_F000, prod := 0, cons := 0, phase := true } }) ∧
  (∀ (s : State) (c : Command), s.host.running = some c →
    (6 < c.opc → exec .completionPost s = .next (s.endCommand c stBadOpc 0)) ∧
    (c.opc = 0 → c.len = 0 → exec .hostNop s = .next (s.endCommand c stOk 0)) ∧
    (c.opc = 1 → c.len = 0 →
      let l := s.summaryBytes ((c.seq + 65535) % 65536)
      exec .summary s = .next ((s.modHost fun h => { h with memory := cellsWrite h.memory c.arg.toNat l }).endCommand c stOk l.length)) ∧
    (c.opc = 2 → c.len = 1 →
      (c.started = none → exec .chkpt s = .next
        (s.modHost fun h => { h with commands := modifyAt (fun (c : Command) => { c with started := some s.ns }) 0 h.commands })) ∧
      (∀ t0 r, c.started = some t0 → allSlots.find? s.mayWave = some r → exec .chkpt s = .next
        (s.draw.2.startWave r (2 ^ 63 + r.slot * 2 ^ 57 + 2 ^ 56) (s.draw.1 % 2 ^ 42 * 4096) false)) ∧
      (∀ t0, c.started = some t0 → allSlots.find? s.mayWave = none → (∀ r ∈ allSlots, (s.slot r).active = false) → s.carriers c.portMask ≠ [] →
        let p := s.flushLoft.meetStreamed.checkpointBytes s.us
        exec .chkpt s = .next ((p.2.modHost fun h => { h with safeTier := (h.safeTier.filter fun e => e.1 ≠ c.arg.toNat) ++ [(c.arg.toNat, p.1)] }).endCommand c stOk 0))) ∧
    (c.opc = 3 → c.len = 3 →
      let t := c.arg.toNat
      let cfg := (c.body.getD 0 0).toNat % 2 ^ 64 &&& 0x80000FFFFFFFFFFF
      let lane := (c.body.getD 1 0).toNat % 2 ^ 32
      let port := (c.body.getD 2 0).toNat % 2 ^ 36
      (s.tensetRefused t cfg lane port = false → exec .tenset s = .next ((s.setTenancy t cfg lane port).endCommand c stOk 0)) ∧
      (s.tensetRefused t cfg lane port = true → exec .tenset s = .next (s.endCommand c stRefused 0))) ∧
    (c.opc = 4 → c.len = 0 → c.arg.toNat ≤ 62 → s.slotsBusy c.arg.toNat = false →
      (∀ e ∈ s.bricks, e.2.life = .held → bit (s.tenancy c.arg.toNat).cfg.toNat (BrickId.bay (BitVec.ofNat 14 e.1)) = false) →
      exec .tenclr s = .next ((s.clearTenancy c.arg.toNat).endCommand c stOk 0)) ∧
    (c.opc = 5 → c.len = 2 → c.arg.toNat ≤ 255 → (s.keySlot c.arg.toNat).st = 1 → exec .keymap s = .next
      ((s.modKeySlot c.arg.toNat fun x => { x with wbase := (c.body.getD 0 0).toNat % 2 ^ 54 / 8192 * 8192, tva := (c.body.getD 1 0).toNat % 2 ^ 54 / 8192 * 8192 }).endCommand c stOk 0)) ∧
    (c.opc = 6 → c.len = 1 → ∀ other : List Byte,
      let tier := ((s.host.safeTier.find? fun e => e.1 = c.arg.toNat).map (·.2)).getD other
      ((∃ e ∈ s.tenancies, e.2.cfg.getLsbD 63 = true) → exec (.restore other) s = .next (s.endCommand c stRefused 0)) ∧
      ((∀ e ∈ s.tenancies, e.2.cfg.getLsbD 63 = false) → (∀ r ∈ allSlots, (s.slot r).st = .free) → s.carriers c.portMask ≠ [] →
        (manifestSigned tier = false → exec (.restore other) s = .next (s.endCommand c stBadSig 0)) ∧
        (manifestSigned tier = true → (∀ g ∈ manifestSegments tier, g.2.2.2.2 = true) →
          let segs := manifestSegments tier
          let good := segs.filter s.segmentLands
          let written := good.foldl (fun s g => s.writeSegment g) { s with loft := [] }
          let sram (d : Nat) : List Byte := ((segs.find? fun g => g.1 = 3 && g.2.1 = d).map (·.2.2.2.1)).getD []
          let blob := ((segs.find? fun g => g.1 = 4).map (·.2.2.2.1)).getD []
          exec (.restore other) s = .next ((((good.filter fun g => g.1 = 2).foldl (fun s g => s.reholdBrick g (sram (g.2.1 / 4096))) written).unsealKeys blob).endCommand c stOk 0)) ∧
        (manifestSigned tier = true → (∃ g ∈ manifestSegments tier, g.2.2.2.2 = false) →
          let good := ((manifestSegments tier).takeWhile fun g => g.2.2.2.2).filter s.segmentLands
          exec (.restore other) s = .next
            ((good.foldl (fun (s : State) g => s.wipeSegment g) (good.foldl (fun (s : State) g => s.writeSegment g) { s with loft := [] })).endCommand c stBadSig 0))))) ∧
  (∀ (s : State) (k : Nat) (e : Session) (l : List Byte), s.session k = some e →
    let cipher := gcmCrypt e.key (beBytes 12 e.sent) l
    s.sessionAnswer k l = (s.modSession k fun e => { e with sent := e.sent + 1 }).spdmAnswer (cipher ++ gcmTag e.key (beBytes 12 e.sent) [] cipher)) ∧
  (∀ (s : State) (session t hash key k : Nat) (e : Session), s.session session = some e →
    (s.tenancy t).cfg.getLsbD 63 = true → ((List.range 256).find? fun k => (s.keySlot k).st = 0) = some k →
    ∃ u : State, exec (.keyload session t hash key) s = .next (u.sessionAnswer session (leBytes 2 k)) ∧ u = { s with keystone := u.keystone } ∧
      u.keystone.sessions = s.keystone.sessions ∧ (∀ j, j ≠ k → u.keySlot j = s.keySlot j) ∧
      u.keySlot k = { hash := BitVec.ofNat 256 hash, key := BitVec.ofNat 256 key, tenancy := t, requester := e.requester, st := 1 }) ∧
  (∀ (s : State) (session k key : Nat) (e : Session), s.session session = some e → e.requester = some key →
    (s.keySlot k).st ≠ 0 → (s.keySlot k).requester = some key → exec (.keydrop session k) s = .next ((s.emptySlot k).sessionAnswer session [])) ∧
  (∀ s : State,
    exec .spdmGetCertificate s = .next (s.spdmAnswer certificateChain) ∧
    (∀ x y, aliasPoint = some (x, y) →
      let body := Config.aliasCertificate x y
      let sig := ecdsaSign Config.identityKey Config.aliasNonce (sha256 body).toNat
      certificateChain = Config.identityCertificate ++ (body ++ beBytes 32 sig.1 ++ beBytes 32 sig.2)) ∧
    (∀ nonce, exec (.spdmChallenge nonce) s = .next
      ((s.signed (Config.transcript 0 nonce certificateChain).toNat).2.spdmAnswer (s.signed (Config.transcript 0 nonce certificateChain).toNat).1)) ∧
    (∀ index nonce m, s.measurement index = some m →
      let v := beBytes 32 m.toNat
      let p := s.signed (Config.transcript 1 nonce v).toNat
      exec (.spdmGetMeasurements index nonce) s = .next (p.2.spdmAnswer (v ++ p.1))) ∧
    ((∀ k, k < 8 → s.session k ≠ none) → ∀ x y auth, exec (.spdmKeyExchange (.exchange x y auth)) s = .next (s.spdmAnswer invalidRequest)) ∧
    (∀ k x y auth, s.freeSession = some k →
      let d := (Config.drbg s.keystone.draws).toNat % p256N
      let mine := (mulPoint (some p256G) 256 d).getD (0, 0)
      let secret := ((mulPoint (some (x, y)) 256 d).getD (0, 0)).1
      let points := pointBytes (x, y) ++ pointBytes mine
      (onCurve (x, y) = false → exec (.spdmKeyExchange (.exchange x y auth)) s = .next (s.spdmAnswer invalidRequest)) ∧
      (onCurve (x, y) = true →
        (auth = none ∨ ∃ q sig, auth = some (q, sig) ∧ onCurve q = true ∧ ecdsaVerify (some q) (Config.transcript 2 k points).toNat sig = true) →
        exec (.spdmKeyExchange (.exchange x y auth)) s = .next { s with keystone := { s.keystone with
          draws := s.keystone.draws + 1
          sessions := s.keystone.sessions ++ [{ id := k, requester := auth.map fun a => (sha256 (pointBytes a.1)).toNat, key := Config.sessionKey secret points }]
          reply := leBytes 1 k ++ pointBytes mine } })) ∧
    (∀ k, s.session k ≠ none →
      exec (.spdmKeyExchange (.update k)) s = .next ((s.sessionAnswer k []).modSession k fun e => { e with key := Config.updatedKey e.key, sent := 0 }) ∧
      exec (.spdmKeyExchange (.heartbeat k)) s = .next (s.sessionAnswer k []) ∧
      ∃ u, exec (.spdmKeyExchange (.leave k)) s = .next u ∧ u.session k = none ∧ ∀ j, j ≠ k → u.session j = s.session j)) ∧
  (∀ (s : State) (t : Nat), t ≤ 62 →
    let old := (s.tenancy t).tdi
    (∀ bound, (old = .configUnlocked ∨ old = .configLocked) → (bound = true → s.streamsUsed t < 8) →
      exec (.tdiEnterRun t bound) s = .next (s.modTenancy t fun x => { x with tdi := .run, ide := bound })) ∧
    (8 ≤ s.streamsUsed t → exec (.tdiEnterRun t true) s = .next s) ∧
    (∀ target, old = .run → target ≠ .run → exec (.tdiLeaveRun t target) s = .next (s.modTenancy t fun x => { x with tdi := target, ide := false }))) ∧
  (∀ (s : State) (t va : Nat) (ide : Bool),
    let q : Access := { cls := .hst, tenancy := t }
    (∀ vs len, (s.writeFault q va vs.length).1 = none → exec (.hstAccess t ide va (some vs) len) s = .next
      ((s.writeFault q va vs.length).2.hstWrite t ide vs va (piecesOf va vs.length))) ∧
    (∀ vs len f, (s.writeFault q va vs.length).1 = some f → exec (.hstAccess t ide va (some vs) len) s = .next (s.writeFault q va vs.length).2) ∧
    (∀ l len, (s.hstRead t ide (piecesOf va len)).1 = some l → exec (.hstAccess t ide va none len) s = .next
      { (s.hstRead t ide (piecesOf va len)).2 with host := { (s.hstRead t ide (piecesOf va len)).2.host with dma := l } }) ∧
    (∀ len, (s.hstRead t ide (piecesOf va len)).1 = none → exec (.hstAccess t ide va none len) s = .next (s.hstRead t ide (piecesOf va len)).2))
end

