-- ==== Sys2Proof/Laws/State.lean ====
section
/-! SUPPORT. The updates of the state: what each leaves of every field, and what the accessors read after one. -/

namespace Sys2Proof

/-- Setting one key of a table leaves the others. -/
@[simp] theorem Table.get?_set {α : Type} (t : Table α) (k j : Nat) (v : α) :
    Table.get? (Table.set t k v) j = if k = j then some v else Table.get? t j := by
  induction t with
  | nil => simp [Table.set, Table.get?]
  | cons e rest ih =>
    obtain ⟨a, w⟩ := e
    simp only [Table.set]
    split
    · simp only [Table.get?]
    · split
      · rename_i h
        subst h
        simp only [Table.get?]
        split <;> rfl
      · rename_i h1 h2
        simp only [Table.get?, ih]
        by_cases ha : a = j
        · simp [ha, show k ≠ j by omega]
        · simp [ha]

@[simp] theorem Table.getD_set {α : Type} (t : Table α) (k j : Nat) (v d : α) :
    Table.getD (Table.set t k v) j d = if k = j then v else Table.getD t j d := by
  simp only [Table.getD, Table.get?_set]
  split <;> rfl

end Sys2Proof

namespace Sys2Proof.Machine

open Sys2Proof

@[simp] theorem State.setBrick_inService (s : State) (b : BrickId) (x : Brick) (c : BrickId) : (s.setBrick b x).inService c = s.inService c := rfl

/-- A brick reads as it was set, and the others as before. -/
theorem State.setBrick_brick (s : State) (b c : BrickId) (x : Brick) : (s.setBrick b x).brick c = if b = c then x else s.brick c := by
  have hb : (s.setBrick b x).blank c = s.blank c := rfl
  unfold State.brick
  rw [hb, State.setBrick, Table.getD_set]
  by_cases h : b = c
  · simp [h]
  · rw [if_neg (fun e => h (BitVec.eq_of_toNat_eq e)), if_neg h]

@[simp] theorem State.setBrick_brick_same (s : State) (b : BrickId) (x : Brick) : (s.setBrick b x).brick b = x := by
  simp [State.setBrick_brick]

theorem State.setBrick_brick_other (s : State) {b c : BrickId} (h : b ≠ c) (x : Brick) : (s.setBrick b x).brick c = s.brick c := by
  simp [State.setBrick_brick, h]

@[simp] theorem State.modBrick_brick_same (s : State) (b : BrickId) (f : Brick → Brick) : (s.modBrick b f).brick b = f (s.brick b) := by
  simp [State.modBrick]

theorem State.modBrick_brick_other (s : State) {b c : BrickId} (h : b ≠ c) (f : Brick → Brick) : (s.modBrick b f).brick c = s.brick c :=
  State.setBrick_brick_other s h _

@[simp] theorem State.modDie_die (s : State) (d e : Nat) (f : Die → Die) : (s.modDie d f).die e = if d = e then f (s.die d) else s.die e := by
  simp [State.die, State.modDie]
@[simp] theorem State.modTenancy_tenancy (s : State) (t u : Nat) (f : Tenancy → Tenancy) :
    (s.modTenancy t f).tenancy u = if t = u then f (s.tenancy t) else s.tenancy u := by
  simp [State.tenancy, State.modTenancy]
@[simp] theorem State.modStack_stack (s : State) (k j : Nat) (f : Stack → Stack) : (s.modStack k f).stack j = if k = j then f (s.stack k) else s.stack j := by
  simp [State.stack, State.modStack]
@[simp] theorem State.modSlot_slot_same (s : State) (r : RegionId) (f : Slot → Slot) : (s.modSlot r f).slot r = f (s.slot r) := by
  simp [State.slot, State.modSlot]
@[simp] theorem State.modFooting_footing (s : State) (e d : Nat) (f : Footing → Footing) :
    (s.modFooting e f).footing d = if e = d then f (s.footing e) else s.footing d := by
  simp [State.footing, State.modFooting]
@[simp] theorem State.modGateway_gateway (s : State) (e d : Nat) (f : Gateway → Gateway) :
    (s.modGateway e f).gateway d = if e = d then f (s.gateway e) else s.gateway d := by
  simp [State.gateway, State.modGateway]

/-! `State.setBrick` changes `bricks` alone. -/

@[simp] theorem State.setBrick_now (s : State) (b : BrickId) (x : Brick) : (s.setBrick b x).now = s.now := rfl
@[simp] theorem State.setBrick_agenda (s : State) (b : BrickId) (x : Brick) : (s.setBrick b x).agenda = s.agenda := rfl
@[simp] theorem State.setBrick_epoch (s : State) (b : BrickId) (x : Brick) : (s.setBrick b x).epoch = s.epoch := rfl
@[simp] theorem State.setBrick_focus (s : State) (b : BrickId) (x : Brick) : (s.setBrick b x).focus = s.focus := rfl
@[simp] theorem State.setBrick_free (s : State) (b : BrickId) (x : Brick) : (s.setBrick b x).free = s.free := rfl
@[simp] theorem State.setBrick_capb (s : State) (b : BrickId) (x : Brick) : (s.setBrick b x).capb = s.capb := rfl
@[simp] theorem State.setBrick_bpm (s : State) (b : BrickId) (x : Brick) : (s.setBrick b x).bpm = s.bpm := rfl
@[simp] theorem State.setBrick_fclk (s : State) (b : BrickId) (x : Brick) : (s.setBrick b x).fclk = s.fclk := rfl
@[simp] theorem State.setBrick_clockAt (s : State) (b : BrickId) (x : Brick) : (s.setBrick b x).clockAt = s.clockAt := rfl
@[simp] theorem State.setBrick_clockTime (s : State) (b : BrickId) (x : Brick) : (s.setBrick b x).clockTime = s.clockTime := rfl
@[simp] theorem State.setBrick_flights (s : State) (b : BrickId) (x : Brick) : (s.setBrick b x).flights = s.flights := rfl
@[simp] theorem State.setBrick_frames (s : State) (b : BrickId) (x : Brick) : (s.setBrick b x).frames = s.frames := rfl
@[simp] theorem State.setBrick_reqs (s : State) (b : BrickId) (x : Brick) : (s.setBrick b x).reqs = s.reqs := rfl
@[simp] theorem State.setBrick_maps (s : State) (b : BrickId) (x : Brick) : (s.setBrick b x).maps = s.maps := rfl
@[simp] theorem State.setBrick_walks (s : State) (b : BrickId) (x : Brick) : (s.setBrick b x).walks = s.walks := rfl
@[simp] theorem State.setBrick_handovers (s : State) (b : BrickId) (x : Brick) : (s.setBrick b x).handovers = s.handovers := rfl
@[simp] theorem State.setBrick_nextId (s : State) (b : BrickId) (x : Brick) : (s.setBrick b x).nextId = s.nextId := rfl
@[simp] theorem State.setBrick_hbm (s : State) (b : BrickId) (x : Brick) : (s.setBrick b x).hbm = s.hbm := rfl
@[simp] theorem State.setBrick_hbmUe (s : State) (b : BrickId) (x : Brick) : (s.setBrick b x).hbmUe = s.hbmUe := rfl
@[simp] theorem State.setBrick_loft (s : State) (b : BrickId) (x : Brick) : (s.setBrick b x).loft = s.loft := rfl
@[simp] theorem State.setBrick_fills (s : State) (b : BrickId) (x : Brick) : (s.setBrick b x).fills = s.fills := rfl
@[simp] theorem State.setBrick_walkCache (s : State) (b : BrickId) (x : Brick) : (s.setBrick b x).walkCache = s.walkCache := rfl
@[simp] theorem State.setBrick_scheds (s : State) (b : BrickId) (x : Brick) : (s.setBrick b x).scheds = s.scheds := rfl
@[simp] theorem State.setBrick_params (s : State) (b : BrickId) (x : Brick) : (s.setBrick b x).params = s.params := rfl
@[simp] theorem State.setBrick_slots (s : State) (b : BrickId) (x : Brick) : (s.setBrick b x).slots = s.slots := rfl
@[simp] theorem State.setBrick_nodes (s : State) (b : BrickId) (x : Brick) : (s.setBrick b x).nodes = s.nodes := rfl
@[simp] theorem State.setBrick_dies (s : State) (b : BrickId) (x : Brick) : (s.setBrick b x).dies = s.dies := rfl
@[simp] theorem State.setBrick_hbmStacks (s : State) (b : BrickId) (x : Brick) : (s.setBrick b x).hbmStacks = s.hbmStacks := rfl
@[simp] theorem State.setBrick_tenancies (s : State) (b : BrickId) (x : Brick) : (s.setBrick b x).tenancies = s.tenancies := rfl
@[simp] theorem State.setBrick_footings (s : State) (b : BrickId) (x : Brick) : (s.setBrick b x).footings = s.footings := rfl
@[simp] theorem State.setBrick_gateways (s : State) (b : BrickId) (x : Brick) : (s.setBrick b x).gateways = s.gateways := rfl
@[simp] theorem State.setBrick_errwin (s : State) (b : BrickId) (x : Brick) : (s.setBrick b x).errwin = s.errwin := rfl
@[simp] theorem State.setBrick_units (s : State) (b : BrickId) (x : Brick) : (s.setBrick b x).units = s.units := rfl
@[simp] theorem State.setBrick_host (s : State) (b : BrickId) (x : Brick) : (s.setBrick b x).host = s.host := rfl
@[simp] theorem State.setBrick_ports (s : State) (b : BrickId) (x : Brick) : (s.setBrick b x).ports = s.ports := rfl
@[simp] theorem State.setBrick_keystone (s : State) (b : BrickId) (x : Brick) : (s.setBrick b x).keystone = s.keystone := rfl

/-! `State.modBrick` changes `bricks` alone. -/

@[simp] theorem State.modBrick_now (s : State) (b : BrickId) (f : Brick → Brick) : (s.modBrick b f).now = s.now := rfl
@[simp] theorem State.modBrick_agenda (s : State) (b : BrickId) (f : Brick → Brick) : (s.modBrick b f).agenda = s.agenda := rfl
@[simp] theorem State.modBrick_epoch (s : State) (b : BrickId) (f : Brick → Brick) : (s.modBrick b f).epoch = s.epoch := rfl
@[simp] theorem State.modBrick_focus (s : State) (b : BrickId) (f : Brick → Brick) : (s.modBrick b f).focus = s.focus := rfl
@[simp] theorem State.modBrick_free (s : State) (b : BrickId) (f : Brick → Brick) : (s.modBrick b f).free = s.free := rfl
@[simp] theorem State.modBrick_capb (s : State) (b : BrickId) (f : Brick → Brick) : (s.modBrick b f).capb = s.capb := rfl
@[simp] theorem State.modBrick_bpm (s : State) (b : BrickId) (f : Brick → Brick) : (s.modBrick b f).bpm = s.bpm := rfl
@[simp] theorem State.modBrick_fclk (s : State) (b : BrickId) (f : Brick → Brick) : (s.modBrick b f).fclk = s.fclk := rfl
@[simp] theorem State.modBrick_clockAt (s : State) (b : BrickId) (f : Brick → Brick) : (s.modBrick b f).clockAt = s.clockAt := rfl
@[simp] theorem State.modBrick_clockTime (s : State) (b : BrickId) (f : Brick → Brick) : (s.modBrick b f).clockTime = s.clockTime := rfl
@[simp] theorem State.modBrick_flights (s : State) (b : BrickId) (f : Brick → Brick) : (s.modBrick b f).flights = s.flights := rfl
@[simp] theorem State.modBrick_frames (s : State) (b : BrickId) (f : Brick → Brick) : (s.modBrick b f).frames = s.frames := rfl
@[simp] theorem State.modBrick_reqs (s : State) (b : BrickId) (f : Brick → Brick) : (s.modBrick b f).reqs = s.reqs := rfl
@[simp] theorem State.modBrick_maps (s : State) (b : BrickId) (f : Brick → Brick) : (s.modBrick b f).maps = s.maps := rfl
@[simp] theorem State.modBrick_walks (s : State) (b : BrickId) (f : Brick → Brick) : (s.modBrick b f).walks = s.walks := rfl
@[simp] theorem State.modBrick_handovers (s : State) (b : BrickId) (f : Brick → Brick) : (s.modBrick b f).handovers = s.handovers := rfl
@[simp] theorem State.modBrick_nextId (s : State) (b : BrickId) (f : Brick → Brick) : (s.modBrick b f).nextId = s.nextId := rfl
@[simp] theorem State.modBrick_hbm (s : State) (b : BrickId) (f : Brick → Brick) : (s.modBrick b f).hbm = s.hbm := rfl
@[simp] theorem State.modBrick_hbmUe (s : State) (b : BrickId) (f : Brick → Brick) : (s.modBrick b f).hbmUe = s.hbmUe := rfl
@[simp] theorem State.modBrick_loft (s : State) (b : BrickId) (f : Brick → Brick) : (s.modBrick b f).loft = s.loft := rfl
@[simp] theorem State.modBrick_fills (s : State) (b : BrickId) (f : Brick → Brick) : (s.modBrick b f).fills = s.fills := rfl
@[simp] theorem State.modBrick_walkCache (s : State) (b : BrickId) (f : Brick → Brick) : (s.modBrick b f).walkCache = s.walkCache := rfl
@[simp] theorem State.modBrick_scheds (s : State) (b : BrickId) (f : Brick → Brick) : (s.modBrick b f).scheds = s.scheds := rfl
@[simp] theorem State.modBrick_params (s : State) (b : BrickId) (f : Brick → Brick) : (s.modBrick b f).params = s.params := rfl
@[simp] theorem State.modBrick_slots (s : State) (b : BrickId) (f : Brick → Brick) : (s.modBrick b f).slots = s.slots := rfl
@[simp] theorem State.modBrick_nodes (s : State) (b : BrickId) (f : Brick → Brick) : (s.modBrick b f).nodes = s.nodes := rfl
@[simp] theorem State.modBrick_dies (s : State) (b : BrickId) (f : Brick → Brick) : (s.modBrick b f).dies = s.dies := rfl
@[simp] theorem State.modBrick_hbmStacks (s : State) (b : BrickId) (f : Brick → Brick) : (s.modBrick b f).hbmStacks = s.hbmStacks := rfl
@[simp] theorem State.modBrick_tenancies (s : State) (b : BrickId) (f : Brick → Brick) : (s.modBrick b f).tenancies = s.tenancies := rfl
@[simp] theorem State.modBrick_footings (s : State) (b : BrickId) (f : Brick → Brick) : (s.modBrick b f).footings = s.footings := rfl
@[simp] theorem State.modBrick_gateways (s : State) (b : BrickId) (f : Brick → Brick) : (s.modBrick b f).gateways = s.gateways := rfl
@[simp] theorem State.modBrick_errwin (s : State) (b : BrickId) (f : Brick → Brick) : (s.modBrick b f).errwin = s.errwin := rfl
@[simp] theorem State.modBrick_units (s : State) (b : BrickId) (f : Brick → Brick) : (s.modBrick b f).units = s.units := rfl
@[simp] theorem State.modBrick_host (s : State) (b : BrickId) (f : Brick → Brick) : (s.modBrick b f).host = s.host := rfl
@[simp] theorem State.modBrick_ports (s : State) (b : BrickId) (f : Brick → Brick) : (s.modBrick b f).ports = s.ports := rfl
@[simp] theorem State.modBrick_keystone (s : State) (b : BrickId) (f : Brick → Brick) : (s.modBrick b f).keystone = s.keystone := rfl

/-! `State.modDie` changes `dies` alone. -/

@[simp] theorem State.modDie_now (s : State) (d : Nat) (f : Die → Die) : (s.modDie d f).now = s.now := rfl
@[simp] theorem State.modDie_agenda (s : State) (d : Nat) (f : Die → Die) : (s.modDie d f).agenda = s.agenda := rfl
@[simp] theorem State.modDie_epoch (s : State) (d : Nat) (f : Die → Die) : (s.modDie d f).epoch = s.epoch := rfl
@[simp] theorem State.modDie_focus (s : State) (d : Nat) (f : Die → Die) : (s.modDie d f).focus = s.focus := rfl
@[simp] theorem State.modDie_free (s : State) (d : Nat) (f : Die → Die) : (s.modDie d f).free = s.free := rfl
@[simp] theorem State.modDie_capb (s : State) (d : Nat) (f : Die → Die) : (s.modDie d f).capb = s.capb := rfl
@[simp] theorem State.modDie_bpm (s : State) (d : Nat) (f : Die → Die) : (s.modDie d f).bpm = s.bpm := rfl
@[simp] theorem State.modDie_fclk (s : State) (d : Nat) (f : Die → Die) : (s.modDie d f).fclk = s.fclk := rfl
@[simp] theorem State.modDie_clockAt (s : State) (d : Nat) (f : Die → Die) : (s.modDie d f).clockAt = s.clockAt := rfl
@[simp] theorem State.modDie_clockTime (s : State) (d : Nat) (f : Die → Die) : (s.modDie d f).clockTime = s.clockTime := rfl
@[simp] theorem State.modDie_bricks (s : State) (d : Nat) (f : Die → Die) : (s.modDie d f).bricks = s.bricks := rfl
@[simp] theorem State.modDie_flights (s : State) (d : Nat) (f : Die → Die) : (s.modDie d f).flights = s.flights := rfl
@[simp] theorem State.modDie_frames (s : State) (d : Nat) (f : Die → Die) : (s.modDie d f).frames = s.frames := rfl
@[simp] theorem State.modDie_reqs (s : State) (d : Nat) (f : Die → Die) : (s.modDie d f).reqs = s.reqs := rfl
@[simp] theorem State.modDie_maps (s : State) (d : Nat) (f : Die → Die) : (s.modDie d f).maps = s.maps := rfl
@[simp] theorem State.modDie_walks (s : State) (d : Nat) (f : Die → Die) : (s.modDie d f).walks = s.walks := rfl
@[simp] theorem State.modDie_handovers (s : State) (d : Nat) (f : Die → Die) : (s.modDie d f).handovers = s.handovers := rfl
@[simp] theorem State.modDie_nextId (s : State) (d : Nat) (f : Die → Die) : (s.modDie d f).nextId = s.nextId := rfl
@[simp] theorem State.modDie_hbm (s : State) (d : Nat) (f : Die → Die) : (s.modDie d f).hbm = s.hbm := rfl
@[simp] theorem State.modDie_hbmUe (s : State) (d : Nat) (f : Die → Die) : (s.modDie d f).hbmUe = s.hbmUe := rfl
@[simp] theorem State.modDie_loft (s : State) (d : Nat) (f : Die → Die) : (s.modDie d f).loft = s.loft := rfl
@[simp] theorem State.modDie_fills (s : State) (d : Nat) (f : Die → Die) : (s.modDie d f).fills = s.fills := rfl
@[simp] theorem State.modDie_walkCache (s : State) (d : Nat) (f : Die → Die) : (s.modDie d f).walkCache = s.walkCache := rfl
@[simp] theorem State.modDie_scheds (s : State) (d : Nat) (f : Die → Die) : (s.modDie d f).scheds = s.scheds := rfl
@[simp] theorem State.modDie_params (s : State) (d : Nat) (f : Die → Die) : (s.modDie d f).params = s.params := rfl
@[simp] theorem State.modDie_slots (s : State) (d : Nat) (f : Die → Die) : (s.modDie d f).slots = s.slots := rfl
@[simp] theorem State.modDie_nodes (s : State) (d : Nat) (f : Die → Die) : (s.modDie d f).nodes = s.nodes := rfl
@[simp] theorem State.modDie_hbmStacks (s : State) (d : Nat) (f : Die → Die) : (s.modDie d f).hbmStacks = s.hbmStacks := rfl
@[simp] theorem State.modDie_tenancies (s : State) (d : Nat) (f : Die → Die) : (s.modDie d f).tenancies = s.tenancies := rfl
@[simp] theorem State.modDie_footings (s : State) (d : Nat) (f : Die → Die) : (s.modDie d f).footings = s.footings := rfl
@[simp] theorem State.modDie_gateways (s : State) (d : Nat) (f : Die → Die) : (s.modDie d f).gateways = s.gateways := rfl
@[simp] theorem State.modDie_errwin (s : State) (d : Nat) (f : Die → Die) : (s.modDie d f).errwin = s.errwin := rfl
@[simp] theorem State.modDie_units (s : State) (d : Nat) (f : Die → Die) : (s.modDie d f).units = s.units := rfl
@[simp] theorem State.modDie_host (s : State) (d : Nat) (f : Die → Die) : (s.modDie d f).host = s.host := rfl
@[simp] theorem State.modDie_ports (s : State) (d : Nat) (f : Die → Die) : (s.modDie d f).ports = s.ports := rfl
@[simp] theorem State.modDie_keystone (s : State) (d : Nat) (f : Die → Die) : (s.modDie d f).keystone = s.keystone := rfl

/-! `State.modTenancy` changes `tenancies` alone. -/

@[simp] theorem State.modTenancy_now (s : State) (t : Nat) (f : Tenancy → Tenancy) : (s.modTenancy t f).now = s.now := rfl
@[simp] theorem State.modTenancy_agenda (s : State) (t : Nat) (f : Tenancy → Tenancy) : (s.modTenancy t f).agenda = s.agenda := rfl
@[simp] theorem State.modTenancy_epoch (s : State) (t : Nat) (f : Tenancy → Tenancy) : (s.modTenancy t f).epoch = s.epoch := rfl
@[simp] theorem State.modTenancy_focus (s : State) (t : Nat) (f : Tenancy → Tenancy) : (s.modTenancy t f).focus = s.focus := rfl
@[simp] theorem State.modTenancy_free (s : State) (t : Nat) (f : Tenancy → Tenancy) : (s.modTenancy t f).free = s.free := rfl
@[simp] theorem State.modTenancy_capb (s : State) (t : Nat) (f : Tenancy → Tenancy) : (s.modTenancy t f).capb = s.capb := rfl
@[simp] theorem State.modTenancy_bpm (s : State) (t : Nat) (f : Tenancy → Tenancy) : (s.modTenancy t f).bpm = s.bpm := rfl
@[simp] theorem State.modTenancy_fclk (s : State) (t : Nat) (f : Tenancy → Tenancy) : (s.modTenancy t f).fclk = s.fclk := rfl
@[simp] theorem State.modTenancy_clockAt (s : State) (t : Nat) (f : Tenancy → Tenancy) : (s.modTenancy t f).clockAt = s.clockAt := rfl
@[simp] theorem State.modTenancy_clockTime (s : State) (t : Nat) (f : Tenancy → Tenancy) : (s.modTenancy t f).clockTime = s.clockTime := rfl
@[simp] theorem State.modTenancy_bricks (s : State) (t : Nat) (f : Tenancy → Tenancy) : (s.modTenancy t f).bricks = s.bricks := rfl
@[simp] theorem State.modTenancy_flights (s : State) (t : Nat) (f : Tenancy → Tenancy) : (s.modTenancy t f).flights = s.flights := rfl
@[simp] theorem State.modTenancy_frames (s : State) (t : Nat) (f : Tenancy → Tenancy) : (s.modTenancy t f).frames = s.frames := rfl
@[simp] theorem State.modTenancy_reqs (s : State) (t : Nat) (f : Tenancy → Tenancy) : (s.modTenancy t f).reqs = s.reqs := rfl
@[simp] theorem State.modTenancy_maps (s : State) (t : Nat) (f : Tenancy → Tenancy) : (s.modTenancy t f).maps = s.maps := rfl
@[simp] theorem State.modTenancy_walks (s : State) (t : Nat) (f : Tenancy → Tenancy) : (s.modTenancy t f).walks = s.walks := rfl
@[simp] theorem State.modTenancy_handovers (s : State) (t : Nat) (f : Tenancy → Tenancy) : (s.modTenancy t f).handovers = s.handovers := rfl
@[simp] theorem State.modTenancy_nextId (s : State) (t : Nat) (f : Tenancy → Tenancy) : (s.modTenancy t f).nextId = s.nextId := rfl
@[simp] theorem State.modTenancy_hbm (s : State) (t : Nat) (f : Tenancy → Tenancy) : (s.modTenancy t f).hbm = s.hbm := rfl
@[simp] theorem State.modTenancy_hbmUe (s : State) (t : Nat) (f : Tenancy → Tenancy) : (s.modTenancy t f).hbmUe = s.hbmUe := rfl
@[simp] theorem State.modTenancy_loft (s : State) (t : Nat) (f : Tenancy → Tenancy) : (s.modTenancy t f).loft = s.loft := rfl
@[simp] theorem State.modTenancy_fills (s : State) (t : Nat) (f : Tenancy → Tenancy) : (s.modTenancy t f).fills = s.fills := rfl
@[simp] theorem State.modTenancy_walkCache (s : State) (t : Nat) (f : Tenancy → Tenancy) : (s.modTenancy t f).walkCache = s.walkCache := rfl
@[simp] theorem State.modTenancy_scheds (s : State) (t : Nat) (f : Tenancy → Tenancy) : (s.modTenancy t f).scheds = s.scheds := rfl
@[simp] theorem State.modTenancy_params (s : State) (t : Nat) (f : Tenancy → Tenancy) : (s.modTenancy t f).params = s.params := rfl
@[simp] theorem State.modTenancy_slots (s : State) (t : Nat) (f : Tenancy → Tenancy) : (s.modTenancy t f).slots = s.slots := rfl
@[simp] theorem State.modTenancy_nodes (s : State) (t : Nat) (f : Tenancy → Tenancy) : (s.modTenancy t f).nodes = s.nodes := rfl
@[simp] theorem State.modTenancy_dies (s : State) (t : Nat) (f : Tenancy → Tenancy) : (s.modTenancy t f).dies = s.dies := rfl
@[simp] theorem State.modTenancy_hbmStacks (s : State) (t : Nat) (f : Tenancy → Tenancy) : (s.modTenancy t f).hbmStacks = s.hbmStacks := rfl
@[simp] theorem State.modTenancy_footings (s : State) (t : Nat) (f : Tenancy → Tenancy) : (s.modTenancy t f).footings = s.footings := rfl
@[simp] theorem State.modTenancy_gateways (s : State) (t : Nat) (f : Tenancy → Tenancy) : (s.modTenancy t f).gateways = s.gateways := rfl
@[simp] theorem State.modTenancy_errwin (s : State) (t : Nat) (f : Tenancy → Tenancy) : (s.modTenancy t f).errwin = s.errwin := rfl
@[simp] theorem State.modTenancy_units (s : State) (t : Nat) (f : Tenancy → Tenancy) : (s.modTenancy t f).units = s.units := rfl
@[simp] theorem State.modTenancy_host (s : State) (t : Nat) (f : Tenancy → Tenancy) : (s.modTenancy t f).host = s.host := rfl
@[simp] theorem State.modTenancy_ports (s : State) (t : Nat) (f : Tenancy → Tenancy) : (s.modTenancy t f).ports = s.ports := rfl
@[simp] theorem State.modTenancy_keystone (s : State) (t : Nat) (f : Tenancy → Tenancy) : (s.modTenancy t f).keystone = s.keystone := rfl

/-! `State.modStack` changes `hbmStacks` alone. -/

@[simp] theorem State.modStack_now (s : State) (k : Nat) (f : Stack → Stack) : (s.modStack k f).now = s.now := rfl
@[simp] theorem State.modStack_agenda (s : State) (k : Nat) (f : Stack → Stack) : (s.modStack k f).agenda = s.agenda := rfl
@[simp] theorem State.modStack_epoch (s : State) (k : Nat) (f : Stack → Stack) : (s.modStack k f).epoch = s.epoch := rfl
@[simp] theorem State.modStack_focus (s : State) (k : Nat) (f : Stack → Stack) : (s.modStack k f).focus = s.focus := rfl
@[simp] theorem State.modStack_free (s : State) (k : Nat) (f : Stack → Stack) : (s.modStack k f).free = s.free := rfl
@[simp] theorem State.modStack_capb (s : State) (k : Nat) (f : Stack → Stack) : (s.modStack k f).capb = s.capb := rfl
@[simp] theorem State.modStack_bpm (s : State) (k : Nat) (f : Stack → Stack) : (s.modStack k f).bpm = s.bpm := rfl
@[simp] theorem State.modStack_fclk (s : State) (k : Nat) (f : Stack → Stack) : (s.modStack k f).fclk = s.fclk := rfl
@[simp] theorem State.modStack_clockAt (s : State) (k : Nat) (f : Stack → Stack) : (s.modStack k f).clockAt = s.clockAt := rfl
@[simp] theorem State.modStack_clockTime (s : State) (k : Nat) (f : Stack → Stack) : (s.modStack k f).clockTime = s.clockTime := rfl
@[simp] theorem State.modStack_bricks (s : State) (k : Nat) (f : Stack → Stack) : (s.modStack k f).bricks = s.bricks := rfl
@[simp] theorem State.modStack_flights (s : State) (k : Nat) (f : Stack → Stack) : (s.modStack k f).flights = s.flights := rfl
@[simp] theorem State.modStack_frames (s : State) (k : Nat) (f : Stack → Stack) : (s.modStack k f).frames = s.frames := rfl
@[simp] theorem State.modStack_reqs (s : State) (k : Nat) (f : Stack → Stack) : (s.modStack k f).reqs = s.reqs := rfl
@[simp] theorem State.modStack_maps (s : State) (k : Nat) (f : Stack → Stack) : (s.modStack k f).maps = s.maps := rfl
@[simp] theorem State.modStack_walks (s : State) (k : Nat) (f : Stack → Stack) : (s.modStack k f).walks = s.walks := rfl
@[simp] theorem State.modStack_handovers (s : State) (k : Nat) (f : Stack → Stack) : (s.modStack k f).handovers = s.handovers := rfl
@[simp] theorem State.modStack_nextId (s : State) (k : Nat) (f : Stack → Stack) : (s.modStack k f).nextId = s.nextId := rfl
@[simp] theorem State.modStack_hbm (s : State) (k : Nat) (f : Stack → Stack) : (s.modStack k f).hbm = s.hbm := rfl
@[simp] theorem State.modStack_hbmUe (s : State) (k : Nat) (f : Stack → Stack) : (s.modStack k f).hbmUe = s.hbmUe := rfl
@[simp] theorem State.modStack_loft (s : State) (k : Nat) (f : Stack → Stack) : (s.modStack k f).loft = s.loft := rfl
@[simp] theorem State.modStack_fills (s : State) (k : Nat) (f : Stack → Stack) : (s.modStack k f).fills = s.fills := rfl
@[simp] theorem State.modStack_walkCache (s : State) (k : Nat) (f : Stack → Stack) : (s.modStack k f).walkCache = s.walkCache := rfl
@[simp] theorem State.modStack_scheds (s : State) (k : Nat) (f : Stack → Stack) : (s.modStack k f).scheds = s.scheds := rfl
@[simp] theorem State.modStack_params (s : State) (k : Nat) (f : Stack → Stack) : (s.modStack k f).params = s.params := rfl
@[simp] theorem State.modStack_slots (s : State) (k : Nat) (f : Stack → Stack) : (s.modStack k f).slots = s.slots := rfl
@[simp] theorem State.modStack_nodes (s : State) (k : Nat) (f : Stack → Stack) : (s.modStack k f).nodes = s.nodes := rfl
@[simp] theorem State.modStack_dies (s : State) (k : Nat) (f : Stack → Stack) : (s.modStack k f).dies = s.dies := rfl
@[simp] theorem State.modStack_tenancies (s : State) (k : Nat) (f : Stack → Stack) : (s.modStack k f).tenancies = s.tenancies := rfl
@[simp] theorem State.modStack_footings (s : State) (k : Nat) (f : Stack → Stack) : (s.modStack k f).footings = s.footings := rfl
@[simp] theorem State.modStack_gateways (s : State) (k : Nat) (f : Stack → Stack) : (s.modStack k f).gateways = s.gateways := rfl
@[simp] theorem State.modStack_errwin (s : State) (k : Nat) (f : Stack → Stack) : (s.modStack k f).errwin = s.errwin := rfl
@[simp] theorem State.modStack_units (s : State) (k : Nat) (f : Stack → Stack) : (s.modStack k f).units = s.units := rfl
@[simp] theorem State.modStack_host (s : State) (k : Nat) (f : Stack → Stack) : (s.modStack k f).host = s.host := rfl
@[simp] theorem State.modStack_ports (s : State) (k : Nat) (f : Stack → Stack) : (s.modStack k f).ports = s.ports := rfl
@[simp] theorem State.modStack_keystone (s : State) (k : Nat) (f : Stack → Stack) : (s.modStack k f).keystone = s.keystone := rfl

/-! `State.modSlot` changes `slots` alone. -/

@[simp] theorem State.modSlot_now (s : State) (r : RegionId) (f : Slot → Slot) : (s.modSlot r f).now = s.now := rfl
@[simp] theorem State.modSlot_agenda (s : State) (r : RegionId) (f : Slot → Slot) : (s.modSlot r f).agenda = s.agenda := rfl
@[simp] theorem State.modSlot_epoch (s : State) (r : RegionId) (f : Slot → Slot) : (s.modSlot r f).epoch = s.epoch := rfl
@[simp] theorem State.modSlot_focus (s : State) (r : RegionId) (f : Slot → Slot) : (s.modSlot r f).focus = s.focus := rfl
@[simp] theorem State.modSlot_free (s : State) (r : RegionId) (f : Slot → Slot) : (s.modSlot r f).free = s.free := rfl
@[simp] theorem State.modSlot_capb (s : State) (r : RegionId) (f : Slot → Slot) : (s.modSlot r f).capb = s.capb := rfl
@[simp] theorem State.modSlot_bpm (s : State) (r : RegionId) (f : Slot → Slot) : (s.modSlot r f).bpm = s.bpm := rfl
@[simp] theorem State.modSlot_fclk (s : State) (r : RegionId) (f : Slot → Slot) : (s.modSlot r f).fclk = s.fclk := rfl
@[simp] theorem State.modSlot_clockAt (s : State) (r : RegionId) (f : Slot → Slot) : (s.modSlot r f).clockAt = s.clockAt := rfl
@[simp] theorem State.modSlot_clockTime (s : State) (r : RegionId) (f : Slot → Slot) : (s.modSlot r f).clockTime = s.clockTime := rfl
@[simp] theorem State.modSlot_bricks (s : State) (r : RegionId) (f : Slot → Slot) : (s.modSlot r f).bricks = s.bricks := rfl
@[simp] theorem State.modSlot_flights (s : State) (r : RegionId) (f : Slot → Slot) : (s.modSlot r f).flights = s.flights := rfl
@[simp] theorem State.modSlot_frames (s : State) (r : RegionId) (f : Slot → Slot) : (s.modSlot r f).frames = s.frames := rfl
@[simp] theorem State.modSlot_reqs (s : State) (r : RegionId) (f : Slot → Slot) : (s.modSlot r f).reqs = s.reqs := rfl
@[simp] theorem State.modSlot_maps (s : State) (r : RegionId) (f : Slot → Slot) : (s.modSlot r f).maps = s.maps := rfl
@[simp] theorem State.modSlot_walks (s : State) (r : RegionId) (f : Slot → Slot) : (s.modSlot r f).walks = s.walks := rfl
@[simp] theorem State.modSlot_handovers (s : State) (r : RegionId) (f : Slot → Slot) : (s.modSlot r f).handovers = s.handovers := rfl
@[simp] theorem State.modSlot_nextId (s : State) (r : RegionId) (f : Slot → Slot) : (s.modSlot r f).nextId = s.nextId := rfl
@[simp] theorem State.modSlot_hbm (s : State) (r : RegionId) (f : Slot → Slot) : (s.modSlot r f).hbm = s.hbm := rfl
@[simp] theorem State.modSlot_hbmUe (s : State) (r : RegionId) (f : Slot → Slot) : (s.modSlot r f).hbmUe = s.hbmUe := rfl
@[simp] theorem State.modSlot_loft (s : State) (r : RegionId) (f : Slot → Slot) : (s.modSlot r f).loft = s.loft := rfl
@[simp] theorem State.modSlot_fills (s : State) (r : RegionId) (f : Slot → Slot) : (s.modSlot r f).fills = s.fills := rfl
@[simp] theorem State.modSlot_walkCache (s : State) (r : RegionId) (f : Slot → Slot) : (s.modSlot r f).walkCache = s.walkCache := rfl
@[simp] theorem State.modSlot_scheds (s : State) (r : RegionId) (f : Slot → Slot) : (s.modSlot r f).scheds = s.scheds := rfl
@[simp] theorem State.modSlot_params (s : State) (r : RegionId) (f : Slot → Slot) : (s.modSlot r f).params = s.params := rfl
@[simp] theorem State.modSlot_nodes (s : State) (r : RegionId) (f : Slot → Slot) : (s.modSlot r f).nodes = s.nodes := rfl
@[simp] theorem State.modSlot_dies (s : State) (r : RegionId) (f : Slot → Slot) : (s.modSlot r f).dies = s.dies := rfl
@[simp] theorem State.modSlot_hbmStacks (s : State) (r : RegionId) (f : Slot → Slot) : (s.modSlot r f).hbmStacks = s.hbmStacks := rfl
@[simp] theorem State.modSlot_tenancies (s : State) (r : RegionId) (f : Slot → Slot) : (s.modSlot r f).tenancies = s.tenancies := rfl
@[simp] theorem State.modSlot_footings (s : State) (r : RegionId) (f : Slot → Slot) : (s.modSlot r f).footings = s.footings := rfl
@[simp] theorem State.modSlot_gateways (s : State) (r : RegionId) (f : Slot → Slot) : (s.modSlot r f).gateways = s.gateways := rfl
@[simp] theorem State.modSlot_errwin (s : State) (r : RegionId) (f : Slot → Slot) : (s.modSlot r f).errwin = s.errwin := rfl
@[simp] theorem State.modSlot_units (s : State) (r : RegionId) (f : Slot → Slot) : (s.modSlot r f).units = s.units := rfl
@[simp] theorem State.modSlot_host (s : State) (r : RegionId) (f : Slot → Slot) : (s.modSlot r f).host = s.host := rfl
@[simp] theorem State.modSlot_ports (s : State) (r : RegionId) (f : Slot → Slot) : (s.modSlot r f).ports = s.ports := rfl
@[simp] theorem State.modSlot_keystone (s : State) (r : RegionId) (f : Slot → Slot) : (s.modSlot r f).keystone = s.keystone := rfl

/-! `State.modSched` changes `scheds` alone. -/

@[simp] theorem State.modSched_now (s : State) (d c : Nat) (f : Sched → Sched) : (s.modSched d c f).now = s.now := rfl
@[simp] theorem State.modSched_agenda (s : State) (d c : Nat) (f : Sched → Sched) : (s.modSched d c f).agenda = s.agenda := rfl
@[simp] theorem State.modSched_epoch (s : State) (d c : Nat) (f : Sched → Sched) : (s.modSched d c f).epoch = s.epoch := rfl
@[simp] theorem State.modSched_focus (s : State) (d c : Nat) (f : Sched → Sched) : (s.modSched d c f).focus = s.focus := rfl
@[simp] theorem State.modSched_free (s : State) (d c : Nat) (f : Sched → Sched) : (s.modSched d c f).free = s.free := rfl
@[simp] theorem State.modSched_capb (s : State) (d c : Nat) (f : Sched → Sched) : (s.modSched d c f).capb = s.capb := rfl
@[simp] theorem State.modSched_bpm (s : State) (d c : Nat) (f : Sched → Sched) : (s.modSched d c f).bpm = s.bpm := rfl
@[simp] theorem State.modSched_fclk (s : State) (d c : Nat) (f : Sched → Sched) : (s.modSched d c f).fclk = s.fclk := rfl
@[simp] theorem State.modSched_clockAt (s : State) (d c : Nat) (f : Sched → Sched) : (s.modSched d c f).clockAt = s.clockAt := rfl
@[simp] theorem State.modSched_clockTime (s : State) (d c : Nat) (f : Sched → Sched) : (s.modSched d c f).clockTime = s.clockTime := rfl
@[simp] theorem State.modSched_bricks (s : State) (d c : Nat) (f : Sched → Sched) : (s.modSched d c f).bricks = s.bricks := rfl
@[simp] theorem State.modSched_flights (s : State) (d c : Nat) (f : Sched → Sched) : (s.modSched d c f).flights = s.flights := rfl
@[simp] theorem State.modSched_frames (s : State) (d c : Nat) (f : Sched → Sched) : (s.modSched d c f).frames = s.frames := rfl
@[simp] theorem State.modSched_reqs (s : State) (d c : Nat) (f : Sched → Sched) : (s.modSched d c f).reqs = s.reqs := rfl
@[simp] theorem State.modSched_maps (s : State) (d c : Nat) (f : Sched → Sched) : (s.modSched d c f).maps = s.maps := rfl
@[simp] theorem State.modSched_walks (s : State) (d c : Nat) (f : Sched → Sched) : (s.modSched d c f).walks = s.walks := rfl
@[simp] theorem State.modSched_handovers (s : State) (d c : Nat) (f : Sched → Sched) : (s.modSched d c f).handovers = s.handovers := rfl
@[simp] theorem State.modSched_nextId (s : State) (d c : Nat) (f : Sched → Sched) : (s.modSched d c f).nextId = s.nextId := rfl
@[simp] theorem State.modSched_hbm (s : State) (d c : Nat) (f : Sched → Sched) : (s.modSched d c f).hbm = s.hbm := rfl
@[simp] theorem State.modSched_hbmUe (s : State) (d c : Nat) (f : Sched → Sched) : (s.modSched d c f).hbmUe = s.hbmUe := rfl
@[simp] theorem State.modSched_loft (s : State) (d c : Nat) (f : Sched → Sched) : (s.modSched d c f).loft = s.loft := rfl
@[simp] theorem State.modSched_fills (s : State) (d c : Nat) (f : Sched → Sched) : (s.modSched d c f).fills = s.fills := rfl
@[simp] theorem State.modSched_walkCache (s : State) (d c : Nat) (f : Sched → Sched) : (s.modSched d c f).walkCache = s.walkCache := rfl
@[simp] theorem State.modSched_params (s : State) (d c : Nat) (f : Sched → Sched) : (s.modSched d c f).params = s.params := rfl
@[simp] theorem State.modSched_slots (s : State) (d c : Nat) (f : Sched → Sched) : (s.modSched d c f).slots = s.slots := rfl
@[simp] theorem State.modSched_nodes (s : State) (d c : Nat) (f : Sched → Sched) : (s.modSched d c f).nodes = s.nodes := rfl
@[simp] theorem State.modSched_dies (s : State) (d c : Nat) (f : Sched → Sched) : (s.modSched d c f).dies = s.dies := rfl
@[simp] theorem State.modSched_hbmStacks (s : State) (d c : Nat) (f : Sched → Sched) : (s.modSched d c f).hbmStacks = s.hbmStacks := rfl
@[simp] theorem State.modSched_tenancies (s : State) (d c : Nat) (f : Sched → Sched) : (s.modSched d c f).tenancies = s.tenancies := rfl
@[simp] theorem State.modSched_footings (s : State) (d c : Nat) (f : Sched → Sched) : (s.modSched d c f).footings = s.footings := rfl
@[simp] theorem State.modSched_gateways (s : State) (d c : Nat) (f : Sched → Sched) : (s.modSched d c f).gateways = s.gateways := rfl
@[simp] theorem State.modSched_errwin (s : State) (d c : Nat) (f : Sched → Sched) : (s.modSched d c f).errwin = s.errwin := rfl
@[simp] theorem State.modSched_units (s : State) (d c : Nat) (f : Sched → Sched) : (s.modSched d c f).units = s.units := rfl
@[simp] theorem State.modSched_host (s : State) (d c : Nat) (f : Sched → Sched) : (s.modSched d c f).host = s.host := rfl
@[simp] theorem State.modSched_ports (s : State) (d c : Nat) (f : Sched → Sched) : (s.modSched d c f).ports = s.ports := rfl
@[simp] theorem State.modSched_keystone (s : State) (d c : Nat) (f : Sched → Sched) : (s.modSched d c f).keystone = s.keystone := rfl

/-! `State.modGateway` changes `gateways` alone. -/

@[simp] theorem State.modGateway_now (s : State) (d : Nat) (f : Gateway → Gateway) : (s.modGateway d f).now = s.now := rfl
@[simp] theorem State.modGateway_agenda (s : State) (d : Nat) (f : Gateway → Gateway) : (s.modGateway d f).agenda = s.agenda := rfl
@[simp] theorem State.modGateway_epoch (s : State) (d : Nat) (f : Gateway → Gateway) : (s.modGateway d f).epoch = s.epoch := rfl
@[simp] theorem State.modGateway_focus (s : State) (d : Nat) (f : Gateway → Gateway) : (s.modGateway d f).focus = s.focus := rfl
@[simp] theorem State.modGateway_free (s : State) (d : Nat) (f : Gateway → Gateway) : (s.modGateway d f).free = s.free := rfl
@[simp] theorem State.modGateway_capb (s : State) (d : Nat) (f : Gateway → Gateway) : (s.modGateway d f).capb = s.capb := rfl
@[simp] theorem State.modGateway_bpm (s : State) (d : Nat) (f : Gateway → Gateway) : (s.modGateway d f).bpm = s.bpm := rfl
@[simp] theorem State.modGateway_fclk (s : State) (d : Nat) (f : Gateway → Gateway) : (s.modGateway d f).fclk = s.fclk := rfl
@[simp] theorem State.modGateway_clockAt (s : State) (d : Nat) (f : Gateway → Gateway) : (s.modGateway d f).clockAt = s.clockAt := rfl
@[simp] theorem State.modGateway_clockTime (s : State) (d : Nat) (f : Gateway → Gateway) : (s.modGateway d f).clockTime = s.clockTime := rfl
@[simp] theorem State.modGateway_bricks (s : State) (d : Nat) (f : Gateway → Gateway) : (s.modGateway d f).bricks = s.bricks := rfl
@[simp] theorem State.modGateway_flights (s : State) (d : Nat) (f : Gateway → Gateway) : (s.modGateway d f).flights = s.flights := rfl
@[simp] theorem State.modGateway_frames (s : State) (d : Nat) (f : Gateway → Gateway) : (s.modGateway d f).frames = s.frames := rfl
@[simp] theorem State.modGateway_reqs (s : State) (d : Nat) (f : Gateway → Gateway) : (s.modGateway d f).reqs = s.reqs := rfl
@[simp] theorem State.modGateway_maps (s : State) (d : Nat) (f : Gateway → Gateway) : (s.modGateway d f).maps = s.maps := rfl
@[simp] theorem State.modGateway_walks (s : State) (d : Nat) (f : Gateway → Gateway) : (s.modGateway d f).walks = s.walks := rfl
@[simp] theorem State.modGateway_handovers (s : State) (d : Nat) (f : Gateway → Gateway) : (s.modGateway d f).handovers = s.handovers := rfl
@[simp] theorem State.modGateway_nextId (s : State) (d : Nat) (f : Gateway → Gateway) : (s.modGateway d f).nextId = s.nextId := rfl
@[simp] theorem State.modGateway_hbm (s : State) (d : Nat) (f : Gateway → Gateway) : (s.modGateway d f).hbm = s.hbm := rfl
@[simp] theorem State.modGateway_hbmUe (s : State) (d : Nat) (f : Gateway → Gateway) : (s.modGateway d f).hbmUe = s.hbmUe := rfl
@[simp] theorem State.modGateway_loft (s : State) (d : Nat) (f : Gateway → Gateway) : (s.modGateway d f).loft = s.loft := rfl
@[simp] theorem State.modGateway_fills (s : State) (d : Nat) (f : Gateway → Gateway) : (s.modGateway d f).fills = s.fills := rfl
@[simp] theorem State.modGateway_walkCache (s : State) (d : Nat) (f : Gateway → Gateway) : (s.modGateway d f).walkCache = s.walkCache := rfl
@[simp] theorem State.modGateway_scheds (s : State) (d : Nat) (f : Gateway → Gateway) : (s.modGateway d f).scheds = s.scheds := rfl
@[simp] theorem State.modGateway_params (s : State) (d : Nat) (f : Gateway → Gateway) : (s.modGateway d f).params = s.params := rfl
@[simp] theorem State.modGateway_slots (s : State) (d : Nat) (f : Gateway → Gateway) : (s.modGateway d f).slots = s.slots := rfl
@[simp] theorem State.modGateway_nodes (s : State) (d : Nat) (f : Gateway → Gateway) : (s.modGateway d f).nodes = s.nodes := rfl
@[simp] theorem State.modGateway_dies (s : State) (d : Nat) (f : Gateway → Gateway) : (s.modGateway d f).dies = s.dies := rfl
@[simp] theorem State.modGateway_hbmStacks (s : State) (d : Nat) (f : Gateway → Gateway) : (s.modGateway d f).hbmStacks = s.hbmStacks := rfl
@[simp] theorem State.modGateway_tenancies (s : State) (d : Nat) (f : Gateway → Gateway) : (s.modGateway d f).tenancies = s.tenancies := rfl
@[simp] theorem State.modGateway_footings (s : State) (d : Nat) (f : Gateway → Gateway) : (s.modGateway d f).footings = s.footings := rfl
@[simp] theorem State.modGateway_errwin (s : State) (d : Nat) (f : Gateway → Gateway) : (s.modGateway d f).errwin = s.errwin := rfl
@[simp] theorem State.modGateway_units (s : State) (d : Nat) (f : Gateway → Gateway) : (s.modGateway d f).units = s.units := rfl
@[simp] theorem State.modGateway_host (s : State) (d : Nat) (f : Gateway → Gateway) : (s.modGateway d f).host = s.host := rfl
@[simp] theorem State.modGateway_ports (s : State) (d : Nat) (f : Gateway → Gateway) : (s.modGateway d f).ports = s.ports := rfl
@[simp] theorem State.modGateway_keystone (s : State) (d : Nat) (f : Gateway → Gateway) : (s.modGateway d f).keystone = s.keystone := rfl

/-! `State.modFooting` changes `footings` alone. -/

@[simp] theorem State.modFooting_now (s : State) (e : Nat) (f : Footing → Footing) : (s.modFooting e f).now = s.now := rfl
@[simp] theorem State.modFooting_agenda (s : State) (e : Nat) (f : Footing → Footing) : (s.modFooting e f).agenda = s.agenda := rfl
@[simp] theorem State.modFooting_epoch (s : State) (e : Nat) (f : Footing → Footing) : (s.modFooting e f).epoch = s.epoch := rfl
@[simp] theorem State.modFooting_focus (s : State) (e : Nat) (f : Footing → Footing) : (s.modFooting e f).focus = s.focus := rfl
@[simp] theorem State.modFooting_free (s : State) (e : Nat) (f : Footing → Footing) : (s.modFooting e f).free = s.free := rfl
@[simp] theorem State.modFooting_capb (s : State) (e : Nat) (f : Footing → Footing) : (s.modFooting e f).capb = s.capb := rfl
@[simp] theorem State.modFooting_bpm (s : State) (e : Nat) (f : Footing → Footing) : (s.modFooting e f).bpm = s.bpm := rfl
@[simp] theorem State.modFooting_fclk (s : State) (e : Nat) (f : Footing → Footing) : (s.modFooting e f).fclk = s.fclk := rfl
@[simp] theorem State.modFooting_clockAt (s : State) (e : Nat) (f : Footing → Footing) : (s.modFooting e f).clockAt = s.clockAt := rfl
@[simp] theorem State.modFooting_clockTime (s : State) (e : Nat) (f : Footing → Footing) : (s.modFooting e f).clockTime = s.clockTime := rfl
@[simp] theorem State.modFooting_bricks (s : State) (e : Nat) (f : Footing → Footing) : (s.modFooting e f).bricks = s.bricks := rfl
@[simp] theorem State.modFooting_flights (s : State) (e : Nat) (f : Footing → Footing) : (s.modFooting e f).flights = s.flights := rfl
@[simp] theorem State.modFooting_frames (s : State) (e : Nat) (f : Footing → Footing) : (s.modFooting e f).frames = s.frames := rfl
@[simp] theorem State.modFooting_reqs (s : State) (e : Nat) (f : Footing → Footing) : (s.modFooting e f).reqs = s.reqs := rfl
@[simp] theorem State.modFooting_maps (s : State) (e : Nat) (f : Footing → Footing) : (s.modFooting e f).maps = s.maps := rfl
@[simp] theorem State.modFooting_walks (s : State) (e : Nat) (f : Footing → Footing) : (s.modFooting e f).walks = s.walks := rfl
@[simp] theorem State.modFooting_handovers (s : State) (e : Nat) (f : Footing → Footing) : (s.modFooting e f).handovers = s.handovers := rfl
@[simp] theorem State.modFooting_nextId (s : State) (e : Nat) (f : Footing → Footing) : (s.modFooting e f).nextId = s.nextId := rfl
@[simp] theorem State.modFooting_hbm (s : State) (e : Nat) (f : Footing → Footing) : (s.modFooting e f).hbm = s.hbm := rfl
@[simp] theorem State.modFooting_hbmUe (s : State) (e : Nat) (f : Footing → Footing) : (s.modFooting e f).hbmUe = s.hbmUe := rfl
@[simp] theorem State.modFooting_loft (s : State) (e : Nat) (f : Footing → Footing) : (s.modFooting e f).loft = s.loft := rfl
@[simp] theorem State.modFooting_fills (s : State) (e : Nat) (f : Footing → Footing) : (s.modFooting e f).fills = s.fills := rfl
@[simp] theorem State.modFooting_walkCache (s : State) (e : Nat) (f : Footing → Footing) : (s.modFooting e f).walkCache = s.walkCache := rfl
@[simp] theorem State.modFooting_scheds (s : State) (e : Nat) (f : Footing → Footing) : (s.modFooting e f).scheds = s.scheds := rfl
@[simp] theorem State.modFooting_params (s : State) (e : Nat) (f : Footing → Footing) : (s.modFooting e f).params = s.params := rfl
@[simp] theorem State.modFooting_slots (s : State) (e : Nat) (f : Footing → Footing) : (s.modFooting e f).slots = s.slots := rfl
@[simp] theorem State.modFooting_nodes (s : State) (e : Nat) (f : Footing → Footing) : (s.modFooting e f).nodes = s.nodes := rfl
@[simp] theorem State.modFooting_dies (s : State) (e : Nat) (f : Footing → Footing) : (s.modFooting e f).dies = s.dies := rfl
@[simp] theorem State.modFooting_hbmStacks (s : State) (e : Nat) (f : Footing → Footing) : (s.modFooting e f).hbmStacks = s.hbmStacks := rfl
@[simp] theorem State.modFooting_tenancies (s : State) (e : Nat) (f : Footing → Footing) : (s.modFooting e f).tenancies = s.tenancies := rfl
@[simp] theorem State.modFooting_gateways (s : State) (e : Nat) (f : Footing → Footing) : (s.modFooting e f).gateways = s.gateways := rfl
@[simp] theorem State.modFooting_errwin (s : State) (e : Nat) (f : Footing → Footing) : (s.modFooting e f).errwin = s.errwin := rfl
@[simp] theorem State.modFooting_units (s : State) (e : Nat) (f : Footing → Footing) : (s.modFooting e f).units = s.units := rfl
@[simp] theorem State.modFooting_host (s : State) (e : Nat) (f : Footing → Footing) : (s.modFooting e f).host = s.host := rfl
@[simp] theorem State.modFooting_ports (s : State) (e : Nat) (f : Footing → Footing) : (s.modFooting e f).ports = s.ports := rfl
@[simp] theorem State.modFooting_keystone (s : State) (e : Nat) (f : Footing → Footing) : (s.modFooting e f).keystone = s.keystone := rfl

/-! `State.modKeySlot` changes `keystone` alone. -/

@[simp] theorem State.modKeySlot_now (s : State) (k : Nat) (f : KeySlot → KeySlot) : (s.modKeySlot k f).now = s.now := rfl
@[simp] theorem State.modKeySlot_agenda (s : State) (k : Nat) (f : KeySlot → KeySlot) : (s.modKeySlot k f).agenda = s.agenda := rfl
@[simp] theorem State.modKeySlot_epoch (s : State) (k : Nat) (f : KeySlot → KeySlot) : (s.modKeySlot k f).epoch = s.epoch := rfl
@[simp] theorem State.modKeySlot_focus (s : State) (k : Nat) (f : KeySlot → KeySlot) : (s.modKeySlot k f).focus = s.focus := rfl
@[simp] theorem State.modKeySlot_free (s : State) (k : Nat) (f : KeySlot → KeySlot) : (s.modKeySlot k f).free = s.free := rfl
@[simp] theorem State.modKeySlot_capb (s : State) (k : Nat) (f : KeySlot → KeySlot) : (s.modKeySlot k f).capb = s.capb := rfl
@[simp] theorem State.modKeySlot_bpm (s : State) (k : Nat) (f : KeySlot → KeySlot) : (s.modKeySlot k f).bpm = s.bpm := rfl
@[simp] theorem State.modKeySlot_fclk (s : State) (k : Nat) (f : KeySlot → KeySlot) : (s.modKeySlot k f).fclk = s.fclk := rfl
@[simp] theorem State.modKeySlot_clockAt (s : State) (k : Nat) (f : KeySlot → KeySlot) : (s.modKeySlot k f).clockAt = s.clockAt := rfl
@[simp] theorem State.modKeySlot_clockTime (s : State) (k : Nat) (f : KeySlot → KeySlot) : (s.modKeySlot k f).clockTime = s.clockTime := rfl
@[simp] theorem State.modKeySlot_bricks (s : State) (k : Nat) (f : KeySlot → KeySlot) : (s.modKeySlot k f).bricks = s.bricks := rfl
@[simp] theorem State.modKeySlot_flights (s : State) (k : Nat) (f : KeySlot → KeySlot) : (s.modKeySlot k f).flights = s.flights := rfl
@[simp] theorem State.modKeySlot_frames (s : State) (k : Nat) (f : KeySlot → KeySlot) : (s.modKeySlot k f).frames = s.frames := rfl
@[simp] theorem State.modKeySlot_reqs (s : State) (k : Nat) (f : KeySlot → KeySlot) : (s.modKeySlot k f).reqs = s.reqs := rfl
@[simp] theorem State.modKeySlot_maps (s : State) (k : Nat) (f : KeySlot → KeySlot) : (s.modKeySlot k f).maps = s.maps := rfl
@[simp] theorem State.modKeySlot_walks (s : State) (k : Nat) (f : KeySlot → KeySlot) : (s.modKeySlot k f).walks = s.walks := rfl
@[simp] theorem State.modKeySlot_handovers (s : State) (k : Nat) (f : KeySlot → KeySlot) : (s.modKeySlot k f).handovers = s.handovers := rfl
@[simp] theorem State.modKeySlot_nextId (s : State) (k : Nat) (f : KeySlot → KeySlot) : (s.modKeySlot k f).nextId = s.nextId := rfl
@[simp] theorem State.modKeySlot_hbm (s : State) (k : Nat) (f : KeySlot → KeySlot) : (s.modKeySlot k f).hbm = s.hbm := rfl
@[simp] theorem State.modKeySlot_hbmUe (s : State) (k : Nat) (f : KeySlot → KeySlot) : (s.modKeySlot k f).hbmUe = s.hbmUe := rfl
@[simp] theorem State.modKeySlot_loft (s : State) (k : Nat) (f : KeySlot → KeySlot) : (s.modKeySlot k f).loft = s.loft := rfl
@[simp] theorem State.modKeySlot_fills (s : State) (k : Nat) (f : KeySlot → KeySlot) : (s.modKeySlot k f).fills = s.fills := rfl
@[simp] theorem State.modKeySlot_walkCache (s : State) (k : Nat) (f : KeySlot → KeySlot) : (s.modKeySlot k f).walkCache = s.walkCache := rfl
@[simp] theorem State.modKeySlot_scheds (s : State) (k : Nat) (f : KeySlot → KeySlot) : (s.modKeySlot k f).scheds = s.scheds := rfl
@[simp] theorem State.modKeySlot_params (s : State) (k : Nat) (f : KeySlot → KeySlot) : (s.modKeySlot k f).params = s.params := rfl
@[simp] theorem State.modKeySlot_slots (s : State) (k : Nat) (f : KeySlot → KeySlot) : (s.modKeySlot k f).slots = s.slots := rfl
@[simp] theorem State.modKeySlot_nodes (s : State) (k : Nat) (f : KeySlot → KeySlot) : (s.modKeySlot k f).nodes = s.nodes := rfl
@[simp] theorem State.modKeySlot_dies (s : State) (k : Nat) (f : KeySlot → KeySlot) : (s.modKeySlot k f).dies = s.dies := rfl
@[simp] theorem State.modKeySlot_hbmStacks (s : State) (k : Nat) (f : KeySlot → KeySlot) : (s.modKeySlot k f).hbmStacks = s.hbmStacks := rfl
@[simp] theorem State.modKeySlot_tenancies (s : State) (k : Nat) (f : KeySlot → KeySlot) : (s.modKeySlot k f).tenancies = s.tenancies := rfl
@[simp] theorem State.modKeySlot_footings (s : State) (k : Nat) (f : KeySlot → KeySlot) : (s.modKeySlot k f).footings = s.footings := rfl
@[simp] theorem State.modKeySlot_gateways (s : State) (k : Nat) (f : KeySlot → KeySlot) : (s.modKeySlot k f).gateways = s.gateways := rfl
@[simp] theorem State.modKeySlot_errwin (s : State) (k : Nat) (f : KeySlot → KeySlot) : (s.modKeySlot k f).errwin = s.errwin := rfl
@[simp] theorem State.modKeySlot_units (s : State) (k : Nat) (f : KeySlot → KeySlot) : (s.modKeySlot k f).units = s.units := rfl
@[simp] theorem State.modKeySlot_host (s : State) (k : Nat) (f : KeySlot → KeySlot) : (s.modKeySlot k f).host = s.host := rfl
@[simp] theorem State.modKeySlot_ports (s : State) (k : Nat) (f : KeySlot → KeySlot) : (s.modKeySlot k f).ports = s.ports := rfl

/-! Bricks: the writes of `bsr.ctl` change `ctl` alone. -/

@[simp] theorem Brick.setPick_life (x : Brick) (v : Bool) : (x.setPick v).life = x.life := rfl
@[simp] theorem Brick.setPick_region (x : Brick) (v : Bool) : (x.setPick v).region = x.region := rfl
@[simp] theorem Brick.setPick_pool (x : Brick) (v : Bool) : (x.setPick v).pool = x.pool := rfl
@[simp] theorem Brick.setPick_slices (x : Brick) (v : Bool) : (x.setPick v).slices = x.slices := rfl
@[simp] theorem Brick.setPick_pval (x : Brick) (v : Bool) : (x.setPick v).pval = x.pval := rfl
@[simp] theorem Brick.setPick_pend (x : Brick) (v : Bool) : (x.setPick v).pend = x.pend := rfl
@[simp] theorem Brick.setPick_fires (x : Brick) (v : Bool) : (x.setPick v).fires = x.fires := rfl
@[simp] theorem Brick.setPick_tcls (x : Brick) (v : Bool) : (x.setPick v).tcls = x.tcls := rfl
@[simp] theorem Brick.setPick_tfire (x : Brick) (v : Bool) : (x.setPick v).tfire = x.tfire := rfl
@[simp] theorem Brick.setPick_tword (x : Brick) (v : Bool) : (x.setPick v).tword = x.tword := rfl
@[simp] theorem Brick.setPick_tval (x : Brick) (v : Bool) : (x.setPick v).tval = x.tval := rfl
@[simp] theorem Brick.setPick_sticky (x : Brick) (v : Bool) : (x.setPick v).sticky = x.sticky := rfl
@[simp] theorem Brick.setPick_fmode (x : Brick) (v : Bool) : (x.setPick v).fmode = x.fmode := rfl
@[simp] theorem Brick.setPick_round (x : Brick) (v : Bool) : (x.setPick v).round = x.round := rfl
@[simp] theorem Brick.setPick_overBsr (x : Brick) (v : Bool) : (x.setPick v).overBsr = x.overBsr := rfl
@[simp] theorem Brick.setPick_pts (x : Brick) (v : Bool) : (x.setPick v).pts = x.pts := rfl
@[simp] theorem Brick.setPick_firings (x : Brick) (v : Bool) : (x.setPick v).firings = x.firings := rfl
@[simp] theorem Brick.setPick_inputs (x : Brick) (v : Bool) : (x.setPick v).inputs = x.inputs := rfl
@[simp] theorem Brick.setPick_outs (x : Brick) (v : Bool) : (x.setPick v).outs = x.outs := rfl
@[simp] theorem Brick.setPick_bank (x : Brick) (v : Bool) : (x.setPick v).bank = x.bank := rfl
@[simp] theorem Brick.setPick_gmap (x : Brick) (v : Bool) : (x.setPick v).gmap = x.gmap := rfl
@[simp] theorem Brick.setPick_edge (x : Brick) (v : Bool) : (x.setPick v).edge = x.edge := rfl
@[simp] theorem Brick.setBken_life (x : Brick) (v : Bool) : (x.setBken v).life = x.life := rfl
@[simp] theorem Brick.setBken_region (x : Brick) (v : Bool) : (x.setBken v).region = x.region := rfl
@[simp] theorem Brick.setBken_pool (x : Brick) (v : Bool) : (x.setBken v).pool = x.pool := rfl
@[simp] theorem Brick.setBken_slices (x : Brick) (v : Bool) : (x.setBken v).slices = x.slices := rfl
@[simp] theorem Brick.setBken_pval (x : Brick) (v : Bool) : (x.setBken v).pval = x.pval := rfl
@[simp] theorem Brick.setBken_pend (x : Brick) (v : Bool) : (x.setBken v).pend = x.pend := rfl
@[simp] theorem Brick.setBken_fires (x : Brick) (v : Bool) : (x.setBken v).fires = x.fires := rfl
@[simp] theorem Brick.setBken_tcls (x : Brick) (v : Bool) : (x.setBken v).tcls = x.tcls := rfl
@[simp] theorem Brick.setBken_tfire (x : Brick) (v : Bool) : (x.setBken v).tfire = x.tfire := rfl
@[simp] theorem Brick.setBken_tword (x : Brick) (v : Bool) : (x.setBken v).tword = x.tword := rfl
@[simp] theorem Brick.setBken_tval (x : Brick) (v : Bool) : (x.setBken v).tval = x.tval := rfl
@[simp] theorem Brick.setBken_sticky (x : Brick) (v : Bool) : (x.setBken v).sticky = x.sticky := rfl
@[simp] theorem Brick.setBken_fmode (x : Brick) (v : Bool) : (x.setBken v).fmode = x.fmode := rfl
@[simp] theorem Brick.setBken_round (x : Brick) (v : Bool) : (x.setBken v).round = x.round := rfl
@[simp] theorem Brick.setBken_overBsr (x : Brick) (v : Bool) : (x.setBken v).overBsr = x.overBsr := rfl
@[simp] theorem Brick.setBken_pts (x : Brick) (v : Bool) : (x.setBken v).pts = x.pts := rfl
@[simp] theorem Brick.setBken_firings (x : Brick) (v : Bool) : (x.setBken v).firings = x.firings := rfl
@[simp] theorem Brick.setBken_inputs (x : Brick) (v : Bool) : (x.setBken v).inputs = x.inputs := rfl
@[simp] theorem Brick.setBken_outs (x : Brick) (v : Bool) : (x.setBken v).outs = x.outs := rfl
@[simp] theorem Brick.setBken_bank (x : Brick) (v : Bool) : (x.setBken v).bank = x.bank := rfl
@[simp] theorem Brick.setBken_gmap (x : Brick) (v : Bool) : (x.setBken v).gmap = x.gmap := rfl
@[simp] theorem Brick.setBken_edge (x : Brick) (v : Bool) : (x.setBken v).edge = x.edge := rfl
@[simp] theorem Brick.setStep_life (x : Brick) (v : Bool) : (x.setStep v).life = x.life := rfl
@[simp] theorem Brick.setStep_region (x : Brick) (v : Bool) : (x.setStep v).region = x.region := rfl
@[simp] theorem Brick.setStep_pool (x : Brick) (v : Bool) : (x.setStep v).pool = x.pool := rfl
@[simp] theorem Brick.setStep_slices (x : Brick) (v : Bool) : (x.setStep v).slices = x.slices := rfl
@[simp] theorem Brick.setStep_pval (x : Brick) (v : Bool) : (x.setStep v).pval = x.pval := rfl
@[simp] theorem Brick.setStep_pend (x : Brick) (v : Bool) : (x.setStep v).pend = x.pend := rfl
@[simp] theorem Brick.setStep_fires (x : Brick) (v : Bool) : (x.setStep v).fires = x.fires := rfl
@[simp] theorem Brick.setStep_tcls (x : Brick) (v : Bool) : (x.setStep v).tcls = x.tcls := rfl
@[simp] theorem Brick.setStep_tfire (x : Brick) (v : Bool) : (x.setStep v).tfire = x.tfire := rfl
@[simp] theorem Brick.setStep_tword (x : Brick) (v : Bool) : (x.setStep v).tword = x.tword := rfl
@[simp] theorem Brick.setStep_tval (x : Brick) (v : Bool) : (x.setStep v).tval = x.tval := rfl
@[simp] theorem Brick.setStep_sticky (x : Brick) (v : Bool) : (x.setStep v).sticky = x.sticky := rfl
@[simp] theorem Brick.setStep_fmode (x : Brick) (v : Bool) : (x.setStep v).fmode = x.fmode := rfl
@[simp] theorem Brick.setStep_round (x : Brick) (v : Bool) : (x.setStep v).round = x.round := rfl
@[simp] theorem Brick.setStep_overBsr (x : Brick) (v : Bool) : (x.setStep v).overBsr = x.overBsr := rfl
@[simp] theorem Brick.setStep_pts (x : Brick) (v : Bool) : (x.setStep v).pts = x.pts := rfl
@[simp] theorem Brick.setStep_firings (x : Brick) (v : Bool) : (x.setStep v).firings = x.firings := rfl
@[simp] theorem Brick.setStep_inputs (x : Brick) (v : Bool) : (x.setStep v).inputs = x.inputs := rfl
@[simp] theorem Brick.setStep_outs (x : Brick) (v : Bool) : (x.setStep v).outs = x.outs := rfl
@[simp] theorem Brick.setStep_bank (x : Brick) (v : Bool) : (x.setStep v).bank = x.bank := rfl
@[simp] theorem Brick.setStep_gmap (x : Brick) (v : Bool) : (x.setStep v).gmap = x.gmap := rfl
@[simp] theorem Brick.setStep_edge (x : Brick) (v : Bool) : (x.setStep v).edge = x.edge := rfl
@[simp] theorem Brick.setPass_life (x : Brick) (v : Bool) : (x.setPass v).life = x.life := rfl
@[simp] theorem Brick.setPass_region (x : Brick) (v : Bool) : (x.setPass v).region = x.region := rfl
@[simp] theorem Brick.setPass_pool (x : Brick) (v : Bool) : (x.setPass v).pool = x.pool := rfl
@[simp] theorem Brick.setPass_slices (x : Brick) (v : Bool) : (x.setPass v).slices = x.slices := rfl
@[simp] theorem Brick.setPass_pval (x : Brick) (v : Bool) : (x.setPass v).pval = x.pval := rfl
@[simp] theorem Brick.setPass_pend (x : Brick) (v : Bool) : (x.setPass v).pend = x.pend := rfl
@[simp] theorem Brick.setPass_fires (x : Brick) (v : Bool) : (x.setPass v).fires = x.fires := rfl
@[simp] theorem Brick.setPass_tcls (x : Brick) (v : Bool) : (x.setPass v).tcls = x.tcls := rfl
@[simp] theorem Brick.setPass_tfire (x : Brick) (v : Bool) : (x.setPass v).tfire = x.tfire := rfl
@[simp] theorem Brick.setPass_tword (x : Brick) (v : Bool) : (x.setPass v).tword = x.tword := rfl
@[simp] theorem Brick.setPass_tval (x : Brick) (v : Bool) : (x.setPass v).tval = x.tval := rfl
@[simp] theorem Brick.setPass_sticky (x : Brick) (v : Bool) : (x.setPass v).sticky = x.sticky := rfl
@[simp] theorem Brick.setPass_fmode (x : Brick) (v : Bool) : (x.setPass v).fmode = x.fmode := rfl
@[simp] theorem Brick.setPass_round (x : Brick) (v : Bool) : (x.setPass v).round = x.round := rfl
@[simp] theorem Brick.setPass_overBsr (x : Brick) (v : Bool) : (x.setPass v).overBsr = x.overBsr := rfl
@[simp] theorem Brick.setPass_pts (x : Brick) (v : Bool) : (x.setPass v).pts = x.pts := rfl
@[simp] theorem Brick.setPass_firings (x : Brick) (v : Bool) : (x.setPass v).firings = x.firings := rfl
@[simp] theorem Brick.setPass_inputs (x : Brick) (v : Bool) : (x.setPass v).inputs = x.inputs := rfl
@[simp] theorem Brick.setPass_outs (x : Brick) (v : Bool) : (x.setPass v).outs = x.outs := rfl
@[simp] theorem Brick.setPass_bank (x : Brick) (v : Bool) : (x.setPass v).bank = x.bank := rfl
@[simp] theorem Brick.setPass_gmap (x : Brick) (v : Bool) : (x.setPass v).gmap = x.gmap := rfl
@[simp] theorem Brick.setPass_edge (x : Brick) (v : Bool) : (x.setPass v).edge = x.edge := rfl

end Sys2Proof.Machine
end

