-- ==== Sys2Proof/Laws/Firing.lean ====
section
/-! SUPPORT. What a rule's meaning does: it fires where it may, and otherwise leaves the state as it is. -/

namespace Sys2Proof.Machine

open Sys2Proof

theorem fireRule_of_mayFire {i : Instr} {o : Beat} {s : State} (h : MayFire i s) :
    ∃ r, ruleInfo i = some r ∧ fireRule i o s = .next (fired i o s r) := by
  obtain ⟨hp, he⟩ := h
  cases hr : ruleInfo i with
  | none => simp [eligible, hr] at he
  | some r =>
    refine ⟨r, rfl, ?_⟩
    simp only [fireRule, hr]
    exact if_pos (by simp only [hp, Bool.true_and]; exact he)

theorem fireRule_of_not_mayFire {i : Instr} {o : Beat} {s : State} (h : ¬ MayFire i s) :
    fireRule i o s = .next s := by
  unfold fireRule
  split
  · rfl
  · dsimp only
    split
    · rename_i hc
      simp only [Bool.and_eq_true] at hc
      exact absurd hc h
    · rfl

/-- A meaning that is `fireRule` over the rule's own beat computes that beat. -/
theorem computes_of_fireRule {i : Instr} {o : Beat} (hb : beatOf i = some o) (he : ∀ s, exec i s = fireRule i o s) :
    Computes i o :=
  ⟨hb, fun s h => by
    obtain ⟨r, hr, hf⟩ := fireRule_of_mayFire (o := o) h
    exact ⟨r, hr, (he s).trans hf⟩⟩

/-- Every rule's meaning is `fireRule` over its beat. -/
theorem exec_rule {i : Instr} (h : i.isRule = true) : ∃ o, beatOf i = some o ∧ ∀ s, exec i s = fireRule i o s := by
  cases i <;> first | exact ⟨_, rfl, fun _ => rfl⟩ | exact absurd h Bool.false_ne_true

/-- A rule that may not fire changes nothing. -/
theorem exec_rule_idle {i : Instr} (h : i.isRule = true) {s : State} (hn : ¬ MayFire i s) : exec i s = .next s := by
  obtain ⟨o, -, he⟩ := exec_rule h
  rw [he s, fireRule_of_not_mayFire hn]

theorem exec_rule_fires {i : Instr} (h : i.isRule = true) {s : State} (hm : MayFire i s) :
    ∃ o r, beatOf i = some o ∧ ruleInfo i = some r ∧ exec i s = .next (fired i o s r) := by
  obtain ⟨o, hb, he⟩ := exec_rule h
  obtain ⟨r, hr, hf⟩ := fireRule_of_mayFire (o := o) hm
  exact ⟨o, r, hb, hr, (he s).trans hf⟩

/-! What a firing holds before and after a beat -/

@[simp] theorem mkFiring_instr (s : State) (b : BrickId) (k : Nat) (word : Word) (i : Instr) (r : RuleInfo) : (mkFiring s b k word i r).instr = i := by
  rfl
@[simp] theorem mkFiring_slot (s : State) (b : BrickId) (k : Nat) (word : Word) (i : Instr) (r : RuleInfo) : (mkFiring s b k word i r).slot = k := by
  rfl
@[simp] theorem mkFiring_word (s : State) (b : BrickId) (k : Nat) (word : Word) (i : Instr) (r : RuleInfo) : (mkFiring s b k word i r).word = word := by
  rfl
@[simp] theorem mkFiring_fired (s : State) (b : BrickId) (k : Nat) (word : Word) (i : Instr) (r : RuleInfo) : (mkFiring s b k word i r).fired = s.now := by
  rfl
@[simp] theorem mkFiring_fmode (s : State) (b : BrickId) (k : Nat) (word : Word) (i : Instr) (r : RuleInfo) : (mkFiring s b k word i r).fmode = (s.brick b).fmode.toNat := by
  rfl
@[simp] theorem mkFiring_preds (s : State) (b : BrickId) (k : Nat) (word : Word) (i : Instr) (r : RuleInfo) : (mkFiring s b k word i r).preds = (s.brick b).pval.toNat := by
  rfl
@[simp] theorem mkFiring_issued (s : State) (b : BrickId) (k : Nat) (word : Word) (i : Instr) (r : RuleInfo) : (mkFiring s b k word i r).issued = 0 := by
  rfl
@[simp] theorem mkFiring_acc (s : State) (b : BrickId) (k : Nat) (word : Word) (i : Instr) (r : RuleInfo) : (mkFiring s b k word i r).acc = [] := by
  rfl
@[simp] theorem mkFiring_wbs (s : State) (b : BrickId) (k : Nat) (word : Word) (i : Instr) (r : RuleInfo) : (mkFiring s b k word i r).wbs = [] := by
  rfl
@[simp] theorem mkFiring_effects (s : State) (b : BrickId) (k : Nat) (word : Word) (i : Instr) (r : RuleInfo) : (mkFiring s b k word i r).effects = [] := by
  rfl
@[simp] theorem mkFiring_sticky (s : State) (b : BrickId) (k : Nat) (word : Word) (i : Instr) (r : RuleInfo) : (mkFiring s b k word i r).sticky = 0 := by
  rfl
@[simp] theorem mkFiring_committed (s : State) (b : BrickId) (k : Nat) (word : Word) (i : Instr) (r : RuleInfo) : (mkFiring s b k word i r).committed = false := by
  rfl
@[simp] theorem mkFiring_point (s : State) (b : BrickId) (k : Nat) (word : Word) (i : Instr) (r : RuleInfo) : (mkFiring s b k word i r).point = s.now := by
  rfl
@[simp] theorem mkFiring_port (s : State) (b : BrickId) (k : Nat) (word : Word) (i : Instr) (r : RuleInfo) : (mkFiring s b k word i r).port = rulePort i r := by
  rfl
@[simp] theorem mkFiring_entered (s : State) (b : BrickId) (k : Nat) (word : Word) (i : Instr) (r : RuleInfo) : (mkFiring s b k word i r).entered = 0 := by
  rfl

@[simp] theorem recordBeat_instr (now : Nat) (r : RuleInfo) (f : Firing) (o : BeatOut) : (recordBeat now r f o).instr = f.instr := by
  unfold recordBeat; dsimp only; split
  · split <;> rfl
  · rfl
@[simp] theorem recordBeat_slot (now : Nat) (r : RuleInfo) (f : Firing) (o : BeatOut) : (recordBeat now r f o).slot = f.slot := by
  unfold recordBeat; dsimp only; split
  · split <;> rfl
  · rfl
@[simp] theorem recordBeat_word (now : Nat) (r : RuleInfo) (f : Firing) (o : BeatOut) : (recordBeat now r f o).word = f.word := by
  unfold recordBeat; dsimp only; split
  · split <;> rfl
  · rfl
@[simp] theorem recordBeat_fired (now : Nat) (r : RuleInfo) (f : Firing) (o : BeatOut) : (recordBeat now r f o).fired = f.fired := by
  unfold recordBeat; dsimp only; split
  · split <;> rfl
  · rfl
@[simp] theorem recordBeat_heads (now : Nat) (r : RuleInfo) (f : Firing) (o : BeatOut) : (recordBeat now r f o).heads = f.heads := by
  unfold recordBeat; dsimp only; split
  · split <;> rfl
  · rfl
@[simp] theorem recordBeat_take (now : Nat) (r : RuleInfo) (f : Firing) (o : BeatOut) : (recordBeat now r f o).take = f.take := by
  unfold recordBeat; dsimp only; split
  · split <;> rfl
  · rfl
@[simp] theorem recordBeat_snap (now : Nat) (r : RuleInfo) (f : Firing) (o : BeatOut) : (recordBeat now r f o).snap = f.snap := by
  unfold recordBeat; dsimp only; split
  · split <;> rfl
  · rfl
@[simp] theorem recordBeat_fmode (now : Nat) (r : RuleInfo) (f : Firing) (o : BeatOut) : (recordBeat now r f o).fmode = f.fmode := by
  unfold recordBeat; dsimp only; split
  · split <;> rfl
  · rfl
@[simp] theorem recordBeat_preds (now : Nat) (r : RuleInfo) (f : Firing) (o : BeatOut) : (recordBeat now r f o).preds = f.preds := by
  unfold recordBeat; dsimp only; split
  · split <;> rfl
  · rfl
@[simp] theorem recordBeat_committed (now : Nat) (r : RuleInfo) (f : Firing) (o : BeatOut) : (recordBeat now r f o).committed = f.committed := by
  unfold recordBeat; dsimp only; split
  · split <;> rfl
  · rfl
@[simp] theorem recordBeat_port (now : Nat) (r : RuleInfo) (f : Firing) (o : BeatOut) : (recordBeat now r f o).port = f.port := by
  unfold recordBeat; dsimp only; split
  · split <;> rfl
  · rfl
@[simp] theorem recordBeat_entered (now : Nat) (r : RuleInfo) (f : Firing) (o : BeatOut) : (recordBeat now r f o).entered = f.entered := by
  unfold recordBeat; dsimp only; split
  · split <;> rfl
  · rfl
@[simp] theorem recordBeat_range (now : Nat) (r : RuleInfo) (f : Firing) (o : BeatOut) : (recordBeat now r f o).range = f.range := by
  unfold recordBeat; dsimp only; split
  · split <;> rfl
  · rfl
@[simp] theorem recordBeat_issued (now : Nat) (r : RuleInfo) (f : Firing) (o : BeatOut) : (recordBeat now r f o).issued = f.issued + 1 := by
  unfold recordBeat; dsimp only; split
  · split <;> rfl
  · rfl
@[simp] theorem recordBeat_next (now : Nat) (r : RuleInfo) (f : Firing) (o : BeatOut) : (recordBeat now r f o).next = now + r.pace := by
  unfold recordBeat; dsimp only; split
  · split <;> rfl
  · rfl

/-- A beat of a firing without a trap, when it raises none. -/
theorem recordBeat_clean {now : Nat} {r : RuleInfo} {f : Firing} {o : BeatOut} (hf : f.trap = none) (ho : o.trap = none) :
    (recordBeat now r f o).trap = none ∧ (recordBeat now r f o).effects = f.effects ++ o.effects ∧
    (recordBeat now r f o).sticky = f.sticky ||| o.sticky ∧
    (recordBeat now r f o).point = (match trapDelay f.instr with
      | some d => now + d
      | none => f.point) ∧
    (recordBeat now r f o).wbs = f.wbs ++ resultWriteBack r f.port f.issued (now + r.latency + 1) o
      (if decide (f.issued + 1 = r.beats) && !isBankAtomic f.instr then
        pmodeWrites r f o (if r.isCompare then combineCompare r.f.pmode f.issued f.chain o.cmp else o.chain) ++ o.preds else []) ++ o.wbs := by
  unfold recordBeat
  dsimp only
  rw [if_neg (by simp [hf, ho])]
  exact ⟨hf, rfl, rfl, rfl, rfl⟩

/-- A firing that has trapped, or traps in this beat, queues nothing. -/
theorem recordBeat_dead {now : Nat} {r : RuleInfo} {f : Firing} {o : BeatOut} (h : (f.trap.isSome || o.trap.isSome) = true)
    (hw : f.wbs = []) (he : f.effects = []) :
    (recordBeat now r f o).trap.isSome = true ∧ (recordBeat now r f o).effects = [] ∧ (recordBeat now r f o).wbs = [] ∧
    (recordBeat now r f o).sticky = f.sticky := by
  unfold recordBeat
  dsimp only
  rw [if_pos h]
  cases hf : f.trap <;> cases ho : o.trap <;> simp_all

/-! The brick after a firing's fire cycle -/

@[simp] theorem takeFiring_life (s : State) (x : Brick) (i : Instr) (r : RuleInfo) (f : Firing) : (takeFiring s x i r f).life = x.life := by
  unfold takeFiring; split <;> rfl
@[simp] theorem takeFiring_region (s : State) (x : Brick) (i : Instr) (r : RuleInfo) (f : Firing) : (takeFiring s x i r f).region = x.region := by
  unfold takeFiring; split <;> rfl
@[simp] theorem takeFiring_tenancy (s : State) (x : Brick) (i : Instr) (r : RuleInfo) (f : Firing) : (takeFiring s x i r f).tenancy = x.tenancy := by
  unfold takeFiring; split <;> rfl
@[simp] theorem takeFiring_pool (s : State) (x : Brick) (i : Instr) (r : RuleInfo) (f : Firing) : (takeFiring s x i r f).pool = x.pool := by
  unfold takeFiring; split <;> rfl
@[simp] theorem takeFiring_slices (s : State) (x : Brick) (i : Instr) (r : RuleInfo) (f : Firing) : (takeFiring s x i r f).slices = x.slices := by
  unfold takeFiring; split <;> rfl
@[simp] theorem takeFiring_pval (s : State) (x : Brick) (i : Instr) (r : RuleInfo) (f : Firing) : (takeFiring s x i r f).pval = x.pval := by
  unfold takeFiring; split <;> rfl
@[simp] theorem takeFiring_predTs (s : State) (x : Brick) (i : Instr) (r : RuleInfo) (f : Firing) : (takeFiring s x i r f).predTs = x.predTs := by
  unfold takeFiring; split <;> rfl
@[simp] theorem takeFiring_fires (s : State) (x : Brick) (i : Instr) (r : RuleInfo) (f : Firing) : (takeFiring s x i r f).fires = x.fires := by
  unfold takeFiring; split <;> rfl
@[simp] theorem takeFiring_tcls (s : State) (x : Brick) (i : Instr) (r : RuleInfo) (f : Firing) : (takeFiring s x i r f).tcls = x.tcls := by
  unfold takeFiring; split <;> rfl
@[simp] theorem takeFiring_tfire (s : State) (x : Brick) (i : Instr) (r : RuleInfo) (f : Firing) : (takeFiring s x i r f).tfire = x.tfire := by
  unfold takeFiring; split <;> rfl
@[simp] theorem takeFiring_thead (s : State) (x : Brick) (i : Instr) (r : RuleInfo) (f : Firing) : (takeFiring s x i r f).thead = x.thead := by
  unfold takeFiring; split <;> rfl
@[simp] theorem takeFiring_tword (s : State) (x : Brick) (i : Instr) (r : RuleInfo) (f : Firing) : (takeFiring s x i r f).tword = x.tword := by
  unfold takeFiring; split <;> rfl
@[simp] theorem takeFiring_tval (s : State) (x : Brick) (i : Instr) (r : RuleInfo) (f : Firing) : (takeFiring s x i r f).tval = x.tval := by
  unfold takeFiring; split <;> rfl
@[simp] theorem takeFiring_sticky (s : State) (x : Brick) (i : Instr) (r : RuleInfo) (f : Firing) : (takeFiring s x i r f).sticky = x.sticky := by
  unfold takeFiring; split <;> rfl
@[simp] theorem takeFiring_fmode (s : State) (x : Brick) (i : Instr) (r : RuleInfo) (f : Firing) : (takeFiring s x i r f).fmode = x.fmode := by
  unfold takeFiring; split <;> rfl
@[simp] theorem takeFiring_round (s : State) (x : Brick) (i : Instr) (r : RuleInfo) (f : Firing) : (takeFiring s x i r f).round = x.round := by
  unfold takeFiring; split <;> rfl
@[simp] theorem takeFiring_overBsr (s : State) (x : Brick) (i : Instr) (r : RuleInfo) (f : Firing) : (takeFiring s x i r f).overBsr = x.overBsr := by
  unfold takeFiring; split <;> rfl
@[simp] theorem takeFiring_outs (s : State) (x : Brick) (i : Instr) (r : RuleInfo) (f : Firing) : (takeFiring s x i r f).outs = x.outs := by
  unfold takeFiring; split <;> rfl
@[simp] theorem takeFiring_bank (s : State) (x : Brick) (i : Instr) (r : RuleInfo) (f : Firing) : (takeFiring s x i r f).bank = x.bank := by
  unfold takeFiring; split <;> rfl
@[simp] theorem takeFiring_bankUe (s : State) (x : Brick) (i : Instr) (r : RuleInfo) (f : Firing) : (takeFiring s x i r f).bankUe = x.bankUe := by
  unfold takeFiring; split <;> rfl
@[simp] theorem takeFiring_gmap (s : State) (x : Brick) (i : Instr) (r : RuleInfo) (f : Firing) : (takeFiring s x i r f).gmap = x.gmap := by
  unfold takeFiring; split <;> rfl
@[simp] theorem takeFiring_bound (s : State) (x : Brick) (i : Instr) (r : RuleInfo) (f : Firing) : (takeFiring s x i r f).bound = x.bound := by
  unfold takeFiring; split <;> rfl
@[simp] theorem takeFiring_edge (s : State) (x : Brick) (i : Instr) (r : RuleInfo) (f : Firing) : (takeFiring s x i r f).edge = x.edge := by
  unfold takeFiring; split <;> rfl
@[simp] theorem takeFiring_docks (s : State) (x : Brick) (i : Instr) (r : RuleInfo) (f : Firing) : (takeFiring s x i r f).docks = x.docks := by
  unfold takeFiring; split <;> rfl
@[simp] theorem takeFiring_accs (s : State) (x : Brick) (i : Instr) (r : RuleInfo) (f : Firing) : (takeFiring s x i r f).accs = x.accs := by
  unfold takeFiring; split <;> rfl
@[simp] theorem takeFiring_wp (s : State) (x : Brick) (i : Instr) (r : RuleInfo) (f : Firing) : (takeFiring s x i r f).wp = x.wp := by
  unfold takeFiring; split <;> rfl
@[simp] theorem takeFiring_taskPort (s : State) (x : Brick) (i : Instr) (r : RuleInfo) (f : Firing) : (takeFiring s x i r f).taskPort = x.taskPort := by
  unfold takeFiring; split <;> rfl
@[simp] theorem takeFiring_footPort (s : State) (x : Brick) (i : Instr) (r : RuleInfo) (f : Firing) : (takeFiring s x i r f).footPort = x.footPort := by
  unfold takeFiring; split <;> rfl
@[simp] theorem takeFiring_qblk (s : State) (x : Brick) (i : Instr) (r : RuleInfo) (f : Firing) : (takeFiring s x i r f).qblk = x.qblk := by
  unfold takeFiring; split <;> rfl
@[simp] theorem takeFiring_idle (s : State) (x : Brick) (i : Instr) (r : RuleInfo) (f : Firing) : (takeFiring s x i r f).idle = x.idle := by
  unfold takeFiring; split <;> rfl
@[simp] theorem takeFiring_weep (s : State) (x : Brick) (i : Instr) (r : RuleInfo) (f : Firing) : (takeFiring s x i r f).weep = x.weep := by
  unfold takeFiring; split <;> rfl
@[simp] theorem takeFiring_wave (s : State) (x : Brick) (i : Instr) (r : RuleInfo) (f : Firing) : (takeFiring s x i r f).wave = x.wave := by
  unfold takeFiring; split <;> rfl
@[simp] theorem takeFiring_firings (s : State) (x : Brick) (i : Instr) (r : RuleInfo) (f : Firing) : (takeFiring s x i r f).firings = x.firings ++ [f] := by
  unfold takeFiring; split <;> rfl

/-- `settle` touches WRBSR, RDBSR, RDTS and WPTR alone. -/
theorem settle_of_ne {i : Instr} (s : State) {f : Firing} (h : f.instr = i)
    (hn : ∀ h x, i ≠ .sysWrbsr h x ∧ i ≠ .sysRdbsr h x ∧ i ≠ .sysRdts h x ∧ i ≠ .sysWptr h x) : settle s f = f := by
  subst h
  unfold settle
  split
  · rename_i a b e; exact absurd e (hn a b).1
  · rename_i a b e; exact absurd e (hn a b).2.1
  · rename_i a b e; exact absurd e (hn a b).2.2.1
  · rename_i a b e; exact absurd e (hn a b).2.2.2
  · rfl

/-- A firing that has something to write back ends with it. -/
theorem settle_of_wbs (s : State) {f : Firing} (h : f.wbs ≠ []) : settle s f = f := by
  unfold settle
  split <;> first | rfl | simp [h]

/-- `settle` leaves everything of a firing but its write-backs. -/
theorem settle_frame (s : State) (f : Firing) : settle s f = { f with wbs := (settle s f).wbs } := by
  unfold settle
  split <;> first | rfl | (split <;> rfl)

/-- The brick in focus after a firing. -/
theorem fired_brick (i : Instr) (o : Beat) (s : State) (r : RuleInfo) :
    (fired i o s r).brick s.focus.1 = takeFiring s (s.brick s.focus.1) i r
      (settle s (recordBeat s.now r (mkFiring s s.focus.1 s.focus.2 s.focusWord i r)
        (if judgedLate i then {} else o s s.focus.1 (mkFiring s s.focus.1 s.focus.2 s.focusWord i r) r 0))) := by
  unfold fired
  dsimp only
  rw [State.setBrick_brick_same]
  unfold issueBeat
  rw [mkFiring_issued]
  rfl

/-- Every other brick keeps its state. -/
theorem fired_brick_other (i : Instr) (o : Beat) (s : State) (r : RuleInfo) {c : BrickId} (h : c ≠ s.focus.1) :
    (fired i o s r).brick c = s.brick c := State.setBrick_brick_other s (Ne.symm h) _

theorem isRule_of_beatOf {i : Instr} {o : Beat} (h : beatOf i = some o) : i.isRule = true := by
  cases i <;> first | rfl | cases h

theorem exec_eq_fired {i : Instr} {o : Beat} {s : State} {r : RuleInfo} (hm : MayFire i s) (hr : ruleInfo i = some r) (hb : beatOf i = some o) :
    exec i s = .next (fired i o s r) := by
  obtain ⟨o', r', h1, h2, h3⟩ := exec_rule_fires (isRule_of_beatOf hb) hm
  rw [hb] at h1; rw [hr] at h2; cases h1; cases h2; exact h3

end Sys2Proof.Machine
end

