-- ==== Sys2Proof/Laws/Fixed.lean ====
section
/-! SUPPORT. What no operation of an agent changes: the cycle count, the order of moves, the capability register and presence map, the clock, and the error-window parameters. One lemma per operation on the state. -/

namespace Sys2Proof.Machine

open Sys2Proof

/-- The part of the state that only the clock, the agenda, the power steps, boot and ERRWIN change. -/
structure Fixed where
  now : Nat
  agenda : List Move
  epoch : Nat
  focus : BrickId × Nat
  capb : Word
  bpm : List Word
  fclk : Nat
  clockAt : Nat
  clockTime : Nat
  errwin : Nat × Nat × Nat

def State.fixed (s : State) : Fixed :=
  { now := s.now, agenda := s.agenda, epoch := s.epoch, focus := s.focus, capb := s.capb, bpm := s.bpm
    fclk := s.fclk, clockAt := s.clockAt, clockTime := s.clockTime, errwin := s.errwin }

theorem foldl_fixed {α : Type} (f : State → α → State) (h : ∀ s a, (f s a).fixed = s.fixed) :
    ∀ (l : List α) (s : State), (l.foldl f s).fixed = s.fixed
  | [], _ => rfl
  | a :: l, s => (foldl_fixed f h l (f s a)).trans (h s a)

theorem fold_fixed {α : Type} {f : State → α → State} {l : List α} {s : State} (h : ∀ t a, (f t a).fixed = t.fixed) :
    (l.foldl f s).fixed = s.fixed := foldl_fixed f h l s

/-- A fold that carries something beside the state. -/
theorem foldl_fixed2 {α β : Type} (f : β × State → α → β × State) (h : ∀ p a, (f p a).2.fixed = p.2.fixed) :
    ∀ (l : List α) (p : β × State), (l.foldl f p).2.fixed = p.2.fixed
  | [], _ => rfl
  | a :: l, p => (foldl_fixed2 f h l (f p a)).trans (h p a)

theorem snd_fixed {α : Type} {p : α × State} {a : α} {t s : State} (e : p = (a, t)) (h : p.2.fixed = s.fixed) : t.fixed = s.fixed := by
  rw [e] at h; exact h

theorem ite_fixed {c : Prop} [Decidable c] {s t u : State} (ht : t.fixed = s.fixed) (hu : u.fixed = s.fixed) :
    (if c then t else u).fixed = s.fixed := by
  split <;> assumption

theorem snd_ite_fixed {α : Type} {c : Prop} [Decidable c] {p q : α × State} {s : State} (hp : p.2.fixed = s.fixed)
    (hq : q.2.fixed = s.fixed) : (if c then p else q).2.fixed = s.fixed := by
  split <;> assumption

/-- A record update outside `Fixed` leaves it. -/
@[simp] theorem State.mk_fixed (now : Nat) (agenda : List Move) (epoch : Nat) (focus : BrickId × Nat) (x_free : Nat) (capb : Word) (bpm : List Word) (fclk : Nat) (clockAt : Nat) (clockTime : Nat) (x_bricks : Table Brick) (x_flights : List Flight) (x_frames : List Frame) (x_reqs : List Req) (x_maps : List MapOp) (x_handovers : List Handover) (x_nextId : Nat) (x_hbm : List Host.Cell) (x_hbmUe : List Nat) (x_loft : Table LoftLine) (x_fills : List Fill) (x_walkCache : Table (List TlbEntry)) (x_scheds : Table Sched) (x_params : Table (List ParamWindow)) (x_slots : Table Slot) (x_nodes : Table (List Word)) (x_dies : Table Die) (x_hbmStacks : Table Stack) (x_tenancies : Table Tenancy) (x_footings : Table Footing) (x_gateways : Table Gateway) (errwin : Nat × Nat × Nat) (x_units : List (UnitRef × ErrUnit)) (x_host : HostLink) (x_ports : Table ScalePort) (x_walks : List Walk) (x_keystone : Keystone) :
    State.fixed { now := now, agenda := agenda, epoch := epoch, focus := focus, free := x_free, capb := capb, bpm := bpm, fclk := fclk, clockAt := clockAt, clockTime := clockTime, bricks := x_bricks, flights := x_flights, frames := x_frames, reqs := x_reqs, maps := x_maps, handovers := x_handovers, nextId := x_nextId, hbm := x_hbm, hbmUe := x_hbmUe, loft := x_loft, fills := x_fills, walkCache := x_walkCache, scheds := x_scheds, params := x_params, slots := x_slots, nodes := x_nodes, dies := x_dies, hbmStacks := x_hbmStacks, tenancies := x_tenancies, footings := x_footings, gateways := x_gateways, errwin := errwin, units := x_units, host := x_host, ports := x_ports, walks := x_walks, keystone := x_keystone } =
    ({ now, agenda, epoch, focus, capb, bpm, fclk, clockAt, clockTime, errwin } : Fixed) := rfl
@[simp] theorem Fixed.mk_state (s : State) :
    ({ now := s.now, agenda := s.agenda, epoch := s.epoch, focus := s.focus, capb := s.capb, bpm := s.bpm, fclk := s.fclk, clockAt := s.clockAt, clockTime := s.clockTime, errwin := s.errwin } : Fixed) = s.fixed := rfl


/-! Ops -/

@[simp] theorem State.draw_fixed (s : State) : s.draw.2.fixed = s.fixed := rfl
@[simp] theorem State.setBrick_fixed (s : State) (b : BrickId) (x : Brick) : (s.setBrick b x).fixed = s.fixed := rfl
@[simp] theorem State.modBrick_fixed (s : State) (b : BrickId) (f : Brick → Brick) : (s.modBrick b f).fixed = s.fixed := rfl
@[simp] theorem State.modDie_fixed (s : State) (d : Nat) (f : Die → Die) : (s.modDie d f).fixed = s.fixed := rfl
@[simp] theorem State.modTenancy_fixed (s : State) (t : Nat) (f : Tenancy → Tenancy) : (s.modTenancy t f).fixed = s.fixed := rfl
@[simp] theorem State.modStack_fixed (s : State) (k : Nat) (f : Stack → Stack) : (s.modStack k f).fixed = s.fixed := rfl
@[simp] theorem State.modSlot_fixed (s : State) (r : RegionId) (f : Slot → Slot) : (s.modSlot r f).fixed = s.fixed := rfl
@[simp] theorem State.modSched_fixed (s : State) (d c : Nat) (f : Sched → Sched) : (s.modSched d c f).fixed = s.fixed := rfl
@[simp] theorem State.modGateway_fixed (s : State) (d : Nat) (f : Gateway → Gateway) : (s.modGateway d f).fixed = s.fixed := rfl
@[simp] theorem State.modFooting_fixed (s : State) (e : Nat) (f : Footing → Footing) : (s.modFooting e f).fixed = s.fixed := rfl
@[simp] theorem State.modKeySlot_fixed (s : State) (k : Nat) (f : KeySlot → KeySlot) : (s.modKeySlot k f).fixed = s.fixed := rfl
@[simp] theorem State.noteTs_fixed (s : State) (b : BrickId) (ts : Nat) : (s.noteTs b ts).fixed = s.fixed := by
  unfold State.noteTs; split <;> rfl
@[simp] theorem State.sent_fixed (s : State) (b : BrickId) (n : Nat) : (s.sent b n).fixed = s.fixed := rfl
@[simp] theorem State.rcvd_fixed (s : State) (b : BrickId) (n : Nat) : (s.rcvd b n).fixed = s.fixed := rfl
@[simp] theorem State.writeRecord_fixed (s : State) (r : Record) : (s.writeRecord r).fixed = s.fixed := rfl
@[simp] theorem State.raiseFault_fixed (s : State) (g : RegionId) (r : Record) : (s.raiseFault g r).fixed = s.fixed :=
  ite_fixed rfl rfl
@[simp] theorem State.raiseAt_fixed (s : State) (b : BrickId) (r : Record) : (s.raiseAt b r).fixed = s.fixed := by
  unfold State.raiseAt; split <;> simp
@[simp] theorem State.noteAt_fixed (s : State) (b : BrickId) (r : Record) : (s.noteAt b r).fixed = s.fixed := by
  unfold State.noteAt; split <;> rfl
@[simp] theorem State.reportTrap_fixed (s : State) (b : BrickId) (c d : Nat) : (s.reportTrap b c d).fixed = s.fixed := by
  simp only [State.reportTrap]; split <;> simp
@[simp] theorem State.setUnit_fixed (s : State) (u : UnitRef) (x : ErrUnit) : (s.setUnit u x).fixed = s.fixed := rfl
@[simp] theorem State.lastingAction_fixed (s : State) (u : UnitRef) (a : Nat) : (s.lastingAction u a).fixed = s.fixed := by
  unfold State.lastingAction; (repeat' split) <;> rfl
@[simp] theorem State.countError_fixed (s : State) (u : UnitRef) (w a : Nat) : (s.countError u w a).fixed = s.fixed := by
  unfold State.countError
  extract_lets x fresh c y t
  exact ite_fixed (State.setUnit_fixed ..) (ite_fixed (State.setUnit_fixed ..)
    ((State.lastingAction_fixed ..).trans ((State.writeRecord_fixed ..).trans (State.setUnit_fixed ..))))
@[simp] theorem State.meetBad_fixed (s : State) (u : UnitRef) (a : Nat) : (s.meetBad u a).fixed = s.fixed := by simp [State.meetBad]
@[simp] theorem State.returned_fixed (s : State) (b : BrickId) (n : Nat) : (s.returned b n).fixed = s.fixed := rfl
@[simp] theorem State.meetTrap_fixed (s : State) (b : BrickId) (c d : Nat) : (s.meetTrap b c d).fixed = s.fixed := by
  unfold State.meetTrap; split
  · exact State.meetBad_fixed ..
  · rfl
@[simp] theorem State.takeTrap_fixed (s : State) (b : BrickId) (c d t k v : Nat) (w : Word) (h : List (Option Token)) :
    (s.takeTrap b c d t k v w h).fixed = s.fixed :=
  (State.reportTrap_fixed _ _ _ _).trans ((show _ = (s.meetTrap b c d).fixed from rfl).trans (State.meetTrap_fixed ..))

/-! Nodes -/

@[simp] theorem State.setCharges_fixed (s : State) (n i : Nat) (f : Nat → Nat) : (s.setCharges n i f).fixed = s.fixed := by
  simp only [State.setCharges]
  apply foldl_fixed
  intros; rfl
@[simp] theorem State.charge_fixed (s : State) (n i a : Nat) : (s.charge n i a).fixed = s.fixed := by
  simp only [State.charge]; split <;> simp
@[simp] theorem State.refund_fixed (s : State) (n i a : Nat) : (s.refund n i a).fixed = s.fixed := by
  simp only [State.refund]; split <;> simp

/-! Net -/

@[simp] theorem State.wallDrop_fixed (s : State) (b : BrickId) (w : Wall) : (s.wallDrop b w).fixed = s.fixed := by
  simp only [State.wallDrop]; (repeat' split) <;> simp
@[simp] theorem State.launchIn_fixed (s : State) (n : Nat) (src : BrickId) (port : Nat) (d : Dest) (t : Token) :
    (s.launchIn n src port d t).fixed = s.fixed := by
  unfold State.launchIn
  repeat' first | with_reducible rfl | assumption | split | refine snd_fixed (by assumption) ?_ | refine (fold_fixed ?_).trans ?_ | intro _ _ | simp
@[simp] theorem State.launch_fixed (s : State) (src : BrickId) (port : Nat) (d : Dest) (t : Token) :
    (s.launch src port d t).fixed = s.fixed := by
  unfold State.launch
  repeat' first | with_reducible rfl | assumption | split | refine snd_fixed (by assumption) ?_ | refine (fold_fixed ?_).trans ?_ | intro _ _ | simp
@[simp] theorem State.overcount_fixed (s : State) (b : BrickId) (c : Option Nat) (d : Nat) (f : Bool) : (s.overcount b c d f).fixed = s.fixed := by
  simp only [State.overcount]; split <;> simp
@[simp] theorem State.arriveInput_fixed (s : State) (b : BrickId) (c : Nat) (t : Token) : (s.arriveInput b c t).fixed = s.fixed := by
  simp only [State.arriveInput]; (repeat' split) <;> simp
@[simp] theorem State.arrive_fixed (s : State) (f : Flight) : (s.arrive f).fixed = s.fixed := by
  simp only [State.arrive]; (repeat' split) <;> simp
@[simp] theorem State.setPort_fixed (s : State) (r : PortRef) (p : Port) : (s.setPort r p).fixed = s.fixed := by
  unfold State.setPort; split <;> rfl
@[simp] theorem State.sendBranch_fixed (s : State) (r : PortRef) (k b : Nat) : (s.sendBranch r k b).fixed = s.fixed := by
  simp only [State.sendBranch]; (repeat' split) <;> simp
@[simp] theorem State.retirePort_fixed (s : State) (r : PortRef) : (s.retirePort r).fixed = s.fixed := by simp [State.retirePort]

/-! Loft -/

@[simp] theorem State.setLine_fixed (s : State) (n : Nat) (l : LoftLine) : (s.setLine n l).fixed = s.fixed := rfl
@[simp] theorem State.addStall_fixed (s : State) (stack n : Nat) :
    (s.addStall stack n).fixed = s.fixed := rfl
@[simp] theorem State.addMiss_fixed (s : State) (pa : Nat) :
    (s.addMiss pa).fixed = s.fixed := rfl
@[simp] theorem State.command_fixed (s : State) (stack pc : Nat) : (s.command stack pc).fixed = s.fixed := by
  unfold State.command
  repeat' first | with_reducible rfl | assumption | split | refine snd_fixed (by assumption) ?_ | refine (fold_fixed ?_).trans ?_ | intro _ _ | simp
@[simp] theorem State.writeBack_fixed (s : State) (n : Nat) (d : Bool) : (s.writeBack n d).fixed = s.fixed := by
  simp only [State.writeBack]
  split
  · rfl
  · rw [State.setLine_fixed]; split
    · rfl
    · exact (State.command_fixed (s.addStall (stackOf (64 * n)) (s.refreshLeft n)) (stackOf (64 * n)) (channelOfPa (64 * n))).trans (State.addStall_fixed ..)
@[simp] theorem State.makeRoom_fixed (s : State) (n : Nat) : (s.makeRoom n).fixed = s.fixed := by
  simp only [State.makeRoom]; (repeat' split) <;> simp
@[simp] theorem State.putLine_fixed (s : State) (ln : Nat) (l : LoftLine) :
    (s.putLine ln l).fixed = s.fixed := by
  unfold State.putLine
  repeat' first | with_reducible rfl | assumption | split | refine snd_fixed (by assumption) ?_ | refine (fold_fixed ?_).trans ?_ | intro _ _ | simp
@[simp] theorem State.writeLine_fixed (s : State) (pa : Nat) (vs : List Byte) (weights : Bool) :
    (s.writeLine pa vs weights).fixed = s.fixed := by
  unfold State.writeLine
  repeat' first | with_reducible rfl | assumption | split | refine snd_fixed (by assumption) ?_ | refine (fold_fixed ?_).trans ?_ | intro _ _ | simp
@[simp] theorem State.modReq_fixed (s : State) (n : Nat) (f : Req → Req) : (s.modReq n f).fixed = s.fixed := rfl
@[simp] theorem State.dropReq_fixed (s : State) (n : Nat) : (s.dropReq n).fixed = s.fixed := rfl
@[simp] theorem State.failReq_fixed (s : State) (r : Req) (f : Fail) (va : Nat) : (s.failReq r f va).fixed = s.fixed := by
  simp only [State.failReq]; split <;> simp
@[simp] theorem State.refreshCopy_fixed (s : State) (e : BrickId) (t ln : Nat) :
    (s.refreshCopy e t ln).fixed = s.fixed := by
  unfold State.refreshCopy
  repeat' first | with_reducible rfl | assumption | split | refine snd_fixed (by assumption) ?_ | refine (fold_fixed ?_).trans ?_ | intro _ _ | simp
@[simp] theorem State.dropCopy_fixed (s : State) (e : BrickId) (t ln : Nat) :
    (s.dropCopy e t ln).fixed = s.fixed := rfl
@[simp] theorem State.hbmUeRecord_fixed (s : State) (a n : Nat) : (s.hbmUeRecord a n).fixed = s.fixed := by
  simp only [State.hbmUeRecord]; (repeat' split) <;> simp
@[simp] theorem State.atomicPart_fixed (s : State) (r : Req) (p : Part) (op w v y : Nat) :
    (s.atomicPart r p op w v y).fixed = s.fixed := by
  unfold State.atomicPart
  repeat' first | with_reducible rfl | assumption | split | refine snd_fixed (by assumption) ?_ | refine (fold_fixed ?_).trans ?_ | intro _ _ | simp
@[simp] theorem State.askFill_fixed (s : State) (t n : Nat) (d : Bool) : (s.askFill t n d).fixed = s.fixed := by
  simp only [State.askFill]; split <;> rfl
@[simp] theorem State.fillDone_fixed (s : State) (sector : Nat) (data : List Byte) (ue : Nat) :
    (s.fillDone sector data ue).fixed = s.fixed := by
  unfold State.fillDone
  repeat' first | with_reducible rfl | assumption | split | refine snd_fixed (by assumption) ?_ | refine (fold_fixed ?_).trans ?_ | intro _ _ | simp
@[simp] theorem State.fillNow_fixed (s : State) (t n : Nat) (d w : Bool) : (s.fillNow t n d w).fixed = s.fixed := by
  unfold State.fillNow
  extract_lets a b c
  split
  refine (State.fillDone_fixed ..).trans ((ite_fixed rfl (State.setLine_fixed ..)).trans ((ite_fixed ?_ rfl).trans (State.addStall_fixed ..)))
  exact State.addMiss_fixed ..
@[simp] theorem State.settleLine_fixed (s : State) (t n : Nat) : (s.settleLine t n).fixed = s.fixed := by
  unfold State.settleLine
  exact ite_fixed (fold_fixed fun _ _ => State.fillNow_fixed ..) rfl
@[simp] theorem State.fetchLine_fixed (s : State) (t pa n : Nat) (d w : Bool) : (s.fetchLine t pa n d w).fixed = s.fixed := by
  unfold State.fetchLine
  exact (fold_fixed fun _ _ => State.fillNow_fixed ..).trans (State.settleLine_fixed ..)

/-! Memory -/

@[simp] theorem State.readWord_fixed (s : State) (t pa : Nat) : (s.readWord t pa).2.fixed = s.fixed := by
  unfold State.readWord
  exact (ite_fixed (State.hbmUeRecord_fixed ..) rfl).trans (State.fetchLine_fixed ..)
@[simp] theorem State.walkPath_fixed (t va : Nat) : ∀ (f l b : Nat) (s : State), (s.walkPath t va f l b).2.fixed = s.fixed
  | 0, _, _, _ => rfl
  | f + 1, l, b, s => by
    simp only [State.walkPath]
    split
    · rename_i h; exact snd_fixed h (State.readWord_fixed ..)
    · rename_i h
      have h1 := snd_fixed h (State.readWord_fixed ..)
      split
      · exact h1
      · split <;> (rename_i h2; exact (snd_fixed h2 (State.walkPath_fixed t va f ..)).trans h1)
@[simp] theorem State.walkFrom_fixed (s : State) (t va l b : Nat) : (s.walkFrom t va l b).2.fixed = s.fixed := by
  unfold State.walkFrom
  split <;> rename_i h
  · exact snd_fixed h (State.walkPath_fixed ..)
  · split <;> exact snd_fixed h (State.walkPath_fixed ..)
@[simp] theorem State.walk_fixed (s : State) (t va : Nat) :
    (s.walk t va).2.fixed = s.fixed := by
  unfold State.walk
  repeat' first | with_reducible rfl | assumption | split | refine snd_fixed (by assumption) ?_ | refine (fold_fixed ?_).trans ?_ | intro _ _ | simp
@[simp] theorem State.walkShare_fixed (s : State) (bay t va : Nat) :
    (s.walkShare bay t va).2.fixed = s.fixed := by
  unfold State.walkShare
  repeat' first | with_reducible rfl | assumption | split | refine snd_fixed (by assumption) ?_ | refine (fold_fixed ?_).trans ?_ | intro _ _ | simp
@[simp] theorem State.touchTlb_fixed (s : State) (e : BrickId) (x : TlbEntry) :
    (s.touchTlb e x).fixed = s.fixed := rfl
@[simp] theorem State.endWalk_fixed (s : State) (e : BrickId) (t va : Nat) : (s.endWalk e t va).fixed = s.fixed := rfl
@[simp] theorem State.translate_fixed (s : State) (q : Access) (write : Bool) (va : Nat) :
    (s.translate q write va).2.fixed = s.fixed := by
  unfold State.translate
  repeat' first | with_reducible rfl | assumption | split | refine snd_fixed (by assumption) ?_ | refine (fold_fixed ?_).trans ?_ | intro _ _ | simp
@[simp] theorem State.keepChunk_fixed (s : State) (via : Option BrickId) (g : Option RegionId) (k n : Nat) (data : List Byte) :
    (s.keepChunk via g k n data).fixed = s.fixed := by
  unfold State.keepChunk
  repeat' first | with_reducible rfl | assumption | split | refine snd_fixed (by assumption) ?_ | refine (fold_fixed ?_).trans ?_ | intro _ _ | simp
@[simp] theorem State.rawRead_fixed : ∀ (ps : List (Nat × Nat)) (q : Access) (s : State), (s.rawRead q ps).2.fixed = s.fixed
  | [], _, _ => rfl
  | (va, n) :: rest, q, s => by
    simp only [State.rawRead]
    split
    · rename_i h; exact snd_fixed h (State.translate_fixed ..)
    · rename_i h
      have h1 := snd_fixed h (State.translate_fixed ..)
      split
      · exact (State.hbmUeRecord_fixed ..).trans ((State.fetchLine_fixed ..).trans h1)
      · split <;> (rename_i h2; exact (snd_fixed h2 (State.rawRead_fixed rest ..)).trans ((State.setLine_fixed ..).trans ((State.fetchLine_fixed ..).trans h1)))
@[simp] theorem State.readChunk_fixed (s : State) (q : Access) (k n : Nat) : (s.readChunk q k n).2.fixed = s.fixed := by
  simp only [State.readChunk]
  split
  · rfl
  · split
    · rfl
    · split
      · rename_i h; exact snd_fixed h (State.rawRead_fixed ..)
      · rename_i h
        have h1 := snd_fixed h (State.rawRead_fixed ..)
        split
        · rename_i h2; exact (snd_fixed h2 (State.rawRead_fixed ..)).trans h1
        · rename_i h2
          have h3 := (snd_fixed h2 (State.rawRead_fixed ..)).trans h1
          split
          · exact (State.keepChunk_fixed ..).trans h3
          · exact h3
@[simp] theorem State.readPieces_fixed : ∀ (ps : List (Nat × Nat)) (q : Access) (s : State), (s.readPieces q ps).2.fixed = s.fixed
  | [], _, _ => rfl
  | (va, n) :: rest, q, s => by
    simp only [State.readPieces]
    split
    · rename_i h; exact snd_fixed h (State.translate_fixed ..)
    · rename_i h0
      have h00 := snd_fixed h0 (State.translate_fixed ..)
      split
      · rename_i h; exact (snd_fixed h (State.rawRead_fixed ..)).trans h00
      · rename_i leaf _ _ _ raw ts s1 h
        have h1 := (snd_fixed h (State.rawRead_fixed ..)).trans h00
        have h2 : ∀ (p : Except Fail (List Byte) × State), p.2.fixed = s.fixed →
            (match p.1 with
              | .error f' => (Except.error (f', va), p.2)
              | .ok bytes => match p.2.readPieces { q with floor := max q.floor ts } rest with
                | (.ok (bs, ts'), s') => (.ok (bytes ++ bs, max ts ts'), s')
                | (.error f', s') => (.error f', s')).2.fixed = s.fixed := by
          intro p hp
          split
          · exact hp
          · split <;> (rename_i h'; exact (snd_fixed h' (State.readPieces_fixed rest ..)).trans hp)
        apply h2
        split
        · exact h1
        · split
          · exact h1
          · split <;> (rename_i h'; exact (snd_fixed h' (State.readChunk_fixed ..)).trans h1)
@[simp] theorem State.noteRegion_fixed (s : State) (g : Option RegionId) (ts : Nat) :
    (s.noteRegion g ts).fixed = s.fixed := by
  unfold State.noteRegion
  repeat' first | with_reducible rfl | assumption | split | refine snd_fixed (by assumption) ?_ | refine (fold_fixed ?_).trans ?_ | intro _ _ | simp
@[simp] theorem State.classRead_fixed (s : State) (q : Access) (va n : Nat) : (s.classRead q va n).2.fixed = s.fixed := by
  unfold State.classRead
  split <;> rename_i h
  · exact (State.noteRegion_fixed ..).trans (snd_fixed h (State.readPieces_fixed ..))
  · exact snd_fixed h (State.readPieces_fixed ..)
@[simp] theorem State.writeFaultAt_fixed (q : Access) : ∀ (ps : List (Nat × Nat)) (s : State), (s.writeFaultAt q ps).2.fixed = s.fixed
  | [], _ => rfl
  | (va, n) :: rest, s => by
    simp only [State.writeFaultAt]
    split <;> rename_i h
    · exact snd_fixed h (State.translate_fixed ..)
    · have h1 := snd_fixed h (State.translate_fixed ..)
      exact snd_ite_fixed h1 ((State.writeFaultAt_fixed q rest _).trans h1)
@[simp] theorem State.writeFault_fixed (s : State) (q : Access) (va n : Nat) : (s.writeFault q va n).2.fixed = s.fixed :=
  State.writeFaultAt_fixed ..
theorem dropOwn_fixed (s : State) (q : Access) (n : Nat) :
    (if q.cls = .brk then (q.via.map fun e => s.dropCopy e q.tenancy n).getD s else s).fixed = s.fixed := by
  refine ite_fixed ?_ rfl
  cases q.via
  · rfl
  · exact State.dropCopy_fixed ..
@[simp] theorem State.writePieces_fixed (q : Access) (base : Nat) (vs : List Byte) : ∀ (ps : List (Nat × Nat)) (s : State),
    (s.writePieces q base vs ps).2.fixed = s.fixed
  | [], _ => rfl
  | (va, n) :: rest, s => by
    simp only [State.writePieces]
    split <;> rename_i h
    · exact (State.writePieces_fixed q base vs rest _).trans (snd_fixed h (State.translate_fixed ..))
    · exact (State.writePieces_fixed q base vs rest _).trans ((State.setLine_fixed ..).trans ((dropOwn_fixed ..).trans
        ((State.writeLine_fixed ..).trans ((State.settleLine_fixed ..).trans (snd_fixed h (State.translate_fixed ..))))))
@[simp] theorem State.classWrite_fixed (s : State) (q : Access) (va : Nat) (vs : List Byte) : (s.classWrite q va vs).2.fixed = s.fixed := by
  unfold State.classWrite
  split <;> rename_i h
  · exact snd_fixed h (State.writeFault_fixed ..)
  · exact (State.noteRegion_fixed ..).trans ((State.writePieces_fixed ..).trans (snd_fixed h (State.writeFault_fixed ..)))
@[simp] theorem State.classReadWord_fixed (s : State) (q : Access) (va : Nat) :
    (s.classReadWord q va).2.fixed = s.fixed := by
  unfold State.classReadWord
  repeat' first | with_reducible rfl | assumption | split | refine snd_fixed (by assumption) ?_ | refine (fold_fixed ?_).trans ?_ | intro _ _ | simp

/-! Requests -/

@[simp] theorem State.issueGlobal_fixed (s : State) (b : BrickId) (k : ReqKind) (va : Nat) (d : List Byte) (c : Nat) (l : Bool) :
    (s.issueGlobal b k va d c l).fixed = s.fixed := rfl
@[simp] theorem State.flushLine_fixed (s : State) (e : BrickId) (n : Nat) : (s.flushLine e n).fixed = s.fixed := rfl
@[simp] theorem State.trimBuffer_fixed (s : State) (e : BrickId) :
    (s.trimBuffer e).fixed = s.fixed := by
  unfold State.trimBuffer
  repeat' first | with_reducible rfl | assumption | split | refine snd_fixed (by assumption) ?_ | refine (fold_fixed ?_).trans ?_ | intro _ _ | simp
@[simp] theorem State.routeReq_fixed (s : State) (r : Req) :
    (s.routeReq r).fixed = s.fixed := by
  unfold State.routeReq
  repeat' first | with_reducible rfl | assumption | split | refine snd_fixed (by assumption) ?_ | refine (fold_fixed ?_).trans ?_ | intro _ _ | simp
@[simp] theorem State.admit_fixed (s : State) (r : Req) :
    (s.onward r).fixed = s.fixed := by
  unfold State.onward
  repeat' first | with_reducible rfl | assumption | split | refine snd_fixed (by assumption) ?_ | refine (fold_fixed ?_).trans ?_ | intro _ _ | simp
@[simp] theorem State.ownerTake_fixed (s : State) (r : Req) : (s.ownerTake r).fixed = s.fixed := by
  simp only [State.ownerTake]; (repeat' split) <;> simp
@[simp] theorem State.loadPart_fixed (s : State) (r : Req) (k : Nat) (p : Part) :
    (s.loadPart r k p).fixed = s.fixed := by
  unfold State.loadPart
  repeat' first | with_reducible rfl | assumption | split | refine snd_fixed (by assumption) ?_ | refine (fold_fixed ?_).trans ?_ | intro _ _ | simp
@[simp] theorem State.shareLoads_fixed (s : State) (e : BrickId) (ln : Nat) :
    (s.shareLoads e ln).fixed = s.fixed := by
  unfold State.shareLoads
  repeat' first | with_reducible rfl | assumption | split | refine snd_fixed (by assumption) ?_ | refine (fold_fixed ?_).trans ?_ | intro _ _ | simp
@[simp] theorem State.chunkPiece_fixed (s : State) (r : Req) (k : Nat) (p : Part) (slot : Nat) (data : List Byte) :
    (s.chunkPiece r k p slot data).fixed = s.fixed := rfl
@[simp] theorem State.chunkPart_fixed (s : State) (r : Req) (slot n : Nat) (data : List Byte) :
    (s.chunkPart r slot n data).fixed = s.fixed :=
  fold_fixed fun _ _ => ite_fixed (State.chunkPiece_fixed ..) rfl
@[simp] theorem State.storePart_fixed (s : State) (r : Req) (k : Nat) (p : Part) :
    (s.storePart r k p).fixed = s.fixed := by
  unfold State.storePart
  repeat' first | with_reducible rfl | assumption | split | refine snd_fixed (by assumption) ?_ | refine (fold_fixed ?_).trans ?_ | intro _ _ | simp
@[simp] theorem State.sendOut_fixed (s : State) (n : Nat) :
    (s.sendOut n).fixed = s.fixed := rfl
@[simp] theorem State.serveFill_fixed (s : State) (sector : Nat) :
    (s.serveFill sector).fixed = s.fixed := by
  unfold State.serveFill
  repeat' first | with_reducible rfl | assumption | split | refine snd_fixed (by assumption) ?_ | refine (fold_fixed ?_).trans ?_ | intro _ _ | simp
@[simp] theorem State.replyTo_fixed (s : State) (r : Req) :
    (s.replyTo r).fixed = s.fixed := by
  unfold State.replyTo
  repeat' first | with_reducible rfl | assumption | split | refine snd_fixed (by assumption) ?_ | refine (fold_fixed ?_).trans ?_ | intro _ _ | simp
@[simp] theorem State.landReturn_fixed (s : State) (b : BrickId) (rch : Nat) (t : Token) :
    (s.landReturn b rch t).fixed = s.fixed := by
  unfold State.landReturn
  repeat' first | with_reducible rfl | assumption | split | refine snd_fixed (by assumption) ?_ | refine (fold_fixed ?_).trans ?_ | intro _ _ | simp
@[simp] theorem State.startHandover_fixed (s : State) (b o : BrickId) (va k : Nat) : (s.startHandover b o va k).fixed = s.fixed := by
  simp only [State.startHandover]; (repeat' split) <;> rfl
@[simp] theorem State.resetTs_fixed (s : State) (t : Nat) : (s.resetTs t).fixed = s.fixed := rfl
@[simp] theorem State.invalidate_fixed (s : State) (die : Nat) (cmd : Nat) (hit : TlbEntry → Bool) :
    (s.invalidate die cmd hit).fixed = s.fixed := rfl

/-! Footing -/

@[simp] theorem State.footRead_fixed (s : State) (q : Query) (va n : Nat) (fmt : Option Nat) :
    (s.footRead q va n fmt).2.fixed = s.fixed := by
  unfold State.footRead
  repeat' first | with_reducible rfl | assumption | split | refine snd_fixed (by assumption) ?_ | refine (fold_fixed ?_).trans ?_ | intro _ _ | simp
@[simp] theorem State.visit_fixed (s : State) (q : Query) (x : Nat) : (s.visit q x).2.fixed = s.fixed := by
  simp only [State.visit]
  split
  · rfl
  · split
    · rename_i h; exact snd_fixed h (State.footRead_fixed ..)
    · rename_i h; (repeat' split) <;> exact snd_fixed h (State.footRead_fixed ..)
@[simp] theorem State.visitAll_fixed (s : State) (q : Query) (l : List Nat) : (s.visitAll q l).2.fixed = s.fixed :=
  foldl_fixed2 _ (fun _ _ => State.visit_fixed ..) _ _
@[simp] theorem State.modQuery_fixed (s : State) (e i : Nat) (f : Query → Query) : (s.modQuery e i f).fixed = s.fixed := rfl
@[simp] theorem State.openQuery_fixed (s : State) (q : Query) : (s.openQuery q).2.fixed = s.fixed := by
  simp only [State.openQuery]
  split
  · rename_i h; exact snd_fixed h (State.footRead_fixed ..)
  · rename_i h
    have h1 := snd_fixed h (State.footRead_fixed ..)
    split
    · exact h1
    · split
      · (repeat' split) <;> simp [h1]
      · (repeat' split) <;> simp [h1]
@[simp] theorem State.answer_fixed (s : State) (q : Query) (r : FootReq) : (s.answer q r).2.2.fixed = s.fixed := by
  simp only [State.answer]
  repeat' first | with_reducible rfl | split | (refine snd_fixed (by assumption) ?_; rw [State.footRead_fixed])
@[simp] theorem State.prepareQuery_fixed (s : State) (q : Query) :
    (s.prepareQuery q).2.fixed = s.fixed := by
  unfold State.prepareQuery
  repeat' first | with_reducible rfl | assumption | split | refine snd_fixed (by assumption) ?_ | refine (fold_fixed ?_).trans ?_ | intro _ _ | simp
@[simp] theorem State.cancelQuery_fixed (s : State) (b : BrickId) (e q : Nat) : (s.cancelQuery b e q).fixed = s.fixed := by
  simp only [State.cancelQuery]; split <;> simp
@[simp] theorem State.cancelRegion_fixed (s : State) (g : RegionId) : (s.cancelRegion g).fixed = s.fixed :=
  foldl_fixed _ (fun _ _ => State.modFooting_fixed ..) _ _

/-! Slates -/

@[simp] theorem State.modMap_fixed (s : State) (n : Nat) (f : MapOp → MapOp) : (s.modMap n f).fixed = s.fixed := rfl
@[simp] theorem State.releaseGranules_fixed (s : State) (b : BrickId) (gs : List Nat) (p : Bool) :
    (s.releaseGranules b gs p).fixed = s.fixed := by simp [State.releaseGranules]
@[simp] theorem State.finishWords_fixed (s : State) (m : MapOp) (ws : List Nat) : (s.finishWords m ws).fixed = s.fixed := rfl
@[simp] theorem State.undoBinding_fixed (s : State) (m : MapOp) : (s.undoBinding m).fixed = s.fixed := by
  simp only [State.undoBinding]; split <;> simp
@[simp] theorem State.stopMap_fixed (s : State) (m : MapOp) (v : Nat) : (s.stopMap m v).fixed = s.fixed := by simp [State.stopMap]
@[simp] theorem State.stopAt_fixed (s : State) (m : MapOp) (v : Nat) (e : List Word) : (s.stopAt m v e).fixed = s.fixed := by
  simp [State.stopAt]
@[simp] theorem State.okMap_fixed (s : State) (m : MapOp) (a : Bool) (e : List Word) : (s.okMap m a e).fixed = s.fixed := rfl
@[simp] theorem State.failMap_fixed (s : State) (m : MapOp) (f : Fail) (va : Nat) : (s.failMap m f va).fixed = s.fixed := by
  simp [State.failMap]
@[simp] theorem State.homeRead_fixed (s : State) (q : Access) (va n : Nat) :
    (s.homeRead q va n).2.fixed = s.fixed := by
  unfold State.homeRead
  repeat' first | with_reducible rfl | assumption | split | refine snd_fixed (by assumption) ?_ | refine (fold_fixed ?_).trans ?_ | intro _ _ | simp
@[simp] theorem State.mapRead_fixed (s : State) (m : MapOp) (va n : Nat) :
    (s.mapRead m va n).2.fixed = s.fixed := by
  unfold State.mapRead
  repeat' first | with_reducible rfl | assumption | split | refine snd_fixed (by assumption) ?_ | refine (fold_fixed ?_).trans ?_ | intro _ _ | simp
theorem State.dropVia_fixed (s : State) (e : Option BrickId) (t n : Nat) :
    ((e.map fun e => s.dropCopy e t n).getD s).fixed = s.fixed := by
  cases e <;> rfl
theorem State.lockEntry_fixed (s : State) (m : MapOp) (va : Nat) (f : List Word → Option (List Word) × (State → MapOp → State))
    (h : ∀ e t n, ((f e).2 t n).fixed = t.fixed) : (s.lockEntry m va f).fixed = s.fixed := by
  simp only [State.lockEntry]
  split
  · rename_i h1; simp [snd_fixed h1 (State.translate_fixed ..)]
  · rename_i h0
    have h00 := snd_fixed h0 (State.translate_fixed ..)
    split
    · simp [h00]
    · simp [h, State.dropVia_fixed, h00]
@[simp] theorem toPhase_fixed (p : MapPhase) (s : State) (m : MapOp) :
    (toPhase p s m).fixed = s.fixed := rfl
theorem State.readDir_fixed (s : State) (m : MapOp) (x : Nat) (e : Option (List Word)) (k : State → MapOp → Nat → State)
    (h : ∀ t n v, (k t n v).fixed = t.fixed) : (s.readDir m x e k).fixed = s.fixed := by
  simp only [State.readDir]
  split
  · rename_i h1; simp [snd_fixed h1 (State.mapRead_fixed ..)]
  · rename_i h1; (repeat' split) <;> simp [h, snd_fixed h1 (State.mapRead_fixed ..)]
theorem unpinEntry_fixed (m : MapOp) (e : List Word) (t : State) (n : MapOp) : ((unpinEntry m e).2 t n).fixed = t.fixed := by
  simp only [unpinEntry]; (repeat' split) <;> simp
@[simp] theorem State.mapAccess_fixed (s : State) (m : MapOp) : (s.mapAccess m).fixed = s.fixed := by
  simp only [State.mapAccess]
  split
  · split
    · rename_i h; simp [snd_fixed h (State.mapRead_fixed ..)]
    · rename_i h; (repeat' split) <;> simp [snd_fixed h (State.mapRead_fixed ..)]
  · exact State.readDir_fixed _ _ _ _ _ fun t n v => ite_fixed (by simp) rfl
  · split
    · exact State.lockEntry_fixed _ _ _ _ fun e t n => by split <;> simp
    · exact State.lockEntry_fixed _ _ _ _ fun e t n => by split <;> simp
    · exact State.lockEntry_fixed _ _ _ _ fun e t n => unpinEntry_fixed ..
    · exact State.lockEntry_fixed _ _ _ _ fun e t n => unpinEntry_fixed ..
    · exact State.lockEntry_fixed _ _ _ _ fun e t n => unpinEntry_fixed ..
    · split
      · rename_i h; simp [snd_fixed h (State.mapRead_fixed ..)]
      · rename_i h; split <;> simp [snd_fixed h (State.mapRead_fixed ..)]
    · split
      · rename_i h; simp [snd_fixed h (State.mapRead_fixed ..)]
      · rename_i h; split <;> simp [snd_fixed h (State.mapRead_fixed ..)]
  · exact State.readDir_fixed _ _ _ _ _ fun t n v => rfl
  · exact State.lockEntry_fixed _ _ _ _ fun e t n => by split <;> simp
  · exact State.lockEntry_fixed _ _ _ _ fun e t n => by split <;> simp
  · exact State.lockEntry_fixed _ _ _ _ fun e t n => by simp
  · exact State.readDir_fixed _ _ _ _ _ fun t n v => rfl
  · exact State.lockEntry_fixed _ _ _ _ fun e t n => by simp
  · exact State.readDir_fixed _ _ _ _ _ fun t n v => rfl
  · split
    · rename_i h; simp [snd_fixed h (State.mapRead_fixed ..)]
    · rename_i h; simp [snd_fixed h (State.mapRead_fixed ..)]
  · rfl
  · rfl
theorem State.bindSlate_fixed {s t : State} {b : BrickId} {block : List Word} {w : Bool} (h : s.bindSlate b block = .ok (w, t)) :
    t.fixed = s.fixed := by
  simp only [State.bindSlate] at h
  repeat' split at h
  all_goals first | (cases h; done) | (simp only [Except.ok.injEq, Prod.mk.injEq] at h; rw [← h.2]; simp)
@[simp] theorem State.startMap_fixed (s : State) (b : BrickId) (k : MapKind) (r : Nat) (l : List Word) :
    (s.startMap b k r l).fixed = s.fixed := by
  simp only [State.startMap]
  split
  · split
    · rename_i h; exact (State.bindSlate_fixed h).trans rfl
    · rfl
  · rfl

/-! Streams -/

@[simp] theorem State.modShape_fixed (s : State) (b : BrickId) (r : Nat) (f : Shape → Shape) : (s.modShape b r f).fixed = s.fixed := rfl
@[simp] theorem State.streamFault_fixed (s : State) (b : BrickId) (r p : Nat) : (s.streamFault b r p).fixed = s.fixed := by
  simp only [State.streamFault]; split <;> simp
@[simp] theorem State.streamPage_fixed (s : State) (q : Access) (x : Shape) (base : Nat) (write : Bool) (va : Nat) :
    (s.streamPage q x base write va).2.fixed = s.fixed := by
  unfold State.streamPage
  repeat' first | with_reducible rfl | assumption | split | refine snd_fixed (by assumption) ?_ | refine (fold_fixed ?_).trans ?_ | intro _ _ | simp
@[simp] theorem State.withPage_fixed (s : State) (q : Access) (x : Shape) (base : Nat) (write : Bool) :
    (s.withPage q x base write).2.fixed = s.fixed := by
  unfold State.withPage
  repeat' first | with_reducible rfl | assumption | split | refine snd_fixed (by assumption) ?_ | refine (fold_fixed ?_).trans ?_ | intro _ _ | simp
@[simp] theorem State.readElems_fixed (x : Shape) : ∀ (m n : Nat) (q : Access) (s : State), (s.readElems q x m n).2.fixed = s.fixed
  | 0, _, _, _ => rfl
  | m + 1, n, q, s => by
    simp only [State.readElems]
    split
    · rename_i h; exact snd_fixed h (State.streamPage_fixed ..)
    · rename_i h
      have h1 := snd_fixed h (State.streamPage_fixed ..)
      split
      · rename_i h2; exact (snd_fixed h2 (State.classRead_fixed ..)).trans h1
      · rename_i h2
        have h3 := (snd_fixed h2 (State.classRead_fixed ..)).trans h1
        split <;> (rename_i h4; exact (snd_fixed h4 (State.readElems_fixed x m (n + 1) ..)).trans h3)
@[simp] theorem State.readScales_fixed (q : Access) : ∀ (l : List (Int × Nat)) (s : State), (s.readScales q l).2.fixed = s.fixed
  | [], _ => rfl
  | (_, a) :: rest, s => by
    simp only [State.readScales]
    split
    · rename_i h; exact snd_fixed h (State.classRead_fixed ..)
    · rename_i h
      have h1 := snd_fixed h (State.classRead_fixed ..)
      split <;> (rename_i h2; exact (snd_fixed h2 (State.readScales_fixed q rest _)).trans h1)
@[simp] theorem State.writeElem_fixed (s : State) (q : Access) (x : Shape) (n v : Nat) :
    (s.writeElem q x n v).2.fixed = s.fixed := by
  unfold State.writeElem
  repeat' first | with_reducible rfl | assumption | split | refine snd_fixed (by assumption) ?_ | refine (fold_fixed ?_).trans ?_ | intro _ _ | simp
@[simp] theorem State.writeElems_fixed (q : Access) (x : Shape) : ∀ (m n v : Nat) (s : State), (s.writeElems q x m n v).2.fixed = s.fixed
  | 0, _, _, _ => rfl
  | m + 1, n, v, s => by
    simp only [State.writeElems]
    split
    · rename_i h; exact snd_fixed h (State.writeElem_fixed ..)
    · rename_i h
      have h1 := snd_fixed h (State.writeElem_fixed ..)
      split <;> (rename_i h2; exact (snd_fixed h2 (State.writeElems_fixed q x m (n + 1) ..)).trans h1)
theorem State.landWord_fixed {s t : State} {b : BrickId} {x : Shape} {v : Nat} (h : s.landWord b x v = .ok t) : t.fixed = s.fixed := by
  simp only [State.landWord] at h
  split at h
  · cases h; simp
  · split at h
    · cases h; rfl
    · split at h
      · cases h
      · split at h
        · cases h
        · cases h; rfl
@[simp] theorem State.pushRoute_fixed (s : State) (b : BrickId) (n : Nat) (t : Token) : (s.pushRoute b n t).fixed = s.fixed := by
  simp [State.pushRoute]
@[simp] theorem State.nextWord_fixed (s : State) (b : BrickId) (r : Nat) : (s.nextWord b r).fixed = s.fixed := by
  simp only [State.nextWord]
  split
  · rename_i h; exact (State.streamFault_fixed ..).trans (snd_fixed h (State.withPage_fixed ..))
  · rename_i h
    have h0 := snd_fixed h (State.withPage_fixed ..)
    split
    · exact (State.streamFault_fixed ..).trans h0
    · split
      · rename_i h; exact (State.streamFault_fixed ..).trans ((snd_fixed h (State.readElems_fixed ..)).trans h0)
      · rename_i h
        have h1 := (snd_fixed h (State.readElems_fixed ..)).trans h0
        split
        · rename_i h2; exact (State.streamFault_fixed ..).trans ((snd_fixed h2 (State.readScales_fixed ..)).trans h1)
        · rename_i h2
          have h3 := (snd_fixed h2 (State.readScales_fixed ..)).trans h1
          split
          · split
            · exact (State.streamFault_fixed ..).trans h3
            · rename_i h4; exact (State.modShape_fixed ..).trans ((State.landWord_fixed h4).trans h3)
          · exact (State.modShape_fixed ..).trans h3
@[simp] theorem State.popInput_fixed (s : State) (b : BrickId) (r m : Nat) : (s.popInput b r m).fixed = s.fixed := rfl
@[simp] theorem State.dropWord_fixed (s : State) (b : BrickId) (r : Nat) : (s.dropWord b r).fixed = s.fixed := by simp [State.dropWord]
@[simp] theorem State.dataWord_fixed (s : State) (b : BrickId) (r : Nat) (v : Token) : (s.dataWord b r v).fixed = s.fixed := by
  simp only [State.dataWord]
  split
  · split
    · rename_i h; exact (State.streamFault_fixed ..).trans (snd_fixed h (State.withPage_fixed ..))
    · rename_i h0
      have h1 := snd_fixed h0 (State.withPage_fixed ..)
      split
      · rename_i h; exact (State.streamFault_fixed ..).trans ((snd_fixed h (State.writeElems_fixed ..)).trans h1)
      · rename_i h; exact (State.modShape_fixed ..).trans ((snd_fixed h (State.writeElems_fixed ..)).trans h1)
  · exact State.modShape_fixed ..
  · split
    · exact State.streamFault_fixed ..
    · rename_i h; exact (State.modShape_fixed ..).trans (State.landWord_fixed h)
@[simp] theorem State.scaleWord_fixed (s : State) (b : BrickId) (r : Nat) (tok : Token) :
    (s.scaleWord b r tok).fixed = s.fixed := by
  unfold State.scaleWord
  repeat' first | with_reducible rfl | assumption | split | refine snd_fixed (by assumption) ?_ | refine (fold_fixed ?_).trans ?_ | intro _ _ | simp
@[simp] theorem State.armShape_fixed (s : State) (b : BrickId) (r : Nat) : (s.armShape b r).fixed = s.fixed := by
  simp only [State.armShape, State.modShape_fixed]; (repeat' split) <;> simp
@[simp] theorem State.abortShape_fixed (s : State) (b : BrickId) (r : Nat) : (s.abortShape b r).fixed = s.fixed := rfl

/-! Yealms -/

@[simp] theorem State.startLaunch_fixed (s : State) (b : BrickId) (o c : Nat) : (s.startLaunch b o c).2.fixed = s.fixed := rfl
@[simp] theorem State.nextHop_fixed (s : State) (b : BrickId) (k : Nat) :
    (s.nextHop b k).2.fixed = s.fixed := by
  unfold State.nextHop
  repeat' first | with_reducible rfl | assumption | split | refine snd_fixed (by assumption) ?_ | refine (fold_fixed ?_).trans ?_ | intro _ _ | simp
@[simp] theorem State.landFrame_fixed (s : State) (b : BrickId) (k : Nat) (stop : Stop) (data : List Byte) (ue : List Nat) (ts floor : Nat) :
    (s.landFrame b k stop data ue ts floor).fixed = s.fixed := rfl
@[simp] theorem State.takeDock_fixed (s : State) (b : BrickId) (k : Nat) (st : DockState) : (s.takeDock b k st).fixed = s.fixed := rfl
@[simp] theorem State.routeDock_fixed (s : State) (b : BrickId) (k r : Nat) : (s.routeDock b k r).fixed = s.fixed := rfl
@[simp] theorem State.modPort_fixed (s : State) (p : Nat) (f : ScalePort → ScalePort) : (s.modPort p f).fixed = s.fixed := rfl
@[simp] theorem State.sendAbroad_fixed (s : State) (t : Nat) (l : List Byte) : (s.sendAbroad t l).fixed = s.fixed := by
  unfold State.sendAbroad; split <;> rfl
@[simp] theorem State.sendFrame_fixed (s : State) (b : BrickId) (k : Nat) :
    (s.sendFrame b k).fixed = s.fixed := by
  unfold State.sendFrame
  repeat' first | with_reducible rfl | assumption | split | refine snd_fixed (by assumption) ?_ | refine (fold_fixed ?_).trans ?_ | intro _ _ | simp
@[simp] theorem State.fetchSlate_fixed (s : State) (b : BrickId) (k : Nat) : (s.fetchSlate b k).fixed = s.fixed := by
  simp only [State.fetchSlate]
  split
  · rfl
  · split
    · rfl
    · split <;> (rename_i h; simp [snd_fixed h (State.classRead_fixed ..)])
@[simp] theorem State.startFire_fixed (s : State) (b : BrickId) (k : Nat) (f : Bool) (c : Nat) : (s.startFire b k f c).fixed = s.fixed := rfl
@[simp] theorem State.readBytesAt_fixed (b : BrickId) (k : Nat) : ∀ (l : List Nat) (s : State), (s.readBytesAt b k l).2.fixed = s.fixed
  | [], _ => rfl
  | a :: rest, s => by
    simp only [State.readBytesAt]
    split
    · rename_i h; exact snd_fixed h (State.classRead_fixed ..)
    · rename_i h
      have h1 := snd_fixed h (State.classRead_fixed ..)
      split <;> (rename_i h2; exact (snd_fixed h2 (State.readBytesAt_fixed b k rest _)).trans ((State.modBrick_fixed ..).trans h1))
@[simp] theorem State.fireVisit_fixed (s : State) (b : BrickId) (k : Nat) : (s.fireVisit b k).fixed = s.fixed := by
  simp only [State.fireVisit]
  split
  · rfl
  · split
    · exact (State.modBrick_fixed ..).trans (ite_fixed (State.meetBad_fixed ..) rfl)
    · split <;> (rename_i h; simp [snd_fixed h (State.readBytesAt_fixed ..)])

/-! Commit -/

@[simp] theorem State.modFiring_fixed (s : State) (b : BrickId) (k : Nat) (f : Firing → Firing) : (s.modFiring b k f).fixed = s.fixed := rfl
@[simp] theorem State.bankAtomic_fixed (s : State) (b : BrickId) (k o w a v y i : Nat) : (s.bankAtomic b k o w a v y i).fixed = s.fixed := rfl
@[simp] theorem State.applyEffect_fixed (s : State) (b : BrickId) (k c : Nat) (e : Effect) : (s.applyEffect b k c e).fixed = s.fixed := by
  cases e <;> simp only [State.applyEffect] <;> (try split) <;> simp

/-! Gateway -/

@[simp] theorem State.deliver_fixed (s : State) (d g : Nat) : (s.deliver d g).fixed = s.fixed := by
  simp only [State.deliver, State.modGateway_fixed]
  exact foldl_fixed2 (β := List Delivery) _ (fun p a => by (repeat' split) <;> simp) _ _

/-! LoadImage -/

@[simp] theorem State.readLoad_fixed (s : State) (g : RegionId) (t va : Nat) : (s.readLoad g t va).2.fixed = s.fixed := by
  simp only [State.readLoad]
  split
  · rename_i h; exact snd_fixed h (State.classRead_fixed ..)
  · rename_i h
    have h1 := snd_fixed h (State.classRead_fixed ..)
    split <;> (rename_i h2; exact (snd_fixed h2 (State.classRead_fixed ..)).trans h1)
@[simp] theorem State.connectRegion_fixed (s : State) (g : RegionId) : (s.connectRegion g).fixed = s.fixed := by
  simp only [State.connectRegion]; rw [fold_fixed (by simp)]

/-! Launch -/

@[simp] theorem State.rechargeBound_fixed (s : State) (b : BrickId) (n : Nat) : (s.rechargeBound b n).fixed = s.fixed := by
  simp [State.rechargeBound]
@[simp] theorem State.uncharged_fixed (s : State) (bs : List BrickId) :
    (s.uncharged bs).fixed = s.fixed := by
  unfold State.uncharged
  repeat' first | with_reducible rfl | assumption | split | refine snd_fixed (by assumption) ?_ | refine (fold_fixed ?_).trans ?_ | intro _ _ | simp
@[simp] theorem State.readOwners_fixed (s : State) (g : RegionId) (x : Slot) : (s.readOwners g x).2.fixed = s.fixed := by
  simp only [State.readOwners]
  split
  · rename_i h; exact snd_fixed h (State.classRead_fixed ..)
  · rename_i h
    have h1 := snd_fixed h (State.classRead_fixed ..)
    split
    · exact h1
    · split <;> (rename_i h2; exact (snd_fixed h2 (State.classRead_fixed ..)).trans h1)
@[simp] theorem State.readParams_fixed (g : RegionId) (t : Nat) : ∀ (l : List (Nat × Nat × Nat)) (s : State), (s.readParams g t l).2.fixed = s.fixed
  | [], _ => rfl
  | (_, _, _) :: rest, s => by
    simp only [State.readParams]
    split
    · rename_i h; exact snd_fixed h (State.classRead_fixed ..)
    · rename_i h
      have h1 := snd_fixed h (State.classRead_fixed ..)
      split <;> (rename_i h2; exact (snd_fixed h2 (State.readParams_fixed g t rest _)).trans h1)
@[simp] theorem State.noteLoadBad_fixed (s : State) (r : RegionId) (l : List (BrickId × Nat × Nat × Word)) :
    (s.noteLoadBad r l).fixed = s.fixed := by
  simp only [State.noteLoadBad]; split <;> simp
@[simp] theorem State.concludeChecks_fixed (s : State) (r : RegionId) (x : Slot) (p : Plan) (a : Accepted) :
    (s.concludeChecks r x p a).2.fixed = s.fixed := by
  unfold State.concludeChecks
  repeat' first | with_reducible rfl | assumption | split | refine snd_fixed (by assumption) ?_ | refine (fold_fixed ?_).trans ?_ | intro _ _ | simp
@[simp] theorem State.ownerMap_fixed (s : State) (g : RegionId) (x : Slot) : (s.ownerMap g x).2.fixed = s.fixed := by
  simp only [State.ownerMap]; split <;> simp
@[simp] theorem State.checkMaps_fixed (s : State) (r : RegionId) (x : Slot) (img : LoadImage) (placed : List (BrickId × BrickPart)) (p : Plan) (owners : Option (List (Nat × Nat × BrickId))) :
    (s.checkMaps r x img placed p owners).2.fixed = s.fixed := by
  unfold State.checkMaps
  repeat' first | with_reducible rfl | assumption | split | refine snd_fixed (by assumption) ?_ | refine (fold_fixed ?_).trans ?_ | intro _ _ | simp
@[simp] theorem State.checkStart_fixed (s : State) (r : RegionId) :
    (s.checkStart r).2.fixed = s.fixed := by
  unfold State.checkStart
  repeat' first | with_reducible rfl | assumption | split | refine snd_fixed (by assumption) ?_ | refine (fold_fixed ?_).trans ?_ | intro _ _ | simp
@[simp] theorem State.reject_fixed (s : State) (r : RegionId) (c : Nat) : (s.reject r c).fixed = s.fixed := rfl
@[simp] theorem State.bindKeys_fixed (s : State) (r : RegionId) (n : Nat) (l : List Nat) : (s.bindKeys r n l).fixed = s.fixed := by
  simp only [State.bindKeys, State.charge_fixed, State.modSlot_fixed]; rw [fold_fixed (by simp)]
@[simp] theorem State.extendLog_fixed (s : State) (t : Nat) (l : List Byte) : (s.extendLog t l).fixed = s.fixed := rfl
@[simp] theorem State.logLoad_fixed (s : State) (t h n : Nat) (r : RegionId) : (s.logLoad t h n r).fixed = s.fixed := rfl
@[simp] theorem State.queueTask_fixed (s : State) (die c : Nat) (t : Task) :
    (s.queueTask die c t).fixed = s.fixed := by
  unfold State.queueTask
  repeat' first | with_reducible rfl | assumption | split | refine snd_fixed (by assumption) ?_ | refine (fold_fixed ?_).trans ?_ | intro _ _ | simp
@[simp] theorem State.refillRing_fixed (s : State) (die c : Nat) : (s.refillRing die c).fixed = s.fixed :=
  (fold_fixed fun _ _ => State.queueTask_fixed ..).trans rfl
@[simp] theorem State.loadStart_fixed (s : State) (r : RegionId) (a : Accepted) :
    (s.loadStart r a).fixed = s.fixed := by
  unfold State.loadStart
  repeat' first | with_reducible rfl | assumption | split | refine snd_fixed (by assumption) ?_ | refine (fold_fixed ?_).trans ?_ | intro _ _ | simp
@[simp] theorem State.startRun_fixed (s : State) (r : RegionId) : (s.startRun r).fixed = s.fixed := by 
  simp only [State.startRun, State.modSlot_fixed]; rw [fold_fixed (by simp)]

/-! Slab -/

@[simp] theorem State.tellDone_fixed (s : State) (d c : Nat) (t : Task) (v w : Nat) : (s.tellDone d c t v w).fixed = s.fixed := by
  simp only [State.tellDone]; (repeat' split) <;> simp
@[simp] theorem State.ringHead_fixed (s : State) (q : Sched) (t : Task) :
    (s.ringHead q t).2.fixed = s.fixed := by
  unfold State.ringHead
  repeat' first | with_reducible rfl | assumption | split | refine snd_fixed (by assumption) ?_ | refine (fold_fixed ?_).trans ?_ | intro _ _ | simp
@[simp] theorem State.modAcc_fixed (s : State) (b : BrickId) (k : Nat) (f : Acc → Acc) : (s.modAcc b k f).fixed = s.fixed := rfl
@[simp] theorem State.endTask_fixed (s : State) (b : BrickId) (k : Nat) (t : Task) (v : Nat) : (s.endTask b k t v).fixed = s.fixed := by
  simp [State.endTask]
@[simp] theorem State.drainFork_fixed (s : State) (b : BrickId) (a : Nat) (t : Task) (ds : List Dest) (n j : Nat) (l m : List Nat) :
    (s.drainFork b a t ds n j l m).2.2.fixed = s.fixed := by
  unfold State.drainFork
  generalize List.range ds.length = ks
  extract_lets _
  suffices h : ∀ (ks : List Nat) (p : List Nat × List Nat × State), p.2.2.fixed = s.fixed → ((ks.foldl _ p).2.2.fixed = s.fixed) from h ks _ rfl
  intro ks
  induction ks with
  | nil => exact fun _ h => h
  | cons k ks ih =>
    intro p hp
    refine ih _ ?_
    dsimp only
    repeat' first | assumption | split | exact (State.launch_fixed ..).trans hp
@[simp] theorem State.endUnstarted_fixed (s : State) (b : BrickId) :
    (s.endUnstarted b).fixed = s.fixed := by
  unfold State.endUnstarted
  repeat' first | with_reducible rfl | assumption | split | refine snd_fixed (by assumption) ?_ | refine (fold_fixed ?_).trans ?_ | intro _ _ | simp

/-! HaltImage -/

@[simp] theorem State.readHalt_fixed (s : State) (g : RegionId) (x : Slot) : (s.readHalt g x).2.fixed = s.fixed := by
  simp only [State.readHalt]
  split
  · rename_i h; exact snd_fixed h (State.classRead_fixed ..)
  · rename_i h
    have h1 := snd_fixed h (State.classRead_fixed ..)
    split
    · rename_i h2; exact (snd_fixed h2 (State.classRead_fixed ..)).trans h1
    · rename_i h2; split <;> exact (snd_fixed h2 (State.classRead_fixed ..)).trans h1

/-! Regions -/

@[simp] theorem State.checkResumed_fixed (s : State) (r : RegionId) (x : Slot) (p : HaltParts) (q : PortParts) (frames : List Frame) (plan : Plan) (owners : Option (List (Nat × Nat × BrickId))) :
    (s.checkResumed r x p q frames plan owners).2.fixed = s.fixed := by
  unfold State.checkResumed
  repeat' first | with_reducible rfl | assumption | split | refine snd_fixed (by assumption) ?_ | refine (fold_fixed ?_).trans ?_ | intro _ _ | simp
@[simp] theorem State.checkResume_fixed (s : State) (r : RegionId) :
    (s.checkResume r).2.fixed = s.fixed := by
  unfold State.checkResume
  repeat' first | with_reducible rfl | assumption | split | refine snd_fixed (by assumption) ?_ | refine (fold_fixed ?_).trans ?_ | intro _ _ | simp
@[simp] theorem State.check_fixed (s : State) (r : RegionId) :
    (s.check r).2.fixed = s.fixed := by
  unfold State.check
  repeat' first | with_reducible rfl | assumption | split | refine snd_fixed (by assumption) ?_ | refine (fold_fixed ?_).trans ?_ | intro _ _ | simp
@[simp] theorem State.admitRegion_fixed (s : State) (r : RegionId) : (s.admitRegion r).fixed = s.fixed := by
  have h := State.check_fixed s r
  unfold State.admitRegion
  generalize s.check r = p at h ⊢
  obtain ⟨_ | a, t⟩ := p
  · exact h
  · exact ite_fixed h ((State.loadStart_fixed ..).trans h)
@[simp] theorem State.dropReconfigs_fixed (s : State) (r : RegionId) (n : Nat) : (s.dropReconfigs r n).fixed = s.fixed := by
  simp only [State.dropReconfigs]
  rw [fold_fixed (by intro t q; exact ite_fixed rfl rfl), fold_fixed (by simp)]
@[simp] theorem State.dropChunks_fixed (s : State) (r : RegionId) :
    (s.dropChunks r).fixed = s.fixed := rfl
@[simp] theorem State.drainBricks_fixed (s : State) (r : RegionId) :
    (s.drainBricks r).fixed = s.fixed := by
  unfold State.drainBricks
  repeat' first | with_reducible rfl | assumption | split | refine snd_fixed (by assumption) ?_ | refine (fold_fixed ?_).trans ?_ | intro _ _ | simp
@[simp] theorem State.stopEngines_fixed (s : State) (r : RegionId) : (s.stopEngines r).fixed = s.fixed := by
  
  unfold State.stopEngines
  extract_lets a f
  exact (fold_fixed (by intros; rfl)).trans ((fold_fixed (by intros; rfl)).trans (State.cancelRegion_fixed ..))
@[simp] theorem State.storeCompletion_fixed (s : State) (r : RegionId) : (s.storeCompletion r).fixed = s.fixed := by
  simp only [State.storeCompletion]
  split <;> (rename_i h; simp [snd_fixed h (State.classWrite_fixed ..)])
@[simp] theorem State.closeRegion_fixed (s : State) (r : RegionId) : (s.closeRegion r).fixed = s.fixed := by
  unfold State.closeRegion
  extract_lets x a f
  exact (show _ = f.fixed from rfl).trans ((State.refund_fixed ..).trans ((fold_fixed (by intros; rfl)).trans (fold_fixed (by intros; rfl))))
@[simp] theorem State.settleSlot_fixed (s : State) (r : RegionId) : (s.settleSlot r).fixed = s.fixed := by
  simp only [State.settleSlot]; split <;> simp
@[simp] theorem State.idleRecords_fixed (s : State) (r : RegionId) : (s.idleRecords r).fixed = s.fixed := by
  simp only [State.idleRecords]; rw [fold_fixed (by simp)]
@[simp] theorem State.stopLive_fixed (s : State) (b : BrickId) :
    (s.stopLive b).fixed = s.fixed := by
  unfold State.stopLive
  repeat' first | with_reducible rfl | assumption | split | refine snd_fixed (by assumption) ?_ | refine (fold_fixed ?_).trans ?_ | intro _ _ | simp

/-! Waves -/

@[simp] theorem State.startWave_fixed (s : State) (r : RegionId) (v a : Nat) (e : Bool) : (s.startWave r v a e).fixed = s.fixed := by
  simp only [State.startWave]
  split
  · rw [fold_fixed (by simp)]; simp
  · simp
@[simp] theorem State.writeImage_fixed (q : Access) : ∀ (l : List (Nat × List Byte)) (s : State), (s.writeImage q l).2.fixed = s.fixed
  | [], _ => rfl
  | (va, l) :: rest, s => by
    simp only [State.writeImage]
    split
    · rename_i h; exact snd_fixed h (State.classWrite_fixed ..)
    · rename_i h; exact (State.writeImage_fixed q rest _).trans (snd_fixed h (State.classWrite_fixed ..))
@[simp] theorem endCapture_fixed (r : RegionId) (p : Except (Fail × Nat) Unit × State) : (endCapture r p).fixed = p.2.fixed := by
  obtain ⟨_ | _, u⟩ := p
  · exact State.raiseFault_fixed ..
  · exact (State.modSlot_fixed ..).trans (State.storeCompletion_fixed ..)
@[simp] theorem State.capture_fixed (s : State) (r : RegionId) (w : Wave) : (s.capture r w).fixed = s.fixed := by
  unfold State.capture
  rw [endCapture_fixed, State.writeImage_fixed, State.modTenancy_fixed]

/-! Faults -/

@[simp] theorem State.noteCrossing_fixed (s : State) (die : Nat) (r : RegionId) :
    (s.noteCrossing die r).fixed = s.fixed := by
  unfold State.noteCrossing
  repeat' first | with_reducible rfl | assumption | split | refine snd_fixed (by assumption) ?_ | refine (fold_fixed ?_).trans ?_ | intro _ _ | simp
@[simp] theorem State.linkDown_fixed (s : State) (u : UnitRef) : (s.linkDown u).fixed = s.fixed := by
  unfold State.linkDown
  generalize allSlots = l
  extract_lets
  exact (fold_fixed (by intros; exact State.raiseFault_fixed ..)).trans ((State.writeRecord_fixed ..).trans (State.setUnit_fixed ..))
@[simp] theorem State.weigh_fixed (s : State) (u : UnitRef) (w a : Nat) : (s.weigh u w a).fixed = s.fixed :=
  ite_fixed ((State.linkDown_fixed ..).trans (State.countError_fixed ..)) (State.countError_fixed ..)
@[simp] theorem State.modPowered_fixed (s : State) (b : BrickId) (f : Brick → Brick) :
    (s.modPowered b f).fixed = s.fixed := by
  unfold State.modPowered
  repeat' first | with_reducible rfl | assumption | split | refine snd_fixed (by assumption) ?_ | refine (fold_fixed ?_).trans ?_ | intro _ _ | simp
@[simp] theorem State.markWord_fixed (s : State) (u : UnitRef) (a : Nat) : (s.markWord u a).fixed = s.fixed := by
  simp only [State.markWord]; (repeat' split) <;> first | rfl | simp

/-! HostSide -/

@[simp] theorem State.modHost_fixed (s : State) (f : HostLink → HostLink) : (s.modHost f).fixed = s.fixed := rfl
@[simp] theorem State.endCommand_fixed (s : State) (c : Command) (a b : Nat) : (s.endCommand c a b).fixed = s.fixed := rfl
@[simp] theorem State.drawKey_fixed (s : State) : s.drawKey.2.fixed = s.fixed := rfl
@[simp] theorem State.linkKeys_fixed (s : State) (t c : Nat) : (s.linkKeys t c).fixed = s.fixed := by
  simp only [State.linkKeys]
  rw [fold_fixed (by intro t e; exact ite_fixed rfl (ite_fixed rfl rfl))]
@[simp] theorem State.setTenancy_fixed (s : State) (t a b c : Nat) : (s.setTenancy t a b c).fixed = s.fixed := by
  simp only [State.setTenancy]; split <;> simp
@[simp] theorem State.emptySlot_fixed (s : State) (k : Nat) : (s.emptySlot k).fixed = s.fixed := by
  simp only [State.emptySlot]
  rw [fold_fixed (by intro t r; exact ite_fixed (by simp) rfl)]; simp
@[simp] theorem State.clearTenancy_fixed (s : State) (t : Nat) : (s.clearTenancy t).fixed = s.fixed := by
  simp only [State.clearTenancy, State.modTenancy_fixed]
  rw [fold_fixed (by intro t k; exact ite_fixed (by simp) rfl), fold_fixed (by intro t k; exact ite_fixed (by simp) rfl)]
  simp
@[simp] theorem State.spdmAnswer_fixed (s : State) (l : List Byte) : (s.spdmAnswer l).fixed = s.fixed := rfl
@[simp] theorem State.signed_fixed (s : State) (d : Nat) : (s.signed d).2.fixed = s.fixed := by unfold State.signed; rfl
@[simp] theorem State.checkpointBytes_fixed (s : State) (u : Nat) : (s.checkpointBytes u).2.fixed = s.fixed := by
  
  unfold State.checkpointBytes; extract_lets; split; rename_i h; exact snd_fixed h (State.signed_fixed ..)
@[simp] theorem State.flushLoft_fixed (s : State) : s.flushLoft.fixed = s.fixed := by
  simp only [State.flushLoft]; rw [fold_fixed (by simp)]
@[simp] theorem State.writeSram_fixed (s : State) (d : Nat) (l : List Byte) :
    (s.writeSram d l).fixed = s.fixed := by
  unfold State.writeSram
  repeat' first | with_reducible rfl | assumption | split | refine snd_fixed (by assumption) ?_ | refine (fold_fixed ?_).trans ?_ | intro _ _ | simp
@[simp] theorem State.writeSegment_fixed (s : State) (g : Nat × Nat × Nat × List Byte × Bool) : (s.writeSegment g).fixed = s.fixed := by
  simp only [State.writeSegment]; split <;> first | rfl | simp
@[simp] theorem State.wipeSegment_fixed (s : State) (g : Nat × Nat × Nat × List Byte × Bool) : (s.wipeSegment g).fixed = s.fixed := by
  simp only [State.wipeSegment]; (repeat' split) <;> rfl
@[simp] theorem State.reholdBrick_fixed (s : State) (g : Nat × Nat × Nat × List Byte × Bool) (l : List Byte) :
    (s.reholdBrick g l).fixed = s.fixed := rfl
@[simp] theorem State.restoreTenancies_fixed : ∀ (n : Nat) (s : State) (l : List Byte), (s.restoreTenancies n l).1.fixed = s.fixed
  | 0, _, _ => rfl
  | n + 1, s, l => by
    simp only [State.restoreTenancies]
    exact (State.restoreTenancies_fixed n _ _).trans rfl
@[simp] theorem State.restoreKeys_fixed : ∀ (n : Nat) (s : State) (l : List Byte), (s.restoreKeys n l).fixed = s.fixed
  | 0, _, _ => rfl
  | n + 1, s, l => by
    simp only [State.restoreKeys]
    exact (State.restoreKeys_fixed n _ _).trans rfl
@[simp] theorem State.unsealKeys_fixed (s : State) (l : List Byte) : (s.unsealKeys l).fixed = s.fixed := by
  unfold State.unsealKeys
  exact (State.restoreKeys_fixed ..).trans (State.restoreTenancies_fixed ..)
@[simp] theorem State.hstWrite_fixed (t : Nat) (i : Bool) (vs : List Byte) (a : Nat) : ∀ (l : List (Nat × Nat)) (s : State),
    (s.hstWrite t i vs a l).fixed = s.fixed
  | [], _ => rfl
  | (va, n) :: rest, s => by
    rw [State.hstWrite]
    split
    · rename_i h; exact snd_fixed h (State.translate_fixed ..)
    · rename_i h
      extract_lets _ _ _ _ _ t1 _ _ t2
      split
      have h1 : t1.fixed = s.fixed := (ite_fixed (State.settleLine_fixed ..) ((fold_fixed fun _ _ => State.fetchLine_fixed ..).trans
        (State.settleLine_fixed ..))).trans (snd_fixed h (State.translate_fixed ..))
      exact (State.hstWrite_fixed t i vs a rest _).trans ((State.setLine_fixed ..).trans ((State.putLine_fixed t1 _ _).trans h1))
@[simp] theorem State.hstRead_fixed (t : Nat) (i : Bool) : ∀ (l : List (Nat × Nat)) (s : State), (s.hstRead t i l).2.fixed = s.fixed
  | [], _ => rfl
  | (va, n) :: rest, s => by
    simp only [State.hstRead]
    split
    · rename_i h; exact snd_fixed h (State.translate_fixed ..)
    · rename_i h
      have h1 := snd_fixed h (State.translate_fixed ..)
      split
      · exact (State.hbmUeRecord_fixed ..).trans ((State.fetchLine_fixed ..).trans h1)
      · split <;> (rename_i h2; exact (snd_fixed h2 (State.hstRead_fixed t i rest _)).trans ((State.setLine_fixed ..).trans ((State.fetchLine_fixed ..).trans h1)))

end Sys2Proof.Machine
end

