-- ==== Sys2Proof/Laws/Keeps.lean ====
section
/-! SUPPORT. Every meaning answers a next state, and changes no more of `State.fixed` than its own rule says. -/

namespace Sys2Proof.Machine

open Sys2Proof

/-- The outcome is a next state with the clock, the agenda, the capability register and the error window as they were. -/
def Keeps (s : State) (o : Outcome) : Prop := ∃ t, o = .next t ∧ t.fixed = s.fixed

theorem keeps_next {s t : State} (h : t.fixed = s.fixed) : Keeps s (.next t) := ⟨t, rfl, h⟩
theorem keeps_refl (s : State) : Keeps s (.next s) := ⟨s, rfl, rfl⟩
theorem keeps_when {s t : State} {c : Bool} (h : t.fixed = s.fixed) : Keeps s (stepWhen c s t) := by
  cases c
  · exact ⟨s, rfl, rfl⟩
  · exact ⟨t, rfl, h⟩
theorem keeps_ite {s : State} {c : Prop} [Decidable c] {a b : Outcome} (ha : Keeps s a) (hb : Keeps s b) : Keeps s (if c then a else b) := by
  split <;> assumption

/-- A host command in its turn. -/
theorem runCommand_keeps {s : State} {opc len : Nat} {f : Command → Outcome} (h : ∀ c, Keeps s (f c)) : Keeps s (runCommand s opc len f) := by
  unfold runCommand
  split
  · exact keeps_refl s
  · exact keeps_ite (keeps_refl s) (keeps_ite (keeps_next (State.endCommand_fixed ..)) (h _))

/-- A rule fires or leaves the state as it is; a firing changes its brick alone. -/
theorem fireRule_keeps (i : Instr) (beat : Beat) (s : State) : Keeps s (fireRule i beat s) := by
  unfold fireRule
  extract_lets
  split
  · exact keeps_refl s
  · exact keeps_ite (keeps_next rfl) (keeps_refl s)

/-- An access waits for its page's walk, or goes on. -/
theorem paged_keeps {s : State} {l : List (Access × Nat × Nat)} {o : Outcome} (h : Keeps s o) : Keeps s (s.paged l o) := by
  unfold State.paged
  split
  · exact h
  · exact keeps_when rfl

/-- A slate-map access in its turn, or the flush that lets it have its turn. -/
theorem mapTurn_keeps {s t : State} {m : MapOp} {k : State → State} (hk : ∀ u, (k u).fixed = u.fixed) (ht : t.fixed = s.fixed) :
    Keeps s (s.mapTurn m k t) := by
  unfold State.mapTurn
  split
  · exact keeps_next ((hk t).trans ht)
  · exact keeps_ite (keeps_refl s) (keeps_ite (paged_keeps (keeps_next ((hk t).trans ht))) (keeps_next (State.flushLine_fixed ..)))

theorem execAdd_keeps (h : Head) (x : TBody) (s : State) : Keeps s (execAdd h x s) := fireRule_keeps ..
theorem execSub_keeps (h : Head) (x : TBody) (s : State) : Keeps s (execSub h x s) := fireRule_keeps ..
theorem execAdc_keeps (h : Head) (x : TBody) (s : State) : Keeps s (execAdc h x s) := fireRule_keeps ..
theorem execSbb_keeps (h : Head) (x : TBody) (s : State) : Keeps s (execSbb h x s) := fireRule_keeps ..
theorem execAddi_keeps (h : Head) (x : IBody) (s : State) : Keeps s (execAddi h x s) := fireRule_keeps ..
theorem execMul_keeps (h : Head) (x : TBody) (s : State) : Keeps s (execMul h x s) := fireRule_keeps ..
theorem execMulh_keeps (h : Head) (x : TBody) (s : State) : Keeps s (execMulh h x s) := fireRule_keeps ..
theorem execMulhu_keeps (h : Head) (x : TBody) (s : State) : Keeps s (execMulhu h x s) := fireRule_keeps ..
theorem execMad_keeps (h : Head) (x : TBody) (s : State) : Keeps s (execMad h x s) := fireRule_keeps ..
theorem execDivu_keeps (h : Head) (x : TBody) (s : State) : Keeps s (execDivu h x s) := fireRule_keeps ..
theorem execRemu_keeps (h : Head) (x : TBody) (s : State) : Keeps s (execRemu h x s) := fireRule_keeps ..
theorem execDivs_keeps (h : Head) (x : TBody) (s : State) : Keeps s (execDivs h x s) := fireRule_keeps ..
theorem execRems_keeps (h : Head) (x : TBody) (s : State) : Keeps s (execRems h x s) := fireRule_keeps ..
theorem execAdds_keeps (h : Head) (x : TBody) (s : State) : Keeps s (execAdds h x s) := fireRule_keeps ..
theorem execAddsu_keeps (h : Head) (x : TBody) (s : State) : Keeps s (execAddsu h x s) := fireRule_keeps ..
theorem execSubs_keeps (h : Head) (x : TBody) (s : State) : Keeps s (execSubs h x s) := fireRule_keeps ..
theorem execSubsu_keeps (h : Head) (x : TBody) (s : State) : Keeps s (execSubsu h x s) := fireRule_keeps ..
theorem execMin_keeps (h : Head) (x : TBody) (s : State) : Keeps s (execMin h x s) := fireRule_keeps ..
theorem execMax_keeps (h : Head) (x : TBody) (s : State) : Keeps s (execMax h x s) := fireRule_keeps ..
theorem execMinu_keeps (h : Head) (x : TBody) (s : State) : Keeps s (execMinu h x s) := fireRule_keeps ..
theorem execMaxu_keeps (h : Head) (x : TBody) (s : State) : Keeps s (execMaxu h x s) := fireRule_keeps ..
theorem execAbs_keeps (h : Head) (x : UBody) (s : State) : Keeps s (execAbs h x s) := fireRule_keeps ..
theorem execNeg_keeps (h : Head) (x : UBody) (s : State) : Keeps s (execNeg h x s) := fireRule_keeps ..
theorem execAnd_keeps (h : Head) (x : TBody) (s : State) : Keeps s (execAnd h x s) := fireRule_keeps ..
theorem execOr_keeps (h : Head) (x : TBody) (s : State) : Keeps s (execOr h x s) := fireRule_keeps ..
theorem execXor_keeps (h : Head) (x : TBody) (s : State) : Keeps s (execXor h x s) := fireRule_keeps ..
theorem execAndn_keeps (h : Head) (x : TBody) (s : State) : Keeps s (execAndn h x s) := fireRule_keeps ..
theorem execOrn_keeps (h : Head) (x : TBody) (s : State) : Keeps s (execOrn h x s) := fireRule_keeps ..
theorem execXnor_keeps (h : Head) (x : TBody) (s : State) : Keeps s (execXnor h x s) := fireRule_keeps ..
theorem execAndi_keeps (h : Head) (x : IBody) (s : State) : Keeps s (execAndi h x s) := fireRule_keeps ..
theorem execOri_keeps (h : Head) (x : IBody) (s : State) : Keeps s (execOri h x s) := fireRule_keeps ..
theorem execXori_keeps (h : Head) (x : IBody) (s : State) : Keeps s (execXori h x s) := fireRule_keeps ..
theorem execShl_keeps (h : Head) (x : TBody) (s : State) : Keeps s (execShl h x s) := fireRule_keeps ..
theorem execShr_keeps (h : Head) (x : TBody) (s : State) : Keeps s (execShr h x s) := fireRule_keeps ..
theorem execSar_keeps (h : Head) (x : TBody) (s : State) : Keeps s (execSar h x s) := fireRule_keeps ..
theorem execRol_keeps (h : Head) (x : TBody) (s : State) : Keeps s (execRol h x s) := fireRule_keeps ..
theorem execShli_keeps (h : Head) (x : UBody) (s : State) : Keeps s (execShli h x s) := fireRule_keeps ..
theorem execShri_keeps (h : Head) (x : UBody) (s : State) : Keeps s (execShri h x s) := fireRule_keeps ..
theorem execSari_keeps (h : Head) (x : UBody) (s : State) : Keeps s (execSari h x s) := fireRule_keeps ..
theorem execRoli_keeps (h : Head) (x : UBody) (s : State) : Keeps s (execRoli h x s) := fireRule_keeps ..
theorem execBext_keeps (h : Head) (x : UBody) (s : State) : Keeps s (execBext h x s) := fireRule_keeps ..
theorem execBexts_keeps (h : Head) (x : UBody) (s : State) : Keeps s (execBexts h x s) := fireRule_keeps ..
theorem execBins_keeps (h : Head) (x : UBody) (s : State) : Keeps s (execBins h x s) := fireRule_keeps ..
theorem execSext_keeps (h : Head) (x : UBody) (s : State) : Keeps s (execSext h x s) := fireRule_keeps ..
theorem execClz_keeps (h : Head) (x : UBody) (s : State) : Keeps s (execClz h x s) := fireRule_keeps ..
theorem execCtz_keeps (h : Head) (x : UBody) (s : State) : Keeps s (execCtz h x s) := fireRule_keeps ..
theorem execPopc_keeps (h : Head) (x : UBody) (s : State) : Keeps s (execPopc h x s) := fireRule_keeps ..
theorem execBrev_keeps (h : Head) (x : UBody) (s : State) : Keeps s (execBrev h x s) := fireRule_keeps ..
theorem execMov_keeps (h : Head) (x : TBody) (s : State) : Keeps s (execMov h x s) := fireRule_keeps ..
theorem execMovw_keeps (h : Head) (x : UBody) (s : State) : Keeps s (execMovw h x s) := fireRule_keeps ..
theorem execMovi_keeps (h : Head) (x : IBody) (s : State) : Keeps s (execMovi h x s) := fireRule_keeps ..
theorem execMovhi_keeps (h : Head) (x : IBody) (s : State) : Keeps s (execMovhi h x s) := fireRule_keeps ..
theorem execSel_keeps (h : Head) (x : TBody) (s : State) : Keeps s (execSel h x s) := fireRule_keeps ..
theorem execCmpeq_keeps (h : Head) (x : TBody) (s : State) : Keeps s (execCmpeq h x s) := fireRule_keeps ..
theorem execCmpne_keeps (h : Head) (x : TBody) (s : State) : Keeps s (execCmpne h x s) := fireRule_keeps ..
theorem execCmplt_keeps (h : Head) (x : TBody) (s : State) : Keeps s (execCmplt h x s) := fireRule_keeps ..
theorem execCmpltu_keeps (h : Head) (x : TBody) (s : State) : Keeps s (execCmpltu h x s) := fireRule_keeps ..
theorem execCmple_keeps (h : Head) (x : TBody) (s : State) : Keeps s (execCmple h x s) := fireRule_keeps ..
theorem execCmpleu_keeps (h : Head) (x : TBody) (s : State) : Keeps s (execCmpleu h x s) := fireRule_keeps ..
theorem execCmpeqi_keeps (h : Head) (x : IBody) (s : State) : Keeps s (execCmpeqi h x s) := fireRule_keeps ..
theorem execCmplti_keeps (h : Head) (x : IBody) (s : State) : Keeps s (execCmplti h x s) := fireRule_keeps ..
theorem execCmpltui_keeps (h : Head) (x : IBody) (s : State) : Keeps s (execCmpltui h x s) := fireRule_keeps ..
theorem execBtst_keeps (h : Head) (x : UBody) (s : State) : Keeps s (execBtst h x s) := fireRule_keeps ..
theorem execFadd_keeps (h : Head) (x : TBody) (s : State) : Keeps s (execFadd h x s) := fireRule_keeps ..
theorem execFsub_keeps (h : Head) (x : TBody) (s : State) : Keeps s (execFsub h x s) := fireRule_keeps ..
theorem execFmul_keeps (h : Head) (x : TBody) (s : State) : Keeps s (execFmul h x s) := fireRule_keeps ..
theorem execFfma_keeps (h : Head) (x : TBody) (s : State) : Keeps s (execFfma h x s) := fireRule_keeps ..
theorem execFfms_keeps (h : Head) (x : TBody) (s : State) : Keeps s (execFfms h x s) := fireRule_keeps ..
theorem execFmin_keeps (h : Head) (x : TBody) (s : State) : Keeps s (execFmin h x s) := fireRule_keeps ..
theorem execFmax_keeps (h : Head) (x : TBody) (s : State) : Keeps s (execFmax h x s) := fireRule_keeps ..
theorem execFminm_keeps (h : Head) (x : TBody) (s : State) : Keeps s (execFminm h x s) := fireRule_keeps ..
theorem execFmaxm_keeps (h : Head) (x : TBody) (s : State) : Keeps s (execFmaxm h x s) := fireRule_keeps ..
theorem execFcmpeq_keeps (h : Head) (x : TBody) (s : State) : Keeps s (execFcmpeq h x s) := fireRule_keeps ..
theorem execFcmplt_keeps (h : Head) (x : TBody) (s : State) : Keeps s (execFcmplt h x s) := fireRule_keeps ..
theorem execFcmple_keeps (h : Head) (x : TBody) (s : State) : Keeps s (execFcmple h x s) := fireRule_keeps ..
theorem execFcmpun_keeps (h : Head) (x : TBody) (s : State) : Keeps s (execFcmpun h x s) := fireRule_keeps ..
theorem execFabs_keeps (h : Head) (x : UBody) (s : State) : Keeps s (execFabs h x s) := fireRule_keeps ..
theorem execFneg_keeps (h : Head) (x : UBody) (s : State) : Keeps s (execFneg h x s) := fireRule_keeps ..
theorem execFscb_keeps (h : Head) (x : TBody) (s : State) : Keeps s (execFscb h x s) := fireRule_keeps ..
theorem execFdiv_keeps (h : Head) (x : TBody) (s : State) : Keeps s (execFdiv h x s) := fireRule_keeps ..
theorem execSfuExp2_keeps (h : Head) (x : UBody) (s : State) : Keeps s (execSfuExp2 h x s) := fireRule_keeps ..
theorem execSfuLog2_keeps (h : Head) (x : UBody) (s : State) : Keeps s (execSfuLog2 h x s) := fireRule_keeps ..
theorem execSfuRcp_keeps (h : Head) (x : UBody) (s : State) : Keeps s (execSfuRcp h x s) := fireRule_keeps ..
theorem execSfuRsqrt_keeps (h : Head) (x : UBody) (s : State) : Keeps s (execSfuRsqrt h x s) := fireRule_keeps ..
theorem execSfuSqrt_keeps (h : Head) (x : UBody) (s : State) : Keeps s (execSfuSqrt h x s) := fireRule_keeps ..
theorem execSfuTanh_keeps (h : Head) (x : UBody) (s : State) : Keeps s (execSfuTanh h x s) := fireRule_keeps ..
theorem execSfuSinpi_keeps (h : Head) (x : UBody) (s : State) : Keeps s (execSfuSinpi h x s) := fireRule_keeps ..
theorem execSfuCospi_keeps (h : Head) (x : UBody) (s : State) : Keeps s (execSfuCospi h x s) := fireRule_keeps ..
theorem execCvt_keeps (h : Head) (x : UBody) (s : State) : Keeps s (execCvt h x s) := fireRule_keeps ..
theorem execCvtfi_keeps (h : Head) (x : UBody) (s : State) : Keeps s (execCvtfi h x s) := fireRule_keeps ..
theorem execCvtif_keeps (h : Head) (x : UBody) (s : State) : Keeps s (execCvtif h x s) := fireRule_keeps ..
theorem execFrnd_keeps (h : Head) (x : UBody) (s : State) : Keeps s (execFrnd h x s) := fireRule_keeps ..
theorem execFsum_keeps (h : Head) (x : TBody) (s : State) : Keeps s (execFsum h x s) := fireRule_keeps ..
theorem execFmaxr_keeps (h : Head) (x : TBody) (s : State) : Keeps s (execFmaxr h x s) := fireRule_keeps ..
theorem execFdot_keeps (h : Head) (x : TBody) (s : State) : Keeps s (execFdot h x s) := fireRule_keeps ..
theorem execExpd_keeps (h : Head) (x : TBody) (s : State) : Keeps s (execExpd h x s) := fireRule_keeps ..
theorem execQblk_keeps (h : Head) (x : UBody) (s : State) : Keeps s (execQblk h x s) := fireRule_keeps ..
theorem execDqblk_keeps (h : Head) (x : TBody) (s : State) : Keeps s (execDqblk h x s) := fireRule_keeps ..
theorem execBpspl_keeps (h : Head) (x : TBody) (s : State) : Keeps s (execBpspl h x s) := fireRule_keeps ..
theorem execBpjn_keeps (h : Head) (x : TBody) (s : State) : Keeps s (execBpjn h x s) := fireRule_keeps ..
theorem execFcls_keeps (h : Head) (x : UBody) (s : State) : Keeps s (execFcls h x s) := fireRule_keeps ..
theorem execPlog_keeps (h : Head) (x : PBody) (s : State) : Keeps s (execPlog h x s) := fireRule_keeps ..
theorem execPsetv_keeps (h : Head) (x : PBody) (s : State) : Keeps s (execPsetv h x s) := fireRule_keeps ..
theorem execPtos_keeps (h : Head) (x : UBody) (s : State) : Keeps s (execPtos h x s) := fireRule_keeps ..
theorem execStop_keeps (h : Head) (x : UBody) (s : State) : Keeps s (execStop h x s) := fireRule_keeps ..
theorem execTrap_keeps (h : Head) (x : UBody) (s : State) : Keeps s (execTrap h x s) := fireRule_keeps ..
theorem execBkpt_keeps (h : Head) (x : UBody) (s : State) : Keeps s (execBkpt h x s) := fireRule_keeps ..
theorem execIdle_keeps (h : Head) (x : UBody) (s : State) : Keeps s (execIdle h x s) := fireRule_keeps ..
theorem execNop_keeps (h : Head) (x : UBody) (s : State) : Keeps s (execNop h x s) := fireRule_keeps ..
theorem execLdb_keeps (h : Head) (x : MBody) (s : State) : Keeps s (execLdb h x s) := fireRule_keeps ..
theorem execStb_keeps (h : Head) (x : MBody) (s : State) : Keeps s (execStb h x s) := fireRule_keeps ..
theorem execLdbi_keeps (h : Head) (x : MBody) (s : State) : Keeps s (execLdbi h x s) := fireRule_keeps ..
theorem execStbi_keeps (h : Head) (x : MBody) (s : State) : Keeps s (execStbi h x s) := fireRule_keeps ..
theorem execAtb_keeps (h : Head) (x : MBody) (s : State) : Keeps s (execAtb h x s) := fireRule_keeps ..
theorem execCasb_keeps (h : Head) (x : MBody) (s : State) : Keeps s (execCasb h x s) := fireRule_keeps ..
theorem execSpl_keeps (h : Head) (x : MBody) (s : State) : Keeps s (execSpl h x s) := fireRule_keeps ..
theorem execFil_keeps (h : Head) (x : MBody) (s : State) : Keeps s (execFil h x s) := fireRule_keeps ..
theorem execLdpw_keeps (h : Head) (x : UBody) (s : State) : Keeps s (execLdpw h x s) := fireRule_keeps ..
theorem execEmit_keeps (h : Head) (x : KBody) (s : State) : Keeps s (execEmit h x s) := fireRule_keeps ..
theorem execEos_keeps (h : Head) (x : KBody) (s : State) : Keeps s (execEos h x s) := fireRule_keeps ..
theorem execMark_keeps (h : Head) (x : KBody) (s : State) : Keeps s (execMark h x s) := fireRule_keeps ..
theorem execWeep_keeps (h : Head) (x : KBody) (s : State) : Keeps s (execWeep h x s) := fireRule_keeps ..
theorem execDrop_keeps (h : Head) (x : KBody) (s : State) : Keeps s (execDrop h x s) := fireRule_keeps ..
theorem execRtag_keeps (h : Head) (x : KBody) (s : State) : Keeps s (execRtag h x s) := fireRule_keeps ..
theorem execSteer_keeps (h : Head) (x : KBody) (s : State) : Keeps s (execSteer h x s) := fireRule_keeps ..
theorem execGld_keeps (h : Head) (x : XBody) (s : State) : Keeps s (execGld h x s) := fireRule_keeps ..
theorem execGst_keeps (h : Head) (x : XBody) (s : State) : Keeps s (execGst h x s) := fireRule_keeps ..
theorem execGat_keeps (h : Head) (x : XBody) (s : State) : Keeps s (execGat h x s) := fireRule_keeps ..
theorem execStrmArm_keeps (h : Head) (x : XBody) (s : State) : Keeps s (execStrmArm h x s) := fireRule_keeps ..
theorem execStrmAbort_keeps (h : Head) (x : XBody) (s : State) : Keeps s (execStrmAbort h x s) := fireRule_keeps ..
theorem execStrmStat_keeps (h : Head) (x : XBody) (s : State) : Keeps s (execStrmStat h x s) := fireRule_keeps ..
theorem execTtq_keeps (h : Head) (x : XBody) (s : State) : Keeps s (execTtq h x s) := fireRule_keeps ..
theorem execTtqTid_keeps (h : Head) (x : XBody) (s : State) : Keeps s (execTtqTid h x s) := fireRule_keeps ..
theorem execSlfFire_keeps (h : Head) (x : XBody) (s : State) : Keeps s (execSlfFire h x s) := fireRule_keeps ..
theorem execSlfHdrLaunch_keeps (h : Head) (x : XBody) (s : State) : Keeps s (execSlfHdrLaunch h x s) := fireRule_keeps ..
theorem execSlfHdrRd_keeps (h : Head) (x : XBody) (s : State) : Keeps s (execSlfHdrRd h x s) := fireRule_keeps ..
theorem execSlfHdrWr_keeps (h : Head) (x : XBody) (s : State) : Keeps s (execSlfHdrWr h x s) := fireRule_keeps ..
theorem execSlfFin_keeps (h : Head) (x : XBody) (s : State) : Keeps s (execSlfFin h x s) := fireRule_keeps ..
theorem execSlfRoute_keeps (h : Head) (x : XBody) (s : State) : Keeps s (execSlfRoute h x s) := fireRule_keeps ..
theorem execSlfPin_keeps (h : Head) (x : XBody) (s : State) : Keeps s (execSlfPin h x s) := fireRule_keeps ..
theorem execSlfUnpin_keeps (h : Head) (x : XBody) (s : State) : Keeps s (execSlfUnpin h x s) := fireRule_keeps ..
theorem execSlfLook_keeps (h : Head) (x : XBody) (s : State) : Keeps s (execSlfLook h x s) := fireRule_keeps ..
theorem execFqryPost_keeps (h : Head) (x : XBody) (s : State) : Keeps s (execFqryPost h x s) := fireRule_keeps ..
theorem execFqryCncl_keeps (h : Head) (x : XBody) (s : State) : Keeps s (execFqryCncl h x s) := fireRule_keeps ..
theorem execSysXfence_keeps (h : Head) (x : XBody) (s : State) : Keeps s (execSysXfence h x s) := fireRule_keeps ..
theorem execSysHandover_keeps (h : Head) (x : XBody) (s : State) : Keeps s (execSysHandover h x s) := fireRule_keeps ..
theorem execSysRdbsr_keeps (h : Head) (x : XBody) (s : State) : Keeps s (execSysRdbsr h x s) := fireRule_keeps ..
theorem execSysWrbsr_keeps (h : Head) (x : XBody) (s : State) : Keeps s (execSysWrbsr h x s) := fireRule_keeps ..
theorem execSysWatch_keeps (h : Head) (x : XBody) (s : State) : Keeps s (execSysWatch h x s) := fireRule_keeps ..
theorem execSysSink_keeps (h : Head) (x : XBody) (s : State) : Keeps s (execSysSink h x s) := fireRule_keeps ..
theorem execSysWptr_keeps (h : Head) (x : XBody) (s : State) : Keeps s (execSysWptr h x s) := fireRule_keeps ..
theorem execSysRdts_keeps (h : Head) (x : XBody) (s : State) : Keeps s (execSysRdts h x s) := fireRule_keeps ..

theorem execBeatIssue_keeps (b : BrickId) (s : State) : Keeps s (execBeatIssue b s) := by
  unfold execBeatIssue
  extract_lets
  split
  · exact keeps_refl s
  · split
    · exact keeps_refl s
    · split
      · extract_lets
        refine keeps_when ((State.modBrick_fixed ..).trans (ite_fixed ((fold_fixed (by intros; exact State.applyEffect_fixed ..)).trans ?_) ?_))
        · exact State.setBrick_fixed ..
        · exact State.setBrick_fixed ..
      · exact keeps_refl s
theorem execBeatWriteBack_keeps (b : BrickId) (k : Nat) (s : State) : Keeps s (execBeatWriteBack b k s) := by
  simp only [execBeatWriteBack]
  repeat' first | exact keeps_refl _ | with_reducible rfl | assumption | split | refine keeps_when ?_ | refine keeps_next ?_ | refine keeps_ite ?_ ?_ | refine snd_fixed (by assumption) ?_ | refine (fold_fixed ?_).trans ?_ | intro _ _ | simp
theorem State.commit_fixed (s : State) (b : BrickId) (k : Nat) (f : Firing) : (s.commit b k f).fixed = s.fixed := by
  unfold State.commit
  extract_lets
  exact (State.noteTs_fixed ..).trans ((State.modBrick_fixed ..).trans (fold_fixed fun _ _ => State.applyEffect_fixed ..))
theorem execFiringCommit_keeps (b : BrickId) (s : State) : Keeps s (execFiringCommit b s) := by
  unfold execFiringCommit
  extract_lets
  split
  · exact keeps_refl s
  · split
    · exact keeps_refl s
    · exact keeps_when (ite_fixed (State.modFiring_fixed ..) (State.commit_fixed ..))
theorem execPreciseTrap_keeps (b : BrickId) (s : State) : Keeps s (execPreciseTrap b s) := by
  simp only [execPreciseTrap]
  repeat' first | exact keeps_refl _ | with_reducible rfl | assumption | split | refine keeps_when ?_ | refine keeps_next ?_ | refine keeps_ite ?_ ?_ | refine snd_fixed (by assumption) ?_ | refine (fold_fixed ?_).trans ?_ | intro _ _ | simp
theorem execPickerWake_keeps (b : BrickId) (s : State) : Keeps s (execPickerWake b s) := by
  simp only [execPickerWake]
  repeat' first | exact keeps_refl _ | with_reducible rfl | assumption | split | refine keeps_when ?_ | refine keeps_next ?_ | refine keeps_ite ?_ ?_ | refine snd_fixed (by assumption) ?_ | refine (fold_fixed ?_).trans ?_ | intro _ _ | simp
theorem execTokenArrival_keeps (n : Nat) (s : State) : Keeps s (execTokenArrival n s) := by
  simp only [execTokenArrival]
  repeat' first | exact keeps_refl _ | with_reducible rfl | assumption | split | refine keeps_when ?_ | refine keeps_next ?_ | refine keeps_ite ?_ ?_ | refine snd_fixed (by assumption) ?_ | refine (fold_fixed ?_).trans ?_ | intro _ _ | simp
theorem execGutterRefill_keeps (b : BrickId) (ch : Nat) (s : State) : Keeps s (execGutterRefill b ch s) := by
  simp only [execGutterRefill]
  repeat' first | exact keeps_refl _ | with_reducible rfl | assumption | split | refine keeps_when ?_ | refine keeps_next ?_ | refine keeps_ite ?_ ?_ | refine snd_fixed (by assumption) ?_ | refine (fold_fixed ?_).trans ?_ | intro _ _ | simp
theorem execTokenForward_keeps (p : PortRef) (s : State) : Keeps s (execTokenForward p s) := by
  simp only [execTokenForward]
  split
  · exact keeps_refl s
  · apply keeps_when
    simp only [State.retirePort_fixed, State.setPort_fixed]
    rw [fold_fixed (by intros; exact ite_fixed (State.sendBranch_fixed ..) rfl)]
theorem execBranchHoldDeliver_keeps (p : PortRef) (branch : Nat) (s : State) : Keeps s (execBranchHoldDeliver p branch s) := by
  simp only [execBranchHoldDeliver]
  repeat' first | exact keeps_refl _ | with_reducible rfl | assumption | split | refine keeps_when ?_ | refine keeps_next ?_ | refine keeps_ite ?_ ?_ | refine snd_fixed (by assumption) ?_ | refine (fold_fixed ?_).trans ?_ | intro _ _ | simp
theorem execBrickAlign_keeps (b : BrickId) (s : State) : Keeps s (execBrickAlign b s) := by
  simp only [execBrickAlign]
  repeat' first | exact keeps_refl _ | with_reducible rfl | assumption | split | refine keeps_when ?_ | refine keeps_next ?_ | refine keeps_ite ?_ ?_ | refine snd_fixed (by assumption) ?_ | refine (fold_fixed ?_).trans ?_ | intro _ _ | simp
theorem execRegionRoundUpdate_keeps (r : RegionId) (s : State) : Keeps s (execRegionRoundUpdate r s) := by
  simp only [execRegionRoundUpdate]
  repeat' first | exact keeps_refl _ | with_reducible rfl | assumption | split | refine keeps_when ?_ | refine keeps_next ?_ | refine keeps_ite ?_ ?_ | refine snd_fixed (by assumption) ?_ | refine (fold_fixed ?_).trans ?_ | intro _ _ | simp
theorem execBrickWeep_keeps (b : BrickId) (s : State) : Keeps s (execBrickWeep b s) := by
  simp only [execBrickWeep]
  repeat' first | exact keeps_refl _ | with_reducible rfl | assumption | split | refine keeps_when ?_ | refine keeps_next ?_ | refine keeps_ite ?_ ?_ | refine snd_fixed (by assumption) ?_ | refine (fold_fixed ?_).trans ?_ | intro _ _ | simp
theorem execWeepOrder_keeps (r : RegionId) (s : State) : Keeps s (execWeepOrder r s) := by
  simp only [execWeepOrder]
  repeat' first | exact keeps_refl _ | with_reducible rfl | assumption | split | refine keeps_when ?_ | refine keeps_next ?_ | refine keeps_ite ?_ ?_ | refine snd_fixed (by assumption) ?_ | refine (fold_fixed ?_).trans ?_ | intro _ _ | simp
theorem execReconfigApply_keeps (b : BrickId) (s : State) : Keeps s (execReconfigApply b s) := by
  unfold execReconfigApply
  extract_lets
  split
  · extract_lets s1 _ _ _ s2 s3
    refine keeps_when ?_
    have h1 : s1.fixed = s.fixed := (State.connectRegion_fixed ..).trans ((State.modBrick_fixed ..).trans (State.stopLive_fixed ..))
    have h2 : s2.fixed = s.fixed := ite_fixed h1 ((State.modSched_fixed ..).trans h1)
    exact ite_fixed h2 ((State.modSlot_fixed ..).trans ((State.modSlot_fixed ..).trans h2))
  · exact keeps_refl s
theorem execBrickReclaim_keeps (b : BrickId) (s : State) : Keeps s (execBrickReclaim b s) := by
  simp only [execBrickReclaim]
  repeat' first | exact keeps_refl _ | with_reducible rfl | assumption | split | refine keeps_when ?_ | refine keeps_next ?_ | refine keeps_ite ?_ ?_ | refine snd_fixed (by assumption) ?_ | refine (fold_fixed ?_).trans ?_ | intro _ _ | simp
theorem execOwnerRequest_keeps (n : Nat) (s : State) : Keeps s (execOwnerRequest n s) := by
  simp only [execOwnerRequest]
  repeat' first | exact keeps_refl _ | with_reducible rfl | assumption | split | refine keeps_when ?_ | refine keeps_next ?_ | refine keeps_ite ?_ ?_ | refine snd_fixed (by assumption) ?_ | refine (fold_fixed ?_).trans ?_ | intro _ _ | simp
theorem execCoalesceTimeout_keeps (e : BrickId) (line : Nat) (s : State) : Keeps s (execCoalesceTimeout e line s) := by
  simp only [execCoalesceTimeout]
  repeat' first | exact keeps_refl _ | with_reducible rfl | assumption | split | refine keeps_when ?_ | refine keeps_next ?_ | refine keeps_ite ?_ ?_ | refine snd_fixed (by assumption) ?_ | refine (fold_fixed ?_).trans ?_ | intro _ _ | simp
theorem takeWalk_fixed (r : Except Fail TlbEntry) (s : State) (q : Req) : (s.takeWalk r q).fixed = s.fixed := by
  unfold State.takeWalk; split <;> simp
theorem answerWalk_fixed (r : Except Fail TlbEntry) (s : State) (w : Walk) : (s.answerWalk r w).fixed = s.fixed := by
  unfold State.answerWalk; split
  · rfl
  · exact (State.touchTlb_fixed ..).trans rfl
theorem execPageWalk_keeps (n : Nat) (s : State) : Keeps s (execPageWalk n s) := by
  unfold execPageWalk
  split
  · exact keeps_refl s
  · extract_lets
    split
    rename_i h
    exact keeps_when ((fold_fixed fun _ _ => answerWalk_fixed ..).trans ((fold_fixed fun _ _ => takeWalk_fixed ..).trans
      (snd_fixed h (State.walkShare_fixed ..))))
theorem execLoftAccess_keeps (n : Nat) (s : State) : Keeps s (execLoftAccess n s) := by
  simp only [execLoftAccess]
  repeat' first | exact keeps_refl _ | with_reducible rfl | assumption | split | refine keeps_when ?_ | refine keeps_next ?_ | refine keeps_ite ?_ ?_ | refine snd_fixed (by assumption) ?_ | refine (fold_fixed ?_).trans ?_ | intro _ _ | simp
theorem execLoftFillDone_keeps (line : Nat) (s : State) : Keeps s (execLoftFillDone line s) := by
  simp only [execLoftFillDone]
  repeat' first | exact keeps_refl _ | with_reducible rfl | assumption | split | refine keeps_when ?_ | refine keeps_next ?_ | refine keeps_ite ?_ ?_ | refine snd_fixed (by assumption) ?_ | refine (fold_fixed ?_).trans ?_ | intro _ _ | simp
theorem execHbmRequest_keeps (line : Nat) (s : State) : Keeps s (execHbmRequest line s) := by
  simp only [execHbmRequest]
  repeat' first | exact keeps_refl _ | with_reducible rfl | assumption | split | refine keeps_when ?_ | refine keeps_next ?_ | refine keeps_ite ?_ ?_ | refine snd_fixed (by assumption) ?_ | refine (fold_fixed ?_).trans ?_ | intro _ _ | simp
theorem execDeadlineService_keeps (line : Nat) (s : State) : Keeps s (execDeadlineService line s) := by
  simp only [execDeadlineService]
  repeat' first | exact keeps_refl _ | with_reducible rfl | assumption | split | refine keeps_when ?_ | refine keeps_next ?_ | refine keeps_ite ?_ ?_ | refine snd_fixed (by assumption) ?_ | refine (fold_fixed ?_).trans ?_ | intro _ _ | simp
theorem execRefreshStart_keeps (stack pc : Nat) (s : State) : Keeps s (execRefreshStart stack pc s) := by
  simp only [execRefreshStart]
  repeat' first | exact keeps_refl _ | with_reducible rfl | assumption | split | refine keeps_when ?_ | refine keeps_next ?_ | refine keeps_ite ?_ ?_ | refine snd_fixed (by assumption) ?_ | refine (fold_fixed ?_).trans ?_ | intro _ _ | simp
theorem execRefreshEnd_keeps (stack pc : Nat) (s : State) : Keeps s (execRefreshEnd stack pc s) := by
  simp only [execRefreshEnd]
  repeat' first | exact keeps_refl _ | with_reducible rfl | assumption | split | refine keeps_when ?_ | refine keeps_next ?_ | refine keeps_ite ?_ ?_ | refine snd_fixed (by assumption) ?_ | refine (fold_fixed ?_).trans ?_ | intro _ _ | simp
theorem execStackSensorReading_keeps (stack temp : Nat) (s : State) : Keeps s (execStackSensorReading stack temp s) := by
  simp only [execStackSensorReading]
  repeat' first | exact keeps_refl _ | with_reducible rfl | assumption | split | refine keeps_when ?_ | refine keeps_next ?_ | refine keeps_ite ?_ ?_ | refine snd_fixed (by assumption) ?_ | refine (fold_fixed ?_).trans ?_ | intro _ _ | simp
theorem execThermtrip_keeps (stack : Nat) (s : State) : Keeps s (execThermtrip stack s) := by
  unfold execThermtrip
  extract_lets
  exact keeps_when ((fold_fixed (by intros; exact State.raiseFault_fixed ..)).trans (State.writeRecord_fixed ..))
theorem execTalwUpdate_keeps (die rise : Nat) (s : State) : Keeps s (execTalwUpdate die rise s) := by
  simp only [execTalwUpdate]
  repeat' first | exact keeps_refl _ | with_reducible rfl | assumption | split | refine keeps_when ?_ | refine keeps_next ?_ | refine keeps_ite ?_ ?_ | refine snd_fixed (by assumption) ?_ | refine (fold_fixed ?_).trans ?_ | intro _ _ | simp
theorem execThermalNotice_keeps (r : RegionId) (stack : Nat) (s : State) : Keeps s (execThermalNotice r stack s) := by
  simp only [execThermalNotice]
  repeat' first | exact keeps_refl _ | with_reducible rfl | assumption | split | refine keeps_when ?_ | refine keeps_next ?_ | refine keeps_ite ?_ ?_ | refine snd_fixed (by assumption) ?_ | refine (fold_fixed ?_).trans ?_ | intro _ _ | simp
theorem execRstallRead_keeps (stack : Nat) (s : State) : Keeps s (execRstallRead stack s) := by
  simp only [execRstallRead]
  repeat' first | exact keeps_refl _ | with_reducible rfl | assumption | split | refine keeps_when ?_ | refine keeps_next ?_ | refine keeps_ite ?_ ?_ | refine snd_fixed (by assumption) ?_ | refine (fold_fixed ?_).trans ?_ | intro _ _ | simp
theorem execRebase_keeps (t : Nat) (s : State) : Keeps s (execRebase t s) := by
  simp only [execRebase]
  repeat' first | exact keeps_refl _ | with_reducible rfl | assumption | split | refine keeps_when ?_ | refine keeps_next ?_ | refine keeps_ite ?_ ?_ | refine snd_fixed (by assumption) ?_ | refine (fold_fixed ?_).trans ?_ | intro _ _ | simp
theorem execInvcmdVa_keeps (die t page : Nat) (s : State) : Keeps s (execInvcmdVa die t page s) := by
  simp only [execInvcmdVa]
  repeat' first | exact keeps_refl _ | with_reducible rfl | assumption | split | refine keeps_when ?_ | refine keeps_next ?_ | refine keeps_ite ?_ ?_ | refine snd_fixed (by assumption) ?_ | refine (fold_fixed ?_).trans ?_ | intro _ _ | simp
theorem execInvcmdTenancy_keeps (die t : Nat) (s : State) : Keeps s (execInvcmdTenancy die t s) := by
  simp only [execInvcmdTenancy]
  repeat' first | exact keeps_refl _ | with_reducible rfl | assumption | split | refine keeps_when ?_ | refine keeps_next ?_ | refine keeps_ite ?_ ?_ | refine snd_fixed (by assumption) ?_ | refine (fold_fixed ?_).trans ?_ | intro _ _ | simp
theorem execInvcmdComplete_keeps (die : Nat) (s : State) : Keeps s (execInvcmdComplete die s) := by
  simp only [execInvcmdComplete]
  repeat' first | exact keeps_refl _ | with_reducible rfl | assumption | split | refine keeps_when ?_ | refine keeps_next ?_ | refine keeps_ite ?_ ?_ | refine snd_fixed (by assumption) ?_ | refine (fold_fixed ?_).trans ?_ | intro _ _ | simp
theorem execGlobalReturn_keeps (n : Nat) (s : State) : Keeps s (execGlobalReturn n s) := by
  simp only [execGlobalReturn]
  split
  · exact keeps_when (by simp)
  · split
    · exact keeps_refl s
    · apply keeps_when
      simp only [State.noteTs_fixed, State.rcvd_fixed, State.modBrick_fixed]
      rw [fold_fixed (by intros; exact State.landReturn_fixed ..)]; simp
theorem execHandoverMessage_keeps (n : Nat) (s : State) : Keeps s (execHandoverMessage n s) := by
  simp only [execHandoverMessage]
  repeat' first | exact keeps_refl _ | with_reducible rfl | assumption | split | refine keeps_when ?_ | refine keeps_next ?_ | refine keeps_ite ?_ ?_ | refine snd_fixed (by assumption) ?_ | refine (fold_fixed ?_).trans ?_ | intro _ _ | simp
theorem execHandoverRelease_keeps (n : Nat) (s : State) : Keeps s (execHandoverRelease n s) := by
  unfold execHandoverRelease
  split
  · exact keeps_refl s
  · exact keeps_when ((fold_fixed fun _ _ => ite_fixed rfl (State.ownerTake_fixed ..)).trans rfl)
theorem execStreamTileStart_keeps (b : BrickId) (r : Nat) (s : State) : Keeps s (execStreamTileStart b r s) := by
  simp only [execStreamTileStart]
  repeat' first | exact keeps_refl _ | with_reducible rfl | assumption | split | refine keeps_when ?_ | refine keeps_next ?_ | refine keeps_ite ?_ ?_ | refine snd_fixed (by assumption) ?_ | refine (fold_fixed ?_).trans ?_ | intro _ _ | simp
theorem execStreamWordSend_keeps (b : BrickId) (r : Nat) (s : State) : Keeps s (execStreamWordSend b r s) := by
  unfold execStreamWordSend
  refine keeps_ite (keeps_refl s) ?_
  split
  · exact keeps_refl s
  · exact keeps_next ((State.modShape_fixed ..).trans (State.pushRoute_fixed ..))
  · exact keeps_next ((State.modShape_fixed ..).trans (State.pushRoute_fixed ..))
  · exact paged_keeps (keeps_next (State.nextWord_fixed ..))
theorem takeInput_fixed (s : State) (b : BrickId) (r : Nat) (t : Token) : (s.takeInput b r t).fixed = s.fixed := by
  unfold State.takeInput
  repeat' first | with_reducible rfl | assumption | split | refine ite_fixed ?_ ?_ | simp
theorem execStreamInputTake_keeps (b : BrickId) (r : Nat) (s : State) : Keeps s (execStreamInputTake b r s) := by
  unfold execStreamInputTake
  extract_lets
  split
  · exact keeps_refl s
  · exact keeps_ite (paged_keeps (keeps_next (takeInput_fixed ..))) (keeps_refl s)
theorem execStreamRunEnd_keeps (b : BrickId) (r : Nat) (s : State) : Keeps s (execStreamRunEnd b r s) := by
  simp only [execStreamRunEnd]
  repeat' first | exact keeps_refl _ | with_reducible rfl | assumption | split | refine keeps_when ?_ | refine keeps_next ?_ | refine keeps_ite ?_ ?_ | refine snd_fixed (by assumption) ?_ | refine (fold_fixed ?_).trans ?_ | intro _ _ | simp
theorem execDrawPortTake_keeps (b : BrickId) (s : State) : Keeps s (execDrawPortTake b s) := by
  simp only [execDrawPortTake]
  repeat' first | exact keeps_refl _ | with_reducible rfl | assumption | split | refine keeps_when ?_ | refine keeps_next ?_ | refine keeps_ite ?_ ?_ | refine snd_fixed (by assumption) ?_ | refine (fold_fixed ?_).trans ?_ | intro _ _ | simp
theorem execParamPortTake_keeps (b : BrickId) (s : State) : Keeps s (execParamPortTake b s) := by
  simp only [execParamPortTake]
  repeat' first | exact keeps_refl _ | with_reducible rfl | assumption | split | refine keeps_when ?_ | refine keeps_next ?_ | refine keeps_ite ?_ ?_ | refine snd_fixed (by assumption) ?_ | refine (fold_fixed ?_).trans ?_ | intro _ _ | simp
theorem execParamApply_keeps (b : BrickId) (s : State) : Keeps s (execParamApply b s) := by
  simp only [execParamApply]
  repeat' first | exact keeps_refl _ | with_reducible rfl | assumption | split | refine keeps_when ?_ | refine keeps_next ?_ | refine keeps_ite ?_ ?_ | refine snd_fixed (by assumption) ?_ | refine (fold_fixed ?_).trans ?_ | intro _ _ | simp
theorem execTaskRecordArrival_keeps (b : BrickId) (s : State) : Keeps s (execTaskRecordArrival b s) := by
  unfold execTaskRecordArrival
  extract_lets
  split
  · exact keeps_refl s
  · extract_lets
    exact keeps_when (ite_fixed (State.tellDone_fixed ..) (State.queueTask_fixed ..))
theorem execWindowEnter_keeps (die c : Nat) (s : State) : Keeps s (execWindowEnter die c s) := by
  simp only [execWindowEnter]
  repeat' first | exact keeps_refl _ | with_reducible rfl | assumption | split | refine keeps_when ?_ | refine keeps_next ?_ | refine keeps_ite ?_ ?_ | refine snd_fixed (by assumption) ?_ | refine (fold_fixed ?_).trans ?_ | intro _ _ | simp
theorem execStaleRecord_keeps (die c k : Nat) (s : State) : Keeps s (execStaleRecord die c k s) := by
  simp only [execStaleRecord]
  repeat' first | exact keeps_refl _ | with_reducible rfl | assumption | split | refine keeps_when ?_ | refine keeps_next ?_ | refine keeps_ite ?_ ?_ | refine snd_fixed (by assumption) ?_ | refine (fold_fixed ?_).trans ?_ | intro _ _ | simp
theorem execTaskIssue_keeps (die c : Nat) (s : State) : Keeps s (execTaskIssue die c s) := by
  simp only [execTaskIssue]
  repeat' first | exact keeps_refl _ | with_reducible rfl | assumption | split | refine keeps_when ?_ | refine keeps_next ?_ | refine keeps_ite ?_ ?_ | refine snd_fixed (by assumption) ?_ | refine (fold_fixed ?_).trans ?_ | intro _ _ | simp
theorem execTaskComputeEnd_keeps (b : BrickId) (acc : Nat) (s : State) : Keeps s (execTaskComputeEnd b acc s) := by
  simp only [execTaskComputeEnd]
  repeat' first | exact keeps_refl _ | with_reducible rfl | assumption | split | refine keeps_when ?_ | refine keeps_next ?_ | refine keeps_ite ?_ ?_ | refine snd_fixed (by assumption) ?_ | refine (fold_fixed ?_).trans ?_ | intro _ _ | simp
theorem execDrainStart_keeps (b : BrickId) (acc : Nat) (s : State) : Keeps s (execDrainStart b acc s) := by
  simp only [execDrainStart]
  repeat' first | exact keeps_refl _ | with_reducible rfl | assumption | split | refine keeps_when ?_ | refine keeps_next ?_ | refine keeps_ite ?_ ?_ | refine snd_fixed (by assumption) ?_ | refine (fold_fixed ?_).trans ?_ | intro _ _ | simp
theorem execDrainWord_keeps (b : BrickId) (acc : Nat) (s : State) : Keeps s (execDrainWord b acc s) := by
  simp only [execDrainWord]
  repeat' first | exact keeps_refl _ | with_reducible rfl | assumption | split | refine keeps_when ?_ | refine keeps_next ?_ | refine keeps_ite ?_ ?_ | refine snd_fixed (by assumption) ?_ | refine (fold_fixed ?_).trans ?_ | intro _ _ | simp
theorem execTaskDone_keeps (b : BrickId) (acc : Nat) (s : State) : Keeps s (execTaskDone b acc s) := by
  simp only [execTaskDone]
  repeat' first | exact keeps_refl _ | with_reducible rfl | assumption | split | refine keeps_when ?_ | refine keeps_next ?_ | refine keeps_ite ?_ ?_ | refine snd_fixed (by assumption) ?_ | refine (fold_fixed ?_).trans ?_ | intro _ _ | simp
theorem execSteerPortTake_keeps (die c : Nat) (s : State) : Keeps s (execSteerPortTake die c s) := by
  simp only [execSteerPortTake]
  repeat' first | exact keeps_refl _ | with_reducible rfl | assumption | split | refine keeps_when ?_ | refine keeps_next ?_ | refine keeps_ite ?_ ?_ | refine snd_fixed (by assumption) ?_ | refine (fold_fixed ?_).trans ?_ | intro _ _ | simp
theorem execSlateMapOperation_keeps (n : Nat) (s : State) : Keeps s (execSlateMapOperation n s) := by
  unfold execSlateMapOperation
  split
  · exact keeps_refl s
  · exact keeps_ite (mapTurn_keeps (fun _ => State.mapAccess_fixed ..) rfl) (keeps_refl s)
theorem execSlateRelease_keeps (n : Nat) (s : State) : Keeps s (execSlateRelease n s) := by
  unfold execSlateRelease
  split
  · exact keeps_refl s
  · extract_lets
    refine keeps_ite (mapTurn_keeps (fun _ => State.lockEntry_fixed _ _ _ _ fun _ _ _ => State.okMap_fixed ..) (ite_fixed ?_ ?_)) (keeps_refl s)
    · exact (State.modBrick_fixed ..).trans (State.releaseGranules_fixed ..)
    · exact State.releaseGranules_fixed ..
theorem execFrameLand_keeps (n : Nat) (s : State) : Keeps s (execFrameLand n s) := by
  simp only [execFrameLand]
  repeat' first | exact keeps_refl _ | with_reducible rfl | assumption | split | refine keeps_when ?_ | refine keeps_next ?_ | refine keeps_ite ?_ ?_ | refine snd_fixed (by assumption) ?_ | refine (fold_fixed ?_).trans ?_ | intro _ _ | simp
theorem execDockNotice_keeps (b : BrickId) (dock : Nat) (s : State) : Keeps s (execDockNotice b dock s) := by
  unfold execDockNotice
  extract_lets
  split
  · extract_lets t
    exact keeps_ite (paged_keeps (keeps_next (show t.fixed = s.fixed from ite_fixed (State.fetchSlate_fixed ..) rfl))) (keeps_refl s)
  · exact keeps_when ((State.modBrick_fixed ..).trans ((State.arriveInput_fixed ..).trans (State.modBrick_fixed ..)))
  · exact keeps_refl s
theorem execLaunchCopyEnd_keeps (b : BrickId) (dock : Nat) (s : State) : Keeps s (execLaunchCopyEnd b dock s) := by
  simp only [execLaunchCopyEnd]
  repeat' first | exact keeps_refl _ | with_reducible rfl | assumption | split | refine keeps_when ?_ | refine keeps_next ?_ | refine keeps_ite ?_ ?_ | refine snd_fixed (by assumption) ?_ | refine (fold_fixed ?_).trans ?_ | intro _ _ | simp
theorem execFireEnd_keeps (b : BrickId) (dock : Nat) (s : State) : Keeps s (execFireEnd b dock s) := by
  unfold execFireEnd
  split
  · extract_lets
    refine keeps_ite (paged_keeps (keeps_next (ite_fixed ?_ ?_))) (keeps_refl s)
    · exact (State.modBrick_fixed ..).trans (State.fireVisit_fixed ..)
    · exact (State.modBrick_fixed ..).trans (State.fireVisit_fixed ..)
  · exact keeps_refl s
theorem execRingPortSend_keeps (b : BrickId) (dock : Nat) (s : State) : Keeps s (execRingPortSend b dock s) := by
  unfold execRingPortSend
  split
  · extract_lets
    exact keeps_ite (paged_keeps (keeps_next (State.sendFrame_fixed ..))) (keeps_refl s)
  · exact keeps_when (State.modBrick_fixed ..)
  · exact keeps_refl s
theorem execFinTokenEmit_keeps (b : BrickId) (dock : Nat) (s : State) : Keeps s (execFinTokenEmit b dock s) := by
  simp only [execFinTokenEmit]
  repeat' first | exact keeps_refl _ | with_reducible rfl | assumption | split | refine keeps_when ?_ | refine keeps_next ?_ | refine keeps_ite ?_ ?_ | refine snd_fixed (by assumption) ?_ | refine (fold_fixed ?_).trans ?_ | intro _ _ | simp
theorem execGatewayContribution_keeps (die : Nat) (s : State) : Keeps s (execGatewayContribution die s) := by
  simp only [execGatewayContribution]
  repeat' first | exact keeps_refl _ | with_reducible rfl | assumption | split | refine keeps_when ?_ | refine keeps_next ?_ | refine keeps_ite ?_ ?_ | refine snd_fixed (by assumption) ?_ | refine (fold_fixed ?_).trans ?_ | intro _ _ | simp
theorem combine_fixed (s : State) (gid : Nat) (g : Group) : (s.combine gid g).fixed = s.fixed := by
  unfold State.combine
  extract_lets
  exact (fold_fixed fun _ _ => State.modGateway_fixed ..).trans (fold_fixed fun _ _ => State.modGateway_fixed ..)
theorem execGatewayCombine_keeps (gid : Nat) (s : State) : Keeps s (execGatewayCombine gid s) := by
  unfold execGatewayCombine
  extract_lets s1
  have h : s1.fixed = s.fixed := fold_fixed fun _ _ => State.deliver_fixed ..
  split
  · exact keeps_next h
  · exact keeps_next ((combine_fixed ..).trans h)
theorem execFootingPacketArrival_keeps (b : BrickId) (s : State) : Keeps s (execFootingPacketArrival b s) := by
  simp only [execFootingPacketArrival]
  repeat' first | exact keeps_refl _ | with_reducible rfl | assumption | split | refine keeps_when ?_ | refine keeps_next ?_ | refine keeps_ite ?_ ?_ | refine snd_fixed (by assumption) ?_ | refine (fold_fixed ?_).trans ?_ | intro _ _ | simp
theorem execQueryStart_keeps (eng : Nat) (s : State) : Keeps s (execQueryStart eng s) := by
  simp only [execQueryStart]
  repeat' first | exact keeps_refl _ | with_reducible rfl | assumption | split | refine keeps_when ?_ | refine keeps_next ?_ | refine keeps_ite ?_ ?_ | refine snd_fixed (by assumption) ?_ | refine (fold_fixed ?_).trans ?_ | intro _ _ | simp
theorem execExpansionStep_keeps (eng q : Nat) (s : State) : Keeps s (execExpansionStep eng q s) := by
  simp only [execExpansionStep]
  repeat' first | exact keeps_refl _ | with_reducible rfl | assumption | split | refine keeps_when ?_ | refine keeps_next ?_ | refine keeps_ite ?_ ?_ | refine snd_fixed (by assumption) ?_ | refine (fold_fixed ?_).trans ?_ | intro _ _ | simp
theorem execDistanceRequest_keeps (eng q k : Nat) (s : State) : Keeps s (execDistanceRequest eng q k s) := by
  simp only [execDistanceRequest]
  repeat' first | exact keeps_refl _ | with_reducible rfl | assumption | split | refine keeps_when ?_ | refine keeps_next ?_ | refine keeps_ite ?_ ?_ | refine snd_fixed (by assumption) ?_ | refine (fold_fixed ?_).trans ?_ | intro _ _ | simp
theorem execQueryComplete_keeps (eng q : Nat) (s : State) : Keeps s (execQueryComplete eng q s) := by
  simp only [execQueryComplete]
  repeat' first | exact keeps_refl _ | with_reducible rfl | assumption | split | refine keeps_when ?_ | refine keeps_next ?_ | refine keeps_ite ?_ ?_ | refine snd_fixed (by assumption) ?_ | refine (fold_fixed ?_).trans ?_ | intro _ _ | simp
theorem execQblkBufferEmit_keeps (b : BrickId) (s : State) : Keeps s (execQblkBufferEmit b s) := by
  simp only [execQblkBufferEmit]
  repeat' first | exact keeps_refl _ | with_reducible rfl | assumption | split | refine keeps_when ?_ | refine keeps_next ?_ | refine keeps_ite ?_ ?_ | refine snd_fixed (by assumption) ?_ | refine (fold_fixed ?_).trans ?_ | intro _ _ | simp
theorem execRegionCompletion_keeps (r : RegionId) (s : State) : Keeps s (execRegionCompletion r s) := by
  simp only [execRegionCompletion]
  repeat' first | exact keeps_refl _ | with_reducible rfl | assumption | split | refine keeps_when ?_ | refine keeps_next ?_ | refine keeps_ite ?_ ?_ | refine snd_fixed (by assumption) ?_ | refine (fold_fixed ?_).trans ?_ | intro _ _ | simp
theorem execCompletionWordStore_keeps (r : RegionId) (s : State) : Keeps s (execCompletionWordStore r s) := by
  simp only [execCompletionWordStore]
  (repeat' split) <;> first | exact keeps_refl _ | exact keeps_next (by first | rfl | (simp; done) | (split <;> first | rfl | (simp; done) | (split <;> first | rfl | (simp; done)))) | exact keeps_when (by first | rfl | (simp; done) | (split <;> first | rfl | (simp; done) | (split <;> first | rfl | (simp; done))))
theorem execCountWave_keeps (r : RegionId) (s : State) : Keeps s (execCountWave r s) := by
  simp only [execCountWave]
  repeat' first | exact keeps_refl _ | with_reducible rfl | assumption | split | refine keeps_when ?_ | refine keeps_next ?_ | refine keeps_ite ?_ ?_ | refine snd_fixed (by assumption) ?_ | refine (fold_fixed ?_).trans ?_ | intro _ _ | simp
theorem execRegionFault_keeps (r : RegionId) (s : State) : Keeps s (execRegionFault r s) := by
  unfold execRegionFault
  extract_lets
  split
  · exact keeps_refl s
  · extract_lets
    exact keeps_when ((State.modSlot_fixed ..).trans ((State.drainBricks_fixed ..).trans ((State.stopEngines_fixed ..).trans
      ((State.dropReconfigs_fixed ..).trans (State.modDie_fixed ..)))))
theorem execBindSubmit_keeps (r : RegionId) (w0 : Word) (s : State) : Keeps s (execBindSubmit r w0 s) := by
  simp only [execBindSubmit]
  repeat' first | exact keeps_refl _ | with_reducible rfl | assumption | split | refine keeps_when ?_ | refine keeps_next ?_ | refine keeps_ite ?_ ?_ | refine snd_fixed (by assumption) ?_ | refine (fold_fixed ?_).trans ?_ | intro _ _ | simp
theorem sendReconfig_fixed (s : State) (r : RegionId) (h : Nat) (l : List Nat) (bs : List (Nat × Nat)) (ps : List (BrickId × BrickPart)) :
    (s.sendReconfig r h l bs ps).fixed = s.fixed := by
  unfold State.sendReconfig
  extract_lets
  exact (State.modSlot_fixed ..).trans ((fold_fixed fun _ _ => State.modBrick_fixed ..).trans ((State.modSlot_fixed ..).trans
    ((fold_fixed fun _ _ => State.modSched_fixed ..).trans ((State.logLoad_fixed ..).trans (State.bindKeys_fixed ..)))))
theorem execReconfigSubmit_keeps (r : RegionId) (s : State) : Keeps s (execReconfigSubmit r s) := by
  unfold execReconfigSubmit
  extract_lets x t y turn done
  refine keeps_when ?_
  simp only [done]
  refine ite_fixed rfl (ite_fixed rfl (ite_fixed rfl (ite_fixed rfl ?_)))
  split
  · rename_i h; exact (State.reject_fixed ..).trans (snd_fixed h (State.readLoad_fixed ..))
  · rename_i h
    have h1 := snd_fixed h (State.readLoad_fixed ..)
    split
    · exact h1
    · refine ite_fixed h1 (ite_fixed ?_ ?_)
      · split
        · exact (State.raiseFault_fixed ..).trans ((State.reject_fixed ..).trans ((State.noteLoadBad_fixed ..).trans h1))
        · exact h1
      · split
        · exact h1
        · exact ite_fixed h1 ((sendReconfig_fixed ..).trans h1)
theorem execDispatchLoad_keeps (die : Nat) (s : State) : Keeps s (execDispatchLoad die s) := by
  simp only [execDispatchLoad]
  repeat' first | exact keeps_refl _ | with_reducible rfl | assumption | split | refine keeps_when ?_ | refine keeps_next ?_ | refine keeps_ite ?_ ?_ | refine snd_fixed (by assumption) ?_ | refine (fold_fixed ?_).trans ?_ | intro _ _ | simp
theorem execHeldRecordRelease_keeps (r : RegionId) (s : State) : Keeps s (execHeldRecordRelease r s) := by
  simp only [execHeldRecordRelease]
  repeat' first | exact keeps_refl _ | with_reducible rfl | assumption | split | refine keeps_when ?_ | refine keeps_next ?_ | refine keeps_ite ?_ ?_ | refine snd_fixed (by assumption) ?_ | refine (fold_fixed ?_).trans ?_ | intro _ _ | simp
theorem execBstatKill_keeps (r : RegionId) (node : Nat) (s : State) : Keeps s (execBstatKill r node s) := by
  simp only [execBstatKill]
  repeat' first | exact keeps_refl _ | with_reducible rfl | assumption | split | refine keeps_when ?_ | refine keeps_next ?_ | refine keeps_ite ?_ ?_ | refine snd_fixed (by assumption) ?_ | refine (fold_fixed ?_).trans ?_ | intro _ _ | simp
theorem execBstatClr_keeps (r : RegionId) (s : State) : Keeps s (execBstatClr r s) := by
  simp only [execBstatClr]
  repeat' first | exact keeps_refl _ | with_reducible rfl | assumption | split | refine keeps_when ?_ | refine keeps_next ?_ | refine keeps_ite ?_ ?_ | refine snd_fixed (by assumption) ?_ | refine (fold_fixed ?_).trans ?_ | intro _ _ | simp
theorem execBayGrant_keeps (node baysAsked : Nat) (s : State) : Keeps s (execBayGrant node baysAsked s) := by
  simp only [execBayGrant]
  repeat' first | exact keeps_refl _ | with_reducible rfl | assumption | split | refine keeps_when ?_ | refine keeps_next ?_ | refine keeps_ite ?_ ?_ | refine snd_fixed (by assumption) ?_ | refine (fold_fixed ?_).trans ?_ | intro _ _ | simp
theorem execBayReturn_keeps (node bay : Nat) (s : State) : Keeps s (execBayReturn node bay s) := by
  simp only [execBayReturn]
  repeat' first | exact keeps_refl _ | with_reducible rfl | assumption | split | refine keeps_when ?_ | refine keeps_next ?_ | refine keeps_ite ?_ ?_ | refine snd_fixed (by assumption) ?_ | refine (fold_fixed ?_).trans ?_ | intro _ _ | simp
theorem execSwcmd_keeps (die : Nat) (value : Word) (s : State) : Keeps s (execSwcmd die value s) := by
  simp only [execSwcmd]
  repeat' first | exact keeps_refl _ | with_reducible rfl | assumption | split | refine keeps_when ?_ | refine keeps_next ?_ | refine keeps_ite ?_ ?_ | refine snd_fixed (by assumption) ?_ | refine (fold_fixed ?_).trans ?_ | intro _ _ | simp
theorem execSetwStop_keeps (b : BrickId) (s : State) : Keeps s (execSetwStop b s) := by
  simp only [execSetwStop]
  repeat' first | exact keeps_refl _ | with_reducible rfl | assumption | split | refine keeps_when ?_ | refine keeps_next ?_ | refine keeps_ite ?_ ?_ | refine snd_fixed (by assumption) ?_ | refine (fold_fixed ?_).trans ?_ | intro _ _ | simp
theorem execSetwWaitExpiry_keeps (r : RegionId) (s : State) : Keeps s (execSetwWaitExpiry r s) := by
  unfold execSetwWaitExpiry
  extract_lets
  split
  · exact keeps_refl s
  · exact keeps_when ((State.cancelRegion_fixed ..).trans ((State.modSlot_fixed ..).trans (fold_fixed (by intros; exact State.modBrick_fixed ..))))
theorem execImageCapture_keeps (r : RegionId) (s : State) : Keeps s (execImageCapture r s) := by
  unfold execImageCapture
  extract_lets
  split
  · exact keeps_refl s
  · exact keeps_ite (keeps_next (State.cancelRegion_fixed ..)) (keeps_when (State.capture_fixed ..))
theorem execBsrCtlPickSet_keeps (b : BrickId) (s : State) : Keeps s (execBsrCtlPickSet b s) := by
  simp only [execBsrCtlPickSet]
  repeat' first | exact keeps_refl _ | with_reducible rfl | assumption | split | refine keeps_when ?_ | refine keeps_next ?_ | refine keeps_ite ?_ ?_ | refine snd_fixed (by assumption) ?_ | refine (fold_fixed ?_).trans ?_ | intro _ _ | simp
theorem execBsrCtlPickClear_keeps (b : BrickId) (s : State) : Keeps s (execBsrCtlPickClear b s) := by
  simp only [execBsrCtlPickClear]
  repeat' first | exact keeps_refl _ | with_reducible rfl | assumption | split | refine keeps_when ?_ | refine keeps_next ?_ | refine keeps_ite ?_ ?_ | refine snd_fixed (by assumption) ?_ | refine (fold_fixed ?_).trans ?_ | intro _ _ | simp
theorem execBsrCtlStep_keeps (b : BrickId) (on : Bool) (s : State) : Keeps s (execBsrCtlStep b on s) := by
  simp only [execBsrCtlStep]
  repeat' first | exact keeps_refl _ | with_reducible rfl | assumption | split | refine keeps_when ?_ | refine keeps_next ?_ | refine keeps_ite ?_ ?_ | refine snd_fixed (by assumption) ?_ | refine (fold_fixed ?_).trans ?_ | intro _ _ | simp
theorem execBsrCtlPass_keeps (b : BrickId) (s : State) : Keeps s (execBsrCtlPass b s) := by
  simp only [execBsrCtlPass]
  repeat' first | exact keeps_refl _ | with_reducible rfl | assumption | split | refine keeps_when ?_ | refine keeps_next ?_ | refine keeps_ite ?_ ?_ | refine snd_fixed (by assumption) ?_ | refine (fold_fixed ?_).trans ?_ | intro _ _ | simp
theorem execTscfgWrite_keeps (t : Nat) (value : Word) (s : State) : Keeps s (execTscfgWrite t value s) := by
  simp only [execTscfgWrite]
  repeat' first | exact keeps_refl _ | with_reducible rfl | assumption | split | refine keeps_when ?_ | refine keeps_next ?_ | refine keeps_ite ?_ ?_ | refine snd_fixed (by assumption) ?_ | refine (fold_fixed ?_).trans ?_ | intro _ _ | simp
theorem writeInvcmd_fixed (s : State) (d : Nat) (v : Word) : (s.writeInvcmd d v).fixed = s.fixed :=
  ite_fixed rfl (ite_fixed (State.invalidate_fixed ..) (State.modDie_fixed ..))
theorem execRegisterWrite_keeps (r : RegName) (value : Word) (s : State) : Keeps s (execRegisterWrite r value s) := by
  cases r with
  | tableEntry pa => exact keeps_next ((State.writeLine_fixed ..).trans (State.settleLine_fixed ..))
  | invcmd die => exact keeps_next (writeInvcmd_fixed ..)
  | _ => first | exact keeps_next rfl | exact keeps_when rfl
theorem execPatrolScrub_keeps (b : BrickId) (s : State) : Keeps s (execPatrolScrub b s) :=
  keeps_when (ite_fixed ((State.meetBad_fixed ..).trans (State.modBrick_fixed ..)) (State.modBrick_fixed ..))
theorem execErrorEvent_keeps (u : UnitRef) (kind : ErrorKind) (addr : Nat) (s : State) : Keeps s (execErrorEvent u kind addr s) := by
  cases kind with
  | corrected =>
    refine keeps_next ((State.weigh_fixed ..).trans ((State.setUnit_fixed ..).trans ?_))
    split <;> first | exact State.modPowered_fixed .. | rfl
  | retry => exact keeps_next ((State.weigh_fixed ..).trans (State.setUnit_fixed ..))
  | uncorrectable => exact keeps_next ((State.weigh_fixed ..).trans ((State.markWord_fixed ..).trans (State.setUnit_fixed ..)))
theorem execMapoutRemove_keeps (b : BrickId) (s : State) : Keeps s (execMapoutRemove b s) := by
  simp only [execMapoutRemove]
  repeat' first | exact keeps_refl _ | with_reducible rfl | assumption | split | refine keeps_when ?_ | refine keeps_next ?_ | refine keeps_ite ?_ ?_ | refine snd_fixed (by assumption) ?_ | refine (fold_fixed ?_).trans ?_ | intro _ _ | simp
theorem execKick_keeps (s : State) : Keeps s (execKick s) := by
  simp only [execKick]
  repeat' first | exact keeps_refl _ | with_reducible rfl | assumption | split | refine keeps_when ?_ | refine keeps_next ?_ | refine keeps_ite ?_ ?_ | refine snd_fixed (by assumption) ?_ | refine (fold_fixed ?_).trans ?_ | intro _ _ | simp
theorem execKickReread_keeps (s : State) : Keeps s (execKickReread s) := by
  simp only [execKickReread]
  repeat' first | exact keeps_refl _ | with_reducible rfl | assumption | split | refine keeps_when ?_ | refine keeps_next ?_ | refine keeps_ite ?_ ?_ | refine snd_fixed (by assumption) ?_ | refine (fold_fixed ?_).trans ?_ | intro _ _ | simp
theorem execCompletionPost_keeps (s : State) : Keeps s (execCompletionPost s) := by
  simp only [execCompletionPost]
  repeat' first | exact keeps_refl _ | with_reducible rfl | assumption | split | refine keeps_when ?_ | refine keeps_next ?_ | refine keeps_ite ?_ ?_ | refine snd_fixed (by assumption) ?_ | refine (fold_fixed ?_).trans ?_ | intro _ _ | simp
theorem execCqbaseWrite_keeps (value : Word) (s : State) : Keeps s (execCqbaseWrite value s) := by
  simp only [execCqbaseWrite]
  repeat' first | exact keeps_refl _ | with_reducible rfl | assumption | split | refine keeps_when ?_ | refine keeps_next ?_ | refine keeps_ite ?_ ?_ | refine snd_fixed (by assumption) ?_ | refine (fold_fixed ?_).trans ?_ | intro _ _ | simp
theorem execHostNop_keeps (s : State) : Keeps s (execHostNop s) := runCommand_keeps fun _ => keeps_next rfl
theorem execSummary_keeps (s : State) : Keeps s (execSummary s) := by
  refine runCommand_keeps fun c => ?_
  exact keeps_next ((State.endCommand_fixed ..).trans (State.modHost_fixed ..))
theorem meetStreamed_fixed (s : State) : s.meetStreamed.fixed = s.fixed := by
  unfold State.meetStreamed
  extract_lets
  exact (fold_fixed fun _ _ => fold_fixed fun _ _ => State.meetBad_fixed ..).trans (fold_fixed fun _ _ => State.hbmUeRecord_fixed ..)
theorem execChkpt_keeps (s : State) : Keeps s (execChkpt s) := by
  refine runCommand_keeps fun c => ?_
  split
  · exact keeps_next (State.modHost_fixed ..)
  · split
    · exact keeps_next ((State.startWave_fixed ..).trans (State.draw_fixed ..))
    · extract_lets
      refine keeps_ite ?_ (keeps_when (State.endCommand_fixed ..))
      exact keeps_when ((State.endCommand_fixed ..).trans ((State.modHost_fixed ..).trans ((State.checkpointBytes_fixed _ s.us).trans
        ((meetStreamed_fixed _).trans (State.flushLoft_fixed ..)))))
theorem execTenset_keeps (s : State) : Keeps s (execTenset s) := by
  refine runCommand_keeps fun c => ?_
  extract_lets
  exact keeps_ite (keeps_next (State.endCommand_fixed ..)) (keeps_next ((State.endCommand_fixed ..).trans (State.setTenancy_fixed ..)))
theorem execTenclr_keeps (s : State) : Keeps s (execTenclr s) := by
  refine runCommand_keeps fun c => ?_
  extract_lets
  exact keeps_ite (keeps_next (State.endCommand_fixed ..)) (keeps_next ((State.endCommand_fixed ..).trans (State.clearTenancy_fixed ..)))
theorem execKeymap_keeps (s : State) : Keeps s (execKeymap s) := by
  refine runCommand_keeps fun c => ?_
  extract_lets
  exact keeps_ite (keeps_next (State.endCommand_fixed ..)) (keeps_next ((State.endCommand_fixed ..).trans (State.modKeySlot_fixed ..)))
theorem restoreFrom_fixed (s : State) (c : Command) (l : List Byte) : (s.restoreFrom c l).fixed = s.fixed := by
  unfold State.restoreFrom
  extract_lets segs good written blob held
  have hw : written.fixed = s.fixed := (fold_fixed fun _ _ => State.writeSegment_fixed ..).trans rfl
  refine ite_fixed ?_ ?_
  · exact (State.endCommand_fixed ..).trans ((fold_fixed fun _ _ => State.wipeSegment_fixed ..).trans hw)
  · exact (State.endCommand_fixed ..).trans ((State.unsealKeys_fixed ..).trans ((fold_fixed fun _ _ => State.reholdBrick_fixed ..).trans hw))
theorem execRestore_keeps (safeTier : List Byte) (s : State) : Keeps s (execRestore safeTier s) := by
  refine runCommand_keeps fun c => ?_
  extract_lets
  exact keeps_ite (keeps_next (State.endCommand_fixed ..)) (keeps_when (ite_fixed (restoreFrom_fixed ..) (State.endCommand_fixed ..)))
theorem sessionAnswer_fixed (s : State) (k : Nat) (l : List Byte) : (s.sessionAnswer k l).fixed = s.fixed := by
  unfold State.sessionAnswer; split <;> rfl
theorem execKeyload_keeps (session t hash key : Nat) (s : State) : Keeps s (execKeyload session t hash key s) := by
  unfold execKeyload
  split
  · exact keeps_refl s
  · refine keeps_ite (keeps_next (sessionAnswer_fixed ..)) ?_
    split <;> exact keeps_next (sessionAnswer_fixed ..)
theorem execKeydrop_keeps (session slot : Nat) (s : State) : Keeps s (execKeydrop session slot s) := by
  unfold execKeydrop
  split
  · exact keeps_refl s
  · extract_lets
    exact keeps_ite (keeps_next ((sessionAnswer_fixed ..).trans (State.emptySlot_fixed ..))) (keeps_next (sessionAnswer_fixed ..))
theorem execSpdmGetCertificate_keeps (s : State) : Keeps s (execSpdmGetCertificate s) := by
  simp only [execSpdmGetCertificate]
  repeat' first | exact keeps_refl _ | with_reducible rfl | assumption | split | refine keeps_when ?_ | refine keeps_next ?_ | refine keeps_ite ?_ ?_ | refine snd_fixed (by assumption) ?_ | refine (fold_fixed ?_).trans ?_ | intro _ _ | simp
theorem execSpdmChallenge_keeps (nonce : Nat) (s : State) : Keeps s (execSpdmChallenge nonce s) := by
  simp only [execSpdmChallenge]
  repeat' first | exact keeps_refl _ | with_reducible rfl | assumption | split | refine keeps_when ?_ | refine keeps_next ?_ | refine keeps_ite ?_ ?_ | refine snd_fixed (by assumption) ?_ | refine (fold_fixed ?_).trans ?_ | intro _ _ | simp
theorem execSpdmGetMeasurements_keeps (index nonce : Nat) (s : State) : Keeps s (execSpdmGetMeasurements index nonce s) := by
  simp only [execSpdmGetMeasurements]
  repeat' first | exact keeps_refl _ | with_reducible rfl | assumption | split | refine keeps_when ?_ | refine keeps_next ?_ | refine keeps_ite ?_ ?_ | refine snd_fixed (by assumption) ?_ | refine (fold_fixed ?_).trans ?_ | intro _ _ | simp
theorem openSession_fixed (s : State) (k : Nat) (p : Nat × Nat) (a : Option ((Nat × Nat) × (Nat × Nat))) :
    (s.openSession k p a).fixed = s.fixed := by
  unfold State.openSession
  split
  rename_i h
  have h1 := snd_fixed h (State.drawKey_fixed ..)
  exact ite_fixed ((State.spdmAnswer_fixed ..).trans h1) ((State.spdmAnswer_fixed ..).trans ((show _ = _ from rfl).trans h1))
theorem execSpdmKeyExchange_keeps (request : SessionRequest) (s : State) : Keeps s (execSpdmKeyExchange request s) := by
  cases request with
  | exchange x y auth =>
    unfold execSpdmKeyExchange
    dsimp only
    split
    · exact keeps_next (ite_fixed (openSession_fixed ..) (State.spdmAnswer_fixed ..))
    · exact keeps_next (State.spdmAnswer_fixed ..)
  | update k => exact keeps_next (ite_fixed ((show _ = (s.sessionAnswer k []).fixed from rfl).trans (sessionAnswer_fixed ..)) rfl)
  | heartbeat k => exact keeps_next (sessionAnswer_fixed ..)
  | leave k => exact keeps_next ((show _ = (s.sessionAnswer k []).fixed from rfl).trans (sessionAnswer_fixed ..))
theorem execWeightChunkRead_keeps (b : BrickId) (va : Nat) (s : State) : Keeps s (execWeightChunkRead b va s) := by
  simp only [execWeightChunkRead]
  repeat' first | exact keeps_refl _ | with_reducible rfl | assumption | split | refine keeps_when ?_ | refine keeps_next ?_ | refine keeps_ite ?_ ?_ | refine snd_fixed (by assumption) ?_ | refine (fold_fixed ?_).trans ?_ | intro _ _ | simp
theorem linkRetry_fixed (s : State) (p : Nat) : (s.linkRetry p).fixed = s.fixed := (State.weigh_fixed ..).trans (State.setUnit_fixed ..)
theorem execRingFlitReceive_keeps (port : Nat) (flit : List Byte) (s : State) : Keeps s (execRingFlitReceive port flit s) := by
  unfold execRingFlitReceive
  extract_lets
  refine keeps_when (ite_fixed ((linkRetry_fixed ..).trans (State.modPort_fixed ..)) (ite_fixed (ite_fixed ?_ ?_) (ite_fixed ?_ ?_)))
  · exact State.modTenancy_fixed ..
  · exact ite_fixed ((linkRetry_fixed ..).trans (State.modPort_fixed ..)) (State.modPort_fixed ..)
  · exact (State.modTenancy_fixed ..).trans (State.modPort_fixed ..)
  · exact State.modPort_fixed ..
theorem execLinkdown_keeps (u : UnitRef) (s : State) : Keeps s (execLinkdown u s) := by
  simp only [execLinkdown]
  repeat' first | exact keeps_refl _ | with_reducible rfl | assumption | split | refine keeps_when ?_ | refine keeps_next ?_ | refine keeps_ite ?_ ?_ | refine snd_fixed (by assumption) ?_ | refine (fold_fixed ?_).trans ?_ | intro _ _ | simp
theorem execTdiLeaveRun_keeps (t : Nat) (target : TdiState) (s : State) : Keeps s (execTdiLeaveRun t target s) := by
  simp only [execTdiLeaveRun]
  repeat' first | exact keeps_refl _ | with_reducible rfl | assumption | split | refine keeps_when ?_ | refine keeps_next ?_ | refine keeps_ite ?_ ?_ | refine snd_fixed (by assumption) ?_ | refine (fold_fixed ?_).trans ?_ | intro _ _ | simp
theorem execInternalAcknowledgement_keeps (n : Nat) (s : State) : Keeps s (execInternalAcknowledgement n s) := by
  simp only [execInternalAcknowledgement]
  repeat' first | exact keeps_refl _ | with_reducible rfl | assumption | split | refine keeps_when ?_ | refine keeps_next ?_ | refine keeps_ite ?_ ?_ | refine snd_fixed (by assumption) ?_ | refine (fold_fixed ?_).trans ?_ | intro _ _ | simp
theorem execHstAccess_keeps (t : Nat) (ide : Bool) (va : Nat) (store : Option (List Byte)) (len : Nat) (s : State) : Keeps s (execHstAccess t ide va store len s) := by
  simp only [execHstAccess]
  repeat' first | exact keeps_refl _ | with_reducible rfl | assumption | split | refine keeps_when ?_ | refine keeps_next ?_ | refine keeps_ite ?_ ?_ | refine snd_fixed (by assumption) ?_ | refine (fold_fixed ?_).trans ?_ | intro _ _ | simp
theorem execTdiEnterRun_keeps (t : Nat) (bound : Bool) (s : State) : Keeps s (execTdiEnterRun t bound s) := keeps_when rfl

/-- The rows that change the clock, the capability register or the error window. -/
def setsFixed : Instr → Bool
  | .boot | .errwinWrite _ | .powerLimitStepDown _ | .powerStepUp _ => true
  | _ => false

/-- Every other row keeps them. -/
theorem exec_keeps (i : Instr) (s : State) (h : setsFixed i = false) : Keeps s (exec i s) := by
  cases i with
  | add _ _ => exact execAdd_keeps ..
  | sub _ _ => exact execSub_keeps ..
  | adc _ _ => exact execAdc_keeps ..
  | sbb _ _ => exact execSbb_keeps ..
  | addi _ _ => exact execAddi_keeps ..
  | mul _ _ => exact execMul_keeps ..
  | mulh _ _ => exact execMulh_keeps ..
  | mulhu _ _ => exact execMulhu_keeps ..
  | mad _ _ => exact execMad_keeps ..
  | divu _ _ => exact execDivu_keeps ..
  | remu _ _ => exact execRemu_keeps ..
  | divs _ _ => exact execDivs_keeps ..
  | rems _ _ => exact execRems_keeps ..
  | adds _ _ => exact execAdds_keeps ..
  | addsu _ _ => exact execAddsu_keeps ..
  | subs _ _ => exact execSubs_keeps ..
  | subsu _ _ => exact execSubsu_keeps ..
  | min _ _ => exact execMin_keeps ..
  | max _ _ => exact execMax_keeps ..
  | minu _ _ => exact execMinu_keeps ..
  | maxu _ _ => exact execMaxu_keeps ..
  | abs _ _ => exact execAbs_keeps ..
  | neg _ _ => exact execNeg_keeps ..
  | and _ _ => exact execAnd_keeps ..
  | or _ _ => exact execOr_keeps ..
  | xor _ _ => exact execXor_keeps ..
  | andn _ _ => exact execAndn_keeps ..
  | orn _ _ => exact execOrn_keeps ..
  | xnor _ _ => exact execXnor_keeps ..
  | andi _ _ => exact execAndi_keeps ..
  | ori _ _ => exact execOri_keeps ..
  | xori _ _ => exact execXori_keeps ..
  | shl _ _ => exact execShl_keeps ..
  | shr _ _ => exact execShr_keeps ..
  | sar _ _ => exact execSar_keeps ..
  | rol _ _ => exact execRol_keeps ..
  | shli _ _ => exact execShli_keeps ..
  | shri _ _ => exact execShri_keeps ..
  | sari _ _ => exact execSari_keeps ..
  | roli _ _ => exact execRoli_keeps ..
  | bext _ _ => exact execBext_keeps ..
  | bexts _ _ => exact execBexts_keeps ..
  | bins _ _ => exact execBins_keeps ..
  | sext _ _ => exact execSext_keeps ..
  | clz _ _ => exact execClz_keeps ..
  | ctz _ _ => exact execCtz_keeps ..
  | popc _ _ => exact execPopc_keeps ..
  | brev _ _ => exact execBrev_keeps ..
  | mov _ _ => exact execMov_keeps ..
  | movw _ _ => exact execMovw_keeps ..
  | movi _ _ => exact execMovi_keeps ..
  | movhi _ _ => exact execMovhi_keeps ..
  | sel _ _ => exact execSel_keeps ..
  | cmpeq _ _ => exact execCmpeq_keeps ..
  | cmpne _ _ => exact execCmpne_keeps ..
  | cmplt _ _ => exact execCmplt_keeps ..
  | cmpltu _ _ => exact execCmpltu_keeps ..
  | cmple _ _ => exact execCmple_keeps ..
  | cmpleu _ _ => exact execCmpleu_keeps ..
  | cmpeqi _ _ => exact execCmpeqi_keeps ..
  | cmplti _ _ => exact execCmplti_keeps ..
  | cmpltui _ _ => exact execCmpltui_keeps ..
  | btst _ _ => exact execBtst_keeps ..
  | fadd _ _ => exact execFadd_keeps ..
  | fsub _ _ => exact execFsub_keeps ..
  | fmul _ _ => exact execFmul_keeps ..
  | ffma _ _ => exact execFfma_keeps ..
  | ffms _ _ => exact execFfms_keeps ..
  | fmin _ _ => exact execFmin_keeps ..
  | fmax _ _ => exact execFmax_keeps ..
  | fminm _ _ => exact execFminm_keeps ..
  | fmaxm _ _ => exact execFmaxm_keeps ..
  | fcmpeq _ _ => exact execFcmpeq_keeps ..
  | fcmplt _ _ => exact execFcmplt_keeps ..
  | fcmple _ _ => exact execFcmple_keeps ..
  | fcmpun _ _ => exact execFcmpun_keeps ..
  | fabs _ _ => exact execFabs_keeps ..
  | fneg _ _ => exact execFneg_keeps ..
  | fscb _ _ => exact execFscb_keeps ..
  | fdiv _ _ => exact execFdiv_keeps ..
  | sfuExp2 _ _ => exact execSfuExp2_keeps ..
  | sfuLog2 _ _ => exact execSfuLog2_keeps ..
  | sfuRcp _ _ => exact execSfuRcp_keeps ..
  | sfuRsqrt _ _ => exact execSfuRsqrt_keeps ..
  | sfuSqrt _ _ => exact execSfuSqrt_keeps ..
  | sfuTanh _ _ => exact execSfuTanh_keeps ..
  | sfuSinpi _ _ => exact execSfuSinpi_keeps ..
  | sfuCospi _ _ => exact execSfuCospi_keeps ..
  | cvt _ _ => exact execCvt_keeps ..
  | cvtfi _ _ => exact execCvtfi_keeps ..
  | cvtif _ _ => exact execCvtif_keeps ..
  | frnd _ _ => exact execFrnd_keeps ..
  | fsum _ _ => exact execFsum_keeps ..
  | fmaxr _ _ => exact execFmaxr_keeps ..
  | fdot _ _ => exact execFdot_keeps ..
  | expd _ _ => exact execExpd_keeps ..
  | qblk _ _ => exact execQblk_keeps ..
  | dqblk _ _ => exact execDqblk_keeps ..
  | bpspl _ _ => exact execBpspl_keeps ..
  | bpjn _ _ => exact execBpjn_keeps ..
  | fcls _ _ => exact execFcls_keeps ..
  | plog _ _ => exact execPlog_keeps ..
  | psetv _ _ => exact execPsetv_keeps ..
  | ptos _ _ => exact execPtos_keeps ..
  | stop _ _ => exact execStop_keeps ..
  | trap _ _ => exact execTrap_keeps ..
  | bkpt _ _ => exact execBkpt_keeps ..
  | idle _ _ => exact execIdle_keeps ..
  | nop _ _ => exact execNop_keeps ..
  | ldb _ _ => exact execLdb_keeps ..
  | stb _ _ => exact execStb_keeps ..
  | ldbi _ _ => exact execLdbi_keeps ..
  | stbi _ _ => exact execStbi_keeps ..
  | atb _ _ => exact execAtb_keeps ..
  | casb _ _ => exact execCasb_keeps ..
  | spl _ _ => exact execSpl_keeps ..
  | fil _ _ => exact execFil_keeps ..
  | ldpw _ _ => exact execLdpw_keeps ..
  | emit _ _ => exact execEmit_keeps ..
  | eos _ _ => exact execEos_keeps ..
  | mark _ _ => exact execMark_keeps ..
  | weep _ _ => exact execWeep_keeps ..
  | drop _ _ => exact execDrop_keeps ..
  | rtag _ _ => exact execRtag_keeps ..
  | steer _ _ => exact execSteer_keeps ..
  | gld _ _ => exact execGld_keeps ..
  | gst _ _ => exact execGst_keeps ..
  | gat _ _ => exact execGat_keeps ..
  | strmArm _ _ => exact execStrmArm_keeps ..
  | strmAbort _ _ => exact execStrmAbort_keeps ..
  | strmStat _ _ => exact execStrmStat_keeps ..
  | ttq _ _ => exact execTtq_keeps ..
  | ttqTid _ _ => exact execTtqTid_keeps ..
  | slfFire _ _ => exact execSlfFire_keeps ..
  | slfHdrLaunch _ _ => exact execSlfHdrLaunch_keeps ..
  | slfHdrRd _ _ => exact execSlfHdrRd_keeps ..
  | slfHdrWr _ _ => exact execSlfHdrWr_keeps ..
  | slfFin _ _ => exact execSlfFin_keeps ..
  | slfRoute _ _ => exact execSlfRoute_keeps ..
  | slfPin _ _ => exact execSlfPin_keeps ..
  | slfUnpin _ _ => exact execSlfUnpin_keeps ..
  | slfLook _ _ => exact execSlfLook_keeps ..
  | fqryPost _ _ => exact execFqryPost_keeps ..
  | fqryCncl _ _ => exact execFqryCncl_keeps ..
  | sysXfence _ _ => exact execSysXfence_keeps ..
  | sysHandover _ _ => exact execSysHandover_keeps ..
  | sysRdbsr _ _ => exact execSysRdbsr_keeps ..
  | sysWrbsr _ _ => exact execSysWrbsr_keeps ..
  | sysWatch _ _ => exact execSysWatch_keeps ..
  | sysSink _ _ => exact execSysSink_keeps ..
  | sysWptr _ _ => exact execSysWptr_keeps ..
  | sysRdts _ _ => exact execSysRdts_keeps ..
  | beatIssue _ => exact execBeatIssue_keeps ..
  | beatWriteBack _ _ => exact execBeatWriteBack_keeps ..
  | firingCommit _ => exact execFiringCommit_keeps ..
  | preciseTrap _ => exact execPreciseTrap_keeps ..
  | pickerWake _ => exact execPickerWake_keeps ..
  | tokenArrival _ => exact execTokenArrival_keeps ..
  | gutterRefill _ _ => exact execGutterRefill_keeps ..
  | tokenForward _ => exact execTokenForward_keeps ..
  | branchHoldDeliver _ _ => exact execBranchHoldDeliver_keeps ..
  | brickAlign _ => exact execBrickAlign_keeps ..
  | regionRoundUpdate _ => exact execRegionRoundUpdate_keeps ..
  | brickWeep _ => exact execBrickWeep_keeps ..
  | weepOrder _ => exact execWeepOrder_keeps ..
  | reconfigApply _ => exact execReconfigApply_keeps ..
  | brickReclaim _ => exact execBrickReclaim_keeps ..
  | ownerRequest _ => exact execOwnerRequest_keeps ..
  | coalesceTimeout _ _ => exact execCoalesceTimeout_keeps ..
  | pageWalk _ => exact execPageWalk_keeps ..
  | loftAccess _ => exact execLoftAccess_keeps ..
  | loftFillDone _ => exact execLoftFillDone_keeps ..
  | hbmRequest _ => exact execHbmRequest_keeps ..
  | deadlineService _ => exact execDeadlineService_keeps ..
  | refreshStart _ _ => exact execRefreshStart_keeps ..
  | refreshEnd _ _ => exact execRefreshEnd_keeps ..
  | stackSensorReading _ _ => exact execStackSensorReading_keeps ..
  | thermtrip _ => exact execThermtrip_keeps ..
  | talwUpdate _ _ => exact execTalwUpdate_keeps ..
  | thermalNotice _ _ => exact execThermalNotice_keeps ..
  | rstallRead _ => exact execRstallRead_keeps ..
  | rebase _ => exact execRebase_keeps ..
  | invcmdVa _ _ _ => exact execInvcmdVa_keeps ..
  | invcmdTenancy _ _ => exact execInvcmdTenancy_keeps ..
  | invcmdComplete _ => exact execInvcmdComplete_keeps ..
  | globalReturn _ => exact execGlobalReturn_keeps ..
  | handoverMessage _ => exact execHandoverMessage_keeps ..
  | handoverRelease _ => exact execHandoverRelease_keeps ..
  | streamTileStart _ _ => exact execStreamTileStart_keeps ..
  | streamWordSend _ _ => exact execStreamWordSend_keeps ..
  | streamInputTake _ _ => exact execStreamInputTake_keeps ..
  | streamRunEnd _ _ => exact execStreamRunEnd_keeps ..
  | drawPortTake _ => exact execDrawPortTake_keeps ..
  | paramPortTake _ => exact execParamPortTake_keeps ..
  | paramApply _ => exact execParamApply_keeps ..
  | taskRecordArrival _ => exact execTaskRecordArrival_keeps ..
  | windowEnter _ _ => exact execWindowEnter_keeps ..
  | staleRecord _ _ _ => exact execStaleRecord_keeps ..
  | taskIssue _ _ => exact execTaskIssue_keeps ..
  | taskComputeEnd _ _ => exact execTaskComputeEnd_keeps ..
  | drainStart _ _ => exact execDrainStart_keeps ..
  | drainWord _ _ => exact execDrainWord_keeps ..
  | taskDone _ _ => exact execTaskDone_keeps ..
  | steerPortTake _ _ => exact execSteerPortTake_keeps ..
  | slateMapOperation _ => exact execSlateMapOperation_keeps ..
  | slateRelease _ => exact execSlateRelease_keeps ..
  | frameLand _ => exact execFrameLand_keeps ..
  | dockNotice _ _ => exact execDockNotice_keeps ..
  | launchCopyEnd _ _ => exact execLaunchCopyEnd_keeps ..
  | fireEnd _ _ => exact execFireEnd_keeps ..
  | ringPortSend _ _ => exact execRingPortSend_keeps ..
  | finTokenEmit _ _ => exact execFinTokenEmit_keeps ..
  | gatewayContribution _ => exact execGatewayContribution_keeps ..
  | gatewayCombine _ => exact execGatewayCombine_keeps ..
  | footingPacketArrival _ => exact execFootingPacketArrival_keeps ..
  | queryStart _ => exact execQueryStart_keeps ..
  | expansionStep _ _ => exact execExpansionStep_keeps ..
  | distanceRequest _ _ _ => exact execDistanceRequest_keeps ..
  | queryComplete _ _ => exact execQueryComplete_keeps ..
  | qblkBufferEmit _ => exact execQblkBufferEmit_keeps ..
  | regionCompletion _ => exact execRegionCompletion_keeps ..
  | completionWordStore _ => exact execCompletionWordStore_keeps ..
  | countWave _ => exact execCountWave_keeps ..
  | regionFault _ => exact execRegionFault_keeps ..
  | bindSubmit _ _ => exact execBindSubmit_keeps ..
  | reconfigSubmit _ => exact execReconfigSubmit_keeps ..
  | dispatchLoad _ => exact execDispatchLoad_keeps ..
  | heldRecordRelease _ => exact execHeldRecordRelease_keeps ..
  | bstatKill _ _ => exact execBstatKill_keeps ..
  | bstatClr _ => exact execBstatClr_keeps ..
  | bayGrant _ _ => exact execBayGrant_keeps ..
  | bayReturn _ _ => exact execBayReturn_keeps ..
  | swcmd _ _ => exact execSwcmd_keeps ..
  | setwStop _ => exact execSetwStop_keeps ..
  | setwWaitExpiry _ => exact execSetwWaitExpiry_keeps ..
  | imageCapture _ => exact execImageCapture_keeps ..
  | bsrCtlPickSet _ => exact execBsrCtlPickSet_keeps ..
  | bsrCtlPickClear _ => exact execBsrCtlPickClear_keeps ..
  | bsrCtlStep _ _ => exact execBsrCtlStep_keeps ..
  | bsrCtlPass _ => exact execBsrCtlPass_keeps ..
  | tscfgWrite _ _ => exact execTscfgWrite_keeps ..
  | errwinWrite _ => cases h
  | registerWrite _ _ => exact execRegisterWrite_keeps ..
  | patrolScrub _ => exact execPatrolScrub_keeps ..
  | errorEvent _ _ _ => exact execErrorEvent_keeps ..
  | boot => cases h
  | mapoutRemove _ => exact execMapoutRemove_keeps ..
  | kick => exact execKick_keeps ..
  | kickReread => exact execKickReread_keeps ..
  | completionPost => exact execCompletionPost_keeps ..
  | cqbaseWrite _ => exact execCqbaseWrite_keeps ..
  | hostNop => exact execHostNop_keeps ..
  | summary => exact execSummary_keeps ..
  | chkpt => exact execChkpt_keeps ..
  | tenset => exact execTenset_keeps ..
  | tenclr => exact execTenclr_keeps ..
  | keymap => exact execKeymap_keeps ..
  | restore _ => exact execRestore_keeps ..
  | keyload _ _ _ _ => exact execKeyload_keeps ..
  | keydrop _ _ => exact execKeydrop_keeps ..
  | spdmGetCertificate => exact execSpdmGetCertificate_keeps ..
  | spdmChallenge _ => exact execSpdmChallenge_keeps ..
  | spdmGetMeasurements _ _ => exact execSpdmGetMeasurements_keeps ..
  | spdmKeyExchange _ => exact execSpdmKeyExchange_keeps ..
  | weightChunkRead _ _ => exact execWeightChunkRead_keeps ..
  | ringFlitReceive _ _ => exact execRingFlitReceive_keeps ..
  | linkdown _ => exact execLinkdown_keeps ..
  | powerLimitStepDown _ => cases h
  | powerStepUp _ => cases h
  | tdiLeaveRun _ _ => exact execTdiLeaveRun_keeps ..
  | internalAcknowledgement _ => exact execInternalAcknowledgement_keeps ..
  | hstAccess _ _ _ _ _ => exact execHstAccess_keeps ..
  | tdiEnterRun _ _ => exact execTdiEnterRun_keeps ..

end Sys2Proof.Machine
end

