-- ==== Sys2Proof/Laws/Memory.lean ====
section
/-! SUPPORT. Memory as a list of bytes in canonical form (R6, R202, R210): what a write leaves, that every memory operation keeps the form, and that two memories in canonical form with equal bytes are equal. -/

namespace Sys2Proof.Machine

open Sys2Proof

/-- Every listed address is at least `lo`. -/
def Memory.from (lo : Nat) : List Host.Cell → Prop
  | [] => True
  | c :: rest => lo ≤ c.1 ∧ Memory.from lo rest

theorem Memory.from_mono {lo lo' : Nat} (h : lo' ≤ lo) : ∀ {l}, Memory.from lo l → Memory.from lo' l
  | [], _ => trivial
  | _ :: _, ⟨h1, h2⟩ => ⟨Nat.le_trans h h1, Memory.from_mono h h2⟩

/-- The canonical form, one entry at a time. -/
theorem Memory.wf_cons (a : Nat) (v : Byte) (l : List Host.Cell) :
    Memory.wf ((a, v) :: l) = true ↔ v ≠ 0 ∧ Memory.from (a + 1) l ∧ Memory.wf l = true := by
  induction l generalizing a v with
  | nil => simp [Memory.wf, Memory.from]
  | cons d rest ih =>
    obtain ⟨b, w⟩ := d
    constructor
    · intro h
      simp only [Memory.wf, Bool.and_eq_true, decide_eq_true_eq] at h
      have hd := (ih b w).mp h.2
      exact ⟨h.1.1, ⟨h.1.2, Memory.from_mono (by omega) hd.2.1⟩, h.2⟩
    · rintro ⟨hv, ⟨hb, _⟩, hw⟩
      simp only [Memory.wf, Bool.and_eq_true, decide_eq_true_eq]
      exact ⟨⟨hv, hb⟩, hw⟩

theorem cellsGet_below {lo a : Nat} (h : a < lo) : ∀ {l}, Memory.from lo l → cellsGet l a = 0
  | [], _ => rfl
  | (b, w) :: rest, ⟨h1, h2⟩ => by
    have : b ≠ a := by simp at h1; omega
    simp [cellsGet, this, cellsGet_below h h2]

theorem cellsSet_from {lo a : Nat} {v : Byte} (ha : lo ≤ a) : ∀ {l}, Memory.from lo l → Memory.from lo (cellsSet l a v)
  | [], _ => by simp only [cellsSet]; split <;> simp [Memory.from, ha]
  | (b, w) :: rest, ⟨h1, h2⟩ => by
    simp only [cellsSet]
    split
    · split <;> simp_all [Memory.from]
    · split
      · split <;> simp_all [Memory.from]
      · exact ⟨h1, cellsSet_from ha h2⟩

/-- A write of one byte keeps the canonical form. -/
theorem cellsSet_wf (a : Nat) (v : Byte) : ∀ {l : List Host.Cell}, Memory.wf l = true → Memory.wf (cellsSet l a v) = true
  | [], _ => by
    simp only [cellsSet]
    split
    · rfl
    · rename_i h; simpa [Memory.wf] using h
  | (b, w) :: rest, hl => by
    have ⟨hw, hf, hr⟩ := (Memory.wf_cons b w rest).mp hl
    simp only [cellsSet]
    split
    · rename_i hab
      split
      · exact hl
      · rename_i hv
        exact (Memory.wf_cons _ _ _).mpr ⟨hv, ⟨hab, Memory.from_mono (by omega) hf⟩, hl⟩
    · split
      · rename_i hab
        split
        · exact hr
        · rename_i hv
          exact (Memory.wf_cons _ _ _).mpr ⟨hv, by rw [hab]; exact hf, hr⟩
      · exact (Memory.wf_cons _ _ _).mpr ⟨hw, cellsSet_from (by omega) hf, cellsSet_wf a v hr⟩

/-- A byte reads as what was written there, and every other byte as before. -/
theorem cellsGet_set (a c : Nat) (v : Byte) : ∀ {l : List Host.Cell}, Memory.wf l = true →
    cellsGet (cellsSet l a v) c = if c = a then v else cellsGet l c
  | [], _ => by
    simp only [cellsSet]
    split
    · rename_i hv; simp [cellsGet, hv]
    · simp [cellsGet, eq_comm]
  | (b, w) :: rest, hl => by
    have ⟨hw, hf, hr⟩ := (Memory.wf_cons b w rest).mp hl
    have hget : b ≠ c → cellsGet ((b, w) :: rest) c = cellsGet rest c := fun h => by simp [cellsGet, h]
    simp only [cellsSet]
    split
    · rename_i hab
      by_cases hc : c = a
      · subst hc
        have : cellsGet ((b, w) :: rest) c = 0 :=
          cellsGet_below (lo := c + 1) (by omega) ⟨hab, Memory.from_mono (by omega) hf⟩
        split
        · rename_i hv; simp [this, hv]
        · simp [cellsGet]
      · split
        · simp
        · simp [cellsGet, Ne.symm hc]
    · split
      · rename_i hab
        subst hab
        by_cases hc : c = a
        · subst hc
          split
          · rename_i hv; simp [hv, cellsGet_below (Nat.lt_succ_self c) hf]
          · simp [cellsGet]
        · split
          · simp [cellsGet, Ne.symm hc]
          · simp [cellsGet, Ne.symm hc]
      · rename_i h1 h2
        by_cases hb : b = c
        · subst hb
          simp [cellsGet, Ne.symm h2]
        · simp [cellsGet, hb, cellsGet_set a c v hr]

theorem cellsWrite_wf (vs : List Byte) : ∀ (a : Nat) {l : List Host.Cell}, Memory.wf l = true → Memory.wf (cellsWrite l a vs) = true := by
  induction vs with
  | nil => intro a l h; exact h
  | cons v vs ih => intro a l h; exact ih (a + 1) (cellsSet_wf a v h)

/-- A written range reads as its bytes, and every byte outside it as before. -/
theorem cellsGet_write (vs : List Byte) : ∀ (a c : Nat) {l : List Host.Cell}, Memory.wf l = true →
    cellsGet (cellsWrite l a vs) c = if a ≤ c ∧ c < a + vs.length then vs.getD (c - a) 0 else cellsGet l c := by
  induction vs with
  | nil => intro a c l _; exact (if_neg fun h => Nat.lt_irrefl _ (Nat.lt_of_lt_of_le h.2 h.1)).symm
  | cons v vs ih =>
    intro a c l h
    simp only [cellsWrite, ih (a + 1) c (cellsSet_wf a v h), cellsGet_set a c v h, List.length_cons]
    by_cases hc : c = a
    · subst hc
      have h1 : ¬(c + 1 ≤ c ∧ c < c + 1 + vs.length) := by omega
      simp [h1]
    · by_cases hr : a + 1 ≤ c ∧ c < a + 1 + vs.length
      · have h1 : a ≤ c ∧ c < a + (vs.length + 1) := by omega
        have h2 : c - a = (c - (a + 1)) + 1 := by omega
        rw [if_pos hr, if_pos h1, h2]; simp
      · have h1 : ¬(a ≤ c ∧ c < a + (vs.length + 1)) := by omega
        rw [if_neg hr, if_neg h1, if_neg hc]

theorem filter_from {lo : Nat} (p : Host.Cell → Bool) : ∀ {l : List Host.Cell}, Memory.from lo l → Memory.from lo (l.filter p)
  | [], _ => trivial
  | c :: rest, ⟨h1, h2⟩ => by
    simp only [List.filter_cons]
    split
    · exact ⟨h1, filter_from p h2⟩
    · exact filter_from p h2

/-- Removing entries keeps the canonical form. -/
theorem filter_wf (p : Host.Cell → Bool) : ∀ {l : List Host.Cell}, Memory.wf l = true → Memory.wf (l.filter p) = true
  | [], _ => rfl
  | (a, v) :: rest, hl => by
    have ⟨hv, hf, hr⟩ := (Memory.wf_cons a v rest).mp hl
    simp only [List.filter_cons]
    split
    · exact (Memory.wf_cons _ _ _).mpr ⟨hv, filter_from p hf, filter_wf p hr⟩
    · exact filter_wf p hr

theorem cellsClear_wf (a n : Nat) {l : List Host.Cell} (h : Memory.wf l = true) : Memory.wf (cellsClear l a n) = true := filter_wf _ h

/-- A cleared byte reads as zero, and every other byte as before. -/
theorem cellsGet_clear (a n c : Nat) : ∀ l : List Host.Cell,
    cellsGet (cellsClear l a n) c = if a ≤ c ∧ c < a + n then 0 else cellsGet l c
  | [] => by simp [cellsClear, cellsGet]
  | (b, w) :: rest => by
    have ih := cellsGet_clear a n c rest
    simp only [cellsClear] at ih ⊢
    simp only [List.filter_cons]
    split
    · rename_i hb
      simp only [Bool.or_eq_true, decide_eq_true_eq] at hb
      simp only [cellsGet, ih]
      by_cases hbc : b = c
      · subst hbc
        simp only [if_true]
        rw [if_neg (by omega)]
      · simp [hbc]
    · rename_i hb
      simp only [Bool.or_eq_true, decide_eq_true_eq] at hb
      rw [ih]
      by_cases hc : a ≤ c ∧ c < a + n
      · simp [hc]
      · have hbc : b ≠ c := by omega
        simp [hc, cellsGet, hbc]

theorem nibbleSet_wf (n v : Nat) {l : List Host.Cell} (h : Memory.wf l = true) : Memory.wf (nibbleSet l n v) = true := cellsSet_wf _ _ h

/-- A write of nibbles keeps the canonical form. -/
theorem nibblesWrite_wf : ∀ (len n v : Nat) {l : List Host.Cell}, Memory.wf l = true → Memory.wf (nibblesWrite l n len v) = true
  | 0, _, _, _, h => h
  | len + 1, n, v, _, h => nibblesWrite_wf len (n + 1) (v / 16) (nibbleSet_wf n v h)

/-- A byte that no written nibble lies in reads as before. -/
theorem cellsGet_nibblesWrite : ∀ (len n v c : Nat) {l : List Host.Cell}, Memory.wf l = true → (∀ k < len, (n + k) / 2 ≠ c) →
    cellsGet (nibblesWrite l n len v) c = cellsGet l c
  | 0, _, _, _, _, _, _ => rfl
  | len + 1, n, v, c, l, h, hc => by
    have h0 : n / 2 ≠ c := hc 0 (by omega)
    rw [nibblesWrite, cellsGet_nibblesWrite len (n + 1) (v / 16) c (nibbleSet_wf n v h)
      (fun k hk => by have := hc (k + 1) (by omega); rwa [show n + 1 + k = n + (k + 1) by omega]), nibbleSet, cellsGet_set _ _ _ h, if_neg (Ne.symm h0)]

/-- Two canonical memories that agree on every byte are the same list. -/
theorem Memory.ext : ∀ {l m : List Host.Cell}, Memory.wf l = true → Memory.wf m = true → (∀ a, cellsGet l a = cellsGet m a) → l = m
  | [], [], _, _, _ => rfl
  | [], (b, w) :: rest, _, hm, h => by
    have ⟨hw, _, _⟩ := (Memory.wf_cons b w rest).mp hm
    have := h b
    simp [cellsGet] at this
    exact absurd this.symm hw
  | (b, w) :: rest, [], hl, _, h => by
    have ⟨hw, _, _⟩ := (Memory.wf_cons b w rest).mp hl
    have := h b
    simp [cellsGet] at this
    exact absurd this hw
  | (b, w) :: rest, (b', w') :: rest', hl, hm, h => by
    have ⟨hw, hf, hr⟩ := (Memory.wf_cons b w rest).mp hl
    have ⟨hw', hf', hr'⟩ := (Memory.wf_cons b' w' rest').mp hm
    have hb : b = b' := by
      rcases Nat.lt_trichotomy b b' with hlt | heq | hgt
      · have h0 : cellsGet ((b', w') :: rest') b = 0 :=
          cellsGet_below (lo := b + 1) (by omega) ⟨hlt, Memory.from_mono (by omega) hf'⟩
        have := h b
        rw [h0] at this
        simp [cellsGet] at this
        exact absurd this hw
      · exact heq
      · have h0 : cellsGet ((b, w) :: rest) b' = 0 :=
          cellsGet_below (lo := b' + 1) (by omega) ⟨hgt, Memory.from_mono (by omega) hf⟩
        have := h b'
        rw [h0] at this
        simp [cellsGet] at this
        exact absurd this.symm hw'
    subst hb
    have hv : w = w' := by have := h b; simpa [cellsGet] using this
    subst hv
    have hrest : rest = rest' := Memory.ext hr hr' fun a => by
      by_cases ha : b = a
      · subst ha
        rw [cellsGet_below (Nat.lt_succ_self _) hf, cellsGet_below (Nat.lt_succ_self _) hf']
      · have := h a
        simpa [cellsGet, ha] using this
    rw [hrest]

end Sys2Proof.Machine
end

