-- ==== Sys2Proof/Laws/MemWf.lean ====
section
/-! SUPPORT. Every operation of an agent keeps the canonical form of the memories, `State.memWf`. One lemma per operation. -/

namespace Sys2Proof.Machine

open Sys2Proof

/-! Tables and bricks -/

theorem Table.set_all {α : Type} {p : Nat × α → Prop} {k : Nat} {v : α} (hv : p (k, v)) : ∀ {t : Table α}, (∀ e ∈ t, p e) → ∀ e ∈ t.set k v, p e
  | [], _, e, he => by rw [List.mem_singleton.1 he]; exact hv
  | (k', v') :: rest, ht, e, he => by
    have hr : ∀ e ∈ rest, p e := fun e h => ht e (.tail _ h)
    unfold Table.set at he
    split at he
    · rcases List.mem_cons.1 he with rfl | he
      · exact hv
      · exact ht e he
    · split at he
      · rcases List.mem_cons.1 he with rfl | he
        · exact hv
        · exact hr e he
      · rcases List.mem_cons.1 he with rfl | he
        · exact ht _ (.head _)
        · exact Table.set_all hv hr e he
theorem Table.get?_mem {α : Type} {k : Nat} {v : α} : ∀ {t : Table α}, t.get? k = some v → (k, v) ∈ t
  | (k', v') :: rest, h => by
    unfold Table.get? at h
    split at h
    · rename_i hk; cases h; rw [hk]; exact .head _
    · exact .tail _ (Table.get?_mem h)

theorem foldl_bank {α : Type} {f : Brick → α → Brick} (h : ∀ x a, (f x a).bank = x.bank) {l : List α} {x : Brick} : (l.foldl f x).bank = x.bank := by
  induction l generalizing x with
  | nil => rfl
  | cons a l ih => exact ih.trans (h x a)
theorem foldl_bankWf {α : Type} {f : Brick → α → Brick} (h : ∀ x a, Memory.wf x.bank = true → Memory.wf (f x a).bank = true) {l : List α} {x : Brick}
    (hx : Memory.wf x.bank = true) : Memory.wf (l.foldl f x).bank = true := by
  induction l generalizing x with
  | nil => exact hx
  | cons a l ih => exact ih (h x a hx)

@[simp] theorem Brick.modFiring_bank (x : Brick) (k : Nat) (f : Firing → Firing) : (x.modFiring k f).bank = x.bank := rfl
@[simp] theorem Brick.dropFinished_bank (x : Brick) : x.dropFinished.bank = x.bank := rfl
@[simp] theorem Brick.fenced_bank (x : Brick) (m : Nat) : (x.fenced m).bank = x.bank := rfl
@[simp] theorem Brick.modInput_bank (x : Brick) (c : Nat) (f : Input → Input) : (x.modInput c f).bank = x.bank := rfl
@[simp] theorem Brick.modOut_bank (x : Brick) (c : Nat) (f : Port → Port) : (x.modOut c f).bank = x.bank := rfl
@[simp] theorem Brick.modDock_bank (x : Brick) (c : Nat) (f : Dock → Dock) : (x.modDock c f).bank = x.bank := rfl
@[simp] theorem Brick.pushConnected_bank (x : Brick) (t : Token) : (x.pushConnected t).bank = x.bank := rfl
@[simp] theorem Brick.setPart_bank (x : Brick) (g v : Nat) : (x.setPart g v).bank = x.bank := rfl
@[simp] theorem Brick.setBound_bank (x : Brick) (g : Nat) (v : Bool) : (x.setBound g v).bank = x.bank := rfl
@[simp] theorem Brick.raisePts_bank (x : Brick) (v : Nat) : (x.raisePts v).bank = x.bank := rfl
@[simp] theorem Brick.wake_bank (x : Brick) : x.wake.bank = x.bank := rfl
@[simp] theorem Brick.resumePick_bank (x : Brick) : x.resumePick.bank = x.bank := by unfold Brick.resumePick; split <;> rfl
@[simp] theorem Brick.haltPick_bank (x : Brick) : x.haltPick.bank = x.bank := rfl
@[simp] theorem Brick.raiseDock_bank (x : Brick) (k v : Nat) : (x.raiseDock k v).bank = x.bank := rfl
@[simp] theorem Brick.rebased_bank (x : Brick) : x.rebased.bank = x.bank := rfl
@[simp] theorem Brick.connect_bank (x : Brick) (b : BrickId) (d : List Dest) : (x.connect b d).bank = x.bank := rfl
@[simp] theorem Brick.leaveRunning_bank (x : Brick) : x.leaveRunning.bank = x.bank := by unfold Brick.leaveRunning; split <;> rfl
@[simp] theorem Brick.settleWeep_bank (x : Brick) : x.settleWeep.bank = x.bank := by unfold Brick.settleWeep; split <;> rfl
@[simp] theorem Brick.reachRound_bank (x : Brick) : x.reachRound.bank = x.bank := by
  unfold Brick.reachRound; split
  · split <;> rfl
  · rfl
@[simp] theorem Brick.stopAtWave_bank (x : Brick) : x.stopAtWave.bank = x.bank := by unfold Brick.stopAtWave; split <;> rfl
@[simp] theorem Brick.orderDirect_bank (x : Brick) : x.orderDirect.bank = x.bank := Brick.settleWeep_bank _
@[simp] theorem Brick.reclaimed_bank (x : Brick) (k : Bool) : (x.reclaimed k).bank = x.bank := rfl
@[simp] theorem Brick.dequeueHeads_bank (x : Brick) (p : Token → Bool) : (x.dequeueHeads p).bank = x.bank := rfl
@[simp] theorem Brick.align_bank (x : Brick) : x.align.bank = x.bank := Brick.reachRound_bank _
@[simp] theorem Brick.doWeep_bank (x : Brick) (g : Nat) (h : Bool) : (x.doWeep g h).bank = x.bank := by
  unfold Brick.doWeep; rw [Brick.settleWeep_bank]; cases h <;> rfl
@[simp] theorem Brick.writePreds_bank (x : Brick) (ws : List (Nat × Bool)) : (x.writePreds ws).bank = x.bank := by
  refine foldl_bank fun _ _ => ?_
  rfl
@[simp] theorem Brick.settleWatches_bank (x : Brick) : x.settleWatches.bank = x.bank := by
  refine foldl_bank fun y ch => ?_
  split
  · split <;> rfl
  · rfl
@[simp] theorem Brick.release_bank (x : Brick) (f : Firing) : (x.release f).bank = x.bank := by
  unfold Brick.release; split
  · rfl
  · split <;> rfl
@[simp] theorem Brick.discardAfter_bank (x : Brick) (k : Nat) : (x.discardAfter k).bank = x.bank :=
  (Brick.settleWatches_bank _).trans (foldl_bank Brick.release_bank)
@[simp] theorem Brick.commitFiring_bank (x : Brick) (k : Nat) (f : Firing) : (x.commitFiring k f).bank = x.bank := by
  simp only [Brick.commitFiring]; (repeat' split) <;> rfl
@[simp] theorem Brick.commitMark_bank (x : Brick) (k : Nat) : (x.commitMark k).bank = x.bank := Brick.reachRound_bank _
@[simp] theorem Brick.writeBack_bank (x : Brick) (k j : Nat) (w : WriteBack) : (x.writeBack k j w).bank = x.bank := by
  simp only [Brick.writeBack]; (repeat' split) <;> simp
@[simp] theorem Brick.enqueue_bank (x : Brick) (c : Nat) (t : Token) : Memory.wf x.bank = true → Memory.wf (x.enqueue c t).bank = true := by
  intro h; simp only [Brick.enqueue]; (repeat' split) <;> simp [h, Brick.store, cellsWrite_wf]
@[simp] theorem Brick.recordTrap_bank (x : Brick) (a b c d e : Nat) (w : Word) (l : List (Option Token)) (f : Nat → Nat) :
    (x.recordTrap a b c d e w l f).bank = x.bank := rfl
@[simp] theorem bsrWrite_bank (x : Brick) (n v : Nat) : (bsrWrite x n v).bank = x.bank := by unfold bsrWrite; split <;> rfl
@[simp] theorem Brick.forFetch_bank (x : Brick) (w : Word) : (x.forFetch w).bank = x.bank := by
  unfold Brick.forFetch; split <;> rfl
@[simp] theorem Brick.store_bank (x : Brick) (a : Nat) (vs : List Byte) : (x.store a vs).bank = cellsWrite x.bank a vs := rfl
@[simp] theorem Brick.setDockWord_bank (x : Brick) (k w v : Nat) : (x.setDockWord k w v).bank = cellsWrite x.bank (dockBase k + 8 * w) (leBytes 8 v) := rfl
@[simp] theorem Brick.storeNibbles_bank (x : Brick) (a b v : Nat) : (x.storeNibbles a b v).bank = nibblesWrite x.bank a b v := rfl
@[simp] theorem cellsWrite_wf' {l : List Host.Cell} (h : Memory.wf l = true) (a : Nat) (vs : List Byte) : Memory.wf (cellsWrite l a vs) = true := cellsWrite_wf _ _ h
@[simp] theorem nibblesWrite_wf' {l : List Host.Cell} (h : Memory.wf l = true) (a b v : Nat) : Memory.wf (nibblesWrite l a b v) = true := nibblesWrite_wf _ _ _ h
@[simp] theorem filter_wf' {l : List Host.Cell} (h : Memory.wf l = true) (p : Host.Cell → Bool) : Memory.wf (l.filter p) = true := filter_wf _ h
@[simp] theorem Brick.zeroUnbound_bank (x : Brick) : x.zeroUnbound.bank = x.bank.filter fun c => x.isBound (c.1 / 4096) := rfl
@[simp] theorem Brick.blank_bank (x : Brick) : x.blank.bank = x.bank.filter fun c => x.isBound (c.1 / 4096) := rfl
@[simp] theorem Brick.yFail_bank (x : Brick) (k c : Nat) :
    (x.yFail k c).bank = cellsWrite x.bank (dockBase k + 48) (leBytes 8 (insertBits (insertBits (x.dockWord k 6) 33 1 1) 36 4 c)) := rfl
@[simp] theorem Brick.launchCopy_wf {x : Brick} (h : Memory.wf x.bank = true) (k off : Nat) : Memory.wf (x.launchCopy k off).bank = true := by
  unfold Brick.launchCopy; simp only [Brick.store_bank]; exact cellsWrite_wf _ _ h
@[simp] theorem Brick.regutter_wf {x : Brick} (h : Memory.wf x.bank = true) (g : List (Option Gutter)) : Memory.wf (x.regutter g).bank = true := by
  unfold Brick.regutter
  exact foldl_bankWf (fun y p hy => foldl_bankWf (fun z t hz => Brick.enqueue_bank _ _ _ hz) hy)
    (foldl_bankWf (fun y p hy => by rw [Brick.modInput_bank]; exact hy) h)
@[simp] theorem Brick.applyHold_wf {x : Brick} (h : Memory.wf x.bank = true) (y : Hold) : Memory.wf (x.applyHold y).bank = true := Brick.regutter_wf h _
@[simp] theorem Brick.load_wf {x : Brick} (h : Memory.wf x.bank = true) (g : RegionId) (s : Slot) (i : LoadImage) (p : BrickPart) (b : BrickId) :
    Memory.wf (x.load g s i p b).bank = true := by
  unfold Brick.load
  simp only [Brick.settleWatches_bank]
  exact foldl_bankWf (fun y e hy => cellsWrite_wf _ _ hy) (filter_wf _ h)
@[simp] theorem readBrick_wf (s : Slot) (r : RegionId) (b : BrickId) (x : Brick) (n : Nat) (p : Bool) (l : List Byte) :
    Memory.wf (readBrick s r b x n p l).bank = true := cellsWrite_wf _ _ rfl

/-! The bricks of an image -/

/-- A reader's bind that succeeds: both parts do. -/
theorem bind_some {α β : Type} {m : Reader α} {f : α → Reader β} {l : List Nat} {p : β × List Nat} (h : (m >>= f).run l = some p) :
    ∃ q, m.run l = some q ∧ (f q.1).run q.2 = some p := by
  simp only [StateT.run_bind, Option.bind_eq_bind, Option.bind_eq_some_iff] at h
  exact h
theorem pure_some {α : Type} {a : α} {l : List Nat} {p : α × List Nat} (h : (pure a : Reader α).run l = some p) : p.1 = a := by
  cases h; rfl
theorem mapM_all {α β : Type} {f : α → Reader β} {P : α → Prop} {Q : β → Prop} (hf : ∀ a l p, P a → (f a).run l = some p → Q p.1) :
    ∀ {as : List α} {l : List Nat} {p : List β × List Nat}, (∀ a ∈ as, P a) → (as.mapM f).run l = some p → ∀ b ∈ p.1, Q b
  | [], _, _, _, h, b, hb => by rw [List.mapM_nil] at h; rw [pure_some h] at hb; cases hb
  | a :: as, _, _, ha, h, b, hb => by
    rw [List.mapM_cons] at h
    obtain ⟨q, h1, h⟩ := bind_some h
    obtain ⟨r, h2, h⟩ := bind_some h
    rw [pure_some h] at hb
    rcases List.mem_cons.1 hb with rfl | hb
    · exact hf _ _ _ (ha _ (.head _)) h1
    · exact mapM_all hf (fun a h => ha a (.tail _ h)) h2 b hb
theorem decRest_bank {x : Brick} {l : List Nat} {p : Brick × List Nat} (h : (decRest x).run l = some p) : p.1.bank = x.bank := by
  unfold decRest at h
  repeat (obtain ⟨_, -, h⟩ := bind_some h)
  rw [pure_some h]
theorem decPorts_bank {x : Slot} {bricks : List (BrickId × Brick)} {n : Nat} {l : List Nat} {p : PortParts × List Nat} (hb : ∀ e ∈ bricks, Memory.wf e.2.bank = true)
    (h : (decPorts x bricks n).run l = some p) : ∀ y ∈ p.1.bricks, Memory.wf y.1.2.bank = true := by
  unfold decPorts at h
  obtain ⟨_, -, h⟩ := bind_some h
  obtain ⟨_, -, h⟩ := bind_some h
  obtain ⟨_, -, h⟩ := bind_some h
  obtain ⟨_, -, h⟩ := bind_some h
  obtain ⟨q, hq, h⟩ := bind_some h
  obtain ⟨_, -, h⟩ := bind_some h
  obtain ⟨_, -, h⟩ := bind_some h
  obtain ⟨_, -, h⟩ := bind_some h
  rw [pure_some h]
  refine mapM_all (P := fun e => Memory.wf e.2.bank = true) (Q := fun y => Memory.wf y.1.2.bank = true) (fun a l p ha hp => ?_) hb hq
  obtain ⟨z, hz, hp⟩ := bind_some hp
  split at hp
  · obtain ⟨_, -, hp⟩ := bind_some hp
    rw [pure_some hp]
    show Memory.wf z.1.bank = true
    rw [decRest_bank hz]; exact ha
  · rw [pure_some hp]
    show Memory.wf z.1.bank = true
    rw [decRest_bank hz]; exact ha
theorem withStreams_bank {l : List Byte} {bricks : List (BrickId × Brick)} (hb : ∀ e ∈ bricks, Memory.wf e.2.bank = true) :
    ∀ e ∈ withStreams l bricks, Memory.wf e.2.bank = true := by
  unfold withStreams
  suffices h : ∀ (bs : List (BrickId × Brick)) (p : List (BrickId × Brick) × Nat), (∀ e ∈ bs, Memory.wf e.2.bank = true) → (∀ e ∈ p.1, Memory.wf e.2.bank = true) →
      ∀ e ∈ (bs.foldl (fun (p : List (BrickId × Brick) × Nat) q =>
        if BrickId.isEdge q.1 then
          (p.1 ++ [(q.1, { q.2 with edge := { q.2.edge with shapes := q.2.edge.shapes.zipIdx.map fun (x, r) => x.withPosition (wordAt l (128 * p.2 + 16 * r)) } })], p.2 + 1)
        else (p.1 ++ [q], p.2)) p).1, Memory.wf e.2.bank = true from h _ _ hb (by simp)
  intro bs
  induction bs with
  | nil => exact fun _ _ h => h
  | cons b bs ih =>
    intro p h1 h2
    refine ih _ (fun e h => h1 e (.tail _ h)) ?_
    have hb := h1 b (.head _)
    dsimp only
    split <;> (intro e he; rcases List.mem_append.1 he with he | he; exacts [h2 e he, by rw [List.mem_singleton.1 he]; exact hb])

/-! The state -/

@[simp] theorem State.brick_wf {s : State} (h : s.memWf) (b : BrickId) : Memory.wf (s.brick b).bank = true := by
  unfold State.brick Table.getD
  cases e : Table.get? s.bricks b.toNat with
  | none => show Memory.wf (s.blank b).bank = true; unfold State.blank; split <;> rfl
  | some x => exact h.2.2 _ (Table.get?_mem e)
@[simp] theorem State.setBrick_mem {s : State} (h : s.memWf) {b : BrickId} {x : Brick} (hx : Memory.wf x.bank = true) : (s.setBrick b x).memWf :=
  ⟨h.1, h.2.1, Table.set_all (p := fun (e : Nat × Brick) => Memory.wf e.2.bank = true) hx h.2.2⟩
@[simp] theorem State.modBrick_mem {s : State} (h : s.memWf) {b : BrickId} {f : Brick → Brick} (hx : Memory.wf (f (s.brick b)).bank = true) :
    (s.modBrick b f).memWf := State.setBrick_mem h hx
@[simp] theorem State.bricks_wf {s : State} (h : s.memWf) : (∀ e ∈ s.bricks, Memory.wf e.2.bank = true) ↔ True := iff_true_intro h.2.2
@[simp] theorem State.bricks_wf' {s : State} (h : s.memWf) : (∀ (a : Nat) (b : Brick), (a, b) ∈ s.bricks → Memory.wf b.bank = true) ↔ True :=
  iff_true_intro fun _ _ e => h.2.2 _ e
@[simp] theorem State.hbm_wf {s : State} (h : s.memWf) : Memory.wf s.hbm = true := h.1
@[simp] theorem State.host_wf {s : State} (h : s.memWf) : Memory.wf s.host.memory = true := h.2.1
@[simp] theorem State.mk_mem {a1 a2 a3 a4 a5 a6 a7 a8 a9 a10 a11 a12 a13 a14 a15 a16 a17 a18 a19 a20 a21 a22 a23 a24 a25 a26 a27 a28 a29 a30 a31 a32 a33 a34 a35 a36 a37} :
    State.memWf (State.mk a1 a2 a3 a4 a5 a6 a7 a8 a9 a10 a11 a12 a13 a14 a15 a16 a17 a18 a19 a20 a21 a22 a23 a24 a25 a26 a27 a28 a29 a30 a31 a32 a33 a34 a35 a36 a37) ↔
      Memory.wf a19 = true ∧ Memory.wf a35.memory = true ∧ ∀ e ∈ a11, Memory.wf e.2.bank = true := Iff.rfl
theorem snd_eq {α : Type} {p : α × State} {a : α} {t : State} (e : p = (a, t)) : t = p.2 := by rw [e]
theorem snd_mem {α : Type} {p : α × State} {a : α} {t : State} (e : p = (a, t)) (h : p.2.memWf) : t.memWf := by rw [e] at h; exact h
theorem foldl_mem {α : Type} {f : State → α → State} {l : List α} {s : State} (hs : s.memWf) (h : ∀ t a, t.memWf → (f t a).memWf) : (l.foldl f s).memWf := by
  induction l generalizing s with
  | nil => exact hs
  | cons a l ih => exact ih (h s a hs)
theorem foldl_mem2 {α β : Type} {f : β × State → α → β × State} {l : List α} {p : β × State} (hs : p.2.memWf)
    (h : ∀ q a, q.2.memWf → (f q a).2.memWf) : (l.foldl f p).2.memWf := by
  induction l generalizing p with
  | nil => exact hs
  | cons a l ih => exact ih (h p a hs)
theorem foldl_mem3 {α β γ : Type} {f : β × γ × State → α → β × γ × State} {l : List α} {p : β × γ × State} (hs : p.2.2.memWf)
    (h : ∀ q a, q.2.2.memWf → (f q a).2.2.memWf) : (l.foldl f p).2.2.memWf := by
  induction l generalizing p with
  | nil => exact hs
  | cons a l ih => exact ih (h p a hs)
theorem foldl_memIn {α : Type} {f : State → α → State} {l : List α} {s : State} (hs : s.memWf) (h : ∀ t, ∀ a ∈ l, t.memWf → (f t a).memWf) : (l.foldl f s).memWf := by
  induction l generalizing s with
  | nil => exact hs
  | cons a l ih => exact ih (h s a (.head _) hs) fun t b hb => h t b (.tail _ hb)
theorem foldl_wf {α : Type} {f : List Host.Cell → α → List Host.Cell} {l : List α} {m : List Host.Cell} (hm : Memory.wf m = true)
    (h : ∀ m a, Memory.wf m = true → Memory.wf (f m a) = true) : Memory.wf (l.foldl f m) = true := by
  induction l generalizing m with
  | nil => exact hm
  | cons a l ih => exact ih (h m a hm)
theorem map_all {l : Table Brick} {f : Nat × Brick → Nat × Brick} (hl : ∀ e ∈ l, Memory.wf e.2.bank = true)
    (hf : ∀ e, Memory.wf e.2.bank = true → Memory.wf (f e).2.bank = true) : ∀ e ∈ l.map f, Memory.wf e.2.bank = true := by
  intro e he
  obtain ⟨a, ha, rfl⟩ := List.mem_map.1 he
  exact hf a (hl a ha)

/-! Ops -/
@[simp] theorem State.draw_mem (s : State) (hs : s.memWf) :
    s.draw.2.memWf := by
  simp only [State.draw]
  repeat' first | with_reducible assumption | (rename_i e; obtain rfl := snd_eq e; clear e) | split | with_reducible refine foldl_mem ?_ ?_ | with_reducible refine foldl_mem2 ?_ ?_ | with_reducible intro u a hu | (simp (maxDischargeDepth := 30) [hs]; done) | (simp (maxDischargeDepth := 30) [hs, ih]; done) | (simp (maxDischargeDepth := 30) [hs, hu]; done) | (simp (maxDischargeDepth := 30) [hs, hf]; done)
@[simp] theorem State.modDie_mem (s : State) (d : Nat) (f : Die → Die) (hs : s.memWf) :
    (s.modDie d f).memWf := by
  simp only [State.modDie]
  repeat' first | with_reducible assumption | (rename_i e; obtain rfl := snd_eq e; clear e) | split | with_reducible refine foldl_mem ?_ ?_ | with_reducible refine foldl_mem2 ?_ ?_ | with_reducible intro u a hu | (simp (maxDischargeDepth := 30) [hs]; done) | (simp (maxDischargeDepth := 30) [hs, ih]; done) | (simp (maxDischargeDepth := 30) [hs, hu]; done) | (simp (maxDischargeDepth := 30) [hs, hf]; done)
@[simp] theorem State.modTenancy_mem (s : State) (t : Nat) (f : Tenancy → Tenancy) (hs : s.memWf) :
    (s.modTenancy t f).memWf := by
  simp only [State.modTenancy]
  repeat' first | with_reducible assumption | (rename_i e; obtain rfl := snd_eq e; clear e) | split | with_reducible refine foldl_mem ?_ ?_ | with_reducible refine foldl_mem2 ?_ ?_ | with_reducible intro u a hu | (simp (maxDischargeDepth := 30) [hs]; done) | (simp (maxDischargeDepth := 30) [hs, ih]; done) | (simp (maxDischargeDepth := 30) [hs, hu]; done) | (simp (maxDischargeDepth := 30) [hs, hf]; done)
@[simp] theorem State.modStack_mem (s : State) (k : Nat) (f : Stack → Stack) (hs : s.memWf) :
    (s.modStack k f).memWf := by
  simp only [State.modStack]
  repeat' first | with_reducible assumption | (rename_i e; obtain rfl := snd_eq e; clear e) | split | with_reducible refine foldl_mem ?_ ?_ | with_reducible refine foldl_mem2 ?_ ?_ | with_reducible intro u a hu | (simp (maxDischargeDepth := 30) [hs]; done) | (simp (maxDischargeDepth := 30) [hs, ih]; done) | (simp (maxDischargeDepth := 30) [hs, hu]; done) | (simp (maxDischargeDepth := 30) [hs, hf]; done)
@[simp] theorem State.modSlot_mem (s : State) (r : RegionId) (f : Slot → Slot) (hs : s.memWf) :
    (s.modSlot r f).memWf := by
  simp only [State.modSlot]
  repeat' first | with_reducible assumption | (rename_i e; obtain rfl := snd_eq e; clear e) | split | with_reducible refine foldl_mem ?_ ?_ | with_reducible refine foldl_mem2 ?_ ?_ | with_reducible intro u a hu | (simp (maxDischargeDepth := 30) [hs]; done) | (simp (maxDischargeDepth := 30) [hs, ih]; done) | (simp (maxDischargeDepth := 30) [hs, hu]; done) | (simp (maxDischargeDepth := 30) [hs, hf]; done)
@[simp] theorem State.modSched_mem (s : State) (d c : Nat) (f : Sched → Sched) (hs : s.memWf) :
    (s.modSched d c f).memWf := by
  simp only [State.modSched]
  repeat' first | with_reducible assumption | (rename_i e; obtain rfl := snd_eq e; clear e) | split | with_reducible refine foldl_mem ?_ ?_ | with_reducible refine foldl_mem2 ?_ ?_ | with_reducible intro u a hu | (simp (maxDischargeDepth := 30) [hs]; done) | (simp (maxDischargeDepth := 30) [hs, ih]; done) | (simp (maxDischargeDepth := 30) [hs, hu]; done) | (simp (maxDischargeDepth := 30) [hs, hf]; done)
@[simp] theorem State.modGateway_mem (s : State) (d : Nat) (f : Gateway → Gateway) (hs : s.memWf) :
    (s.modGateway d f).memWf := by
  simp only [State.modGateway]
  repeat' first | with_reducible assumption | (rename_i e; obtain rfl := snd_eq e; clear e) | split | with_reducible refine foldl_mem ?_ ?_ | with_reducible refine foldl_mem2 ?_ ?_ | with_reducible intro u a hu | (simp (maxDischargeDepth := 30) [hs]; done) | (simp (maxDischargeDepth := 30) [hs, ih]; done) | (simp (maxDischargeDepth := 30) [hs, hu]; done) | (simp (maxDischargeDepth := 30) [hs, hf]; done)
@[simp] theorem State.modFooting_mem (s : State) (e : Nat) (f : Footing → Footing) (hs : s.memWf) :
    (s.modFooting e f).memWf := by
  simp only [State.modFooting]
  repeat' first | with_reducible assumption | (rename_i e; obtain rfl := snd_eq e; clear e) | split | with_reducible refine foldl_mem ?_ ?_ | with_reducible refine foldl_mem2 ?_ ?_ | with_reducible intro u a hu | (simp (maxDischargeDepth := 30) [hs]; done) | (simp (maxDischargeDepth := 30) [hs, ih]; done) | (simp (maxDischargeDepth := 30) [hs, hu]; done) | (simp (maxDischargeDepth := 30) [hs, hf]; done)
@[simp] theorem State.modKeySlot_mem (s : State) (k : Nat) (f : KeySlot → KeySlot) (hs : s.memWf) :
    (s.modKeySlot k f).memWf := by
  simp only [State.modKeySlot]
  repeat' first | with_reducible assumption | (rename_i e; obtain rfl := snd_eq e; clear e) | split | with_reducible refine foldl_mem ?_ ?_ | with_reducible refine foldl_mem2 ?_ ?_ | with_reducible intro u a hu | (simp (maxDischargeDepth := 30) [hs]; done) | (simp (maxDischargeDepth := 30) [hs, ih]; done) | (simp (maxDischargeDepth := 30) [hs, hu]; done) | (simp (maxDischargeDepth := 30) [hs, hf]; done)
@[simp] theorem State.noteTs_mem (s : State) (b : BrickId) (ts : Nat) (hs : s.memWf) :
    (s.noteTs b ts).memWf := by
  simp only [State.noteTs]
  repeat' first | with_reducible assumption | (rename_i e; obtain rfl := snd_eq e; clear e) | split | with_reducible refine foldl_mem ?_ ?_ | with_reducible refine foldl_mem2 ?_ ?_ | with_reducible intro u a hu | (simp (maxDischargeDepth := 30) [hs]; done) | (simp (maxDischargeDepth := 30) [hs, ih]; done) | (simp (maxDischargeDepth := 30) [hs, hu]; done) | (simp (maxDischargeDepth := 30) [hs, hf]; done)
@[simp] theorem State.sent_mem (s : State) (b : BrickId) (n : Nat) (hs : s.memWf) :
    (s.sent b n).memWf := by
  simp only [State.sent]
  repeat' first | with_reducible assumption | (rename_i e; obtain rfl := snd_eq e; clear e) | split | with_reducible refine foldl_mem ?_ ?_ | with_reducible refine foldl_mem2 ?_ ?_ | with_reducible intro u a hu | (simp (maxDischargeDepth := 30) [hs]; done) | (simp (maxDischargeDepth := 30) [hs, ih]; done) | (simp (maxDischargeDepth := 30) [hs, hu]; done) | (simp (maxDischargeDepth := 30) [hs, hf]; done)
@[simp] theorem State.rcvd_mem (s : State) (b : BrickId) (n : Nat) (hs : s.memWf) :
    (s.rcvd b n).memWf := by
  simp only [State.rcvd]
  repeat' first | with_reducible assumption | (rename_i e; obtain rfl := snd_eq e; clear e) | split | with_reducible refine foldl_mem ?_ ?_ | with_reducible refine foldl_mem2 ?_ ?_ | with_reducible intro u a hu | (simp (maxDischargeDepth := 30) [hs]; done) | (simp (maxDischargeDepth := 30) [hs, ih]; done) | (simp (maxDischargeDepth := 30) [hs, hu]; done) | (simp (maxDischargeDepth := 30) [hs, hf]; done)
@[simp] theorem State.writeRecord_mem (s : State) (r : Record) (hs : s.memWf) :
    (s.writeRecord r).memWf := by
  simp only [State.writeRecord]
  repeat' first | with_reducible assumption | (rename_i e; obtain rfl := snd_eq e; clear e) | split | with_reducible refine foldl_mem ?_ ?_ | with_reducible refine foldl_mem2 ?_ ?_ | with_reducible intro u a hu | (simp (maxDischargeDepth := 30) [hs]; done) | (simp (maxDischargeDepth := 30) [hs, ih]; done) | (simp (maxDischargeDepth := 30) [hs, hu]; done) | (simp (maxDischargeDepth := 30) [hs, hf]; done)
@[simp] theorem State.raiseFault_mem (s : State) (g : RegionId) (r : Record) (hs : s.memWf) :
    (s.raiseFault g r).memWf := by
  simp only [State.raiseFault]
  repeat' first | with_reducible assumption | (rename_i e; obtain rfl := snd_eq e; clear e) | split | with_reducible refine foldl_mem ?_ ?_ | with_reducible refine foldl_mem2 ?_ ?_ | with_reducible intro u a hu | (simp (maxDischargeDepth := 30) [hs]; done) | (simp (maxDischargeDepth := 30) [hs, ih]; done) | (simp (maxDischargeDepth := 30) [hs, hu]; done) | (simp (maxDischargeDepth := 30) [hs, hf]; done)
@[simp] theorem State.raiseAt_mem (s : State) (b : BrickId) (r : Record) (hs : s.memWf) :
    (s.raiseAt b r).memWf := by
  simp only [State.raiseAt]
  repeat' first | with_reducible assumption | (rename_i e; obtain rfl := snd_eq e; clear e) | split | with_reducible refine foldl_mem ?_ ?_ | with_reducible refine foldl_mem2 ?_ ?_ | with_reducible intro u a hu | (simp (maxDischargeDepth := 30) [hs]; done) | (simp (maxDischargeDepth := 30) [hs, ih]; done) | (simp (maxDischargeDepth := 30) [hs, hu]; done) | (simp (maxDischargeDepth := 30) [hs, hf]; done)
@[simp] theorem State.noteAt_mem (s : State) (b : BrickId) (r : Record) (hs : s.memWf) :
    (s.noteAt b r).memWf := by
  simp only [State.noteAt]
  repeat' first | with_reducible assumption | (rename_i e; obtain rfl := snd_eq e; clear e) | split | with_reducible refine foldl_mem ?_ ?_ | with_reducible refine foldl_mem2 ?_ ?_ | with_reducible intro u a hu | (simp (maxDischargeDepth := 30) [hs]; done) | (simp (maxDischargeDepth := 30) [hs, ih]; done) | (simp (maxDischargeDepth := 30) [hs, hu]; done) | (simp (maxDischargeDepth := 30) [hs, hf]; done)
@[simp] theorem State.reportTrap_mem (s : State) (b : BrickId) (c d : Nat) (hs : s.memWf) :
    (s.reportTrap b c d).memWf := by
  simp only [State.reportTrap]
  repeat' first | with_reducible assumption | (rename_i e; obtain rfl := snd_eq e; clear e) | split | with_reducible refine foldl_mem ?_ ?_ | with_reducible refine foldl_mem2 ?_ ?_ | with_reducible intro u a hu | (simp (maxDischargeDepth := 30) [hs]; done) | (simp (maxDischargeDepth := 30) [hs, ih]; done) | (simp (maxDischargeDepth := 30) [hs, hu]; done) | (simp (maxDischargeDepth := 30) [hs, hf]; done)
@[simp] theorem State.setUnit_mem (s : State) (u : UnitRef) (x : ErrUnit) (hs : s.memWf) :
    (s.setUnit u x).memWf := by
  simp only [State.setUnit]
  repeat' first | with_reducible assumption | (rename_i e; obtain rfl := snd_eq e; clear e) | split | with_reducible refine foldl_mem ?_ ?_ | with_reducible refine foldl_mem2 ?_ ?_ | with_reducible intro u a hu | (simp (maxDischargeDepth := 30) [hs]; done) | (simp (maxDischargeDepth := 30) [hs, ih]; done) | (simp (maxDischargeDepth := 30) [hs, hu]; done) | (simp (maxDischargeDepth := 30) [hs, hf]; done)
@[simp] theorem State.lastingAction_mem (s : State) (u : UnitRef) (a : Nat) (hs : s.memWf) :
    (s.lastingAction u a).memWf := by
  simp only [State.lastingAction]
  repeat' first | with_reducible assumption | (rename_i e; obtain rfl := snd_eq e; clear e) | split | with_reducible refine foldl_mem ?_ ?_ | with_reducible refine foldl_mem2 ?_ ?_ | with_reducible intro u a hu | (simp (maxDischargeDepth := 30) [hs]; done) | (simp (maxDischargeDepth := 30) [hs, ih]; done) | (simp (maxDischargeDepth := 30) [hs, hu]; done) | (simp (maxDischargeDepth := 30) [hs, hf]; done)
@[simp] theorem State.countError_mem (s : State) (u : UnitRef) (w a : Nat) (hs : s.memWf) : (s.countError u w a).memWf := by
  unfold State.countError
  extract_lets x fresh c y t
  split
  · exact hs
  · split
    · exact hs
    · exact State.lastingAction_mem _ _ _ (State.writeRecord_mem _ _ hs)
@[simp] theorem State.meetBad_mem (s : State) (u : UnitRef) (a : Nat) (hs : s.memWf) :
    (s.meetBad u a).memWf := by
  simp only [State.meetBad]
  repeat' first | with_reducible assumption | (rename_i e; obtain rfl := snd_eq e; clear e) | split | with_reducible refine foldl_mem ?_ ?_ | with_reducible refine foldl_mem2 ?_ ?_ | with_reducible intro u a hu | (simp (maxDischargeDepth := 30) [hs]; done) | (simp (maxDischargeDepth := 30) [hs, ih]; done) | (simp (maxDischargeDepth := 30) [hs, hu]; done) | (simp (maxDischargeDepth := 30) [hs, hf]; done)
@[simp] theorem State.returned_mem (s : State) (b : BrickId) (n : Nat) (hs : s.memWf) :
    (s.returned b n).memWf := by
  simp only [State.returned]
  repeat' first | with_reducible assumption | (rename_i e; obtain rfl := snd_eq e; clear e) | split | with_reducible refine foldl_mem ?_ ?_ | with_reducible refine foldl_mem2 ?_ ?_ | with_reducible intro u a hu | (simp (maxDischargeDepth := 30) [hs]; done) | (simp (maxDischargeDepth := 30) [hs, ih]; done) | (simp (maxDischargeDepth := 30) [hs, hu]; done) | (simp (maxDischargeDepth := 30) [hs, hf]; done)
@[simp] theorem State.meetTrap_mem (s : State) (b : BrickId) (c d : Nat) (hs : s.memWf) :
    (s.meetTrap b c d).memWf := by
  simp only [State.meetTrap]
  repeat' first | with_reducible assumption | (rename_i e; obtain rfl := snd_eq e; clear e) | split | with_reducible refine foldl_mem ?_ ?_ | with_reducible refine foldl_mem2 ?_ ?_ | with_reducible intro u a hu | (simp (maxDischargeDepth := 30) [hs]; done) | (simp (maxDischargeDepth := 30) [hs, ih]; done) | (simp (maxDischargeDepth := 30) [hs, hu]; done) | (simp (maxDischargeDepth := 30) [hs, hf]; done)
@[simp] theorem State.takeTrap_mem (s : State) (b : BrickId) (c d t k v : Nat) (w : Word) (h : List (Option Token)) (hs : s.memWf) :
    (s.takeTrap b c d t k v w h).memWf := by
  simp only [State.takeTrap]
  repeat' first | with_reducible assumption | (rename_i e; obtain rfl := snd_eq e; clear e) | split | with_reducible refine foldl_mem ?_ ?_ | with_reducible refine foldl_mem2 ?_ ?_ | with_reducible intro u a hu | (simp (maxDischargeDepth := 30) [hs]; done) | (simp (maxDischargeDepth := 30) [hs, ih]; done) | (simp (maxDischargeDepth := 30) [hs, hu]; done) | (simp (maxDischargeDepth := 30) [hs, hf]; done)

/-! Nodes -/
@[simp] theorem State.setCharges_mem (s : State) (n i : Nat) (f : Nat → Nat) (hs : s.memWf) :
    (s.setCharges n i f).memWf := by
  simp only [State.setCharges]
  repeat' first | with_reducible assumption | (rename_i e; obtain rfl := snd_eq e; clear e) | split | with_reducible refine foldl_mem ?_ ?_ | with_reducible refine foldl_mem2 ?_ ?_ | with_reducible intro u a hu | (simp (maxDischargeDepth := 30) [hs]; done) | (simp (maxDischargeDepth := 30) [hs, ih]; done) | (simp (maxDischargeDepth := 30) [hs, hu]; done) | (simp (maxDischargeDepth := 30) [hs, hf]; done)
@[simp] theorem State.charge_mem (s : State) (n i a : Nat) (hs : s.memWf) :
    (s.charge n i a).memWf := by
  simp only [State.charge]
  repeat' first | with_reducible assumption | (rename_i e; obtain rfl := snd_eq e; clear e) | split | with_reducible refine foldl_mem ?_ ?_ | with_reducible refine foldl_mem2 ?_ ?_ | with_reducible intro u a hu | (simp (maxDischargeDepth := 30) [hs]; done) | (simp (maxDischargeDepth := 30) [hs, ih]; done) | (simp (maxDischargeDepth := 30) [hs, hu]; done) | (simp (maxDischargeDepth := 30) [hs, hf]; done)
@[simp] theorem State.refund_mem (s : State) (n i a : Nat) (hs : s.memWf) :
    (s.refund n i a).memWf := by
  simp only [State.refund]
  repeat' first | with_reducible assumption | (rename_i e; obtain rfl := snd_eq e; clear e) | split | with_reducible refine foldl_mem ?_ ?_ | with_reducible refine foldl_mem2 ?_ ?_ | with_reducible intro u a hu | (simp (maxDischargeDepth := 30) [hs]; done) | (simp (maxDischargeDepth := 30) [hs, ih]; done) | (simp (maxDischargeDepth := 30) [hs, hu]; done) | (simp (maxDischargeDepth := 30) [hs, hf]; done)

/-! Net -/
@[simp] theorem State.wallDrop_mem (s : State) (b : BrickId) (w : Wall) (hs : s.memWf) :
    (s.wallDrop b w).memWf := by
  simp only [State.wallDrop]
  repeat' first | with_reducible assumption | (rename_i e; obtain rfl := snd_eq e; clear e) | split | with_reducible refine foldl_mem ?_ ?_ | with_reducible refine foldl_mem2 ?_ ?_ | with_reducible intro u a hu | (simp (maxDischargeDepth := 30) [hs]; done) | (simp (maxDischargeDepth := 30) [hs, ih]; done) | (simp (maxDischargeDepth := 30) [hs, hu]; done) | (simp (maxDischargeDepth := 30) [hs, hf]; done)
@[simp] theorem State.launchIn_mem (s : State) (n : Nat) (src : BrickId) (port : Nat) (d : Dest) (t : Token) (hs : s.memWf) :
    (s.launchIn n src port d t).memWf := by
  simp only [State.launchIn]
  repeat' first | with_reducible assumption | (rename_i e; obtain rfl := snd_eq e; clear e) | split | with_reducible refine foldl_mem ?_ ?_ | with_reducible refine foldl_mem2 ?_ ?_ | with_reducible intro u a hu | (simp (maxDischargeDepth := 30) [hs]; done) | (simp (maxDischargeDepth := 30) [hs, ih]; done) | (simp (maxDischargeDepth := 30) [hs, hu]; done) | (simp (maxDischargeDepth := 30) [hs, hf]; done)
@[simp] theorem State.launch_mem (s : State) (src : BrickId) (port : Nat) (d : Dest) (t : Token) (hs : s.memWf) :
    (s.launch src port d t).memWf := by
  simp only [State.launch]
  repeat' first | with_reducible assumption | (rename_i e; obtain rfl := snd_eq e; clear e) | split | with_reducible refine foldl_mem ?_ ?_ | with_reducible refine foldl_mem2 ?_ ?_ | with_reducible intro u a hu | (simp (maxDischargeDepth := 30) [hs]; done) | (simp (maxDischargeDepth := 30) [hs, ih]; done) | (simp (maxDischargeDepth := 30) [hs, hu]; done) | (simp (maxDischargeDepth := 30) [hs, hf]; done)
@[simp] theorem State.overcount_mem (s : State) (b : BrickId) (c : Option Nat) (d : Nat) (f : Bool) (hs : s.memWf) :
    (s.overcount b c d f).memWf := by
  simp only [State.overcount]
  repeat' first | with_reducible assumption | (rename_i e; obtain rfl := snd_eq e; clear e) | split | with_reducible refine foldl_mem ?_ ?_ | with_reducible refine foldl_mem2 ?_ ?_ | with_reducible intro u a hu | (simp (maxDischargeDepth := 30) [hs]; done) | (simp (maxDischargeDepth := 30) [hs, ih]; done) | (simp (maxDischargeDepth := 30) [hs, hu]; done) | (simp (maxDischargeDepth := 30) [hs, hf]; done)
@[simp] theorem State.arriveInput_mem (s : State) (b : BrickId) (c : Nat) (t : Token) (hs : s.memWf) :
    (s.arriveInput b c t).memWf := by
  simp only [State.arriveInput]
  repeat' first | with_reducible assumption | (rename_i e; obtain rfl := snd_eq e; clear e) | split | with_reducible refine foldl_mem ?_ ?_ | with_reducible refine foldl_mem2 ?_ ?_ | with_reducible intro u a hu | (simp (maxDischargeDepth := 30) [hs]; done) | (simp (maxDischargeDepth := 30) [hs, ih]; done) | (simp (maxDischargeDepth := 30) [hs, hu]; done) | (simp (maxDischargeDepth := 30) [hs, hf]; done)
@[simp] theorem State.arrive_mem (s : State) (f : Flight) (hs : s.memWf) :
    (s.arrive f).memWf := by
  simp only [State.arrive]
  repeat' first | with_reducible assumption | (rename_i e; obtain rfl := snd_eq e; clear e) | split | with_reducible refine foldl_mem ?_ ?_ | with_reducible refine foldl_mem2 ?_ ?_ | with_reducible intro u a hu | (simp (maxDischargeDepth := 30) [hs]; done) | (simp (maxDischargeDepth := 30) [hs, ih]; done) | (simp (maxDischargeDepth := 30) [hs, hu]; done) | (simp (maxDischargeDepth := 30) [hs, hf]; done)
@[simp] theorem State.setPort_mem (s : State) (r : PortRef) (p : Port) (hs : s.memWf) :
    (s.setPort r p).memWf := by
  simp only [State.setPort]
  repeat' first | with_reducible assumption | (rename_i e; obtain rfl := snd_eq e; clear e) | split | with_reducible refine foldl_mem ?_ ?_ | with_reducible refine foldl_mem2 ?_ ?_ | with_reducible intro u a hu | (simp (maxDischargeDepth := 30) [hs]; done) | (simp (maxDischargeDepth := 30) [hs, ih]; done) | (simp (maxDischargeDepth := 30) [hs, hu]; done) | (simp (maxDischargeDepth := 30) [hs, hf]; done)
@[simp] theorem State.sendBranch_mem (s : State) (r : PortRef) (k b : Nat) (hs : s.memWf) :
    (s.sendBranch r k b).memWf := by
  simp only [State.sendBranch]
  repeat' first | with_reducible assumption | (rename_i e; obtain rfl := snd_eq e; clear e) | split | with_reducible refine foldl_mem ?_ ?_ | with_reducible refine foldl_mem2 ?_ ?_ | with_reducible intro u a hu | (simp (maxDischargeDepth := 30) [hs]; done) | (simp (maxDischargeDepth := 30) [hs, ih]; done) | (simp (maxDischargeDepth := 30) [hs, hu]; done) | (simp (maxDischargeDepth := 30) [hs, hf]; done)
@[simp] theorem State.retirePort_mem (s : State) (r : PortRef) (hs : s.memWf) :
    (s.retirePort r).memWf := by
  simp only [State.retirePort]
  repeat' first | with_reducible assumption | (rename_i e; obtain rfl := snd_eq e; clear e) | split | with_reducible refine foldl_mem ?_ ?_ | with_reducible refine foldl_mem2 ?_ ?_ | with_reducible intro u a hu | (simp (maxDischargeDepth := 30) [hs]; done) | (simp (maxDischargeDepth := 30) [hs, ih]; done) | (simp (maxDischargeDepth := 30) [hs, hu]; done) | (simp (maxDischargeDepth := 30) [hs, hf]; done)

/-! Loft -/
@[simp] theorem State.setLine_mem (s : State) (n : Nat) (l : LoftLine) (hs : s.memWf) :
    (s.setLine n l).memWf := by
  simp only [State.setLine]
  repeat' first | with_reducible assumption | (rename_i e; obtain rfl := snd_eq e; clear e) | split | with_reducible refine foldl_mem ?_ ?_ | with_reducible refine foldl_mem2 ?_ ?_ | with_reducible intro u a hu | (simp (maxDischargeDepth := 30) [hs]; done) | (simp (maxDischargeDepth := 30) [hs, ih]; done) | (simp (maxDischargeDepth := 30) [hs, hu]; done) | (simp (maxDischargeDepth := 30) [hs, hf]; done)
@[simp] theorem State.addStall_mem (s : State) (stack n : Nat) (hs : s.memWf) :
    (s.addStall stack n).memWf := by
  simp only [State.addStall]
  repeat' first | with_reducible assumption | (rename_i e; obtain rfl := snd_eq e; clear e) | split | with_reducible refine foldl_mem ?_ ?_ | with_reducible refine foldl_mem2 ?_ ?_ | with_reducible intro u a hu | (simp (maxDischargeDepth := 30) [hs]; done) | (simp (maxDischargeDepth := 30) [hs, ih]; done) | (simp (maxDischargeDepth := 30) [hs, hu]; done) | (simp (maxDischargeDepth := 30) [hs, hf]; done)
@[simp] theorem State.addMiss_mem (s : State) (pa : Nat) (hs : s.memWf) :
    (s.addMiss pa).memWf := by
  simp only [State.addMiss]
  repeat' first | with_reducible assumption | (rename_i e; obtain rfl := snd_eq e; clear e) | split | with_reducible refine foldl_mem ?_ ?_ | with_reducible refine foldl_mem2 ?_ ?_ | with_reducible intro u a hu | (simp (maxDischargeDepth := 30) [hs]; done) | (simp (maxDischargeDepth := 30) [hs, ih]; done) | (simp (maxDischargeDepth := 30) [hs, hu]; done) | (simp (maxDischargeDepth := 30) [hs, hf]; done)
@[simp] theorem State.command_mem (s : State) (stack pc : Nat) (hs : s.memWf) :
    (s.command stack pc).memWf := by
  simp only [State.command]
  repeat' first | with_reducible assumption | (rename_i e; obtain rfl := snd_eq e; clear e) | split | with_reducible refine foldl_mem ?_ ?_ | with_reducible refine foldl_mem2 ?_ ?_ | with_reducible intro u a hu | (simp (maxDischargeDepth := 30) [hs]; done) | (simp (maxDischargeDepth := 30) [hs, ih]; done) | (simp (maxDischargeDepth := 30) [hs, hu]; done) | (simp (maxDischargeDepth := 30) [hs, hf]; done)
@[simp] theorem State.writeBack_mem (s : State) (n : Nat) (d : Bool) (hs : s.memWf) :
    (s.writeBack n d).memWf := by
  simp only [State.writeBack]
  repeat' first | with_reducible assumption | (rename_i e; obtain rfl := snd_eq e; clear e) | split | with_reducible refine foldl_mem ?_ ?_ | with_reducible refine foldl_mem2 ?_ ?_ | with_reducible intro u a hu | (simp (maxDischargeDepth := 30) [hs]; done) | (simp (maxDischargeDepth := 30) [hs, ih]; done) | (simp (maxDischargeDepth := 30) [hs, hu]; done) | (simp (maxDischargeDepth := 30) [hs, hf]; done)
@[simp] theorem State.makeRoom_mem (s : State) (n : Nat) (hs : s.memWf) :
    (s.makeRoom n).memWf := by
  simp only [State.makeRoom]
  repeat' first | with_reducible assumption | (rename_i e; obtain rfl := snd_eq e; clear e) | split | with_reducible refine foldl_mem ?_ ?_ | with_reducible refine foldl_mem2 ?_ ?_ | with_reducible intro u a hu | (simp (maxDischargeDepth := 30) [hs]; done) | (simp (maxDischargeDepth := 30) [hs, ih]; done) | (simp (maxDischargeDepth := 30) [hs, hu]; done) | (simp (maxDischargeDepth := 30) [hs, hf]; done)
@[simp] theorem State.putLine_mem (s : State) (ln : Nat) (l : LoftLine) (hs : s.memWf) :
    (s.putLine ln l).memWf := by
  simp only [State.putLine]
  repeat' first | with_reducible assumption | (rename_i e; obtain rfl := snd_eq e; clear e) | split | with_reducible refine foldl_mem ?_ ?_ | with_reducible refine foldl_mem2 ?_ ?_ | with_reducible intro u a hu | (simp (maxDischargeDepth := 30) [hs]; done) | (simp (maxDischargeDepth := 30) [hs, ih]; done) | (simp (maxDischargeDepth := 30) [hs, hu]; done) | (simp (maxDischargeDepth := 30) [hs, hf]; done)
@[simp] theorem State.writeLine_mem (s : State) (pa : Nat) (vs : List Byte) (weights : Bool) (hs : s.memWf) :
    (s.writeLine pa vs weights).memWf := by
  simp only [State.writeLine]
  repeat' first | with_reducible assumption | (rename_i e; obtain rfl := snd_eq e; clear e) | split | with_reducible refine foldl_mem ?_ ?_ | with_reducible refine foldl_mem2 ?_ ?_ | with_reducible intro u a hu | (simp (maxDischargeDepth := 30) [hs]; done) | (simp (maxDischargeDepth := 30) [hs, ih]; done) | (simp (maxDischargeDepth := 30) [hs, hu]; done) | (simp (maxDischargeDepth := 30) [hs, hf]; done)
@[simp] theorem State.modReq_mem (s : State) (n : Nat) (f : Req → Req) (hs : s.memWf) :
    (s.modReq n f).memWf := by
  simp only [State.modReq]
  repeat' first | with_reducible assumption | (rename_i e; obtain rfl := snd_eq e; clear e) | split | with_reducible refine foldl_mem ?_ ?_ | with_reducible refine foldl_mem2 ?_ ?_ | with_reducible intro u a hu | (simp (maxDischargeDepth := 30) [hs]; done) | (simp (maxDischargeDepth := 30) [hs, ih]; done) | (simp (maxDischargeDepth := 30) [hs, hu]; done) | (simp (maxDischargeDepth := 30) [hs, hf]; done)
@[simp] theorem State.dropReq_mem (s : State) (n : Nat) (hs : s.memWf) :
    (s.dropReq n).memWf := by
  simp only [State.dropReq]
  repeat' first | with_reducible assumption | (rename_i e; obtain rfl := snd_eq e; clear e) | split | with_reducible refine foldl_mem ?_ ?_ | with_reducible refine foldl_mem2 ?_ ?_ | with_reducible intro u a hu | (simp (maxDischargeDepth := 30) [hs]; done) | (simp (maxDischargeDepth := 30) [hs, ih]; done) | (simp (maxDischargeDepth := 30) [hs, hu]; done) | (simp (maxDischargeDepth := 30) [hs, hf]; done)
@[simp] theorem State.failReq_mem (s : State) (r : Req) (f : Fail) (va : Nat) (hs : s.memWf) :
    (s.failReq r f va).memWf := by
  simp only [State.failReq]
  repeat' first | with_reducible assumption | (rename_i e; obtain rfl := snd_eq e; clear e) | split | with_reducible refine foldl_mem ?_ ?_ | with_reducible refine foldl_mem2 ?_ ?_ | with_reducible intro u a hu | (simp (maxDischargeDepth := 30) [hs]; done) | (simp (maxDischargeDepth := 30) [hs, ih]; done) | (simp (maxDischargeDepth := 30) [hs, hu]; done) | (simp (maxDischargeDepth := 30) [hs, hf]; done)
@[simp] theorem State.refreshCopy_mem (s : State) (e : BrickId) (t ln : Nat) (hs : s.memWf) :
    (s.refreshCopy e t ln).memWf := by
  simp only [State.refreshCopy]
  repeat' first | with_reducible assumption | (rename_i e; obtain rfl := snd_eq e; clear e) | split | with_reducible refine foldl_mem ?_ ?_ | with_reducible refine foldl_mem2 ?_ ?_ | with_reducible intro u a hu | (simp (maxDischargeDepth := 30) [hs]; done) | (simp (maxDischargeDepth := 30) [hs, ih]; done) | (simp (maxDischargeDepth := 30) [hs, hu]; done) | (simp (maxDischargeDepth := 30) [hs, hf]; done)
@[simp] theorem State.dropCopy_mem (s : State) (e : BrickId) (t ln : Nat) (hs : s.memWf) :
    (s.dropCopy e t ln).memWf := by
  simp only [State.dropCopy]
  repeat' first | with_reducible assumption | (rename_i e; obtain rfl := snd_eq e; clear e) | split | with_reducible refine foldl_mem ?_ ?_ | with_reducible refine foldl_mem2 ?_ ?_ | with_reducible intro u a hu | (simp (maxDischargeDepth := 30) [hs]; done) | (simp (maxDischargeDepth := 30) [hs, ih]; done) | (simp (maxDischargeDepth := 30) [hs, hu]; done) | (simp (maxDischargeDepth := 30) [hs, hf]; done)
@[simp] theorem State.hbmUeRecord_mem (s : State) (a n : Nat) (hs : s.memWf) :
    (s.hbmUeRecord a n).memWf := by
  simp only [State.hbmUeRecord]
  repeat' first | with_reducible assumption | (rename_i e; obtain rfl := snd_eq e; clear e) | split | with_reducible refine foldl_mem ?_ ?_ | with_reducible refine foldl_mem2 ?_ ?_ | with_reducible intro u a hu | (simp (maxDischargeDepth := 30) [hs]; done) | (simp (maxDischargeDepth := 30) [hs, ih]; done) | (simp (maxDischargeDepth := 30) [hs, hu]; done) | (simp (maxDischargeDepth := 30) [hs, hf]; done)
@[simp] theorem State.atomicPart_mem (s : State) (r : Req) (p : Part) (op w v y : Nat) (hs : s.memWf) :
    (s.atomicPart r p op w v y).memWf := by
  simp only [State.atomicPart]
  repeat' first | with_reducible assumption | (rename_i e; obtain rfl := snd_eq e; clear e) | split | with_reducible refine foldl_mem ?_ ?_ | with_reducible refine foldl_mem2 ?_ ?_ | with_reducible intro u a hu | (simp (maxDischargeDepth := 30) [hs]; done) | (simp (maxDischargeDepth := 30) [hs, ih]; done) | (simp (maxDischargeDepth := 30) [hs, hu]; done) | (simp (maxDischargeDepth := 30) [hs, hf]; done)
@[simp] theorem State.askFill_mem (s : State) (t n : Nat) (d : Bool) (hs : s.memWf) :
    (s.askFill t n d).memWf := by
  simp only [State.askFill]
  repeat' first | with_reducible assumption | (rename_i e; obtain rfl := snd_eq e; clear e) | split | with_reducible refine foldl_mem ?_ ?_ | with_reducible refine foldl_mem2 ?_ ?_ | with_reducible intro u a hu | (simp (maxDischargeDepth := 30) [hs]; done) | (simp (maxDischargeDepth := 30) [hs, ih]; done) | (simp (maxDischargeDepth := 30) [hs, hu]; done) | (simp (maxDischargeDepth := 30) [hs, hf]; done)
@[simp] theorem State.fillDone_mem (s : State) (sector : Nat) (data : List Byte) (ue : Nat) (hs : s.memWf) : (s.fillDone sector data ue).memWf := by
  unfold State.fillDone
  extract_lets ln waiting met s1 s2 s3
  have h1 : s1.memWf := foldl_mem hs fun u a hu => State.hbmUeRecord_mem _ _ _ hu
  have h3 : s3.memWf := State.putLine_mem _ _ _ h1
  refine foldl_mem h3 fun u a hu => ?_
  repeat' first | with_reducible assumption | (rename_i e; obtain rfl := snd_eq e; clear e) | split | with_reducible refine foldl_mem ?_ ?_ | with_reducible refine foldl_mem2 ?_ ?_ | with_reducible intro u a hu | (simp (maxDischargeDepth := 30) [hs]; done) | (simp (maxDischargeDepth := 30) [hs, ih]; done) | (simp (maxDischargeDepth := 30) [hs, hu]; done) | (simp (maxDischargeDepth := 30) [hs, hf]; done)
@[simp] theorem State.fillNow_mem (s : State) (t n : Nat) (d w : Bool) (hs : s.memWf) :
    (s.fillNow t n d w).memWf := by
  simp only [State.fillNow]
  repeat' first | with_reducible assumption | (rename_i e; obtain rfl := snd_eq e; clear e) | split | with_reducible refine foldl_mem ?_ ?_ | with_reducible refine foldl_mem2 ?_ ?_ | with_reducible intro u a hu | (simp (maxDischargeDepth := 30) [hs]; done) | (simp (maxDischargeDepth := 30) [hs, ih]; done) | (simp (maxDischargeDepth := 30) [hs, hu]; done) | (simp (maxDischargeDepth := 30) [hs, hf]; done)
@[simp] theorem State.settleLine_mem (s : State) (t n : Nat) (hs : s.memWf) :
    (s.settleLine t n).memWf := by
  simp only [State.settleLine]
  repeat' first | with_reducible assumption | (rename_i e; obtain rfl := snd_eq e; clear e) | split | with_reducible refine foldl_mem ?_ ?_ | with_reducible refine foldl_mem2 ?_ ?_ | with_reducible intro u a hu | (simp (maxDischargeDepth := 30) [hs]; done) | (simp (maxDischargeDepth := 30) [hs, ih]; done) | (simp (maxDischargeDepth := 30) [hs, hu]; done) | (simp (maxDischargeDepth := 30) [hs, hf]; done)
@[simp] theorem State.fetchLine_mem (s : State) (t pa n : Nat) (d w : Bool) (hs : s.memWf) :
    (s.fetchLine t pa n d w).memWf := by
  simp only [State.fetchLine]
  repeat' first | with_reducible assumption | (rename_i e; obtain rfl := snd_eq e; clear e) | split | with_reducible refine foldl_mem ?_ ?_ | with_reducible refine foldl_mem2 ?_ ?_ | with_reducible intro u a hu | (simp (maxDischargeDepth := 30) [hs]; done) | (simp (maxDischargeDepth := 30) [hs, ih]; done) | (simp (maxDischargeDepth := 30) [hs, hu]; done) | (simp (maxDischargeDepth := 30) [hs, hf]; done)

/-! Memory -/
@[simp] theorem State.readWord_mem (s : State) (t pa : Nat) (hs : s.memWf) :
    (s.readWord t pa).2.memWf := by
  simp only [State.readWord]
  repeat' first | with_reducible assumption | (rename_i e; obtain rfl := snd_eq e; clear e) | split | with_reducible refine foldl_mem ?_ ?_ | with_reducible refine foldl_mem2 ?_ ?_ | with_reducible intro u a hu | (simp (maxDischargeDepth := 30) [hs]; done) | (simp (maxDischargeDepth := 30) [hs, ih]; done) | (simp (maxDischargeDepth := 30) [hs, hu]; done) | (simp (maxDischargeDepth := 30) [hs, hf]; done)
@[simp] theorem State.walkPath_mem (t va f l b : Nat) (s : State) (hs : s.memWf) : (s.walkPath t va f l b).2.memWf := by
  induction f generalizing l b s with
  | zero => exact hs
  | succ n ih =>
    simp only [State.walkPath]
    repeat' first | with_reducible assumption | (rename_i e; obtain rfl := snd_eq e; clear e) | split | with_reducible refine foldl_mem ?_ ?_ | with_reducible refine foldl_mem2 ?_ ?_ | with_reducible intro u a hu | (simp (maxDischargeDepth := 30) [hs]; done) | (simp (maxDischargeDepth := 30) [hs, ih]; done) | (simp (maxDischargeDepth := 30) [hs, hu]; done) | (simp (maxDischargeDepth := 30) [hs, hf]; done)

@[simp] theorem State.walkFrom_mem (s : State) (t va l b : Nat) (hs : s.memWf) :
    (s.walkFrom t va l b).2.memWf := by
  simp only [State.walkFrom]
  repeat' first | with_reducible assumption | (rename_i e; obtain rfl := snd_eq e; clear e) | split | with_reducible refine foldl_mem ?_ ?_ | with_reducible refine foldl_mem2 ?_ ?_ | with_reducible intro u a hu | (simp (maxDischargeDepth := 30) [hs]; done) | (simp (maxDischargeDepth := 30) [hs, ih]; done) | (simp (maxDischargeDepth := 30) [hs, hu]; done) | (simp (maxDischargeDepth := 30) [hs, hf]; done)
@[simp] theorem State.walk_mem (s : State) (t va : Nat) (hs : s.memWf) :
    (s.walk t va).2.memWf := by
  simp only [State.walk]
  repeat' first | with_reducible assumption | (rename_i e; obtain rfl := snd_eq e; clear e) | split | with_reducible refine foldl_mem ?_ ?_ | with_reducible refine foldl_mem2 ?_ ?_ | with_reducible intro u a hu | (simp (maxDischargeDepth := 30) [hs]; done) | (simp (maxDischargeDepth := 30) [hs, ih]; done) | (simp (maxDischargeDepth := 30) [hs, hu]; done) | (simp (maxDischargeDepth := 30) [hs, hf]; done)
@[simp] theorem State.walkShare_mem (s : State) (bay t va : Nat) (hs : s.memWf) :
    (s.walkShare bay t va).2.memWf := by
  simp only [State.walkShare]
  repeat' first | with_reducible assumption | (rename_i e; obtain rfl := snd_eq e; clear e) | split | with_reducible refine foldl_mem ?_ ?_ | with_reducible refine foldl_mem2 ?_ ?_ | with_reducible intro u a hu | (simp (maxDischargeDepth := 30) [hs]; done) | (simp (maxDischargeDepth := 30) [hs, ih]; done) | (simp (maxDischargeDepth := 30) [hs, hu]; done) | (simp (maxDischargeDepth := 30) [hs, hf]; done)
@[simp] theorem State.touchTlb_mem (s : State) (e : BrickId) (x : TlbEntry) (hs : s.memWf) :
    (s.touchTlb e x).memWf := by
  simp only [State.touchTlb]
  repeat' first | with_reducible assumption | (rename_i e; obtain rfl := snd_eq e; clear e) | split | with_reducible refine foldl_mem ?_ ?_ | with_reducible refine foldl_mem2 ?_ ?_ | with_reducible intro u a hu | (simp (maxDischargeDepth := 30) [hs]; done) | (simp (maxDischargeDepth := 30) [hs, ih]; done) | (simp (maxDischargeDepth := 30) [hs, hu]; done) | (simp (maxDischargeDepth := 30) [hs, hf]; done)
@[simp] theorem State.endWalk_mem (s : State) (e : BrickId) (t va : Nat) (hs : s.memWf) :
    (s.endWalk e t va).memWf := by
  simp only [State.endWalk]
  repeat' first | with_reducible assumption | (rename_i e; obtain rfl := snd_eq e; clear e) | split | with_reducible refine foldl_mem ?_ ?_ | with_reducible refine foldl_mem2 ?_ ?_ | with_reducible intro u a hu | (simp (maxDischargeDepth := 30) [hs]; done) | (simp (maxDischargeDepth := 30) [hs, ih]; done) | (simp (maxDischargeDepth := 30) [hs, hu]; done) | (simp (maxDischargeDepth := 30) [hs, hf]; done)
@[simp] theorem State.translate_mem (s : State) (q : Access) (write : Bool) (va : Nat) (hs : s.memWf) :
    (s.translate q write va).2.memWf := by
  simp only [State.translate]
  repeat' first | with_reducible assumption | (rename_i e; obtain rfl := snd_eq e; clear e) | split | with_reducible refine foldl_mem ?_ ?_ | with_reducible refine foldl_mem2 ?_ ?_ | with_reducible intro u a hu | (simp (maxDischargeDepth := 30) [hs]; done) | (simp (maxDischargeDepth := 30) [hs, ih]; done) | (simp (maxDischargeDepth := 30) [hs, hu]; done) | (simp (maxDischargeDepth := 30) [hs, hf]; done)
@[simp] theorem State.keepChunk_mem (s : State) (via : Option BrickId) (g : Option RegionId) (k n : Nat) (data : List Byte) (hs : s.memWf) :
    (s.keepChunk via g k n data).memWf := by
  simp only [State.keepChunk]
  repeat' first | with_reducible assumption | (rename_i e; obtain rfl := snd_eq e; clear e) | split | with_reducible refine foldl_mem ?_ ?_ | with_reducible refine foldl_mem2 ?_ ?_ | with_reducible intro u a hu | (simp (maxDischargeDepth := 30) [hs]; done) | (simp (maxDischargeDepth := 30) [hs, ih]; done) | (simp (maxDischargeDepth := 30) [hs, hu]; done) | (simp (maxDischargeDepth := 30) [hs, hf]; done)
@[simp] theorem State.rawRead_mem (l : List (Nat × Nat)) (q : Access) (s : State) (hs : s.memWf) : (s.rawRead q l).2.memWf := by
  induction l generalizing q s with
  | nil => exact hs
  | cons p l ih =>
    obtain ⟨va, n⟩ := p
    simp only [State.rawRead]
    repeat' first | with_reducible assumption | (rename_i e; obtain rfl := snd_eq e; clear e) | split | with_reducible refine foldl_mem ?_ ?_ | with_reducible refine foldl_mem2 ?_ ?_ | with_reducible intro u a hu | (simp (maxDischargeDepth := 30) [hs]; done) | (simp (maxDischargeDepth := 30) [hs, ih]; done) | (simp (maxDischargeDepth := 30) [hs, hu]; done) | (simp (maxDischargeDepth := 30) [hs, hf]; done)

@[simp] theorem State.readChunk_mem (s : State) (q : Access) (k n : Nat) (hs : s.memWf) : (s.readChunk q k n).2.memWf := by
  simp only [State.readChunk]
  split
  · exact hs
  · split
    · exact hs
    · split
      · rename_i e; exact snd_mem e (State.rawRead_mem _ _ _ hs)
      · rename_i e
        have h1 := snd_mem e (State.rawRead_mem _ _ _ hs)
        split
        · rename_i e2; exact snd_mem e2 (State.rawRead_mem _ _ _ h1)
        · rename_i e2
          have h3 := snd_mem e2 (State.rawRead_mem _ _ _ h1)
          split
          · exact State.keepChunk_mem _ _ _ _ _ _ h3
          · exact h3
@[simp] theorem State.readPieces_mem (l : List (Nat × Nat)) (q : Access) (s : State) (hs : s.memWf) : (s.readPieces q l).2.memWf := by
  induction l generalizing q s with
  | nil => exact hs
  | cons p l ih =>
    obtain ⟨va, n⟩ := p
    simp only [State.readPieces]
    repeat' first | with_reducible assumption | (rename_i e; obtain rfl := snd_eq e; clear e) | split | with_reducible refine foldl_mem ?_ ?_ | with_reducible refine foldl_mem2 ?_ ?_ | with_reducible intro u a hu | (simp (maxDischargeDepth := 30) [hs]; done) | (simp (maxDischargeDepth := 30) [hs, ih]; done) | (simp (maxDischargeDepth := 30) [hs, hu]; done) | (simp (maxDischargeDepth := 30) [hs, hf]; done)

@[simp] theorem State.noteRegion_mem (s : State) (g : Option RegionId) (ts : Nat) (hs : s.memWf) :
    (s.noteRegion g ts).memWf := by
  simp only [State.noteRegion]
  repeat' first | with_reducible assumption | (rename_i e; obtain rfl := snd_eq e; clear e) | split | with_reducible refine foldl_mem ?_ ?_ | with_reducible refine foldl_mem2 ?_ ?_ | with_reducible intro u a hu | (simp (maxDischargeDepth := 30) [hs]; done) | (simp (maxDischargeDepth := 30) [hs, ih]; done) | (simp (maxDischargeDepth := 30) [hs, hu]; done) | (simp (maxDischargeDepth := 30) [hs, hf]; done)
@[simp] theorem State.classRead_mem (s : State) (q : Access) (va n : Nat) (hs : s.memWf) :
    (s.classRead q va n).2.memWf := by
  simp only [State.classRead]
  repeat' first | with_reducible assumption | (rename_i e; obtain rfl := snd_eq e; clear e) | split | with_reducible refine foldl_mem ?_ ?_ | with_reducible refine foldl_mem2 ?_ ?_ | with_reducible intro u a hu | (simp (maxDischargeDepth := 30) [hs]; done) | (simp (maxDischargeDepth := 30) [hs, ih]; done) | (simp (maxDischargeDepth := 30) [hs, hu]; done) | (simp (maxDischargeDepth := 30) [hs, hf]; done)
@[simp] theorem State.writeFaultAt_mem (q : Access) (l : List (Nat × Nat)) (s : State) (hs : s.memWf) : (s.writeFaultAt q l).2.memWf := by
  induction l generalizing s with
  | nil => exact hs
  | cons p l ih =>
    obtain ⟨va, n⟩ := p
    simp only [State.writeFaultAt]
    repeat' first | with_reducible assumption | (rename_i e; obtain rfl := snd_eq e; clear e) | split | with_reducible refine foldl_mem ?_ ?_ | with_reducible refine foldl_mem2 ?_ ?_ | with_reducible intro u a hu | (simp (maxDischargeDepth := 30) [hs]; done) | (simp (maxDischargeDepth := 30) [hs, ih]; done) | (simp (maxDischargeDepth := 30) [hs, hu]; done) | (simp (maxDischargeDepth := 30) [hs, hf]; done)

@[simp] theorem State.writeFault_mem (s : State) (q : Access) (va n : Nat) (hs : s.memWf) :
    (s.writeFault q va n).2.memWf := by
  simp only [State.writeFault]
  repeat' first | with_reducible assumption | (rename_i e; obtain rfl := snd_eq e; clear e) | split | with_reducible refine foldl_mem ?_ ?_ | with_reducible refine foldl_mem2 ?_ ?_ | with_reducible intro u a hu | (simp (maxDischargeDepth := 30) [hs]; done) | (simp (maxDischargeDepth := 30) [hs, ih]; done) | (simp (maxDischargeDepth := 30) [hs, hu]; done) | (simp (maxDischargeDepth := 30) [hs, hf]; done)
@[simp] theorem dropOwn_mem (s : State) (q : Access) (n : Nat) (hs : s.memWf) :
    (if q.cls = .brk then (q.via.map fun e => s.dropCopy e q.tenancy n).getD s else s).memWf := by
  split
  · cases q.via
    · exact hs
    · exact State.dropCopy_mem _ _ _ _ hs
  · exact hs
@[simp] theorem State.writePieces_mem (q : Access) (base : Nat) (vs : List Byte) (l : List (Nat × Nat)) (s : State) (hs : s.memWf) : (s.writePieces q base vs l).2.memWf := by
  induction l generalizing s with
  | nil => exact hs
  | cons p l ih =>
    obtain ⟨va, n⟩ := p
    simp only [State.writePieces]
    split
    · rename_i e; exact ih _ (snd_mem e (State.translate_mem _ _ _ _ hs))
    · rename_i e
      exact ih _ (State.setLine_mem _ _ _ (dropOwn_mem _ _ _ (State.writeLine_mem _ _ _ _ (State.settleLine_mem _ _ _ (snd_mem e (State.translate_mem _ _ _ _ hs))))))
@[simp] theorem State.classWrite_mem (s : State) (q : Access) (va : Nat) (vs : List Byte) (hs : s.memWf) :
    (s.classWrite q va vs).2.memWf := by
  simp only [State.classWrite]
  repeat' first | with_reducible assumption | (rename_i e; obtain rfl := snd_eq e; clear e) | split | with_reducible refine foldl_mem ?_ ?_ | with_reducible refine foldl_mem2 ?_ ?_ | with_reducible intro u a hu | (simp (maxDischargeDepth := 30) [hs]; done) | (simp (maxDischargeDepth := 30) [hs, ih]; done) | (simp (maxDischargeDepth := 30) [hs, hu]; done) | (simp (maxDischargeDepth := 30) [hs, hf]; done)
@[simp] theorem State.classReadWord_mem (s : State) (q : Access) (va : Nat) (hs : s.memWf) :
    (s.classReadWord q va).2.memWf := by
  simp only [State.classReadWord]
  repeat' first | with_reducible assumption | (rename_i e; obtain rfl := snd_eq e; clear e) | split | with_reducible refine foldl_mem ?_ ?_ | with_reducible refine foldl_mem2 ?_ ?_ | with_reducible intro u a hu | (simp (maxDischargeDepth := 30) [hs]; done) | (simp (maxDischargeDepth := 30) [hs, ih]; done) | (simp (maxDischargeDepth := 30) [hs, hu]; done) | (simp (maxDischargeDepth := 30) [hs, hf]; done)

/-! Requests -/
@[simp] theorem State.issueGlobal_mem (s : State) (b : BrickId) (k : ReqKind) (va : Nat) (d : List Byte) (c : Nat) (l : Bool) (hs : s.memWf) :
    (s.issueGlobal b k va d c l).memWf := by
  simp only [State.issueGlobal]
  repeat' first | with_reducible assumption | (rename_i e; obtain rfl := snd_eq e; clear e) | split | with_reducible refine foldl_mem ?_ ?_ | with_reducible refine foldl_mem2 ?_ ?_ | with_reducible intro u a hu | (simp (maxDischargeDepth := 30) [hs]; done) | (simp (maxDischargeDepth := 30) [hs, ih]; done) | (simp (maxDischargeDepth := 30) [hs, hu]; done) | (simp (maxDischargeDepth := 30) [hs, hf]; done)
@[simp] theorem State.flushLine_mem (s : State) (e : BrickId) (n : Nat) (hs : s.memWf) :
    (s.flushLine e n).memWf := by
  simp only [State.flushLine]
  repeat' first | with_reducible assumption | (rename_i e; obtain rfl := snd_eq e; clear e) | split | with_reducible refine foldl_mem ?_ ?_ | with_reducible refine foldl_mem2 ?_ ?_ | with_reducible intro u a hu | (simp (maxDischargeDepth := 30) [hs]; done) | (simp (maxDischargeDepth := 30) [hs, ih]; done) | (simp (maxDischargeDepth := 30) [hs, hu]; done) | (simp (maxDischargeDepth := 30) [hs, hf]; done)
@[simp] theorem State.trimBuffer_mem (s : State) (e : BrickId) (hs : s.memWf) :
    (s.trimBuffer e).memWf := by
  simp only [State.trimBuffer]
  repeat' first | with_reducible assumption | (rename_i e; obtain rfl := snd_eq e; clear e) | split | with_reducible refine foldl_mem ?_ ?_ | with_reducible refine foldl_mem2 ?_ ?_ | with_reducible intro u a hu | (simp (maxDischargeDepth := 30) [hs]; done) | (simp (maxDischargeDepth := 30) [hs, ih]; done) | (simp (maxDischargeDepth := 30) [hs, hu]; done) | (simp (maxDischargeDepth := 30) [hs, hf]; done)
@[simp] theorem State.routeReq_mem (s : State) (r : Req) (hs : s.memWf) :
    (s.routeReq r).memWf := by
  simp only [State.routeReq]
  repeat' first | with_reducible assumption | (rename_i e; obtain rfl := snd_eq e; clear e) | split | with_reducible refine foldl_mem ?_ ?_ | with_reducible refine foldl_mem2 ?_ ?_ | with_reducible intro u a hu | (simp (maxDischargeDepth := 30) [hs]; done) | (simp (maxDischargeDepth := 30) [hs, ih]; done) | (simp (maxDischargeDepth := 30) [hs, hu]; done) | (simp (maxDischargeDepth := 30) [hs, hf]; done)
@[simp] theorem State.admit_mem (s : State) (r : Req) (hs : s.memWf) :
    (s.onward r).memWf := by
  simp only [State.onward]
  repeat' first | with_reducible assumption | (rename_i e; obtain rfl := snd_eq e; clear e) | split | with_reducible refine foldl_mem ?_ ?_ | with_reducible refine foldl_mem2 ?_ ?_ | with_reducible intro u a hu | (simp (maxDischargeDepth := 30) [hs]; done) | (simp (maxDischargeDepth := 30) [hs, ih]; done) | (simp (maxDischargeDepth := 30) [hs, hu]; done) | (simp (maxDischargeDepth := 30) [hs, hf]; done)
@[simp] theorem State.ownerTake_mem (s : State) (r : Req) (hs : s.memWf) :
    (s.ownerTake r).memWf := by
  simp only [State.ownerTake]
  repeat' first | with_reducible assumption | (rename_i e; obtain rfl := snd_eq e; clear e) | split | with_reducible refine foldl_mem ?_ ?_ | with_reducible refine foldl_mem2 ?_ ?_ | with_reducible intro u a hu | (simp (maxDischargeDepth := 30) [hs]; done) | (simp (maxDischargeDepth := 30) [hs, ih]; done) | (simp (maxDischargeDepth := 30) [hs, hu]; done) | (simp (maxDischargeDepth := 30) [hs, hf]; done)
@[simp] theorem State.loadPart_mem (s : State) (r : Req) (k : Nat) (p : Part) (hs : s.memWf) : (s.loadPart r k p).memWf := by
  have h1 : ∀ l : LoftLine, ((s.missingSectors p.pa p.len).foldl (fun s x => s.askFill r.tenancy x r.dcl) (s.setLine (p.pa / 64) l)).memWf :=
    fun l => foldl_mem (State.setLine_mem _ _ _ hs) fun u a hu => State.askFill_mem _ _ _ _ hu
  have h2 : ∀ (c : Prop) [Decidable c] (l : LoftLine) (f : Req → Req), ((if c then ((s.missingSectors p.pa p.len).foldl (fun s x => s.askFill r.tenancy x r.dcl) (s.setLine (p.pa / 64) l)).hbmUeRecord p.pa p.len
      else (s.missingSectors p.pa p.len).foldl (fun s x => s.askFill r.tenancy x r.dcl) (s.setLine (p.pa / 64) l)).modReq r.id f).memWf := by
    intro c _ l f
    refine State.modReq_mem _ _ _ ?_
    split
    · exact State.hbmUeRecord_mem _ _ _ (h1 _)
    · exact h1 _
  simp only [State.loadPart]
  split
  · exact State.refreshCopy_mem _ _ _ _ (h2 _ _ _)
  · exact h2 _ _ _
@[simp] theorem State.shareLoads_mem (s : State) (e : BrickId) (ln : Nat) (hs : s.memWf) :
    (s.shareLoads e ln).memWf := by
  simp only [State.shareLoads]
  repeat' first | with_reducible assumption | (rename_i e; obtain rfl := snd_eq e; clear e) | split | with_reducible refine foldl_mem ?_ ?_ | with_reducible refine foldl_mem2 ?_ ?_ | with_reducible intro u a hu | (simp (maxDischargeDepth := 30) [hs]; done) | (simp (maxDischargeDepth := 30) [hs, ih]; done) | (simp (maxDischargeDepth := 30) [hs, hu]; done) | (simp (maxDischargeDepth := 30) [hs, hf]; done)
@[simp] theorem State.chunkPiece_mem (s : State) (r : Req) (k : Nat) (p : Part) (slot : Nat) (data : List Byte) (hs : s.memWf) :
    (s.chunkPiece r k p slot data).memWf := by
  simp only [State.chunkPiece]
  repeat' first | with_reducible assumption | (rename_i e; obtain rfl := snd_eq e; clear e) | split | with_reducible refine foldl_mem ?_ ?_ | with_reducible refine foldl_mem2 ?_ ?_ | with_reducible intro u a hu | (simp (maxDischargeDepth := 30) [hs]; done) | (simp (maxDischargeDepth := 30) [hs, ih]; done) | (simp (maxDischargeDepth := 30) [hs, hu]; done) | (simp (maxDischargeDepth := 30) [hs, hf]; done)
@[simp] theorem State.chunkPart_mem (s : State) (r : Req) (slot n : Nat) (data : List Byte) (hs : s.memWf) :
    (s.chunkPart r slot n data).memWf := by
  simp only [State.chunkPart]
  repeat' first | with_reducible assumption | (rename_i e; obtain rfl := snd_eq e; clear e) | split | with_reducible refine foldl_mem ?_ ?_ | with_reducible refine foldl_mem2 ?_ ?_ | with_reducible intro u a hu | (simp (maxDischargeDepth := 30) [hs]; done) | (simp (maxDischargeDepth := 30) [hs, ih]; done) | (simp (maxDischargeDepth := 30) [hs, hu]; done) | (simp (maxDischargeDepth := 30) [hs, hf]; done)
@[simp] theorem State.storePart_mem (s : State) (r : Req) (k : Nat) (p : Part) (hs : s.memWf) :
    (s.storePart r k p).memWf := by
  simp only [State.storePart]
  repeat' first | with_reducible assumption | (rename_i e; obtain rfl := snd_eq e; clear e) | split | with_reducible refine foldl_mem ?_ ?_ | with_reducible refine foldl_mem2 ?_ ?_ | with_reducible intro u a hu | (simp (maxDischargeDepth := 30) [hs]; done) | (simp (maxDischargeDepth := 30) [hs, ih]; done) | (simp (maxDischargeDepth := 30) [hs, hu]; done) | (simp (maxDischargeDepth := 30) [hs, hf]; done)
@[simp] theorem State.sendOut_mem (s : State) (n : Nat) (hs : s.memWf) :
    (s.sendOut n).memWf := by
  simp only [State.sendOut]
  repeat' first | with_reducible assumption | (rename_i e; obtain rfl := snd_eq e; clear e) | split | with_reducible refine foldl_mem ?_ ?_ | with_reducible refine foldl_mem2 ?_ ?_ | with_reducible intro u a hu | (simp (maxDischargeDepth := 30) [hs]; done) | (simp (maxDischargeDepth := 30) [hs, ih]; done) | (simp (maxDischargeDepth := 30) [hs, hu]; done) | (simp (maxDischargeDepth := 30) [hs, hf]; done)
@[simp] theorem State.serveFill_mem (s : State) (sector : Nat) (hs : s.memWf) :
    (s.serveFill sector).memWf := by
  simp only [State.serveFill]
  repeat' first | with_reducible assumption | (rename_i e; obtain rfl := snd_eq e; clear e) | split | with_reducible refine foldl_mem ?_ ?_ | with_reducible refine foldl_mem2 ?_ ?_ | with_reducible intro u a hu | (simp (maxDischargeDepth := 30) [hs]; done) | (simp (maxDischargeDepth := 30) [hs, ih]; done) | (simp (maxDischargeDepth := 30) [hs, hu]; done) | (simp (maxDischargeDepth := 30) [hs, hf]; done)
@[simp] theorem State.replyTo_mem (s : State) (r : Req) (hs : s.memWf) :
    (s.replyTo r).memWf := by
  simp only [State.replyTo]
  repeat' first | with_reducible assumption | (rename_i e; obtain rfl := snd_eq e; clear e) | split | with_reducible refine foldl_mem ?_ ?_ | with_reducible refine foldl_mem2 ?_ ?_ | with_reducible intro u a hu | (simp (maxDischargeDepth := 30) [hs]; done) | (simp (maxDischargeDepth := 30) [hs, ih]; done) | (simp (maxDischargeDepth := 30) [hs, hu]; done) | (simp (maxDischargeDepth := 30) [hs, hf]; done)
@[simp] theorem State.landReturn_mem (s : State) (b : BrickId) (rch : Nat) (t : Token) (hs : s.memWf) :
    (s.landReturn b rch t).memWf := by
  simp only [State.landReturn]
  repeat' first | with_reducible assumption | (rename_i e; obtain rfl := snd_eq e; clear e) | split | with_reducible refine foldl_mem ?_ ?_ | with_reducible refine foldl_mem2 ?_ ?_ | with_reducible intro u a hu | (simp (maxDischargeDepth := 30) [hs]; done) | (simp (maxDischargeDepth := 30) [hs, ih]; done) | (simp (maxDischargeDepth := 30) [hs, hu]; done) | (simp (maxDischargeDepth := 30) [hs, hf]; done)
@[simp] theorem State.startHandover_mem (s : State) (b o : BrickId) (va k : Nat) (hs : s.memWf) :
    (s.startHandover b o va k).memWf := by
  simp only [State.startHandover]
  repeat' first | with_reducible assumption | (rename_i e; obtain rfl := snd_eq e; clear e) | split | with_reducible refine foldl_mem ?_ ?_ | with_reducible refine foldl_mem2 ?_ ?_ | with_reducible intro u a hu | (simp (maxDischargeDepth := 30) [hs]; done) | (simp (maxDischargeDepth := 30) [hs, ih]; done) | (simp (maxDischargeDepth := 30) [hs, hu]; done) | (simp (maxDischargeDepth := 30) [hs, hf]; done)
@[simp] theorem State.resetTs_mem (s : State) (t : Nat) (hs : s.memWf) : (s.resetTs t).memWf :=
  ⟨hs.1, hs.2.1, map_all hs.2.2 fun e he => by split <;> exact he⟩
@[simp] theorem State.invalidate_mem (s : State) (die : Nat) (cmd : Nat) (hit : TlbEntry → Bool) (hs : s.memWf) : (s.invalidate die cmd hit).memWf :=
  ⟨hs.1, hs.2.1, map_all hs.2.2 fun _ he => he⟩

/-! Footing -/
@[simp] theorem State.footRead_mem (s : State) (q : Query) (va n : Nat) (fmt : Option Nat) (hs : s.memWf) :
    (s.footRead q va n fmt).2.memWf := by
  simp only [State.footRead]
  repeat' first | with_reducible assumption | (rename_i e; obtain rfl := snd_eq e; clear e) | split | with_reducible refine foldl_mem ?_ ?_ | with_reducible refine foldl_mem2 ?_ ?_ | with_reducible intro u a hu | (simp (maxDischargeDepth := 30) [hs]; done) | (simp (maxDischargeDepth := 30) [hs, ih]; done) | (simp (maxDischargeDepth := 30) [hs, hu]; done) | (simp (maxDischargeDepth := 30) [hs, hf]; done)
@[simp] theorem State.visit_mem (s : State) (q : Query) (x : Nat) (hs : s.memWf) :
    (s.visit q x).2.memWf := by
  simp only [State.visit]
  repeat' first | with_reducible assumption | (rename_i e; obtain rfl := snd_eq e; clear e) | split | with_reducible refine foldl_mem ?_ ?_ | with_reducible refine foldl_mem2 ?_ ?_ | with_reducible intro u a hu | (simp (maxDischargeDepth := 30) [hs]; done) | (simp (maxDischargeDepth := 30) [hs, ih]; done) | (simp (maxDischargeDepth := 30) [hs, hu]; done) | (simp (maxDischargeDepth := 30) [hs, hf]; done)
@[simp] theorem State.visitAll_mem (s : State) (q : Query) (l : List Nat) (hs : s.memWf) :
    (s.visitAll q l).2.memWf := by
  simp only [State.visitAll]
  repeat' first | with_reducible assumption | (rename_i e; obtain rfl := snd_eq e; clear e) | split | with_reducible refine foldl_mem ?_ ?_ | with_reducible refine foldl_mem2 ?_ ?_ | with_reducible intro u a hu | (simp (maxDischargeDepth := 30) [hs]; done) | (simp (maxDischargeDepth := 30) [hs, ih]; done) | (simp (maxDischargeDepth := 30) [hs, hu]; done) | (simp (maxDischargeDepth := 30) [hs, hf]; done)
@[simp] theorem State.modQuery_mem (s : State) (e i : Nat) (f : Query → Query) (hs : s.memWf) :
    (s.modQuery e i f).memWf := by
  simp only [State.modQuery]
  repeat' first | with_reducible assumption | (rename_i e; obtain rfl := snd_eq e; clear e) | split | with_reducible refine foldl_mem ?_ ?_ | with_reducible refine foldl_mem2 ?_ ?_ | with_reducible intro u a hu | (simp (maxDischargeDepth := 30) [hs]; done) | (simp (maxDischargeDepth := 30) [hs, ih]; done) | (simp (maxDischargeDepth := 30) [hs, hu]; done) | (simp (maxDischargeDepth := 30) [hs, hf]; done)
@[simp] theorem State.openQuery_mem (s : State) (q : Query) (hs : s.memWf) :
    (s.openQuery q).2.memWf := by
  simp only [State.openQuery]
  repeat' first | with_reducible assumption | (rename_i e; obtain rfl := snd_eq e; clear e) | split | with_reducible refine foldl_mem ?_ ?_ | with_reducible refine foldl_mem2 ?_ ?_ | with_reducible intro u a hu | (simp (maxDischargeDepth := 30) [hs]; done) | (simp (maxDischargeDepth := 30) [hs, ih]; done) | (simp (maxDischargeDepth := 30) [hs, hu]; done) | (simp (maxDischargeDepth := 30) [hs, hf]; done)
@[simp] theorem State.answer_mem (s : State) (q : Query) (r : FootReq) (hs : s.memWf) :
    (s.answer q r).2.2.memWf := by
  simp only [State.answer]
  repeat' first | with_reducible assumption | (rename_i e; obtain rfl := snd_eq e; clear e) | split | with_reducible refine foldl_mem ?_ ?_ | with_reducible refine foldl_mem2 ?_ ?_ | with_reducible intro u a hu | (simp (maxDischargeDepth := 30) [hs]; done) | (simp (maxDischargeDepth := 30) [hs, ih]; done) | (simp (maxDischargeDepth := 30) [hs, hu]; done) | (simp (maxDischargeDepth := 30) [hs, hf]; done)
@[simp] theorem State.prepareQuery_mem (s : State) (q : Query) (hs : s.memWf) :
    (s.prepareQuery q).2.memWf := by
  simp only [State.prepareQuery]
  repeat' first | with_reducible assumption | (rename_i e; obtain rfl := snd_eq e; clear e) | split | with_reducible refine foldl_mem ?_ ?_ | with_reducible refine foldl_mem2 ?_ ?_ | with_reducible intro u a hu | (simp (maxDischargeDepth := 30) [hs]; done) | (simp (maxDischargeDepth := 30) [hs, ih]; done) | (simp (maxDischargeDepth := 30) [hs, hu]; done) | (simp (maxDischargeDepth := 30) [hs, hf]; done)
@[simp] theorem State.cancelQuery_mem (s : State) (b : BrickId) (e q : Nat) (hs : s.memWf) :
    (s.cancelQuery b e q).memWf := by
  simp only [State.cancelQuery]
  repeat' first | with_reducible assumption | (rename_i e; obtain rfl := snd_eq e; clear e) | split | with_reducible refine foldl_mem ?_ ?_ | with_reducible refine foldl_mem2 ?_ ?_ | with_reducible intro u a hu | (simp (maxDischargeDepth := 30) [hs]; done) | (simp (maxDischargeDepth := 30) [hs, ih]; done) | (simp (maxDischargeDepth := 30) [hs, hu]; done) | (simp (maxDischargeDepth := 30) [hs, hf]; done)
@[simp] theorem State.cancelRegion_mem (s : State) (g : RegionId) (hs : s.memWf) :
    (s.cancelRegion g).memWf := by
  simp only [State.cancelRegion]
  repeat' first | with_reducible assumption | (rename_i e; obtain rfl := snd_eq e; clear e) | split | with_reducible refine foldl_mem ?_ ?_ | with_reducible refine foldl_mem2 ?_ ?_ | with_reducible intro u a hu | (simp (maxDischargeDepth := 30) [hs]; done) | (simp (maxDischargeDepth := 30) [hs, ih]; done) | (simp (maxDischargeDepth := 30) [hs, hu]; done) | (simp (maxDischargeDepth := 30) [hs, hf]; done)

/-! Slates -/
@[simp] theorem State.modMap_mem (s : State) (n : Nat) (f : MapOp → MapOp) (hs : s.memWf) :
    (s.modMap n f).memWf := by
  simp only [State.modMap]
  repeat' first | with_reducible assumption | (rename_i e; obtain rfl := snd_eq e; clear e) | split | with_reducible refine foldl_mem ?_ ?_ | with_reducible refine foldl_mem2 ?_ ?_ | with_reducible intro u a hu | (simp (maxDischargeDepth := 30) [hs]; done) | (simp (maxDischargeDepth := 30) [hs, ih]; done) | (simp (maxDischargeDepth := 30) [hs, hu]; done) | (simp (maxDischargeDepth := 30) [hs, hf]; done)
@[simp] theorem State.releaseGranules_mem (s : State) (b : BrickId) (gs : List Nat) (p : Bool) (hs : s.memWf) : (s.releaseGranules b gs p).memWf := by
  unfold State.releaseGranules
  refine State.refund_mem _ _ _ _ (State.setBrick_mem hs ?_)
  rw [foldl_bank fun x g => by split <;> rfl]
  exact State.brick_wf hs b
@[simp] theorem State.finishWords_mem (s : State) (m : MapOp) (ws : List Nat) (hs : s.memWf) :
    (s.finishWords m ws).memWf := by
  simp only [State.finishWords]
  repeat' first | with_reducible assumption | (rename_i e; obtain rfl := snd_eq e; clear e) | split | with_reducible refine foldl_mem ?_ ?_ | with_reducible refine foldl_mem2 ?_ ?_ | with_reducible intro u a hu | (simp (maxDischargeDepth := 30) [hs]; done) | (simp (maxDischargeDepth := 30) [hs, ih]; done) | (simp (maxDischargeDepth := 30) [hs, hu]; done) | (simp (maxDischargeDepth := 30) [hs, hf]; done)
@[simp] theorem State.undoBinding_mem (s : State) (m : MapOp) (hs : s.memWf) :
    (s.undoBinding m).memWf := by
  simp only [State.undoBinding]
  repeat' first | with_reducible assumption | (rename_i e; obtain rfl := snd_eq e; clear e) | split | with_reducible refine foldl_mem ?_ ?_ | with_reducible refine foldl_mem2 ?_ ?_ | with_reducible intro u a hu | (simp (maxDischargeDepth := 30) [hs]; done) | (simp (maxDischargeDepth := 30) [hs, ih]; done) | (simp (maxDischargeDepth := 30) [hs, hu]; done) | (simp (maxDischargeDepth := 30) [hs, hf]; done)
@[simp] theorem State.stopMap_mem (s : State) (m : MapOp) (v : Nat) (hs : s.memWf) :
    (s.stopMap m v).memWf := by
  simp only [State.stopMap]
  repeat' first | with_reducible assumption | (rename_i e; obtain rfl := snd_eq e; clear e) | split | with_reducible refine foldl_mem ?_ ?_ | with_reducible refine foldl_mem2 ?_ ?_ | with_reducible intro u a hu | (simp (maxDischargeDepth := 30) [hs]; done) | (simp (maxDischargeDepth := 30) [hs, ih]; done) | (simp (maxDischargeDepth := 30) [hs, hu]; done) | (simp (maxDischargeDepth := 30) [hs, hf]; done)
@[simp] theorem State.stopAt_mem (s : State) (m : MapOp) (v : Nat) (e : List Word) (hs : s.memWf) :
    (s.stopAt m v e).memWf := by
  simp only [State.stopAt]
  repeat' first | with_reducible assumption | (rename_i e; obtain rfl := snd_eq e; clear e) | split | with_reducible refine foldl_mem ?_ ?_ | with_reducible refine foldl_mem2 ?_ ?_ | with_reducible intro u a hu | (simp (maxDischargeDepth := 30) [hs]; done) | (simp (maxDischargeDepth := 30) [hs, ih]; done) | (simp (maxDischargeDepth := 30) [hs, hu]; done) | (simp (maxDischargeDepth := 30) [hs, hf]; done)
@[simp] theorem State.okMap_mem (s : State) (m : MapOp) (a : Bool) (e : List Word) (hs : s.memWf) :
    (s.okMap m a e).memWf := by
  simp only [State.okMap]
  repeat' first | with_reducible assumption | (rename_i e; obtain rfl := snd_eq e; clear e) | split | with_reducible refine foldl_mem ?_ ?_ | with_reducible refine foldl_mem2 ?_ ?_ | with_reducible intro u a hu | (simp (maxDischargeDepth := 30) [hs]; done) | (simp (maxDischargeDepth := 30) [hs, ih]; done) | (simp (maxDischargeDepth := 30) [hs, hu]; done) | (simp (maxDischargeDepth := 30) [hs, hf]; done)
@[simp] theorem State.failMap_mem (s : State) (m : MapOp) (f : Fail) (va : Nat) (hs : s.memWf) :
    (s.failMap m f va).memWf := by
  simp only [State.failMap]
  repeat' first | with_reducible assumption | (rename_i e; obtain rfl := snd_eq e; clear e) | split | with_reducible refine foldl_mem ?_ ?_ | with_reducible refine foldl_mem2 ?_ ?_ | with_reducible intro u a hu | (simp (maxDischargeDepth := 30) [hs]; done) | (simp (maxDischargeDepth := 30) [hs, ih]; done) | (simp (maxDischargeDepth := 30) [hs, hu]; done) | (simp (maxDischargeDepth := 30) [hs, hf]; done)
@[simp] theorem State.homeRead_mem (s : State) (q : Access) (va n : Nat) (hs : s.memWf) : (s.homeRead q va n).2.memWf := by
  have h1 := State.classRead_mem s q va n hs
  unfold State.homeRead
  split
  · rename_i e _
    rw [e] at h1
    split
    · rename_i e2; exact State.refreshCopy_mem _ _ _ _ (snd_mem e2 (State.translate_mem _ _ _ _ h1))
    · rename_i e2; exact snd_mem e2 (State.translate_mem _ _ _ _ h1)
  · exact h1
@[simp] theorem State.mapRead_mem (s : State) (m : MapOp) (va n : Nat) (hs : s.memWf) :
    (s.mapRead m va n).2.memWf := by
  simp only [State.mapRead]
  repeat' first | with_reducible assumption | (rename_i e; obtain rfl := snd_eq e; clear e) | split | with_reducible refine foldl_mem ?_ ?_ | with_reducible refine foldl_mem2 ?_ ?_ | with_reducible intro u a hu | (simp (maxDischargeDepth := 30) [hs]; done) | (simp (maxDischargeDepth := 30) [hs, ih]; done) | (simp (maxDischargeDepth := 30) [hs, hu]; done) | (simp (maxDischargeDepth := 30) [hs, hf]; done)
@[simp] theorem State.dropVia_mem (s : State) (e : Option BrickId) (t n : Nat) (hs : s.memWf) : ((e.map fun e => s.dropCopy e t n).getD s).memWf := by
  cases e
  · exact hs
  · exact State.dropCopy_mem _ _ _ _ hs
theorem State.lockEntry_mem (s : State) (m : MapOp) (va : Nat) (f : List Word → Option (List Word) × (State → MapOp → State)) (hs : s.memWf)
    (hf : ∀ e t n, t.memWf → ((f e).2 t n).memWf) : (s.lockEntry m va f).memWf := by
  simp only [State.lockEntry]
  repeat' first | with_reducible assumption | (rename_i e; obtain rfl := snd_eq e; clear e) | split | with_reducible refine foldl_mem ?_ ?_ | with_reducible refine foldl_mem2 ?_ ?_ | with_reducible intro u a hu | (simp (maxDischargeDepth := 30) [hs]; done) | (simp (maxDischargeDepth := 30) [hs, ih]; done) | (simp (maxDischargeDepth := 30) [hs, hu]; done) | (simp (maxDischargeDepth := 30) [hs, hf]; done)

@[simp] theorem toPhase_mem (p : MapPhase) (s : State) (m : MapOp) (hs : s.memWf) :
    (toPhase p s m).memWf := by
  simp only [toPhase]
  repeat' first | with_reducible assumption | (rename_i e; obtain rfl := snd_eq e; clear e) | split | with_reducible refine foldl_mem ?_ ?_ | with_reducible refine foldl_mem2 ?_ ?_ | with_reducible intro u a hu | (simp (maxDischargeDepth := 30) [hs]; done) | (simp (maxDischargeDepth := 30) [hs, ih]; done) | (simp (maxDischargeDepth := 30) [hs, hu]; done) | (simp (maxDischargeDepth := 30) [hs, hf]; done)
theorem State.readDir_mem (s : State) (m : MapOp) (x : Nat) (e : Option (List Word)) (k : State → MapOp → Nat → State) (hs : s.memWf)
    (hf : ∀ t n v, t.memWf → (k t n v).memWf) : (s.readDir m x e k).memWf := by
  simp only [State.readDir]
  repeat' first | with_reducible assumption | (rename_i e; obtain rfl := snd_eq e; clear e) | split | with_reducible refine foldl_mem ?_ ?_ | with_reducible refine foldl_mem2 ?_ ?_ | with_reducible intro u a hu | (simp (maxDischargeDepth := 30) [hs]; done) | (simp (maxDischargeDepth := 30) [hs, ih]; done) | (simp (maxDischargeDepth := 30) [hs, hu]; done) | (simp (maxDischargeDepth := 30) [hs, hf]; done)
theorem unpinEntry_mem (m : MapOp) (e : List Word) (t : State) (n : MapOp) (hs : t.memWf) : ((unpinEntry m e).2 t n).memWf := by
  simp only [unpinEntry]; (repeat' split) <;> simp [hs]
@[simp] theorem State.mapAccess_mem (s : State) (m : MapOp) (hs : s.memWf) : (s.mapAccess m).memWf := by
  simp only [State.mapAccess]
  split
  · repeat' first | with_reducible assumption | (rename_i e; obtain rfl := snd_eq e; clear e) | split | with_reducible refine foldl_mem ?_ ?_ | with_reducible refine foldl_mem2 ?_ ?_ | with_reducible intro u a hu | (simp (maxDischargeDepth := 30) [hs]; done) | (simp (maxDischargeDepth := 30) [hs, ih]; done) | (simp (maxDischargeDepth := 30) [hs, hu]; done) | (simp (maxDischargeDepth := 30) [hs, hf]; done)
  · refine State.readDir_mem _ _ _ _ _ hs fun t n v hu => ?_
    split <;> simp [hu]
  · split
    · refine State.lockEntry_mem _ _ _ _ hs fun e t n hu => ?_
      split <;> simp [hu]
    · refine State.lockEntry_mem _ _ _ _ hs fun e t n hu => ?_
      split <;> simp [hu]
    · exact State.lockEntry_mem _ _ _ _ hs fun e t n hu => unpinEntry_mem _ _ _ _ hu
    · exact State.lockEntry_mem _ _ _ _ hs fun e t n hu => unpinEntry_mem _ _ _ _ hu
    · exact State.lockEntry_mem _ _ _ _ hs fun e t n hu => unpinEntry_mem _ _ _ _ hu
    · repeat' first | with_reducible assumption | (rename_i e; obtain rfl := snd_eq e; clear e) | split | with_reducible refine foldl_mem ?_ ?_ | with_reducible refine foldl_mem2 ?_ ?_ | with_reducible intro u a hu | (simp (maxDischargeDepth := 30) [hs]; done) | (simp (maxDischargeDepth := 30) [hs, ih]; done) | (simp (maxDischargeDepth := 30) [hs, hu]; done) | (simp (maxDischargeDepth := 30) [hs, hf]; done)
    · repeat' first | with_reducible assumption | (rename_i e; obtain rfl := snd_eq e; clear e) | split | with_reducible refine foldl_mem ?_ ?_ | with_reducible refine foldl_mem2 ?_ ?_ | with_reducible intro u a hu | (simp (maxDischargeDepth := 30) [hs]; done) | (simp (maxDischargeDepth := 30) [hs, ih]; done) | (simp (maxDischargeDepth := 30) [hs, hu]; done) | (simp (maxDischargeDepth := 30) [hs, hf]; done)
  · exact State.readDir_mem _ _ _ _ _ hs fun t n v hu => by simp [hu]
  · refine State.lockEntry_mem _ _ _ _ hs fun e t n hu => ?_
    split <;> simp [hu]
  · refine State.lockEntry_mem _ _ _ _ hs fun e t n hu => ?_
    split <;> simp [hu]
  · exact State.lockEntry_mem _ _ _ _ hs fun e t n hu => by simp [hu]
  · exact State.readDir_mem _ _ _ _ _ hs fun t n v hu => by simp [hu]
  · exact State.lockEntry_mem _ _ _ _ hs fun e t n hu => by simp [hu]
  · exact State.readDir_mem _ _ _ _ _ hs fun t n v hu => by simp [hu]
  · repeat' first | with_reducible assumption | (rename_i e; obtain rfl := snd_eq e; clear e) | split | with_reducible refine foldl_mem ?_ ?_ | with_reducible refine foldl_mem2 ?_ ?_ | with_reducible intro u a hu | (simp (maxDischargeDepth := 30) [hs]; done) | (simp (maxDischargeDepth := 30) [hs, ih]; done) | (simp (maxDischargeDepth := 30) [hs, hu]; done) | (simp (maxDischargeDepth := 30) [hs, hf]; done)
  · exact hs
  · exact hs
theorem State.bindSlate_mem {s t : State} {b : BrickId} {block : List Word} {w : Bool} (hs : s.memWf) (h : s.bindSlate b block = .ok (w, t)) : t.memWf := by
  simp only [State.bindSlate] at h
  repeat' split at h
  all_goals first | (cases h; done) | skip
  all_goals
    simp only [Except.ok.injEq, Prod.mk.injEq] at h
    rw [← h.2]
    refine State.charge_mem _ _ _ _ (State.setBrick_mem hs ?_)
    exact foldl_bankWf (fun y g hy => by simpa using hy) (State.brick_wf hs b)
@[simp] theorem State.startMap_mem (s : State) (b : BrickId) (k : MapKind) (r : Nat) (l : List Word) (hs : s.memWf) : (s.startMap b k r l).memWf := by
  simp only [State.startMap]
  have h1 : ((({ s with nextId := s.nextId + 1 } : State).modBrick b fun x => { x with reqSeq := x.reqSeq + 1 }).sent b 1).memWf :=
    State.sent_mem _ _ _ (State.modBrick_mem (s := { s with nextId := s.nextId + 1 }) hs (State.brick_wf (s := { s with nextId := s.nextId + 1 }) hs b))
  split
  · split
    · rename_i h; exact (State.bindSlate_mem h1 h :)
    · exact h1
  · exact h1

/-! Streams -/
@[simp] theorem State.modShape_mem (s : State) (b : BrickId) (r : Nat) (f : Shape → Shape) (hs : s.memWf) :
    (s.modShape b r f).memWf := by
  simp only [State.modShape]
  repeat' first | with_reducible assumption | (rename_i e; obtain rfl := snd_eq e; clear e) | split | with_reducible refine foldl_mem ?_ ?_ | with_reducible refine foldl_mem2 ?_ ?_ | with_reducible intro u a hu | (simp (maxDischargeDepth := 30) [hs]; done) | (simp (maxDischargeDepth := 30) [hs, ih]; done) | (simp (maxDischargeDepth := 30) [hs, hu]; done) | (simp (maxDischargeDepth := 30) [hs, hf]; done)
@[simp] theorem State.streamFault_mem (s : State) (b : BrickId) (r p : Nat) (hs : s.memWf) :
    (s.streamFault b r p).memWf := by
  simp only [State.streamFault]
  repeat' first | with_reducible assumption | (rename_i e; obtain rfl := snd_eq e; clear e) | split | with_reducible refine foldl_mem ?_ ?_ | with_reducible refine foldl_mem2 ?_ ?_ | with_reducible intro u a hu | (simp (maxDischargeDepth := 30) [hs]; done) | (simp (maxDischargeDepth := 30) [hs, ih]; done) | (simp (maxDischargeDepth := 30) [hs, hu]; done) | (simp (maxDischargeDepth := 30) [hs, hf]; done)
@[simp] theorem State.streamPage_mem (s : State) (q : Access) (x : Shape) (base : Nat) (write : Bool) (va : Nat) (hs : s.memWf) :
    (s.streamPage q x base write va).2.memWf := by
  simp only [State.streamPage]
  repeat' first | with_reducible assumption | (rename_i e; obtain rfl := snd_eq e; clear e) | split | with_reducible refine foldl_mem ?_ ?_ | with_reducible refine foldl_mem2 ?_ ?_ | with_reducible intro u a hu | (simp (maxDischargeDepth := 30) [hs]; done) | (simp (maxDischargeDepth := 30) [hs, ih]; done) | (simp (maxDischargeDepth := 30) [hs, hu]; done) | (simp (maxDischargeDepth := 30) [hs, hf]; done)
@[simp] theorem State.withPage_mem (s : State) (q : Access) (x : Shape) (base : Nat) (write : Bool) (hs : s.memWf) :
    (s.withPage q x base write).2.memWf := by
  simp only [State.withPage]
  repeat' first | with_reducible assumption | (rename_i e; obtain rfl := snd_eq e; clear e) | split | with_reducible refine foldl_mem ?_ ?_ | with_reducible refine foldl_mem2 ?_ ?_ | with_reducible intro u a hu | (simp (maxDischargeDepth := 30) [hs]; done) | (simp (maxDischargeDepth := 30) [hs, ih]; done) | (simp (maxDischargeDepth := 30) [hs, hu]; done) | (simp (maxDischargeDepth := 30) [hs, hf]; done)
@[simp] theorem State.readElems_mem (x : Shape) (m n : Nat) (q : Access) (s : State) (hs : s.memWf) : (s.readElems q x m n).2.memWf := by
  induction m generalizing n q s with
  | zero => exact hs
  | succ n ih =>
    simp only [State.readElems]
    repeat' first | with_reducible assumption | (rename_i e; obtain rfl := snd_eq e; clear e) | split | with_reducible refine foldl_mem ?_ ?_ | with_reducible refine foldl_mem2 ?_ ?_ | with_reducible intro u a hu | (simp (maxDischargeDepth := 30) [hs]; done) | (simp (maxDischargeDepth := 30) [hs, ih]; done) | (simp (maxDischargeDepth := 30) [hs, hu]; done) | (simp (maxDischargeDepth := 30) [hs, hf]; done)

@[simp] theorem State.readScales_mem (q : Access) (l : List (Int × Nat)) (s : State) (hs : s.memWf) : (s.readScales q l).2.memWf := by
  induction l generalizing s with
  | nil => exact hs
  | cons p l ih =>
    obtain ⟨c, a⟩ := p
    simp only [State.readScales]
    repeat' first | with_reducible assumption | (rename_i e; obtain rfl := snd_eq e; clear e) | split | with_reducible refine foldl_mem ?_ ?_ | with_reducible refine foldl_mem2 ?_ ?_ | with_reducible intro u a hu | (simp (maxDischargeDepth := 30) [hs]; done) | (simp (maxDischargeDepth := 30) [hs, ih]; done) | (simp (maxDischargeDepth := 30) [hs, hu]; done) | (simp (maxDischargeDepth := 30) [hs, hf]; done)

@[simp] theorem State.writeElem_mem (s : State) (q : Access) (x : Shape) (n v : Nat) (hs : s.memWf) :
    (s.writeElem q x n v).2.memWf := by
  simp only [State.writeElem]
  repeat' first | with_reducible assumption | (rename_i e; obtain rfl := snd_eq e; clear e) | split | with_reducible refine foldl_mem ?_ ?_ | with_reducible refine foldl_mem2 ?_ ?_ | with_reducible intro u a hu | (simp (maxDischargeDepth := 30) [hs]; done) | (simp (maxDischargeDepth := 30) [hs, ih]; done) | (simp (maxDischargeDepth := 30) [hs, hu]; done) | (simp (maxDischargeDepth := 30) [hs, hf]; done)
@[simp] theorem State.writeElems_mem (q : Access) (x : Shape) (m n v : Nat) (s : State) (hs : s.memWf) : (s.writeElems q x m n v).2.memWf := by
  induction m generalizing n v s with
  | zero => exact hs
  | succ n ih =>
    simp only [State.writeElems]
    repeat' first | with_reducible assumption | (rename_i e; obtain rfl := snd_eq e; clear e) | split | with_reducible refine foldl_mem ?_ ?_ | with_reducible refine foldl_mem2 ?_ ?_ | with_reducible intro u a hu | (simp (maxDischargeDepth := 30) [hs]; done) | (simp (maxDischargeDepth := 30) [hs, ih]; done) | (simp (maxDischargeDepth := 30) [hs, hu]; done) | (simp (maxDischargeDepth := 30) [hs, hf]; done)

theorem State.landWord_mem {s t : State} {b : BrickId} {x : Shape} {v : Nat} (hs : s.memWf) (h : s.landWord b x v = .ok t) : t.memWf := by
  simp only [State.landWord] at h
  repeat' split at h
  all_goals first | (cases h; done) | (cases h; simp [hs]; done) | (cases h; exact State.modBrick_mem hs (cellsWrite_wf _ _ (State.brick_wf hs _)))
@[simp] theorem State.pushRoute_mem (s : State) (b : BrickId) (n : Nat) (t : Token) (hs : s.memWf) :
    (s.pushRoute b n t).memWf := by
  simp only [State.pushRoute]
  repeat' first | with_reducible assumption | (rename_i e; obtain rfl := snd_eq e; clear e) | split | with_reducible refine foldl_mem ?_ ?_ | with_reducible refine foldl_mem2 ?_ ?_ | with_reducible intro u a hu | (simp (maxDischargeDepth := 30) [hs]; done) | (simp (maxDischargeDepth := 30) [hs, ih]; done) | (simp (maxDischargeDepth := 30) [hs, hu]; done) | (simp (maxDischargeDepth := 30) [hs, hf]; done)
@[simp] theorem State.nextWord_mem (s : State) (b : BrickId) (r : Nat) (hs : s.memWf) : (s.nextWord b r).memWf := by
  unfold State.nextWord
  extract_lets y q gen
  split
  · rename_i e; exact State.streamFault_mem _ _ _ _ (snd_mem e (State.withPage_mem _ _ _ _ _ hs))
  · rename_i e
    have h1 := snd_mem e (State.withPage_mem _ _ _ _ _ hs)
    extract_lets m blocks
    split
    · exact State.streamFault_mem _ _ _ _ h1
    · split
      · rename_i e2; exact State.streamFault_mem _ _ _ _ (snd_mem e2 (State.readElems_mem _ _ _ _ _ h1))
      · rename_i e2
        have h2 := snd_mem e2 (State.readElems_mem _ _ _ _ _ h1)
        split
        · rename_i e3; exact State.streamFault_mem _ _ _ _ (snd_mem e3 (State.readScales_mem _ _ _ h2))
        · rename_i e3
          have h3 := snd_mem e3 (State.readScales_mem _ _ _ h2)
          extract_lets x'
          split
          · split
            · exact State.streamFault_mem _ _ _ _ h3
            · rename_i e4; exact State.modShape_mem _ _ _ _ (State.landWord_mem h3 e4)
          · exact State.modShape_mem _ _ _ _ h3
@[simp] theorem State.popInput_mem (s : State) (b : BrickId) (r m : Nat) (hs : s.memWf) :
    (s.popInput b r m).memWf := by
  simp only [State.popInput]
  repeat' first | with_reducible assumption | (rename_i e; obtain rfl := snd_eq e; clear e) | split | with_reducible refine foldl_mem ?_ ?_ | with_reducible refine foldl_mem2 ?_ ?_ | with_reducible intro u a hu | (simp (maxDischargeDepth := 30) [hs]; done) | (simp (maxDischargeDepth := 30) [hs, ih]; done) | (simp (maxDischargeDepth := 30) [hs, hu]; done) | (simp (maxDischargeDepth := 30) [hs, hf]; done)
@[simp] theorem State.dropWord_mem (s : State) (b : BrickId) (r : Nat) (hs : s.memWf) :
    (s.dropWord b r).memWf := by
  simp only [State.dropWord]
  repeat' first | with_reducible assumption | (rename_i e; obtain rfl := snd_eq e; clear e) | split | with_reducible refine foldl_mem ?_ ?_ | with_reducible refine foldl_mem2 ?_ ?_ | with_reducible intro u a hu | (simp (maxDischargeDepth := 30) [hs]; done) | (simp (maxDischargeDepth := 30) [hs, ih]; done) | (simp (maxDischargeDepth := 30) [hs, hu]; done) | (simp (maxDischargeDepth := 30) [hs, hf]; done)
@[simp] theorem State.dataWord_mem (s : State) (b : BrickId) (r : Nat) (tok : Token) (hs : s.memWf) : (s.dataWord b r tok).memWf := by
  unfold State.dataWord
  extract_lets y v gen x0 x1
  split
  · split
    · rename_i e; exact State.streamFault_mem _ _ _ _ (snd_mem e (State.withPage_mem _ _ _ _ _ hs))
    · rename_i e
      have h1 := snd_mem e (State.withPage_mem _ _ _ _ _ hs)
      extract_lets m
      split
      · rename_i e2; exact State.streamFault_mem _ _ _ _ (snd_mem e2 (State.writeElems_mem _ _ _ _ _ _ h1))
      · rename_i e2; exact State.modShape_mem _ _ _ _ (snd_mem e2 (State.writeElems_mem _ _ _ _ _ _ h1))
  · exact State.modShape_mem _ _ _ _ hs
  · split
    · exact State.streamFault_mem _ _ _ _ hs
    · rename_i e; exact State.modShape_mem _ _ _ _ (State.landWord_mem hs e)
@[simp] theorem State.scaleWord_mem (s : State) (b : BrickId) (r : Nat) (tok : Token) (hs : s.memWf) :
    (s.scaleWord b r tok).memWf := by
  simp only [State.scaleWord]
  repeat' first | with_reducible assumption | (rename_i e; obtain rfl := snd_eq e; clear e) | split | with_reducible refine foldl_mem ?_ ?_ | with_reducible refine foldl_mem2 ?_ ?_ | with_reducible intro u a hu | (simp (maxDischargeDepth := 30) [hs]; done) | (simp (maxDischargeDepth := 30) [hs, ih]; done) | (simp (maxDischargeDepth := 30) [hs, hu]; done) | (simp (maxDischargeDepth := 30) [hs, hf]; done)
@[simp] theorem State.armShape_mem (s : State) (b : BrickId) (r : Nat) (hs : s.memWf) :
    (s.armShape b r).memWf := by
  simp only [State.armShape]
  repeat' first | with_reducible assumption | (rename_i e; obtain rfl := snd_eq e; clear e) | split | with_reducible refine foldl_mem ?_ ?_ | with_reducible refine foldl_mem2 ?_ ?_ | with_reducible intro u a hu | (simp (maxDischargeDepth := 30) [hs]; done) | (simp (maxDischargeDepth := 30) [hs, ih]; done) | (simp (maxDischargeDepth := 30) [hs, hu]; done) | (simp (maxDischargeDepth := 30) [hs, hf]; done)
@[simp] theorem State.abortShape_mem (s : State) (b : BrickId) (r : Nat) (hs : s.memWf) :
    (s.abortShape b r).memWf := by
  simp only [State.abortShape]
  repeat' first | with_reducible assumption | (rename_i e; obtain rfl := snd_eq e; clear e) | split | with_reducible refine foldl_mem ?_ ?_ | with_reducible refine foldl_mem2 ?_ ?_ | with_reducible intro u a hu | (simp (maxDischargeDepth := 30) [hs]; done) | (simp (maxDischargeDepth := 30) [hs, ih]; done) | (simp (maxDischargeDepth := 30) [hs, hu]; done) | (simp (maxDischargeDepth := 30) [hs, hf]; done)

/-! Yealms -/
@[simp] theorem State.startLaunch_mem (s : State) (b : BrickId) (o c : Nat) (hs : s.memWf) :
    (s.startLaunch b o c).2.memWf := by
  simp only [State.startLaunch]
  repeat' first | with_reducible assumption | (rename_i e; obtain rfl := snd_eq e; clear e) | split | with_reducible refine foldl_mem ?_ ?_ | with_reducible refine foldl_mem2 ?_ ?_ | with_reducible intro u a hu | (simp (maxDischargeDepth := 30) [hs]; done) | (simp (maxDischargeDepth := 30) [hs, ih]; done) | (simp (maxDischargeDepth := 30) [hs, hu]; done) | (simp (maxDischargeDepth := 30) [hs, hf]; done)
@[simp] theorem State.nextHop_mem (s : State) (b : BrickId) (k : Nat) (hs : s.memWf) :
    (s.nextHop b k).2.memWf := by
  simp only [State.nextHop]
  repeat' first | with_reducible assumption | (rename_i e; obtain rfl := snd_eq e; clear e) | split | with_reducible refine foldl_mem ?_ ?_ | with_reducible refine foldl_mem2 ?_ ?_ | with_reducible intro u a hu | (simp (maxDischargeDepth := 30) [hs]; done) | (simp (maxDischargeDepth := 30) [hs, ih]; done) | (simp (maxDischargeDepth := 30) [hs, hu]; done) | (simp (maxDischargeDepth := 30) [hs, hf]; done)
@[simp] theorem State.landFrame_mem (s : State) (b : BrickId) (k : Nat) (stop : Stop) (data : List Byte) (ue : List Nat) (ts floor : Nat) (hs : s.memWf) :
    (s.landFrame b k stop data ue ts floor).memWf := by
  simp only [State.landFrame]
  repeat' first | with_reducible assumption | (rename_i e; obtain rfl := snd_eq e; clear e) | split | with_reducible refine foldl_mem ?_ ?_ | with_reducible refine foldl_mem2 ?_ ?_ | with_reducible intro u a hu | (simp (maxDischargeDepth := 30) [hs]; done) | (simp (maxDischargeDepth := 30) [hs, ih]; done) | (simp (maxDischargeDepth := 30) [hs, hu]; done) | (simp (maxDischargeDepth := 30) [hs, hf]; done)
@[simp] theorem State.takeDock_mem (s : State) (b : BrickId) (k : Nat) (st : DockState) (hs : s.memWf) :
    (s.takeDock b k st).memWf := by
  simp only [State.takeDock]
  repeat' first | with_reducible assumption | (rename_i e; obtain rfl := snd_eq e; clear e) | split | with_reducible refine foldl_mem ?_ ?_ | with_reducible refine foldl_mem2 ?_ ?_ | with_reducible intro u a hu | (simp (maxDischargeDepth := 30) [hs]; done) | (simp (maxDischargeDepth := 30) [hs, ih]; done) | (simp (maxDischargeDepth := 30) [hs, hu]; done) | (simp (maxDischargeDepth := 30) [hs, hf]; done)
@[simp] theorem State.routeDock_mem (s : State) (b : BrickId) (k r : Nat) (hs : s.memWf) :
    (s.routeDock b k r).memWf := by
  simp only [State.routeDock]
  repeat' first | with_reducible assumption | (rename_i e; obtain rfl := snd_eq e; clear e) | split | with_reducible refine foldl_mem ?_ ?_ | with_reducible refine foldl_mem2 ?_ ?_ | with_reducible intro u a hu | (simp (maxDischargeDepth := 30) [hs]; done) | (simp (maxDischargeDepth := 30) [hs, ih]; done) | (simp (maxDischargeDepth := 30) [hs, hu]; done) | (simp (maxDischargeDepth := 30) [hs, hf]; done)
@[simp] theorem State.modPort_mem (s : State) (p : Nat) (f : ScalePort → ScalePort) (hs : s.memWf) :
    (s.modPort p f).memWf := by
  simp only [State.modPort]
  repeat' first | with_reducible assumption | (rename_i e; obtain rfl := snd_eq e; clear e) | split | with_reducible refine foldl_mem ?_ ?_ | with_reducible refine foldl_mem2 ?_ ?_ | with_reducible intro u a hu | (simp (maxDischargeDepth := 30) [hs]; done) | (simp (maxDischargeDepth := 30) [hs, ih]; done) | (simp (maxDischargeDepth := 30) [hs, hu]; done) | (simp (maxDischargeDepth := 30) [hs, hf]; done)
@[simp] theorem State.sendAbroad_mem (s : State) (t : Nat) (l : List Byte) (hs : s.memWf) :
    (s.sendAbroad t l).memWf := by
  simp only [State.sendAbroad]
  repeat' first | with_reducible assumption | (rename_i e; obtain rfl := snd_eq e; clear e) | split | with_reducible refine foldl_mem ?_ ?_ | with_reducible refine foldl_mem2 ?_ ?_ | with_reducible intro u a hu | (simp (maxDischargeDepth := 30) [hs]; done) | (simp (maxDischargeDepth := 30) [hs, ih]; done) | (simp (maxDischargeDepth := 30) [hs, hu]; done) | (simp (maxDischargeDepth := 30) [hs, hf]; done)
@[simp] theorem State.sendFrame_mem (s : State) (b : BrickId) (k : Nat) (hs : s.memWf) :
    (s.sendFrame b k).memWf := by
  simp only [State.sendFrame]
  repeat' first | with_reducible assumption | (rename_i e; obtain rfl := snd_eq e; clear e) | split | with_reducible refine foldl_mem ?_ ?_ | with_reducible refine foldl_mem2 ?_ ?_ | with_reducible intro u a hu | (simp (maxDischargeDepth := 30) [hs]; done) | (simp (maxDischargeDepth := 30) [hs, ih]; done) | (simp (maxDischargeDepth := 30) [hs, hu]; done) | (simp (maxDischargeDepth := 30) [hs, hf]; done)
@[simp] theorem State.fetchSlate_mem (s : State) (b : BrickId) (k : Nat) (hs : s.memWf) :
    (s.fetchSlate b k).memWf := by
  simp only [State.fetchSlate]
  repeat' first | with_reducible assumption | (rename_i e; obtain rfl := snd_eq e; clear e) | split | with_reducible refine foldl_mem ?_ ?_ | with_reducible refine foldl_mem2 ?_ ?_ | with_reducible intro u a hu | (simp (maxDischargeDepth := 30) [hs]; done) | (simp (maxDischargeDepth := 30) [hs, ih]; done) | (simp (maxDischargeDepth := 30) [hs, hu]; done) | (simp (maxDischargeDepth := 30) [hs, hf]; done)
@[simp] theorem State.startFire_mem (s : State) (b : BrickId) (k : Nat) (f : Bool) (c : Nat) (hs : s.memWf) :
    (s.startFire b k f c).memWf := by
  simp only [State.startFire]
  repeat' first | with_reducible assumption | (rename_i e; obtain rfl := snd_eq e; clear e) | split | with_reducible refine foldl_mem ?_ ?_ | with_reducible refine foldl_mem2 ?_ ?_ | with_reducible intro u a hu | (simp (maxDischargeDepth := 30) [hs]; done) | (simp (maxDischargeDepth := 30) [hs, ih]; done) | (simp (maxDischargeDepth := 30) [hs, hu]; done) | (simp (maxDischargeDepth := 30) [hs, hf]; done)
@[simp] theorem State.readBytesAt_mem (b : BrickId) (k : Nat) (l : List Nat) (s : State) (hs : s.memWf) : (s.readBytesAt b k l).2.memWf := by
  induction l generalizing s with
  | nil => exact hs
  | cons p l ih =>
    simp only [State.readBytesAt]
    repeat' first | with_reducible assumption | (rename_i e; obtain rfl := snd_eq e; clear e) | split | with_reducible refine foldl_mem ?_ ?_ | with_reducible refine foldl_mem2 ?_ ?_ | with_reducible intro u a hu | (simp (maxDischargeDepth := 30) [hs]; done) | (simp (maxDischargeDepth := 30) [hs, ih]; done) | (simp (maxDischargeDepth := 30) [hs, hu]; done) | (simp (maxDischargeDepth := 30) [hs, hf]; done)

@[simp] theorem State.fireVisit_mem (s : State) (b : BrickId) (k : Nat) (hs : s.memWf) : (s.fireVisit b k).memWf := by
  simp only [State.fireVisit]
  split
  · exact hs
  · split
    · split <;> simp (maxDischargeDepth := 30) [hs]
    · split
      · rename_i e
        have h1 := snd_mem e (State.readBytesAt_mem _ _ _ _ hs)
        simp (maxDischargeDepth := 30) [h1]
      · rename_i e
        have h1 := snd_mem e (State.readBytesAt_mem _ _ _ _ hs)
        refine State.setBrick_mem h1 (cellsWrite_wf _ _ ?_)
        exact foldl_bankWf (fun y r hy => cellsWrite_wf _ _ (cellsWrite_wf _ _ (cellsWrite_wf _ _ hy))) (State.brick_wf h1 b)

/-! Commit -/
@[simp] theorem State.modFiring_mem (s : State) (b : BrickId) (k : Nat) (f : Firing → Firing) (hs : s.memWf) :
    (s.modFiring b k f).memWf := by
  simp only [State.modFiring]
  repeat' first | with_reducible assumption | (rename_i e; obtain rfl := snd_eq e; clear e) | split | with_reducible refine foldl_mem ?_ ?_ | with_reducible refine foldl_mem2 ?_ ?_ | with_reducible intro u a hu | (simp (maxDischargeDepth := 30) [hs]; done) | (simp (maxDischargeDepth := 30) [hs, ih]; done) | (simp (maxDischargeDepth := 30) [hs, hu]; done) | (simp (maxDischargeDepth := 30) [hs, hf]; done)
@[simp] theorem State.bankAtomic_mem (s : State) (b : BrickId) (k o w a v y i : Nat) (hs : s.memWf) :
    (s.bankAtomic b k o w a v y i).memWf := by
  simp only [State.bankAtomic]
  repeat' first | with_reducible assumption | (rename_i e; obtain rfl := snd_eq e; clear e) | split | with_reducible refine foldl_mem ?_ ?_ | with_reducible refine foldl_mem2 ?_ ?_ | with_reducible intro u a hu | (simp (maxDischargeDepth := 30) [hs]; done) | (simp (maxDischargeDepth := 30) [hs, ih]; done) | (simp (maxDischargeDepth := 30) [hs, hu]; done) | (simp (maxDischargeDepth := 30) [hs, hf]; done)
@[simp] theorem State.applyEffect_mem (s : State) (b : BrickId) (k c : Nat) (e : Effect) (hs : s.memWf) :
    (s.applyEffect b k c e).memWf := by
  simp only [State.applyEffect]
  repeat' first | with_reducible assumption | (rename_i e; obtain rfl := snd_eq e; clear e) | split | with_reducible refine foldl_mem ?_ ?_ | with_reducible refine foldl_mem2 ?_ ?_ | with_reducible intro u a hu | (simp (maxDischargeDepth := 30) [hs]; done) | (simp (maxDischargeDepth := 30) [hs, ih]; done) | (simp (maxDischargeDepth := 30) [hs, hu]; done) | (simp (maxDischargeDepth := 30) [hs, hf]; done)

/-! Gateway -/
@[simp] theorem State.deliver_mem (s : State) (die gid : Nat) (hs : s.memWf) : (s.deliver die gid).memWf := by
  simp only [State.deliver]
  refine State.modGateway_mem _ _ _ (foldl_mem2 hs fun u a hu => ?_)
  split
  · split
    · exact State.launch_mem _ _ _ _ _ hu
    · exact hu
  · exact hu

/-! LoadImage -/
@[simp] theorem State.readLoad_mem (s : State) (g : RegionId) (t va : Nat) (hs : s.memWf) :
    (s.readLoad g t va).2.memWf := by
  simp only [State.readLoad]
  repeat' first | with_reducible assumption | (rename_i e; obtain rfl := snd_eq e; clear e) | split | with_reducible refine foldl_mem ?_ ?_ | with_reducible refine foldl_mem2 ?_ ?_ | with_reducible intro u a hu | (simp (maxDischargeDepth := 30) [hs]; done) | (simp (maxDischargeDepth := 30) [hs, ih]; done) | (simp (maxDischargeDepth := 30) [hs, hu]; done) | (simp (maxDischargeDepth := 30) [hs, hf]; done)
@[simp] theorem State.connectRegion_mem (s : State) (g : RegionId) (hs : s.memWf) :
    (s.connectRegion g).memWf := by
  simp only [State.connectRegion]
  repeat' first | with_reducible assumption | (rename_i e; obtain rfl := snd_eq e; clear e) | split | with_reducible refine foldl_mem ?_ ?_ | with_reducible refine foldl_mem2 ?_ ?_ | with_reducible intro u a hu | (simp (maxDischargeDepth := 30) [hs]; done) | (simp (maxDischargeDepth := 30) [hs, ih]; done) | (simp (maxDischargeDepth := 30) [hs, hu]; done) | (simp (maxDischargeDepth := 30) [hs, hf]; done)

/-! Launch -/
@[simp] theorem State.rechargeBound_mem (s : State) (b : BrickId) (n : Nat) (hs : s.memWf) :
    (s.rechargeBound b n).memWf := by
  simp only [State.rechargeBound]
  repeat' first | with_reducible assumption | (rename_i e; obtain rfl := snd_eq e; clear e) | split | with_reducible refine foldl_mem ?_ ?_ | with_reducible refine foldl_mem2 ?_ ?_ | with_reducible intro u a hu | (simp (maxDischargeDepth := 30) [hs]; done) | (simp (maxDischargeDepth := 30) [hs, ih]; done) | (simp (maxDischargeDepth := 30) [hs, hu]; done) | (simp (maxDischargeDepth := 30) [hs, hf]; done)
@[simp] theorem State.uncharged_mem (s : State) (bs : List BrickId) (hs : s.memWf) :
    (s.uncharged bs).memWf := by
  simp only [State.uncharged]
  repeat' first | with_reducible assumption | (rename_i e; obtain rfl := snd_eq e; clear e) | split | with_reducible refine foldl_mem ?_ ?_ | with_reducible refine foldl_mem2 ?_ ?_ | with_reducible intro u a hu | (simp (maxDischargeDepth := 30) [hs]; done) | (simp (maxDischargeDepth := 30) [hs, ih]; done) | (simp (maxDischargeDepth := 30) [hs, hu]; done) | (simp (maxDischargeDepth := 30) [hs, hf]; done)
@[simp] theorem State.readOwners_mem (s : State) (g : RegionId) (x : Slot) (hs : s.memWf) :
    (s.readOwners g x).2.memWf := by
  simp only [State.readOwners]
  repeat' first | with_reducible assumption | (rename_i e; obtain rfl := snd_eq e; clear e) | split | with_reducible refine foldl_mem ?_ ?_ | with_reducible refine foldl_mem2 ?_ ?_ | with_reducible intro u a hu | (simp (maxDischargeDepth := 30) [hs]; done) | (simp (maxDischargeDepth := 30) [hs, ih]; done) | (simp (maxDischargeDepth := 30) [hs, hu]; done) | (simp (maxDischargeDepth := 30) [hs, hf]; done)
@[simp] theorem State.readParams_mem (g : RegionId) (t : Nat) (l : List (Nat × Nat × Nat)) (s : State) (hs : s.memWf) : (s.readParams g t l).2.memWf := by
  induction l generalizing s with
  | nil => exact hs
  | cons p l ih =>
    obtain ⟨a, b, c⟩ := p
    simp only [State.readParams]
    repeat' first | with_reducible assumption | (rename_i e; obtain rfl := snd_eq e; clear e) | split | with_reducible refine foldl_mem ?_ ?_ | with_reducible refine foldl_mem2 ?_ ?_ | with_reducible intro u a hu | (simp (maxDischargeDepth := 30) [hs]; done) | (simp (maxDischargeDepth := 30) [hs, ih]; done) | (simp (maxDischargeDepth := 30) [hs, hu]; done) | (simp (maxDischargeDepth := 30) [hs, hf]; done)

@[simp] theorem State.noteLoadBad_mem (s : State) (r : RegionId) (l : List (BrickId × Nat × Nat × Word)) (hs : s.memWf) :
    (s.noteLoadBad r l).memWf := by
  simp only [State.noteLoadBad]
  repeat' first | with_reducible assumption | (rename_i e; obtain rfl := snd_eq e; clear e) | split | with_reducible refine foldl_mem ?_ ?_ | with_reducible refine foldl_mem2 ?_ ?_ | with_reducible intro u a hu | (simp (maxDischargeDepth := 30) [hs]; done) | (simp (maxDischargeDepth := 30) [hs, ih]; done) | (simp (maxDischargeDepth := 30) [hs, hu]; done) | (simp (maxDischargeDepth := 30) [hs, hf]; done)
@[simp] theorem State.concludeChecks_mem (s : State) (r : RegionId) (x : Slot) (p : Plan) (a : Accepted) (hs : s.memWf) :
    (s.concludeChecks r x p a).2.memWf := by
  simp only [State.concludeChecks]
  repeat' first | with_reducible assumption | (rename_i e; obtain rfl := snd_eq e; clear e) | split | with_reducible refine foldl_mem ?_ ?_ | with_reducible refine foldl_mem2 ?_ ?_ | with_reducible intro u a hu | (simp (maxDischargeDepth := 30) [hs]; done) | (simp (maxDischargeDepth := 30) [hs, ih]; done) | (simp (maxDischargeDepth := 30) [hs, hu]; done) | (simp (maxDischargeDepth := 30) [hs, hf]; done)
@[simp] theorem State.ownerMap_mem (s : State) (g : RegionId) (x : Slot) (hs : s.memWf) :
    (s.ownerMap g x).2.memWf := by
  simp only [State.ownerMap]
  repeat' first | with_reducible assumption | (rename_i e; obtain rfl := snd_eq e; clear e) | split | with_reducible refine foldl_mem ?_ ?_ | with_reducible refine foldl_mem2 ?_ ?_ | with_reducible intro u a hu | (simp (maxDischargeDepth := 30) [hs]; done) | (simp (maxDischargeDepth := 30) [hs, ih]; done) | (simp (maxDischargeDepth := 30) [hs, hu]; done) | (simp (maxDischargeDepth := 30) [hs, hf]; done)
@[simp] theorem State.checkMaps_mem (s : State) (r : RegionId) (x : Slot) (img : LoadImage) (placed : List (BrickId × BrickPart)) (p : Plan) (owners : Option (List (Nat × Nat × BrickId))) (hs : s.memWf) :
    (s.checkMaps r x img placed p owners).2.memWf := by
  simp only [State.checkMaps]
  repeat' first | with_reducible assumption | (rename_i e; obtain rfl := snd_eq e; clear e) | split | with_reducible refine foldl_mem ?_ ?_ | with_reducible refine foldl_mem2 ?_ ?_ | with_reducible intro u a hu | (simp (maxDischargeDepth := 30) [hs]; done) | (simp (maxDischargeDepth := 30) [hs, ih]; done) | (simp (maxDischargeDepth := 30) [hs, hu]; done) | (simp (maxDischargeDepth := 30) [hs, hf]; done)

@[simp] theorem State.checkStart_mem (s : State) (r : RegionId) (hs : s.memWf) :
    (s.checkStart r).2.memWf := by
  simp only [State.checkStart]
  repeat' first | with_reducible assumption | (rename_i e; obtain rfl := snd_eq e; clear e) | split | with_reducible refine foldl_mem ?_ ?_ | with_reducible refine foldl_mem2 ?_ ?_ | with_reducible intro u a hu | (simp (maxDischargeDepth := 30) [hs]; done) | (simp (maxDischargeDepth := 30) [hs, ih]; done) | (simp (maxDischargeDepth := 30) [hs, hu]; done) | (simp (maxDischargeDepth := 30) [hs, hf]; done)
@[simp] theorem State.reject_mem (s : State) (r : RegionId) (c : Nat) (hs : s.memWf) :
    (s.reject r c).memWf := by
  simp only [State.reject]
  repeat' first | with_reducible assumption | (rename_i e; obtain rfl := snd_eq e; clear e) | split | with_reducible refine foldl_mem ?_ ?_ | with_reducible refine foldl_mem2 ?_ ?_ | with_reducible intro u a hu | (simp (maxDischargeDepth := 30) [hs]; done) | (simp (maxDischargeDepth := 30) [hs, ih]; done) | (simp (maxDischargeDepth := 30) [hs, hu]; done) | (simp (maxDischargeDepth := 30) [hs, hf]; done)
@[simp] theorem State.bindKeys_mem (s : State) (r : RegionId) (node : Nat) (keys : List Nat) (hs : s.memWf) : (s.bindKeys r node keys).memWf :=
  State.charge_mem _ _ _ _ (State.modSlot_mem _ _ _ (foldl_mem hs fun _ _ hu => hu))
@[simp] theorem State.extendLog_mem (s : State) (t : Nat) (l : List Byte) (hs : s.memWf) :
    (s.extendLog t l).memWf := by
  simp only [State.extendLog]
  repeat' first | with_reducible assumption | (rename_i e; obtain rfl := snd_eq e; clear e) | split | with_reducible refine foldl_mem ?_ ?_ | with_reducible refine foldl_mem2 ?_ ?_ | with_reducible intro u a hu | (simp (maxDischargeDepth := 30) [hs]; done) | (simp (maxDischargeDepth := 30) [hs, ih]; done) | (simp (maxDischargeDepth := 30) [hs, hu]; done) | (simp (maxDischargeDepth := 30) [hs, hf]; done)
@[simp] theorem State.logLoad_mem (s : State) (t h n : Nat) (r : RegionId) (hs : s.memWf) :
    (s.logLoad t h n r).memWf := by
  simp only [State.logLoad]
  repeat' first | with_reducible assumption | (rename_i e; obtain rfl := snd_eq e; clear e) | split | with_reducible refine foldl_mem ?_ ?_ | with_reducible refine foldl_mem2 ?_ ?_ | with_reducible intro u a hu | (simp (maxDischargeDepth := 30) [hs]; done) | (simp (maxDischargeDepth := 30) [hs, ih]; done) | (simp (maxDischargeDepth := 30) [hs, hu]; done) | (simp (maxDischargeDepth := 30) [hs, hf]; done)
@[simp] theorem State.queueTask_mem (s : State) (die c : Nat) (t : Task) (hs : s.memWf) :
    (s.queueTask die c t).memWf := by
  simp only [State.queueTask]
  repeat' first | with_reducible assumption | (rename_i e; obtain rfl := snd_eq e; clear e) | split | with_reducible refine foldl_mem ?_ ?_ | with_reducible refine foldl_mem2 ?_ ?_ | with_reducible intro u a hu | (simp (maxDischargeDepth := 30) [hs]; done) | (simp (maxDischargeDepth := 30) [hs, ih]; done) | (simp (maxDischargeDepth := 30) [hs, hu]; done) | (simp (maxDischargeDepth := 30) [hs, hf]; done)
@[simp] theorem State.refillRing_mem (s : State) (die c : Nat) (hs : s.memWf) :
    (s.refillRing die c).memWf := by
  simp only [State.refillRing]
  repeat' first | with_reducible assumption | (rename_i e; obtain rfl := snd_eq e; clear e) | split | with_reducible refine foldl_mem ?_ ?_ | with_reducible refine foldl_mem2 ?_ ?_ | with_reducible intro u a hu | (simp (maxDischargeDepth := 30) [hs]; done) | (simp (maxDischargeDepth := 30) [hs, ih]; done) | (simp (maxDischargeDepth := 30) [hs, hu]; done) | (simp (maxDischargeDepth := 30) [hs, hf]; done)
@[simp] theorem State.loadStart_mem (s : State) (r : RegionId) (a : Accepted) (hs : s.memWf) (hf : ∀ p ∈ a.bricks, Memory.wf p.2.bank = true) : (s.loadStart r a).memWf := by
  unfold State.loadStart
  extract_lets x bricks keys
  split
  · exact State.reject_mem _ _ _ hs
  · exact State.connectRegion_mem _ _ (foldl_mem (foldl_mem (foldl_mem (foldl_memIn (State.charge_mem _ _ _ _ (foldl_mem
        (State.logLoad_mem _ _ _ _ _ (State.bindKeys_mem _ _ _ _ hs)) fun u a hu => State.rechargeBound_mem _ _ _ hu))
        fun u p hp hu => State.setBrick_mem hu (hf p hp)) fun u p hu => State.refillRing_mem _ _ _ hu) fun u p hu => hu) fun u p hu => hu)
@[simp] theorem State.startRun_mem (s : State) (r : RegionId) (hs : s.memWf) : (s.startRun r).memWf := by
  unfold State.startRun
  refine State.modSlot_mem _ _ _ (foldl_mem hs fun u a hu => State.modBrick_mem hu ?_)
  dsimp only
  rw [Brick.settleWeep_bank]
  split <;> exact State.brick_wf hu a

/-! Slab -/
@[simp] theorem State.tellDone_mem (s : State) (d c : Nat) (t : Task) (v w : Nat) (hs : s.memWf) :
    (s.tellDone d c t v w).memWf := by
  simp only [State.tellDone]
  repeat' first | with_reducible assumption | (rename_i e; obtain rfl := snd_eq e; clear e) | split | with_reducible refine foldl_mem ?_ ?_ | with_reducible refine foldl_mem2 ?_ ?_ | with_reducible intro u a hu | (simp (maxDischargeDepth := 30) [hs]; done) | (simp (maxDischargeDepth := 30) [hs, ih]; done) | (simp (maxDischargeDepth := 30) [hs, hu]; done) | (simp (maxDischargeDepth := 30) [hs, hf]; done)
@[simp] theorem State.ringHead_mem (s : State) (q : Sched) (t : Task) (hs : s.memWf) :
    (s.ringHead q t).2.memWf := by
  simp only [State.ringHead]
  repeat' first | with_reducible assumption | (rename_i e; obtain rfl := snd_eq e; clear e) | split | with_reducible refine foldl_mem ?_ ?_ | with_reducible refine foldl_mem2 ?_ ?_ | with_reducible intro u a hu | (simp (maxDischargeDepth := 30) [hs]; done) | (simp (maxDischargeDepth := 30) [hs, ih]; done) | (simp (maxDischargeDepth := 30) [hs, hu]; done) | (simp (maxDischargeDepth := 30) [hs, hf]; done)
@[simp] theorem State.modAcc_mem (s : State) (b : BrickId) (k : Nat) (f : Acc → Acc) (hs : s.memWf) :
    (s.modAcc b k f).memWf := by
  simp only [State.modAcc]
  repeat' first | with_reducible assumption | (rename_i e; obtain rfl := snd_eq e; clear e) | split | with_reducible refine foldl_mem ?_ ?_ | with_reducible refine foldl_mem2 ?_ ?_ | with_reducible intro u a hu | (simp (maxDischargeDepth := 30) [hs]; done) | (simp (maxDischargeDepth := 30) [hs, ih]; done) | (simp (maxDischargeDepth := 30) [hs, hu]; done) | (simp (maxDischargeDepth := 30) [hs, hf]; done)
@[simp] theorem State.endTask_mem (s : State) (b : BrickId) (k : Nat) (t : Task) (v : Nat) (hs : s.memWf) :
    (s.endTask b k t v).memWf := by
  simp only [State.endTask]
  repeat' first | with_reducible assumption | (rename_i e; obtain rfl := snd_eq e; clear e) | split | with_reducible refine foldl_mem ?_ ?_ | with_reducible refine foldl_mem2 ?_ ?_ | with_reducible intro u a hu | (simp (maxDischargeDepth := 30) [hs]; done) | (simp (maxDischargeDepth := 30) [hs, ih]; done) | (simp (maxDischargeDepth := 30) [hs, hu]; done) | (simp (maxDischargeDepth := 30) [hs, hf]; done)
@[simp] theorem State.drainFork_mem (s : State) (b : BrickId) (acc : Nat) (t : Task) (dests : List Dest) (total j : Nat) (todo held : List Nat) (hs : s.memWf) :
    (s.drainFork b acc t dests total j todo held).2.2.memWf := by
  unfold State.drainFork
  extract_lets tile
  refine foldl_mem3 hs fun p k hu => ?_
  dsimp only
  repeat' first | with_reducible assumption | exact State.launch_mem _ _ _ _ _ hu | split
@[simp] theorem State.endUnstarted_mem (s : State) (b : BrickId) (hs : s.memWf) :
    (s.endUnstarted b).memWf := by
  simp only [State.endUnstarted]
  repeat' first | with_reducible assumption | (rename_i e; obtain rfl := snd_eq e; clear e) | split | with_reducible refine foldl_mem ?_ ?_ | with_reducible refine foldl_mem2 ?_ ?_ | with_reducible intro u a hu | (simp (maxDischargeDepth := 30) [hs]; done) | (simp (maxDischargeDepth := 30) [hs, ih]; done) | (simp (maxDischargeDepth := 30) [hs, hu]; done) | (simp (maxDischargeDepth := 30) [hs, hf]; done)

/-! HaltImage -/
@[simp] theorem State.readHalt_mem (s : State) (g : RegionId) (x : Slot) (hs : s.memWf) :
    (s.readHalt g x).2.memWf := by
  simp only [State.readHalt]
  repeat' first | with_reducible assumption | (rename_i e; obtain rfl := snd_eq e; clear e) | split | with_reducible refine foldl_mem ?_ ?_ | with_reducible refine foldl_mem2 ?_ ?_ | with_reducible intro u a hu | (simp (maxDischargeDepth := 30) [hs]; done) | (simp (maxDischargeDepth := 30) [hs, ih]; done) | (simp (maxDischargeDepth := 30) [hs, hu]; done) | (simp (maxDischargeDepth := 30) [hs, hf]; done)

/-! Regions -/
@[simp] theorem State.checkResumed_mem (s : State) (r : RegionId) (x : Slot) (p : HaltParts) (q : PortParts) (frames : List Frame) (plan : Plan) (owners : Option (List (Nat × Nat × BrickId))) (hs : s.memWf) :
    (s.checkResumed r x p q frames plan owners).2.memWf := by
  simp only [State.checkResumed]
  repeat' first | with_reducible assumption | (rename_i e; obtain rfl := snd_eq e; clear e) | split | with_reducible refine foldl_mem ?_ ?_ | with_reducible refine foldl_mem2 ?_ ?_ | with_reducible intro u a hu | (simp (maxDischargeDepth := 30) [hs]; done) | (simp (maxDischargeDepth := 30) [hs, ih]; done) | (simp (maxDischargeDepth := 30) [hs, hu]; done) | (simp (maxDischargeDepth := 30) [hs, hf]; done)

@[simp] theorem State.checkResume_mem (s : State) (r : RegionId) (hs : s.memWf) :
    (s.checkResume r).2.memWf := by
  simp only [State.checkResume]
  repeat' first | with_reducible assumption | (rename_i e; obtain rfl := snd_eq e; clear e) | split | with_reducible refine foldl_mem ?_ ?_ | with_reducible refine foldl_mem2 ?_ ?_ | with_reducible intro u a hu | (simp (maxDischargeDepth := 30) [hs]; done) | (simp (maxDischargeDepth := 30) [hs, ih]; done) | (simp (maxDischargeDepth := 30) [hs, hu]; done) | (simp (maxDischargeDepth := 30) [hs, hf]; done)
@[simp] theorem State.check_mem (s : State) (r : RegionId) (hs : s.memWf) :
    (s.check r).2.memWf := by
  simp only [State.check]
  repeat' first | with_reducible assumption | (rename_i e; obtain rfl := snd_eq e; clear e) | split | with_reducible refine foldl_mem ?_ ?_ | with_reducible refine foldl_mem2 ?_ ?_ | with_reducible intro u a hu | (simp (maxDischargeDepth := 30) [hs]; done) | (simp (maxDischargeDepth := 30) [hs, ih]; done) | (simp (maxDischargeDepth := 30) [hs, hu]; done) | (simp (maxDischargeDepth := 30) [hs, hf]; done)

/-- The bricks of what dispatch accepts have canonical banks. -/
def Accepted.wf (a : Accepted) : Prop := ∀ p ∈ a.bricks, Memory.wf p.2.bank = true
theorem State.acceptLoad_wf {s : State} (hs : s.memWf) (r : RegionId) (x : Slot) (img : LoadImage) (l : List (BrickId × BrickPart)) (p : Plan)
    (o : List (Nat × Nat × BrickId)) (w : List (Nat × List Byte)) : (s.acceptLoad r x img l p o w).wf := by
  intro q hq
  obtain ⟨a, _, rfl⟩ := List.mem_map.1 hq
  exact Brick.load_wf (State.brick_wf hs _) _ _ _ _ _
theorem State.acceptHalt_wf (s : State) (r : RegionId) (x : Slot) (p : HaltParts) (q : PortParts) (frames : List Frame) (plan : Plan)
    (o : List (Nat × Nat × BrickId)) (hq : ∀ y ∈ q.bricks, Memory.wf y.1.2.bank = true) : (s.acceptHalt r x p q frames plan o).wf := by
  intro e he
  obtain ⟨a, ha, rfl⟩ := List.mem_map.1 he
  exact hq a ha
theorem State.concludeChecks_ok {s u : State} {r : RegionId} {x : Slot} {p : Plan} {a b : Accepted} (h : s.concludeChecks r x p a = (.ok b, u)) : b = a := by
  unfold State.concludeChecks at h
  split at h
  · cases h; rfl
  · cases h
theorem State.checkMaps_ok {s u : State} {r : RegionId} {x : Slot} {img : LoadImage} {l : List (BrickId × BrickPart)} {p : Plan} {o : Option (List (Nat × Nat × BrickId))}
    {a : Accepted} (hs : s.memWf) (h : s.checkMaps r x img l p o = (.ok a, u)) : a.wf := by
  unfold State.checkMaps at h
  split at h
  · cases h
  · split at h
    · cases h
    · split at h
      · cases h
      · rename_i e
        rw [State.concludeChecks_ok h]
        exact State.acceptLoad_wf (snd_mem e (State.readParams_mem _ _ _ _ hs)) _ _ _ _ _ _ _
theorem State.checkResumed_ok {s u : State} {r : RegionId} {x : Slot} {p : HaltParts} {q : PortParts} {frames : List Frame} {plan : Plan}
    {o : Option (List (Nat × Nat × BrickId))} {a : Accepted} (hq : ∀ y ∈ q.bricks, Memory.wf y.1.2.bank = true) (h : s.checkResumed r x p q frames plan o = (.ok a, u)) : a.wf := by
  unfold State.checkResumed at h
  split at h
  · cases h
  · split at h
    · cases h
    · rw [State.concludeChecks_ok h]
      exact State.acceptHalt_wf _ _ _ _ _ _ _ _ hq
theorem State.checkStart_ok {s u : State} {r : RegionId} {a : Accepted} (hs : s.memWf) (h : s.checkStart r = (.ok a, u)) : a.wf := by
  unfold State.checkStart at h
  extract_lets x at h
  split at h
  · cases h
  · split at h
    · cases h
    · split at h
      · cases h
      · rename_i e
        have h1 := snd_mem e (State.readLoad_mem _ _ _ _ hs)
        split at h
        · cases h
        · split at h
          · cases h
          · split at h
            · cases h
            · split at h
              rename_i e2
              exact State.checkMaps_ok (snd_mem e2 (State.ownerMap_mem _ _ _ h1)) h
theorem State.checkResume_ok {s u : State} {r : RegionId} {a : Accepted} (h : s.checkResume r = (.ok a, u)) : a.wf := by
  unfold State.checkResume at h
  extract_lets x at h
  split at h
  · cases h
  · extract_lets bricks at h
    split at h
    · rename_i e2 _
      have hq := decPorts_bank (withStreams_bank fun e he => by obtain ⟨c, _, rfl⟩ := List.mem_map.1 he; exact readBrick_wf ..) e2
      split at h
      · cases h
      · split at h
        · cases h
        · split at h
          exact State.checkResumed_ok hq h
    · cases h
theorem State.check_ok {s u : State} {r : RegionId} {a : Accepted} (hs : s.memWf) (h : s.check r = (.ok a, u)) : a.wf := by
  unfold State.check at h
  extract_lets x at h
  split at h
  · cases h
  · split at h
    · cases h
    · split at h
      · cases h
      · rename_i e
        have h1 := snd_mem e (State.classRead_mem _ _ _ _ hs)
        split at h
        · exact State.checkResume_ok h
        · exact State.checkStart_ok h1 h
@[simp] theorem State.admitRegion_mem (s : State) (r : RegionId) (hs : s.memWf) : (s.admitRegion r).memWf := by
  have h1 := State.check_mem s r hs
  unfold State.admitRegion
  split
  · rename_i e; exact State.reject_mem _ _ _ (snd_mem e h1)
  · rename_i e
    dsimp only
    split
    · exact State.modSlot_mem _ _ _ (snd_mem e h1)
    · exact State.loadStart_mem _ _ _ (snd_mem e h1) (State.check_ok hs e)
@[simp] theorem State.dropReconfigs_mem (s : State) (r : RegionId) (n : Nat) (hs : s.memWf) :
    (s.dropReconfigs r n).memWf := by
  simp only [State.dropReconfigs]
  repeat' first | with_reducible assumption | (rename_i e; obtain rfl := snd_eq e; clear e) | split | with_reducible refine foldl_mem ?_ ?_ | with_reducible refine foldl_mem2 ?_ ?_ | with_reducible intro u a hu | (simp (maxDischargeDepth := 30) [hs]; done) | (simp (maxDischargeDepth := 30) [hs, ih]; done) | (simp (maxDischargeDepth := 30) [hs, hu]; done) | (simp (maxDischargeDepth := 30) [hs, hf]; done)
@[simp] theorem State.dropChunks_mem (s : State) (r : RegionId) (hs : s.memWf) : (s.dropChunks r).memWf :=
  ⟨hs.1, hs.2.1, map_all hs.2.2 fun _ he => he⟩
@[simp] theorem State.drainBricks_mem (s : State) (r : RegionId) (hs : s.memWf) :
    (s.drainBricks r).memWf := by
  simp only [State.drainBricks]
  repeat' first | with_reducible assumption | (rename_i e; obtain rfl := snd_eq e; clear e) | split | with_reducible refine foldl_mem ?_ ?_ | with_reducible refine foldl_mem2 ?_ ?_ | with_reducible intro u a hu | (simp (maxDischargeDepth := 30) [hs]; done) | (simp (maxDischargeDepth := 30) [hs, ih]; done) | (simp (maxDischargeDepth := 30) [hs, hu]; done) | (simp (maxDischargeDepth := 30) [hs, hf]; done)
@[simp] theorem State.stopEngines_mem (s : State) (r : RegionId) (hs : s.memWf) :
    (s.stopEngines r).memWf := by
  simp only [State.stopEngines]
  repeat' first | with_reducible assumption | (rename_i e; obtain rfl := snd_eq e; clear e) | split | with_reducible refine foldl_mem ?_ ?_ | with_reducible refine foldl_mem2 ?_ ?_ | with_reducible intro u a hu | (simp (maxDischargeDepth := 30) [hs]; done) | (simp (maxDischargeDepth := 30) [hs, ih]; done) | (simp (maxDischargeDepth := 30) [hs, hu]; done) | (simp (maxDischargeDepth := 30) [hs, hf]; done)
@[simp] theorem State.storeCompletion_mem (s : State) (r : RegionId) (hs : s.memWf) :
    (s.storeCompletion r).memWf := by
  simp only [State.storeCompletion]
  repeat' first | with_reducible assumption | (rename_i e; obtain rfl := snd_eq e; clear e) | split | with_reducible refine foldl_mem ?_ ?_ | with_reducible refine foldl_mem2 ?_ ?_ | with_reducible intro u a hu | (simp (maxDischargeDepth := 30) [hs]; done) | (simp (maxDischargeDepth := 30) [hs, ih]; done) | (simp (maxDischargeDepth := 30) [hs, hu]; done) | (simp (maxDischargeDepth := 30) [hs, hf]; done)
@[simp] theorem State.closeRegion_mem (s : State) (r : RegionId) (hs : s.memWf) : (s.closeRegion r).memWf := by
  unfold State.closeRegion
  extract_lets x s1 s2 s3 s4
  have h1 : s1.memWf := foldl_mem hs fun _ _ hu => hu
  have h2 : s2.memWf := State.refund_mem _ _ _ _ (foldl_mem h1 fun _ _ hu => hu)
  exact h2
@[simp] theorem State.settleSlot_mem (s : State) (r : RegionId) (hs : s.memWf) :
    (s.settleSlot r).memWf := by
  simp only [State.settleSlot]
  repeat' first | with_reducible assumption | (rename_i e; obtain rfl := snd_eq e; clear e) | split | with_reducible refine foldl_mem ?_ ?_ | with_reducible refine foldl_mem2 ?_ ?_ | with_reducible intro u a hu | (simp (maxDischargeDepth := 30) [hs]; done) | (simp (maxDischargeDepth := 30) [hs, ih]; done) | (simp (maxDischargeDepth := 30) [hs, hu]; done) | (simp (maxDischargeDepth := 30) [hs, hf]; done)
@[simp] theorem State.idleRecords_mem (s : State) (r : RegionId) (hs : s.memWf) :
    (s.idleRecords r).memWf := by
  simp only [State.idleRecords]
  repeat' first | with_reducible assumption | (rename_i e; obtain rfl := snd_eq e; clear e) | split | with_reducible refine foldl_mem ?_ ?_ | with_reducible refine foldl_mem2 ?_ ?_ | with_reducible intro u a hu | (simp (maxDischargeDepth := 30) [hs]; done) | (simp (maxDischargeDepth := 30) [hs, ih]; done) | (simp (maxDischargeDepth := 30) [hs, hu]; done) | (simp (maxDischargeDepth := 30) [hs, hf]; done)
@[simp] theorem State.stopLive_mem (s : State) (b : BrickId) (hs : s.memWf) :
    (s.stopLive b).memWf := by
  simp only [State.stopLive]
  repeat' first | with_reducible assumption | (rename_i e; obtain rfl := snd_eq e; clear e) | split | with_reducible refine foldl_mem ?_ ?_ | with_reducible refine foldl_mem2 ?_ ?_ | with_reducible intro u a hu | (simp (maxDischargeDepth := 30) [hs]; done) | (simp (maxDischargeDepth := 30) [hs, ih]; done) | (simp (maxDischargeDepth := 30) [hs, hu]; done) | (simp (maxDischargeDepth := 30) [hs, hf]; done)

/-! Waves -/
@[simp] theorem State.startWave_mem (s : State) (r : RegionId) (v a : Nat) (e : Bool) (hs : s.memWf) :
    (s.startWave r v a e).memWf := by
  simp only [State.startWave]
  repeat' first | with_reducible assumption | (rename_i e; obtain rfl := snd_eq e; clear e) | split | with_reducible refine foldl_mem ?_ ?_ | with_reducible refine foldl_mem2 ?_ ?_ | with_reducible intro u a hu | (simp (maxDischargeDepth := 30) [hs]; done) | (simp (maxDischargeDepth := 30) [hs, ih]; done) | (simp (maxDischargeDepth := 30) [hs, hu]; done) | (simp (maxDischargeDepth := 30) [hs, hf]; done)
@[simp] theorem State.writeImage_mem (q : Access) (l : List (Nat × List Byte)) (s : State) (hs : s.memWf) : (s.writeImage q l).2.memWf := by
  induction l generalizing s with
  | nil => exact hs
  | cons p l ih =>
    obtain ⟨va, v⟩ := p
    simp only [State.writeImage]
    repeat' first | with_reducible assumption | (rename_i e; obtain rfl := snd_eq e; clear e) | split | with_reducible refine foldl_mem ?_ ?_ | with_reducible refine foldl_mem2 ?_ ?_ | with_reducible intro u a hu | (simp (maxDischargeDepth := 30) [hs]; done) | (simp (maxDischargeDepth := 30) [hs, ih]; done) | (simp (maxDischargeDepth := 30) [hs, hu]; done) | (simp (maxDischargeDepth := 30) [hs, hf]; done)

@[simp] theorem endCapture_mem (r : RegionId) (p : Except (Fail × Nat) Unit × State) (hs : p.2.memWf) : (endCapture r p).memWf := by
  obtain ⟨_ | _, u⟩ := p
  · exact State.raiseFault_mem _ _ _ hs
  · exact State.storeCompletion_mem _ _ hs

@[simp] theorem State.capture_mem (s : State) (r : RegionId) (w : Wave) (hs : s.memWf) :
    (s.capture r w).memWf := by
  simp only [State.capture]
  repeat' first | with_reducible assumption | (rename_i e; obtain rfl := snd_eq e; clear e) | split | with_reducible refine foldl_mem ?_ ?_ | with_reducible refine foldl_mem2 ?_ ?_ | with_reducible intro u a hu | (simp (maxDischargeDepth := 30) [hs]; done) | (simp (maxDischargeDepth := 30) [hs, ih]; done) | (simp (maxDischargeDepth := 30) [hs, hu]; done) | (simp (maxDischargeDepth := 30) [hs, hf]; done)

/-! Faults -/
@[simp] theorem State.noteCrossing_mem (s : State) (die : Nat) (r : RegionId) (hs : s.memWf) :
    (s.noteCrossing die r).memWf := by
  simp only [State.noteCrossing]
  repeat' first | with_reducible assumption | (rename_i e; obtain rfl := snd_eq e; clear e) | split | with_reducible refine foldl_mem ?_ ?_ | with_reducible refine foldl_mem2 ?_ ?_ | with_reducible intro u a hu | (simp (maxDischargeDepth := 30) [hs]; done) | (simp (maxDischargeDepth := 30) [hs, ih]; done) | (simp (maxDischargeDepth := 30) [hs, hu]; done) | (simp (maxDischargeDepth := 30) [hs, hf]; done)
@[simp] theorem State.linkDown_mem (s : State) (u : UnitRef) (hs : s.memWf) :
    (s.linkDown u).memWf := by
  simp only [State.linkDown]
  repeat' first | with_reducible assumption | (rename_i e; obtain rfl := snd_eq e; clear e) | split | with_reducible refine foldl_mem ?_ ?_ | with_reducible refine foldl_mem2 ?_ ?_ | with_reducible intro u a hu | (simp (maxDischargeDepth := 30) [hs]; done) | (simp (maxDischargeDepth := 30) [hs, ih]; done) | (simp (maxDischargeDepth := 30) [hs, hu]; done) | (simp (maxDischargeDepth := 30) [hs, hf]; done)
@[simp] theorem State.weigh_mem (s : State) (u : UnitRef) (w a : Nat) (hs : s.memWf) :
    (s.weigh u w a).memWf := by
  simp only [State.weigh]
  repeat' first | with_reducible assumption | (rename_i e; obtain rfl := snd_eq e; clear e) | split | with_reducible refine foldl_mem ?_ ?_ | with_reducible refine foldl_mem2 ?_ ?_ | with_reducible intro u a hu | (simp (maxDischargeDepth := 30) [hs]; done) | (simp (maxDischargeDepth := 30) [hs, ih]; done) | (simp (maxDischargeDepth := 30) [hs, hu]; done) | (simp (maxDischargeDepth := 30) [hs, hf]; done)
@[simp] theorem State.modPowered_mem (s : State) (b : BrickId) (f : Brick → Brick) (hs : s.memWf) (hf : ∀ x, Memory.wf x.bank = true → Memory.wf (f x).bank = true) :
    (s.modPowered b f).memWf := by
  unfold State.modPowered
  split
  · exact State.modBrick_mem hs (hf _ (State.brick_wf hs b))
  · exact hs
@[simp] theorem State.markWord_mem (s : State) (u : UnitRef) (a : Nat) (hs : s.memWf) : (s.markWord u a).memWf := by
  unfold State.markWord
  split
  · exact State.modPowered_mem _ _ _ hs fun x hx => by split <;> exact hx
  · exact hs
  · split <;> exact hs
  · exact hs
  · exact hs

/-! HostSide -/
@[simp] theorem State.modHost_mem (s : State) (f : HostLink → HostLink) (hs : s.memWf) (hf : Memory.wf (f s.host).memory = true) : (s.modHost f).memWf :=
  ⟨hs.1, hf, hs.2.2⟩
@[simp] theorem State.endCommand_mem (s : State) (c : Command) (a b : Nat) (hs : s.memWf) : (s.endCommand c a b).memWf := hs
@[simp] theorem State.drawKey_mem (s : State) (hs : s.memWf) :
    s.drawKey.2.memWf := by
  simp only [State.drawKey]
  repeat' first | with_reducible assumption | (rename_i e; obtain rfl := snd_eq e; clear e) | split | with_reducible refine foldl_mem ?_ ?_ | with_reducible refine foldl_mem2 ?_ ?_ | with_reducible intro u a hu | (simp (maxDischargeDepth := 30) [hs]; done) | (simp (maxDischargeDepth := 30) [hs, ih]; done) | (simp (maxDischargeDepth := 30) [hs, hu]; done) | (simp (maxDischargeDepth := 30) [hs, hf]; done)
@[simp] theorem State.linkKeys_mem (s : State) (t c : Nat) (hs : s.memWf) :
    (s.linkKeys t c).memWf := by
  simp only [State.linkKeys]
  repeat' first | with_reducible assumption | (rename_i e; obtain rfl := snd_eq e; clear e) | split | with_reducible refine foldl_mem ?_ ?_ | with_reducible refine foldl_mem2 ?_ ?_ | with_reducible intro u a hu | (simp (maxDischargeDepth := 30) [hs]; done) | (simp (maxDischargeDepth := 30) [hs, ih]; done) | (simp (maxDischargeDepth := 30) [hs, hu]; done) | (simp (maxDischargeDepth := 30) [hs, hf]; done)
@[simp] theorem State.setTenancy_mem (s : State) (t a b c : Nat) (hs : s.memWf) :
    (s.setTenancy t a b c).memWf := by
  simp only [State.setTenancy]
  repeat' first | with_reducible assumption | (rename_i e; obtain rfl := snd_eq e; clear e) | split | with_reducible refine foldl_mem ?_ ?_ | with_reducible refine foldl_mem2 ?_ ?_ | with_reducible intro u a hu | (simp (maxDischargeDepth := 30) [hs]; done) | (simp (maxDischargeDepth := 30) [hs, ih]; done) | (simp (maxDischargeDepth := 30) [hs, hu]; done) | (simp (maxDischargeDepth := 30) [hs, hf]; done)
@[simp] theorem State.emptySlot_mem (s : State) (k : Nat) (hs : s.memWf) : (s.emptySlot k).memWf := by
  unfold State.emptySlot
  refine foldl_mem (s := _) ⟨hs.1, hs.2.1, map_all hs.2.2 fun _ he => he⟩ fun u a hu => ?_
  split
  · exact State.modSlot_mem _ _ _ (State.refund_mem _ _ _ _ hu)
  · exact hu
@[simp] theorem State.clearTenancy_mem (s : State) (t : Nat) (hs : s.memWf) : (s.clearTenancy t).memWf := by
  unfold State.clearTenancy
  refine State.modTenancy_mem _ _ _ (foldl_mem (foldl_mem ?_ fun u a hu => ?_) fun u a hu => ?_)
  · exact ⟨hs.1, hs.2.1, map_all hs.2.2 fun e he => by split; exacts [rfl, he]⟩
  · split <;> exact hu
  · split
    · exact State.emptySlot_mem _ _ hu
    · exact hu
@[simp] theorem State.spdmAnswer_mem (s : State) (l : List Byte) (hs : s.memWf) :
    (s.spdmAnswer l).memWf := by
  simp only [State.spdmAnswer]
  repeat' first | with_reducible assumption | (rename_i e; obtain rfl := snd_eq e; clear e) | split | with_reducible refine foldl_mem ?_ ?_ | with_reducible refine foldl_mem2 ?_ ?_ | with_reducible intro u a hu | (simp (maxDischargeDepth := 30) [hs]; done) | (simp (maxDischargeDepth := 30) [hs, ih]; done) | (simp (maxDischargeDepth := 30) [hs, hu]; done) | (simp (maxDischargeDepth := 30) [hs, hf]; done)
@[simp] theorem State.signed_mem (s : State) (d : Nat) (hs : s.memWf) :
    (s.signed d).2.memWf := by
  simp only [State.signed]
  repeat' first | with_reducible assumption | (rename_i e; obtain rfl := snd_eq e; clear e) | split | with_reducible refine foldl_mem ?_ ?_ | with_reducible refine foldl_mem2 ?_ ?_ | with_reducible intro u a hu | (simp (maxDischargeDepth := 30) [hs]; done) | (simp (maxDischargeDepth := 30) [hs, ih]; done) | (simp (maxDischargeDepth := 30) [hs, hu]; done) | (simp (maxDischargeDepth := 30) [hs, hf]; done)
@[simp] theorem State.checkpointBytes_mem (s : State) (u : Nat) (hs : s.memWf) :
    (s.checkpointBytes u).2.memWf := by
  simp only [State.checkpointBytes]
  repeat' first | with_reducible assumption | (rename_i e; obtain rfl := snd_eq e; clear e) | split | with_reducible refine foldl_mem ?_ ?_ | with_reducible refine foldl_mem2 ?_ ?_ | with_reducible intro u a hu | (simp (maxDischargeDepth := 30) [hs]; done) | (simp (maxDischargeDepth := 30) [hs, ih]; done) | (simp (maxDischargeDepth := 30) [hs, hu]; done) | (simp (maxDischargeDepth := 30) [hs, hf]; done)
@[simp] theorem State.flushLoft_mem (s : State) (hs : s.memWf) :
    s.flushLoft.memWf := by
  simp only [State.flushLoft]
  repeat' first | with_reducible assumption | (rename_i e; obtain rfl := snd_eq e; clear e) | split | with_reducible refine foldl_mem ?_ ?_ | with_reducible refine foldl_mem2 ?_ ?_ | with_reducible intro u a hu | (simp (maxDischargeDepth := 30) [hs]; done) | (simp (maxDischargeDepth := 30) [hs, ih]; done) | (simp (maxDischargeDepth := 30) [hs, hu]; done) | (simp (maxDischargeDepth := 30) [hs, hf]; done)
@[simp] theorem State.writeSram_mem (s : State) (d : Nat) (l : List Byte) (hs : s.memWf) :
    (s.writeSram d l).memWf := by
  simp only [State.writeSram]
  repeat' first | with_reducible assumption | (rename_i e; obtain rfl := snd_eq e; clear e) | split | with_reducible refine foldl_mem ?_ ?_ | with_reducible refine foldl_mem2 ?_ ?_ | with_reducible intro u a hu | (simp (maxDischargeDepth := 30) [hs]; done) | (simp (maxDischargeDepth := 30) [hs, ih]; done) | (simp (maxDischargeDepth := 30) [hs, hu]; done) | (simp (maxDischargeDepth := 30) [hs, hf]; done)
@[simp] theorem State.writeSegment_mem (s : State) (g : Nat × Nat × Nat × List Byte × Bool) (hs : s.memWf) : (s.writeSegment g).memWf := by
  unfold State.writeSegment
  split
  split
  · refine ⟨?_, hs.2.1, hs.2.2⟩
    exact foldl_wf hs.1 fun m p hm => cellsSet_wf _ _ hm
  · exact State.modBrick_mem hs (cellsWrite_wf _ _ (State.brick_wf hs _))
  · exact State.writeSram_mem _ _ _ hs
  · exact hs
@[simp] theorem State.wipeSegment_mem (s : State) (g : Nat × Nat × Nat × List Byte × Bool) (hs : s.memWf) : (s.wipeSegment g).memWf := by
  unfold State.wipeSegment
  split
  · exact State.modBrick_mem hs rfl
  · exact hs
  · exact hs
@[simp] theorem State.reholdBrick_mem (s : State) (g : Nat × Nat × Nat × List Byte × Bool) (l : List Byte) (hs : s.memWf) :
    (s.reholdBrick g l).memWf := by
  simp only [State.reholdBrick]
  repeat' first | with_reducible assumption | (rename_i e; obtain rfl := snd_eq e; clear e) | split | with_reducible refine foldl_mem ?_ ?_ | with_reducible refine foldl_mem2 ?_ ?_ | with_reducible intro u a hu | (simp (maxDischargeDepth := 30) [hs]; done) | (simp (maxDischargeDepth := 30) [hs, ih]; done) | (simp (maxDischargeDepth := 30) [hs, hu]; done) | (simp (maxDischargeDepth := 30) [hs, hf]; done)
@[simp] theorem State.restoreTenancies_mem (m : Nat) (l : List Byte) (s : State) (hs : s.memWf) : (s.restoreTenancies m l).1.memWf := by
  induction m generalizing s l with
  | zero => exact hs
  | succ n ih =>
    simp only [State.restoreTenancies]
    repeat' first | with_reducible assumption | (rename_i e; obtain rfl := snd_eq e; clear e) | split | with_reducible refine foldl_mem ?_ ?_ | with_reducible refine foldl_mem2 ?_ ?_ | with_reducible intro u a hu | (simp (maxDischargeDepth := 30) [hs]; done) | (simp (maxDischargeDepth := 30) [hs, ih]; done) | (simp (maxDischargeDepth := 30) [hs, hu]; done) | (simp (maxDischargeDepth := 30) [hs, hf]; done)

@[simp] theorem State.restoreKeys_mem (m : Nat) (l : List Byte) (s : State) (hs : s.memWf) : (s.restoreKeys m l).memWf := by
  induction m generalizing s l with
  | zero => exact hs
  | succ n ih =>
    simp only [State.restoreKeys]
    repeat' first | with_reducible assumption | (rename_i e; obtain rfl := snd_eq e; clear e) | split | with_reducible refine foldl_mem ?_ ?_ | with_reducible refine foldl_mem2 ?_ ?_ | with_reducible intro u a hu | (simp (maxDischargeDepth := 30) [hs]; done) | (simp (maxDischargeDepth := 30) [hs, ih]; done) | (simp (maxDischargeDepth := 30) [hs, hu]; done) | (simp (maxDischargeDepth := 30) [hs, hf]; done)

@[simp] theorem State.unsealKeys_mem (s : State) (l : List Byte) (hs : s.memWf) :
    (s.unsealKeys l).memWf := by
  simp only [State.unsealKeys]
  repeat' first | with_reducible assumption | (rename_i e; obtain rfl := snd_eq e; clear e) | split | with_reducible refine foldl_mem ?_ ?_ | with_reducible refine foldl_mem2 ?_ ?_ | with_reducible intro u a hu | (simp (maxDischargeDepth := 30) [hs]; done) | (simp (maxDischargeDepth := 30) [hs, ih]; done) | (simp (maxDischargeDepth := 30) [hs, hu]; done) | (simp (maxDischargeDepth := 30) [hs, hf]; done)
@[simp] theorem State.hstWrite_mem (t : Nat) (i : Bool) (vs : List Byte) (a : Nat) (l : List (Nat × Nat)) (s : State) (hs : s.memWf) : (s.hstWrite t i vs a l).memWf := by
  induction l generalizing s with
  | nil => exact hs
  | cons p l ih =>
    obtain ⟨va, n⟩ := p
    rw [State.hstWrite]
    split
    · rename_i e; exact snd_mem e (State.translate_mem _ _ _ _ hs)
    · rename_i e
      have h0 := snd_mem e (State.translate_mem _ _ _ _ hs)
      extract_lets _ _ _ _ _ t1 _ _ t2
      split
      have h1 : t1.memWf := by
        show (if _ then _ else _ : State).memWf
        split
        · exact State.settleLine_mem _ _ _ h0
        · exact foldl_mem (State.settleLine_mem _ _ _ h0) fun u a hu => State.fetchLine_mem _ _ _ _ _ _ hu
      exact ih _ (State.setLine_mem _ _ _ (State.putLine_mem t1 _ _ h1))
@[simp] theorem State.hstRead_mem (t : Nat) (i : Bool) (l : List (Nat × Nat)) (s : State) (hs : s.memWf) : (s.hstRead t i l).2.memWf := by
  induction l generalizing s with
  | nil => exact hs
  | cons p l ih =>
    obtain ⟨va, n⟩ := p
    simp only [State.hstRead]
    repeat' first | with_reducible assumption | (rename_i e; obtain rfl := snd_eq e; clear e) | split | with_reducible refine foldl_mem ?_ ?_ | with_reducible refine foldl_mem2 ?_ ?_ | with_reducible intro u a hu | (simp (maxDischargeDepth := 30) [hs]; done) | (simp (maxDischargeDepth := 30) [hs, ih]; done) | (simp (maxDischargeDepth := 30) [hs, hu]; done) | (simp (maxDischargeDepth := 30) [hs, hf]; done)

end Sys2Proof.Machine
end

