-- ==== Sys2Proof/Laws/MemKeeps.lean ====
section
/-! SUPPORT. Every meaning answers a next state, and keeps the canonical form of the memories. -/

namespace Sys2Proof.Machine

open Sys2Proof

/-- The outcome is a next state whose memories are in canonical form. -/
def MemNext (o : Outcome) : Prop := ∃ t, o = .next t ∧ t.memWf

theorem mem_next {s : State} (h : s.memWf) : MemNext (.next s) := ⟨s, rfl, h⟩
theorem mem_refl {s : State} (h : s.memWf) : MemNext (.next s) := ⟨s, rfl, h⟩
theorem mem_when {s t : State} {c : Bool} (hs : s.memWf) (ht : t.memWf) : MemNext (stepWhen c s t) := by
  cases c
  · exact ⟨s, rfl, hs⟩
  · exact ⟨t, rfl, ht⟩
theorem mem_ite {c : Prop} [Decidable c] {a b : Outcome} (ha : MemNext a) (hb : MemNext b) : MemNext (if c then a else b) := by
  split <;> assumption

theorem memWf_ite {c : Prop} [Decidable c] {a b : State} (ha : a.memWf) (hb : b.memWf) : (if c then a else b).memWf := by
  split <;> assumption

/-- A host command in its turn. -/
theorem runCommand_mem {s : State} {opc len : Nat} {f : Command → Outcome} (hs : s.memWf) (h : ∀ c, MemNext (f c)) : MemNext (runCommand s opc len f) := by
  unfold runCommand
  split
  · exact mem_refl hs
  · exact mem_ite (mem_refl hs) (mem_ite (mem_next (State.endCommand_mem _ _ _ _ hs)) (h _))

/-- A rule fires or leaves the state as it is; a firing writes no memory. -/
theorem fireRule_mem {i : Instr} {beat : Beat} {s : State} (hs : s.memWf) : MemNext (fireRule i beat s) := by
  unfold fireRule
  extract_lets
  split
  · exact mem_refl hs
  · exact mem_ite (mem_next (State.setBrick_mem hs (by unfold takeFiring; split <;> simp [hs]))) (mem_refl hs)

/-- An access waits for its page's walk, or goes on. -/
theorem paged_mem {s : State} {l : List (Access × Nat × Nat)} {o : Outcome} (hs : s.memWf) (h : MemNext o) : MemNext (s.paged l o) := by
  unfold State.paged
  split
  · exact h
  · exact mem_when hs hs

/-- A slate-map access in its turn, or the flush that lets it have its turn. -/
theorem mapTurn_mem {s t : State} {m : MapOp} {k : State → State} (hs : s.memWf) (hk : ∀ u, u.memWf → (k u).memWf) (ht : t.memWf) :
    MemNext (s.mapTurn m k t) := by
  unfold State.mapTurn
  split
  · exact mem_next (hk t ht)
  · exact mem_ite (mem_refl hs) (mem_ite (paged_mem hs (mem_next (hk t ht))) (mem_next (by simp [hs])))

theorem execAdd_mem (h : Head) (x : TBody) (s : State) (hs : s.memWf) : MemNext (execAdd h x s) := fireRule_mem hs
theorem execSub_mem (h : Head) (x : TBody) (s : State) (hs : s.memWf) : MemNext (execSub h x s) := fireRule_mem hs
theorem execAdc_mem (h : Head) (x : TBody) (s : State) (hs : s.memWf) : MemNext (execAdc h x s) := fireRule_mem hs
theorem execSbb_mem (h : Head) (x : TBody) (s : State) (hs : s.memWf) : MemNext (execSbb h x s) := fireRule_mem hs
theorem execAddi_mem (h : Head) (x : IBody) (s : State) (hs : s.memWf) : MemNext (execAddi h x s) := fireRule_mem hs
theorem execMul_mem (h : Head) (x : TBody) (s : State) (hs : s.memWf) : MemNext (execMul h x s) := fireRule_mem hs
theorem execMulh_mem (h : Head) (x : TBody) (s : State) (hs : s.memWf) : MemNext (execMulh h x s) := fireRule_mem hs
theorem execMulhu_mem (h : Head) (x : TBody) (s : State) (hs : s.memWf) : MemNext (execMulhu h x s) := fireRule_mem hs
theorem execMad_mem (h : Head) (x : TBody) (s : State) (hs : s.memWf) : MemNext (execMad h x s) := fireRule_mem hs
theorem execDivu_mem (h : Head) (x : TBody) (s : State) (hs : s.memWf) : MemNext (execDivu h x s) := fireRule_mem hs
theorem execRemu_mem (h : Head) (x : TBody) (s : State) (hs : s.memWf) : MemNext (execRemu h x s) := fireRule_mem hs
theorem execDivs_mem (h : Head) (x : TBody) (s : State) (hs : s.memWf) : MemNext (execDivs h x s) := fireRule_mem hs
theorem execRems_mem (h : Head) (x : TBody) (s : State) (hs : s.memWf) : MemNext (execRems h x s) := fireRule_mem hs
theorem execAdds_mem (h : Head) (x : TBody) (s : State) (hs : s.memWf) : MemNext (execAdds h x s) := fireRule_mem hs
theorem execAddsu_mem (h : Head) (x : TBody) (s : State) (hs : s.memWf) : MemNext (execAddsu h x s) := fireRule_mem hs
theorem execSubs_mem (h : Head) (x : TBody) (s : State) (hs : s.memWf) : MemNext (execSubs h x s) := fireRule_mem hs
theorem execSubsu_mem (h : Head) (x : TBody) (s : State) (hs : s.memWf) : MemNext (execSubsu h x s) := fireRule_mem hs
theorem execMin_mem (h : Head) (x : TBody) (s : State) (hs : s.memWf) : MemNext (execMin h x s) := fireRule_mem hs
theorem execMax_mem (h : Head) (x : TBody) (s : State) (hs : s.memWf) : MemNext (execMax h x s) := fireRule_mem hs
theorem execMinu_mem (h : Head) (x : TBody) (s : State) (hs : s.memWf) : MemNext (execMinu h x s) := fireRule_mem hs
theorem execMaxu_mem (h : Head) (x : TBody) (s : State) (hs : s.memWf) : MemNext (execMaxu h x s) := fireRule_mem hs
theorem execAbs_mem (h : Head) (x : UBody) (s : State) (hs : s.memWf) : MemNext (execAbs h x s) := fireRule_mem hs
theorem execNeg_mem (h : Head) (x : UBody) (s : State) (hs : s.memWf) : MemNext (execNeg h x s) := fireRule_mem hs
theorem execAnd_mem (h : Head) (x : TBody) (s : State) (hs : s.memWf) : MemNext (execAnd h x s) := fireRule_mem hs
theorem execOr_mem (h : Head) (x : TBody) (s : State) (hs : s.memWf) : MemNext (execOr h x s) := fireRule_mem hs
theorem execXor_mem (h : Head) (x : TBody) (s : State) (hs : s.memWf) : MemNext (execXor h x s) := fireRule_mem hs
theorem execAndn_mem (h : Head) (x : TBody) (s : State) (hs : s.memWf) : MemNext (execAndn h x s) := fireRule_mem hs
theorem execOrn_mem (h : Head) (x : TBody) (s : State) (hs : s.memWf) : MemNext (execOrn h x s) := fireRule_mem hs
theorem execXnor_mem (h : Head) (x : TBody) (s : State) (hs : s.memWf) : MemNext (execXnor h x s) := fireRule_mem hs
theorem execAndi_mem (h : Head) (x : IBody) (s : State) (hs : s.memWf) : MemNext (execAndi h x s) := fireRule_mem hs
theorem execOri_mem (h : Head) (x : IBody) (s : State) (hs : s.memWf) : MemNext (execOri h x s) := fireRule_mem hs
theorem execXori_mem (h : Head) (x : IBody) (s : State) (hs : s.memWf) : MemNext (execXori h x s) := fireRule_mem hs
theorem execShl_mem (h : Head) (x : TBody) (s : State) (hs : s.memWf) : MemNext (execShl h x s) := fireRule_mem hs
theorem execShr_mem (h : Head) (x : TBody) (s : State) (hs : s.memWf) : MemNext (execShr h x s) := fireRule_mem hs
theorem execSar_mem (h : Head) (x : TBody) (s : State) (hs : s.memWf) : MemNext (execSar h x s) := fireRule_mem hs
theorem execRol_mem (h : Head) (x : TBody) (s : State) (hs : s.memWf) : MemNext (execRol h x s) := fireRule_mem hs
theorem execShli_mem (h : Head) (x : UBody) (s : State) (hs : s.memWf) : MemNext (execShli h x s) := fireRule_mem hs
theorem execShri_mem (h : Head) (x : UBody) (s : State) (hs : s.memWf) : MemNext (execShri h x s) := fireRule_mem hs
theorem execSari_mem (h : Head) (x : UBody) (s : State) (hs : s.memWf) : MemNext (execSari h x s) := fireRule_mem hs
theorem execRoli_mem (h : Head) (x : UBody) (s : State) (hs : s.memWf) : MemNext (execRoli h x s) := fireRule_mem hs
theorem execBext_mem (h : Head) (x : UBody) (s : State) (hs : s.memWf) : MemNext (execBext h x s) := fireRule_mem hs
theorem execBexts_mem (h : Head) (x : UBody) (s : State) (hs : s.memWf) : MemNext (execBexts h x s) := fireRule_mem hs
theorem execBins_mem (h : Head) (x : UBody) (s : State) (hs : s.memWf) : MemNext (execBins h x s) := fireRule_mem hs
theorem execSext_mem (h : Head) (x : UBody) (s : State) (hs : s.memWf) : MemNext (execSext h x s) := fireRule_mem hs
theorem execClz_mem (h : Head) (x : UBody) (s : State) (hs : s.memWf) : MemNext (execClz h x s) := fireRule_mem hs
theorem execCtz_mem (h : Head) (x : UBody) (s : State) (hs : s.memWf) : MemNext (execCtz h x s) := fireRule_mem hs
theorem execPopc_mem (h : Head) (x : UBody) (s : State) (hs : s.memWf) : MemNext (execPopc h x s) := fireRule_mem hs
theorem execBrev_mem (h : Head) (x : UBody) (s : State) (hs : s.memWf) : MemNext (execBrev h x s) := fireRule_mem hs
theorem execMov_mem (h : Head) (x : TBody) (s : State) (hs : s.memWf) : MemNext (execMov h x s) := fireRule_mem hs
theorem execMovw_mem (h : Head) (x : UBody) (s : State) (hs : s.memWf) : MemNext (execMovw h x s) := fireRule_mem hs
theorem execMovi_mem (h : Head) (x : IBody) (s : State) (hs : s.memWf) : MemNext (execMovi h x s) := fireRule_mem hs
theorem execMovhi_mem (h : Head) (x : IBody) (s : State) (hs : s.memWf) : MemNext (execMovhi h x s) := fireRule_mem hs
theorem execSel_mem (h : Head) (x : TBody) (s : State) (hs : s.memWf) : MemNext (execSel h x s) := fireRule_mem hs
theorem execCmpeq_mem (h : Head) (x : TBody) (s : State) (hs : s.memWf) : MemNext (execCmpeq h x s) := fireRule_mem hs
theorem execCmpne_mem (h : Head) (x : TBody) (s : State) (hs : s.memWf) : MemNext (execCmpne h x s) := fireRule_mem hs
theorem execCmplt_mem (h : Head) (x : TBody) (s : State) (hs : s.memWf) : MemNext (execCmplt h x s) := fireRule_mem hs
theorem execCmpltu_mem (h : Head) (x : TBody) (s : State) (hs : s.memWf) : MemNext (execCmpltu h x s) := fireRule_mem hs
theorem execCmple_mem (h : Head) (x : TBody) (s : State) (hs : s.memWf) : MemNext (execCmple h x s) := fireRule_mem hs
theorem execCmpleu_mem (h : Head) (x : TBody) (s : State) (hs : s.memWf) : MemNext (execCmpleu h x s) := fireRule_mem hs
theorem execCmpeqi_mem (h : Head) (x : IBody) (s : State) (hs : s.memWf) : MemNext (execCmpeqi h x s) := fireRule_mem hs
theorem execCmplti_mem (h : Head) (x : IBody) (s : State) (hs : s.memWf) : MemNext (execCmplti h x s) := fireRule_mem hs
theorem execCmpltui_mem (h : Head) (x : IBody) (s : State) (hs : s.memWf) : MemNext (execCmpltui h x s) := fireRule_mem hs
theorem execBtst_mem (h : Head) (x : UBody) (s : State) (hs : s.memWf) : MemNext (execBtst h x s) := fireRule_mem hs
theorem execFadd_mem (h : Head) (x : TBody) (s : State) (hs : s.memWf) : MemNext (execFadd h x s) := fireRule_mem hs
theorem execFsub_mem (h : Head) (x : TBody) (s : State) (hs : s.memWf) : MemNext (execFsub h x s) := fireRule_mem hs
theorem execFmul_mem (h : Head) (x : TBody) (s : State) (hs : s.memWf) : MemNext (execFmul h x s) := fireRule_mem hs
theorem execFfma_mem (h : Head) (x : TBody) (s : State) (hs : s.memWf) : MemNext (execFfma h x s) := fireRule_mem hs
theorem execFfms_mem (h : Head) (x : TBody) (s : State) (hs : s.memWf) : MemNext (execFfms h x s) := fireRule_mem hs
theorem execFmin_mem (h : Head) (x : TBody) (s : State) (hs : s.memWf) : MemNext (execFmin h x s) := fireRule_mem hs
theorem execFmax_mem (h : Head) (x : TBody) (s : State) (hs : s.memWf) : MemNext (execFmax h x s) := fireRule_mem hs
theorem execFminm_mem (h : Head) (x : TBody) (s : State) (hs : s.memWf) : MemNext (execFminm h x s) := fireRule_mem hs
theorem execFmaxm_mem (h : Head) (x : TBody) (s : State) (hs : s.memWf) : MemNext (execFmaxm h x s) := fireRule_mem hs
theorem execFcmpeq_mem (h : Head) (x : TBody) (s : State) (hs : s.memWf) : MemNext (execFcmpeq h x s) := fireRule_mem hs
theorem execFcmplt_mem (h : Head) (x : TBody) (s : State) (hs : s.memWf) : MemNext (execFcmplt h x s) := fireRule_mem hs
theorem execFcmple_mem (h : Head) (x : TBody) (s : State) (hs : s.memWf) : MemNext (execFcmple h x s) := fireRule_mem hs
theorem execFcmpun_mem (h : Head) (x : TBody) (s : State) (hs : s.memWf) : MemNext (execFcmpun h x s) := fireRule_mem hs
theorem execFabs_mem (h : Head) (x : UBody) (s : State) (hs : s.memWf) : MemNext (execFabs h x s) := fireRule_mem hs
theorem execFneg_mem (h : Head) (x : UBody) (s : State) (hs : s.memWf) : MemNext (execFneg h x s) := fireRule_mem hs
theorem execFscb_mem (h : Head) (x : TBody) (s : State) (hs : s.memWf) : MemNext (execFscb h x s) := fireRule_mem hs
theorem execFdiv_mem (h : Head) (x : TBody) (s : State) (hs : s.memWf) : MemNext (execFdiv h x s) := fireRule_mem hs
theorem execSfuExp2_mem (h : Head) (x : UBody) (s : State) (hs : s.memWf) : MemNext (execSfuExp2 h x s) := fireRule_mem hs
theorem execSfuLog2_mem (h : Head) (x : UBody) (s : State) (hs : s.memWf) : MemNext (execSfuLog2 h x s) := fireRule_mem hs
theorem execSfuRcp_mem (h : Head) (x : UBody) (s : State) (hs : s.memWf) : MemNext (execSfuRcp h x s) := fireRule_mem hs
theorem execSfuRsqrt_mem (h : Head) (x : UBody) (s : State) (hs : s.memWf) : MemNext (execSfuRsqrt h x s) := fireRule_mem hs
theorem execSfuSqrt_mem (h : Head) (x : UBody) (s : State) (hs : s.memWf) : MemNext (execSfuSqrt h x s) := fireRule_mem hs
theorem execSfuTanh_mem (h : Head) (x : UBody) (s : State) (hs : s.memWf) : MemNext (execSfuTanh h x s) := fireRule_mem hs
theorem execSfuSinpi_mem (h : Head) (x : UBody) (s : State) (hs : s.memWf) : MemNext (execSfuSinpi h x s) := fireRule_mem hs
theorem execSfuCospi_mem (h : Head) (x : UBody) (s : State) (hs : s.memWf) : MemNext (execSfuCospi h x s) := fireRule_mem hs
theorem execCvt_mem (h : Head) (x : UBody) (s : State) (hs : s.memWf) : MemNext (execCvt h x s) := fireRule_mem hs
theorem execCvtfi_mem (h : Head) (x : UBody) (s : State) (hs : s.memWf) : MemNext (execCvtfi h x s) := fireRule_mem hs
theorem execCvtif_mem (h : Head) (x : UBody) (s : State) (hs : s.memWf) : MemNext (execCvtif h x s) := fireRule_mem hs
theorem execFrnd_mem (h : Head) (x : UBody) (s : State) (hs : s.memWf) : MemNext (execFrnd h x s) := fireRule_mem hs
theorem execFsum_mem (h : Head) (x : TBody) (s : State) (hs : s.memWf) : MemNext (execFsum h x s) := fireRule_mem hs
theorem execFmaxr_mem (h : Head) (x : TBody) (s : State) (hs : s.memWf) : MemNext (execFmaxr h x s) := fireRule_mem hs
theorem execFdot_mem (h : Head) (x : TBody) (s : State) (hs : s.memWf) : MemNext (execFdot h x s) := fireRule_mem hs
theorem execExpd_mem (h : Head) (x : TBody) (s : State) (hs : s.memWf) : MemNext (execExpd h x s) := fireRule_mem hs
theorem execQblk_mem (h : Head) (x : UBody) (s : State) (hs : s.memWf) : MemNext (execQblk h x s) := fireRule_mem hs
theorem execDqblk_mem (h : Head) (x : TBody) (s : State) (hs : s.memWf) : MemNext (execDqblk h x s) := fireRule_mem hs
theorem execBpspl_mem (h : Head) (x : TBody) (s : State) (hs : s.memWf) : MemNext (execBpspl h x s) := fireRule_mem hs
theorem execBpjn_mem (h : Head) (x : TBody) (s : State) (hs : s.memWf) : MemNext (execBpjn h x s) := fireRule_mem hs
theorem execFcls_mem (h : Head) (x : UBody) (s : State) (hs : s.memWf) : MemNext (execFcls h x s) := fireRule_mem hs
theorem execPlog_mem (h : Head) (x : PBody) (s : State) (hs : s.memWf) : MemNext (execPlog h x s) := fireRule_mem hs
theorem execPsetv_mem (h : Head) (x : PBody) (s : State) (hs : s.memWf) : MemNext (execPsetv h x s) := fireRule_mem hs
theorem execPtos_mem (h : Head) (x : UBody) (s : State) (hs : s.memWf) : MemNext (execPtos h x s) := fireRule_mem hs
theorem execStop_mem (h : Head) (x : UBody) (s : State) (hs : s.memWf) : MemNext (execStop h x s) := fireRule_mem hs
theorem execTrap_mem (h : Head) (x : UBody) (s : State) (hs : s.memWf) : MemNext (execTrap h x s) := fireRule_mem hs
theorem execBkpt_mem (h : Head) (x : UBody) (s : State) (hs : s.memWf) : MemNext (execBkpt h x s) := fireRule_mem hs
theorem execIdle_mem (h : Head) (x : UBody) (s : State) (hs : s.memWf) : MemNext (execIdle h x s) := fireRule_mem hs
theorem execNop_mem (h : Head) (x : UBody) (s : State) (hs : s.memWf) : MemNext (execNop h x s) := fireRule_mem hs
theorem execLdb_mem (h : Head) (x : MBody) (s : State) (hs : s.memWf) : MemNext (execLdb h x s) := fireRule_mem hs
theorem execStb_mem (h : Head) (x : MBody) (s : State) (hs : s.memWf) : MemNext (execStb h x s) := fireRule_mem hs
theorem execLdbi_mem (h : Head) (x : MBody) (s : State) (hs : s.memWf) : MemNext (execLdbi h x s) := fireRule_mem hs
theorem execStbi_mem (h : Head) (x : MBody) (s : State) (hs : s.memWf) : MemNext (execStbi h x s) := fireRule_mem hs
theorem execAtb_mem (h : Head) (x : MBody) (s : State) (hs : s.memWf) : MemNext (execAtb h x s) := fireRule_mem hs
theorem execCasb_mem (h : Head) (x : MBody) (s : State) (hs : s.memWf) : MemNext (execCasb h x s) := fireRule_mem hs
theorem execSpl_mem (h : Head) (x : MBody) (s : State) (hs : s.memWf) : MemNext (execSpl h x s) := fireRule_mem hs
theorem execFil_mem (h : Head) (x : MBody) (s : State) (hs : s.memWf) : MemNext (execFil h x s) := fireRule_mem hs
theorem execLdpw_mem (h : Head) (x : UBody) (s : State) (hs : s.memWf) : MemNext (execLdpw h x s) := fireRule_mem hs
theorem execEmit_mem (h : Head) (x : KBody) (s : State) (hs : s.memWf) : MemNext (execEmit h x s) := fireRule_mem hs
theorem execEos_mem (h : Head) (x : KBody) (s : State) (hs : s.memWf) : MemNext (execEos h x s) := fireRule_mem hs
theorem execMark_mem (h : Head) (x : KBody) (s : State) (hs : s.memWf) : MemNext (execMark h x s) := fireRule_mem hs
theorem execWeep_mem (h : Head) (x : KBody) (s : State) (hs : s.memWf) : MemNext (execWeep h x s) := fireRule_mem hs
theorem execDrop_mem (h : Head) (x : KBody) (s : State) (hs : s.memWf) : MemNext (execDrop h x s) := fireRule_mem hs
theorem execRtag_mem (h : Head) (x : KBody) (s : State) (hs : s.memWf) : MemNext (execRtag h x s) := fireRule_mem hs
theorem execSteer_mem (h : Head) (x : KBody) (s : State) (hs : s.memWf) : MemNext (execSteer h x s) := fireRule_mem hs
theorem execGld_mem (h : Head) (x : XBody) (s : State) (hs : s.memWf) : MemNext (execGld h x s) := fireRule_mem hs
theorem execGst_mem (h : Head) (x : XBody) (s : State) (hs : s.memWf) : MemNext (execGst h x s) := fireRule_mem hs
theorem execGat_mem (h : Head) (x : XBody) (s : State) (hs : s.memWf) : MemNext (execGat h x s) := fireRule_mem hs
theorem execStrmArm_mem (h : Head) (x : XBody) (s : State) (hs : s.memWf) : MemNext (execStrmArm h x s) := fireRule_mem hs
theorem execStrmAbort_mem (h : Head) (x : XBody) (s : State) (hs : s.memWf) : MemNext (execStrmAbort h x s) := fireRule_mem hs
theorem execStrmStat_mem (h : Head) (x : XBody) (s : State) (hs : s.memWf) : MemNext (execStrmStat h x s) := fireRule_mem hs
theorem execTtq_mem (h : Head) (x : XBody) (s : State) (hs : s.memWf) : MemNext (execTtq h x s) := fireRule_mem hs
theorem execTtqTid_mem (h : Head) (x : XBody) (s : State) (hs : s.memWf) : MemNext (execTtqTid h x s) := fireRule_mem hs
theorem execSlfFire_mem (h : Head) (x : XBody) (s : State) (hs : s.memWf) : MemNext (execSlfFire h x s) := fireRule_mem hs
theorem execSlfHdrLaunch_mem (h : Head) (x : XBody) (s : State) (hs : s.memWf) : MemNext (execSlfHdrLaunch h x s) := fireRule_mem hs
theorem execSlfHdrRd_mem (h : Head) (x : XBody) (s : State) (hs : s.memWf) : MemNext (execSlfHdrRd h x s) := fireRule_mem hs
theorem execSlfHdrWr_mem (h : Head) (x : XBody) (s : State) (hs : s.memWf) : MemNext (execSlfHdrWr h x s) := fireRule_mem hs
theorem execSlfFin_mem (h : Head) (x : XBody) (s : State) (hs : s.memWf) : MemNext (execSlfFin h x s) := fireRule_mem hs
theorem execSlfRoute_mem (h : Head) (x : XBody) (s : State) (hs : s.memWf) : MemNext (execSlfRoute h x s) := fireRule_mem hs
theorem execSlfPin_mem (h : Head) (x : XBody) (s : State) (hs : s.memWf) : MemNext (execSlfPin h x s) := fireRule_mem hs
theorem execSlfUnpin_mem (h : Head) (x : XBody) (s : State) (hs : s.memWf) : MemNext (execSlfUnpin h x s) := fireRule_mem hs
theorem execSlfLook_mem (h : Head) (x : XBody) (s : State) (hs : s.memWf) : MemNext (execSlfLook h x s) := fireRule_mem hs
theorem execFqryPost_mem (h : Head) (x : XBody) (s : State) (hs : s.memWf) : MemNext (execFqryPost h x s) := fireRule_mem hs
theorem execFqryCncl_mem (h : Head) (x : XBody) (s : State) (hs : s.memWf) : MemNext (execFqryCncl h x s) := fireRule_mem hs
theorem execSysXfence_mem (h : Head) (x : XBody) (s : State) (hs : s.memWf) : MemNext (execSysXfence h x s) := fireRule_mem hs
theorem execSysHandover_mem (h : Head) (x : XBody) (s : State) (hs : s.memWf) : MemNext (execSysHandover h x s) := fireRule_mem hs
theorem execSysRdbsr_mem (h : Head) (x : XBody) (s : State) (hs : s.memWf) : MemNext (execSysRdbsr h x s) := fireRule_mem hs
theorem execSysWrbsr_mem (h : Head) (x : XBody) (s : State) (hs : s.memWf) : MemNext (execSysWrbsr h x s) := fireRule_mem hs
theorem execSysWatch_mem (h : Head) (x : XBody) (s : State) (hs : s.memWf) : MemNext (execSysWatch h x s) := fireRule_mem hs
theorem execSysSink_mem (h : Head) (x : XBody) (s : State) (hs : s.memWf) : MemNext (execSysSink h x s) := fireRule_mem hs
theorem execSysWptr_mem (h : Head) (x : XBody) (s : State) (hs : s.memWf) : MemNext (execSysWptr h x s) := fireRule_mem hs
theorem execSysRdts_mem (h : Head) (x : XBody) (s : State) (hs : s.memWf) : MemNext (execSysRdts h x s) := fireRule_mem hs

theorem execBeatIssue_mem (b : BrickId) (s : State) (hs : s.memWf) : MemNext (execBeatIssue b s) := by
  simp only [execBeatIssue]
  repeat' split
  all_goals first | exact mem_refl hs | refine mem_when hs (State.modBrick_mem ?_ (State.brick_wf ?_ _))
  all_goals
    have h1 : ∀ y : Brick, y.bank = (s.brick b).bank → (s.setBrick b y).memWf := fun y e => State.setBrick_mem hs (e ▸ State.brick_wf hs b)
    first
    | exact h1 _ (by simp)
    | exact foldl_mem (h1 _ (by simp)) fun u a hu => State.applyEffect_mem _ _ _ _ _ hu
theorem execBeatWriteBack_mem (b : BrickId) (k : Nat) (s : State) (hs : s.memWf) : MemNext (execBeatWriteBack b k s) := by
  simp only [execBeatWriteBack]
  repeat' first | exact mem_refl hs | with_reducible assumption | (rename_i e; obtain rfl := snd_eq e; clear e) | split | refine mem_when ?_ ?_ | refine mem_next ?_ | refine mem_ite ?_ ?_ | refine paged_mem hs ?_ | with_reducible refine foldl_mem ?_ ?_ | with_reducible refine foldl_mem2 ?_ ?_ | with_reducible intro u a hu | (simp (maxDischargeDepth := 30) [hs]; done) | (simp (maxDischargeDepth := 30) [hs, hu]; done)
theorem State.commit_mem (s : State) (b : BrickId) (k : Nat) (f : Firing) (hs : s.memWf) : (s.commit b k f).memWf := by
  unfold State.commit
  extract_lets s1 s2
  have h1 : s1.memWf := State.setBrick_mem hs (by simp [hs])
  have h2 : s2.memWf := foldl_mem h1 fun u a hu => State.applyEffect_mem _ _ _ _ _ hu
  exact State.noteTs_mem _ _ _ (State.modBrick_mem h2 (by simp [h2]))
theorem execFiringCommit_mem (b : BrickId) (s : State) (hs : s.memWf) : MemNext (execFiringCommit b s) := by
  unfold execFiringCommit
  extract_lets
  split
  · exact mem_refl hs
  · split
    · exact mem_refl hs
    · refine mem_when hs ?_
      split
      · exact State.modFiring_mem _ _ _ _ hs
      · exact State.commit_mem _ _ _ _ hs
theorem execPreciseTrap_mem (b : BrickId) (s : State) (hs : s.memWf) : MemNext (execPreciseTrap b s) := by
  simp only [execPreciseTrap]
  repeat' first | exact mem_refl hs | with_reducible assumption | (rename_i e; obtain rfl := snd_eq e; clear e) | split | refine mem_when ?_ ?_ | refine mem_next ?_ | refine mem_ite ?_ ?_ | refine paged_mem hs ?_ | with_reducible refine foldl_mem ?_ ?_ | with_reducible refine foldl_mem2 ?_ ?_ | with_reducible intro u a hu | (simp (maxDischargeDepth := 30) [hs]; done) | (simp (maxDischargeDepth := 30) [hs, hu]; done)
theorem execPickerWake_mem (b : BrickId) (s : State) (hs : s.memWf) : MemNext (execPickerWake b s) := by
  simp only [execPickerWake]
  repeat' first | exact mem_refl hs | with_reducible assumption | (rename_i e; obtain rfl := snd_eq e; clear e) | split | refine mem_when ?_ ?_ | refine mem_next ?_ | refine mem_ite ?_ ?_ | refine paged_mem hs ?_ | with_reducible refine foldl_mem ?_ ?_ | with_reducible refine foldl_mem2 ?_ ?_ | with_reducible intro u a hu | (simp (maxDischargeDepth := 30) [hs]; done) | (simp (maxDischargeDepth := 30) [hs, hu]; done)
theorem execTokenArrival_mem (n : Nat) (s : State) (hs : s.memWf) : MemNext (execTokenArrival n s) := by
  simp only [execTokenArrival]
  repeat' first | exact mem_refl hs | with_reducible assumption | (rename_i e; obtain rfl := snd_eq e; clear e) | split | refine mem_when ?_ ?_ | refine mem_next ?_ | refine mem_ite ?_ ?_ | refine paged_mem hs ?_ | with_reducible refine foldl_mem ?_ ?_ | with_reducible refine foldl_mem2 ?_ ?_ | with_reducible intro u a hu | (simp (maxDischargeDepth := 30) [hs]; done) | (simp (maxDischargeDepth := 30) [hs, hu]; done)
theorem execGutterRefill_mem (b : BrickId) (ch : Nat) (s : State) (hs : s.memWf) : MemNext (execGutterRefill b ch s) := by
  simp only [execGutterRefill]
  repeat' first | exact mem_refl hs | with_reducible assumption | (rename_i e; obtain rfl := snd_eq e; clear e) | split | refine mem_when ?_ ?_ | refine mem_next ?_ | refine mem_ite ?_ ?_ | refine paged_mem hs ?_ | with_reducible refine foldl_mem ?_ ?_ | with_reducible refine foldl_mem2 ?_ ?_ | with_reducible intro u a hu | (simp (maxDischargeDepth := 30) [hs]; done) | (simp (maxDischargeDepth := 30) [hs, hu]; done)
theorem execTokenForward_mem (p : PortRef) (s : State) (hs : s.memWf) : MemNext (execTokenForward p s) := by
  simp only [execTokenForward]
  split
  · exact mem_refl hs
  · refine mem_when hs (State.retirePort_mem _ _ (State.setPort_mem _ _ _ (foldl_mem hs fun u a hu => ?_)))
    split
    · exact State.sendBranch_mem _ _ _ _ hu
    · exact hu
theorem execBranchHoldDeliver_mem (p : PortRef) (branch : Nat) (s : State) (hs : s.memWf) : MemNext (execBranchHoldDeliver p branch s) := by
  simp only [execBranchHoldDeliver]
  repeat' first | exact mem_refl hs | with_reducible assumption | (rename_i e; obtain rfl := snd_eq e; clear e) | split | refine mem_when ?_ ?_ | refine mem_next ?_ | refine mem_ite ?_ ?_ | refine paged_mem hs ?_ | with_reducible refine foldl_mem ?_ ?_ | with_reducible refine foldl_mem2 ?_ ?_ | with_reducible intro u a hu | (simp (maxDischargeDepth := 30) [hs]; done) | (simp (maxDischargeDepth := 30) [hs, hu]; done)
theorem execBrickAlign_mem (b : BrickId) (s : State) (hs : s.memWf) : MemNext (execBrickAlign b s) := by
  simp only [execBrickAlign]
  repeat' first | exact mem_refl hs | with_reducible assumption | (rename_i e; obtain rfl := snd_eq e; clear e) | split | refine mem_when ?_ ?_ | refine mem_next ?_ | refine mem_ite ?_ ?_ | refine paged_mem hs ?_ | with_reducible refine foldl_mem ?_ ?_ | with_reducible refine foldl_mem2 ?_ ?_ | with_reducible intro u a hu | (simp (maxDischargeDepth := 30) [hs]; done) | (simp (maxDischargeDepth := 30) [hs, hu]; done)
theorem execRegionRoundUpdate_mem (r : RegionId) (s : State) (hs : s.memWf) : MemNext (execRegionRoundUpdate r s) := by
  simp only [execRegionRoundUpdate]
  repeat' first | exact mem_refl hs | with_reducible assumption | (rename_i e; obtain rfl := snd_eq e; clear e) | split | refine mem_when ?_ ?_ | refine mem_next ?_ | refine mem_ite ?_ ?_ | refine paged_mem hs ?_ | with_reducible refine foldl_mem ?_ ?_ | with_reducible refine foldl_mem2 ?_ ?_ | with_reducible intro u a hu | (simp (maxDischargeDepth := 30) [hs]; done) | (simp (maxDischargeDepth := 30) [hs, hu]; done)
theorem execBrickWeep_mem (b : BrickId) (s : State) (hs : s.memWf) : MemNext (execBrickWeep b s) := by
  simp only [execBrickWeep]
  repeat' first | exact mem_refl hs | with_reducible assumption | (rename_i e; obtain rfl := snd_eq e; clear e) | split | refine mem_when ?_ ?_ | refine mem_next ?_ | refine mem_ite ?_ ?_ | refine paged_mem hs ?_ | with_reducible refine foldl_mem ?_ ?_ | with_reducible refine foldl_mem2 ?_ ?_ | with_reducible intro u a hu | (simp (maxDischargeDepth := 30) [hs]; done) | (simp (maxDischargeDepth := 30) [hs, hu]; done)
theorem execWeepOrder_mem (r : RegionId) (s : State) (hs : s.memWf) : MemNext (execWeepOrder r s) := by
  unfold execWeepOrder
  extract_lets x _ _ gentle hard hard'
  have h1 : gentle.memWf := foldl_mem hs fun u a hu => State.modBrick_mem hu (by split <;> exact State.brick_wf hu a)
  have h2 : hard'.memWf := (foldl_mem (State.modSlot_mem _ _ _ (State.stopEngines_mem _ _ hs)) fun u a hu =>
    State.modBrick_mem hu (by rw [Brick.orderDirect_bank]; exact State.brick_wf hu a) : hard.memWf)
  exact mem_ite (mem_next h1) (mem_when hs h2)
theorem execReconfigApply_mem (b : BrickId) (s : State) (hs : s.memWf) : MemNext (execReconfigApply b s) := by
  unfold execReconfigApply
  extract_lets
  split
  · extract_lets s1 _ _ _ s2 s3
    have h0 := State.stopLive_mem s b hs
    have h1 : s1.memWf := State.connectRegion_mem _ _ (State.modBrick_mem h0 (Brick.applyHold_wf (State.brick_wf h0 b) _))
    clear_value s1
    have h2 : s2.memWf := memWf_ite h1 (State.modSched_mem _ _ _ _ h1)
    clear_value s2
    exact mem_when hs (memWf_ite h2 (State.modSlot_mem _ _ _ (State.modSlot_mem _ _ _ h2)))
  · exact mem_refl hs
theorem execBrickReclaim_mem (b : BrickId) (s : State) (hs : s.memWf) : MemNext (execBrickReclaim b s) := by
  simp only [execBrickReclaim]
  repeat' first | exact mem_refl hs | with_reducible assumption | (rename_i e; obtain rfl := snd_eq e; clear e) | split | refine mem_when ?_ ?_ | refine mem_next ?_ | refine mem_ite ?_ ?_ | refine paged_mem hs ?_ | with_reducible refine foldl_mem ?_ ?_ | with_reducible refine foldl_mem2 ?_ ?_ | with_reducible intro u a hu | (simp (maxDischargeDepth := 30) [hs]; done) | (simp (maxDischargeDepth := 30) [hs, hu]; done)
theorem execOwnerRequest_mem (n : Nat) (s : State) (hs : s.memWf) : MemNext (execOwnerRequest n s) := by
  simp only [execOwnerRequest]
  repeat' first | exact mem_refl hs | with_reducible assumption | (rename_i e; obtain rfl := snd_eq e; clear e) | split | refine mem_when ?_ ?_ | refine mem_next ?_ | refine mem_ite ?_ ?_ | refine paged_mem hs ?_ | with_reducible refine foldl_mem ?_ ?_ | with_reducible refine foldl_mem2 ?_ ?_ | with_reducible intro u a hu | (simp (maxDischargeDepth := 30) [hs]; done) | (simp (maxDischargeDepth := 30) [hs, hu]; done)
theorem execCoalesceTimeout_mem (e : BrickId) (line : Nat) (s : State) (hs : s.memWf) : MemNext (execCoalesceTimeout e line s) := by
  simp only [execCoalesceTimeout]
  repeat' first | exact mem_refl hs | with_reducible assumption | (rename_i e; obtain rfl := snd_eq e; clear e) | split | refine mem_when ?_ ?_ | refine mem_next ?_ | refine mem_ite ?_ ?_ | refine paged_mem hs ?_ | with_reducible refine foldl_mem ?_ ?_ | with_reducible refine foldl_mem2 ?_ ?_ | with_reducible intro u a hu | (simp (maxDischargeDepth := 30) [hs]; done) | (simp (maxDischargeDepth := 30) [hs, hu]; done)
theorem takeWalk_mem (r : Except Fail TlbEntry) (s : State) (q : Req) (hs : s.memWf) : (s.takeWalk r q).memWf := by
  unfold State.takeWalk; split <;> simp [hs]
theorem answerWalk_mem (r : Except Fail TlbEntry) (s : State) (w : Walk) (hs : s.memWf) : (s.answerWalk r w).memWf := by
  unfold State.answerWalk; split
  · exact hs
  · exact State.touchTlb_mem _ _ _ hs
theorem execPageWalk_mem (n : Nat) (s : State) (hs : s.memWf) : MemNext (execPageWalk n s) := by
  unfold execPageWalk
  split
  · exact mem_refl hs
  · extract_lets
    split
    rename_i h
    exact mem_when hs (foldl_mem (foldl_mem (snd_mem h (State.walkShare_mem _ _ _ _ hs)) fun u a hu => takeWalk_mem _ _ _ hu)
      fun u a hu => answerWalk_mem _ _ _ hu)
theorem execLoftAccess_mem (n : Nat) (s : State) (hs : s.memWf) : MemNext (execLoftAccess n s) := by
  simp only [execLoftAccess]
  repeat' first | exact mem_refl hs | with_reducible assumption | (rename_i e; obtain rfl := snd_eq e; clear e) | split | refine mem_when ?_ ?_ | refine mem_next ?_ | refine mem_ite ?_ ?_ | refine paged_mem hs ?_ | with_reducible refine foldl_mem ?_ ?_ | with_reducible refine foldl_mem2 ?_ ?_ | with_reducible intro u a hu | (simp (maxDischargeDepth := 30) [hs]; done) | (simp (maxDischargeDepth := 30) [hs, hu]; done)
theorem execLoftFillDone_mem (line : Nat) (s : State) (hs : s.memWf) : MemNext (execLoftFillDone line s) := by
  simp only [execLoftFillDone]
  repeat' first | exact mem_refl hs | with_reducible assumption | (rename_i e; obtain rfl := snd_eq e; clear e) | split | refine mem_when ?_ ?_ | refine mem_next ?_ | refine mem_ite ?_ ?_ | refine paged_mem hs ?_ | with_reducible refine foldl_mem ?_ ?_ | with_reducible refine foldl_mem2 ?_ ?_ | with_reducible intro u a hu | (simp (maxDischargeDepth := 30) [hs]; done) | (simp (maxDischargeDepth := 30) [hs, hu]; done)
theorem execHbmRequest_mem (line : Nat) (s : State) (hs : s.memWf) : MemNext (execHbmRequest line s) := by
  simp only [execHbmRequest]
  repeat' first | exact mem_refl hs | with_reducible assumption | (rename_i e; obtain rfl := snd_eq e; clear e) | split | refine mem_when ?_ ?_ | refine mem_next ?_ | refine mem_ite ?_ ?_ | refine paged_mem hs ?_ | with_reducible refine foldl_mem ?_ ?_ | with_reducible refine foldl_mem2 ?_ ?_ | with_reducible intro u a hu | (simp (maxDischargeDepth := 30) [hs]; done) | (simp (maxDischargeDepth := 30) [hs, hu]; done)
theorem execDeadlineService_mem (line : Nat) (s : State) (hs : s.memWf) : MemNext (execDeadlineService line s) := by
  simp only [execDeadlineService]
  repeat' first | exact mem_refl hs | with_reducible assumption | (rename_i e; obtain rfl := snd_eq e; clear e) | split | refine mem_when ?_ ?_ | refine mem_next ?_ | refine mem_ite ?_ ?_ | refine paged_mem hs ?_ | with_reducible refine foldl_mem ?_ ?_ | with_reducible refine foldl_mem2 ?_ ?_ | with_reducible intro u a hu | (simp (maxDischargeDepth := 30) [hs]; done) | (simp (maxDischargeDepth := 30) [hs, hu]; done)
theorem execRefreshStart_mem (stack pc : Nat) (s : State) (hs : s.memWf) : MemNext (execRefreshStart stack pc s) := by
  simp only [execRefreshStart]
  repeat' first | exact mem_refl hs | with_reducible assumption | (rename_i e; obtain rfl := snd_eq e; clear e) | split | refine mem_when ?_ ?_ | refine mem_next ?_ | refine mem_ite ?_ ?_ | refine paged_mem hs ?_ | with_reducible refine foldl_mem ?_ ?_ | with_reducible refine foldl_mem2 ?_ ?_ | with_reducible intro u a hu | (simp (maxDischargeDepth := 30) [hs]; done) | (simp (maxDischargeDepth := 30) [hs, hu]; done)
theorem execRefreshEnd_mem (stack pc : Nat) (s : State) (hs : s.memWf) : MemNext (execRefreshEnd stack pc s) := by
  simp only [execRefreshEnd]
  repeat' first | exact mem_refl hs | with_reducible assumption | (rename_i e; obtain rfl := snd_eq e; clear e) | split | refine mem_when ?_ ?_ | refine mem_next ?_ | refine mem_ite ?_ ?_ | refine paged_mem hs ?_ | with_reducible refine foldl_mem ?_ ?_ | with_reducible refine foldl_mem2 ?_ ?_ | with_reducible intro u a hu | (simp (maxDischargeDepth := 30) [hs]; done) | (simp (maxDischargeDepth := 30) [hs, hu]; done)
theorem execStackSensorReading_mem (stack temp : Nat) (s : State) (hs : s.memWf) : MemNext (execStackSensorReading stack temp s) := by
  simp only [execStackSensorReading]
  repeat' first | exact mem_refl hs | with_reducible assumption | (rename_i e; obtain rfl := snd_eq e; clear e) | split | refine mem_when ?_ ?_ | refine mem_next ?_ | refine mem_ite ?_ ?_ | refine paged_mem hs ?_ | with_reducible refine foldl_mem ?_ ?_ | with_reducible refine foldl_mem2 ?_ ?_ | with_reducible intro u a hu | (simp (maxDischargeDepth := 30) [hs]; done) | (simp (maxDischargeDepth := 30) [hs, hu]; done)
theorem execThermtrip_mem (stack : Nat) (s : State) (hs : s.memWf) : MemNext (execThermtrip stack s) := by
  simp only [execThermtrip]
  repeat' first | exact mem_refl hs | with_reducible assumption | (rename_i e; obtain rfl := snd_eq e; clear e) | split | refine mem_when ?_ ?_ | refine mem_next ?_ | refine mem_ite ?_ ?_ | refine paged_mem hs ?_ | with_reducible refine foldl_mem ?_ ?_ | with_reducible refine foldl_mem2 ?_ ?_ | with_reducible intro u a hu | (simp (maxDischargeDepth := 30) [hs]; done) | (simp (maxDischargeDepth := 30) [hs, hu]; done)
theorem execTalwUpdate_mem (die rise : Nat) (s : State) (hs : s.memWf) : MemNext (execTalwUpdate die rise s) := by
  simp only [execTalwUpdate]
  repeat' first | exact mem_refl hs | with_reducible assumption | (rename_i e; obtain rfl := snd_eq e; clear e) | split | refine mem_when ?_ ?_ | refine mem_next ?_ | refine mem_ite ?_ ?_ | refine paged_mem hs ?_ | with_reducible refine foldl_mem ?_ ?_ | with_reducible refine foldl_mem2 ?_ ?_ | with_reducible intro u a hu | (simp (maxDischargeDepth := 30) [hs]; done) | (simp (maxDischargeDepth := 30) [hs, hu]; done)
theorem execThermalNotice_mem (r : RegionId) (stack : Nat) (s : State) (hs : s.memWf) : MemNext (execThermalNotice r stack s) := by
  simp only [execThermalNotice]
  repeat' first | exact mem_refl hs | with_reducible assumption | (rename_i e; obtain rfl := snd_eq e; clear e) | split | refine mem_when ?_ ?_ | refine mem_next ?_ | refine mem_ite ?_ ?_ | refine paged_mem hs ?_ | with_reducible refine foldl_mem ?_ ?_ | with_reducible refine foldl_mem2 ?_ ?_ | with_reducible intro u a hu | (simp (maxDischargeDepth := 30) [hs]; done) | (simp (maxDischargeDepth := 30) [hs, hu]; done)
theorem execRstallRead_mem (stack : Nat) (s : State) (hs : s.memWf) : MemNext (execRstallRead stack s) := by
  simp only [execRstallRead]
  repeat' first | exact mem_refl hs | with_reducible assumption | (rename_i e; obtain rfl := snd_eq e; clear e) | split | refine mem_when ?_ ?_ | refine mem_next ?_ | refine mem_ite ?_ ?_ | refine paged_mem hs ?_ | with_reducible refine foldl_mem ?_ ?_ | with_reducible refine foldl_mem2 ?_ ?_ | with_reducible intro u a hu | (simp (maxDischargeDepth := 30) [hs]; done) | (simp (maxDischargeDepth := 30) [hs, hu]; done)
theorem execRebase_mem (t : Nat) (s : State) (hs : s.memWf) : MemNext (execRebase t s) := by
  simp only [execRebase]
  repeat' first | exact mem_refl hs | with_reducible assumption | (rename_i e; obtain rfl := snd_eq e; clear e) | split | refine mem_when ?_ ?_ | refine mem_next ?_ | refine mem_ite ?_ ?_ | refine paged_mem hs ?_ | with_reducible refine foldl_mem ?_ ?_ | with_reducible refine foldl_mem2 ?_ ?_ | with_reducible intro u a hu | (simp (maxDischargeDepth := 30) [hs]; done) | (simp (maxDischargeDepth := 30) [hs, hu]; done)
theorem execInvcmdVa_mem (die t page : Nat) (s : State) (hs : s.memWf) : MemNext (execInvcmdVa die t page s) := by
  simp only [execInvcmdVa]
  repeat' first | exact mem_refl hs | with_reducible assumption | (rename_i e; obtain rfl := snd_eq e; clear e) | split | refine mem_when ?_ ?_ | refine mem_next ?_ | refine mem_ite ?_ ?_ | refine paged_mem hs ?_ | with_reducible refine foldl_mem ?_ ?_ | with_reducible refine foldl_mem2 ?_ ?_ | with_reducible intro u a hu | (simp (maxDischargeDepth := 30) [hs]; done) | (simp (maxDischargeDepth := 30) [hs, hu]; done)
theorem execInvcmdTenancy_mem (die t : Nat) (s : State) (hs : s.memWf) : MemNext (execInvcmdTenancy die t s) := by
  simp only [execInvcmdTenancy]
  repeat' first | exact mem_refl hs | with_reducible assumption | (rename_i e; obtain rfl := snd_eq e; clear e) | split | refine mem_when ?_ ?_ | refine mem_next ?_ | refine mem_ite ?_ ?_ | refine paged_mem hs ?_ | with_reducible refine foldl_mem ?_ ?_ | with_reducible refine foldl_mem2 ?_ ?_ | with_reducible intro u a hu | (simp (maxDischargeDepth := 30) [hs]; done) | (simp (maxDischargeDepth := 30) [hs, hu]; done)
theorem execInvcmdComplete_mem (die : Nat) (s : State) (hs : s.memWf) : MemNext (execInvcmdComplete die s) := by
  simp only [execInvcmdComplete]
  repeat' first | exact mem_refl hs | with_reducible assumption | (rename_i e; obtain rfl := snd_eq e; clear e) | split | refine mem_when ?_ ?_ | refine mem_next ?_ | refine mem_ite ?_ ?_ | refine paged_mem hs ?_ | with_reducible refine foldl_mem ?_ ?_ | with_reducible refine foldl_mem2 ?_ ?_ | with_reducible intro u a hu | (simp (maxDischargeDepth := 30) [hs]; done) | (simp (maxDischargeDepth := 30) [hs, hu]; done)
theorem execGlobalReturn_mem (n : Nat) (s : State) (hs : s.memWf) : MemNext (execGlobalReturn n s) := by
  unfold execGlobalReturn
  split
  · exact mem_when hs (State.noteTs_mem _ _ _ (State.rcvd_mem _ _ _ (State.landReturn_mem _ _ _ _ (State.modBrick_mem
      (State.replyTo_mem _ _ (State.dropReq_mem _ _ hs)) (State.brick_wf (State.replyTo_mem _ _ (State.dropReq_mem _ _ hs)) _)))))
  · split
    · exact mem_refl hs
    · refine mem_when hs (State.noteTs_mem _ _ _ (State.rcvd_mem _ _ _ ?_))
      rename_i m _
      have h1 : (m.out.foldl (fun (s : State) t => s.landReturn m.brick m.rch t) (({ s with maps := s.maps.filter fun q => q.id ≠ n } : State).modBrick m.brick fun x => x.raisePts m.ts)).memWf :=
        foldl_mem (State.modBrick_mem (s := { s with maps := s.maps.filter fun q => q.id ≠ n }) hs (State.brick_wf (s := { s with maps := s.maps.filter fun q => q.id ≠ n }) hs _))
          fun u a hu => State.landReturn_mem _ _ _ _ hu
      exact State.modBrick_mem h1 (State.brick_wf h1 _)
theorem execHandoverMessage_mem (n : Nat) (s : State) (hs : s.memWf) : MemNext (execHandoverMessage n s) := by
  simp only [execHandoverMessage]
  repeat' first | exact mem_refl hs | with_reducible assumption | (rename_i e; obtain rfl := snd_eq e; clear e) | split | refine mem_when ?_ ?_ | refine mem_next ?_ | refine mem_ite ?_ ?_ | refine paged_mem hs ?_ | with_reducible refine foldl_mem ?_ ?_ | with_reducible refine foldl_mem2 ?_ ?_ | with_reducible intro u a hu | (simp (maxDischargeDepth := 30) [hs]; done) | (simp (maxDischargeDepth := 30) [hs, hu]; done)
theorem execHandoverRelease_mem (n : Nat) (s : State) (hs : s.memWf) : MemNext (execHandoverRelease n s) := by
  unfold execHandoverRelease
  split
  · exact mem_refl hs
  · extract_lets _ s1 _
    have h1 : s1.memWf := State.modBrick_mem (s := { s with handovers := removeAt n s.handovers }) hs (State.brick_wf (s := { s with handovers := removeAt n s.handovers }) hs _)
    refine mem_when hs (foldl_mem h1 fun u a hu => ?_)
    split
    · exact hu
    · exact State.ownerTake_mem _ _ hu
theorem execStreamTileStart_mem (b : BrickId) (r : Nat) (s : State) (hs : s.memWf) : MemNext (execStreamTileStart b r s) := by
  simp only [execStreamTileStart]
  repeat' first | exact mem_refl hs | with_reducible assumption | (rename_i e; obtain rfl := snd_eq e; clear e) | split | refine mem_when ?_ ?_ | refine mem_next ?_ | refine mem_ite ?_ ?_ | refine paged_mem hs ?_ | with_reducible refine foldl_mem ?_ ?_ | with_reducible refine foldl_mem2 ?_ ?_ | with_reducible intro u a hu | (simp (maxDischargeDepth := 30) [hs]; done) | (simp (maxDischargeDepth := 30) [hs, hu]; done)
theorem execStreamWordSend_mem (b : BrickId) (r : Nat) (s : State) (hs : s.memWf) : MemNext (execStreamWordSend b r s) := by
  unfold execStreamWordSend
  refine mem_ite (mem_refl hs) ?_
  split
  · exact mem_refl hs
  · exact mem_next (by simp [hs])
  · exact mem_next (by simp [hs])
  · exact paged_mem hs (mem_next (by simp [hs]))
theorem takeInput_mem (s : State) (b : BrickId) (r : Nat) (t : Token) (hs : s.memWf) : (s.takeInput b r t).memWf := by
  have h1 : ((s.popInput b r ((s.shape b r).src % 8)).returned b 1).memWf := by simp [hs]
  have hp : ∀ u : State, u.memWf → (if (s.shape b r).dkind = 1 then u.modShape b r fun x => { x with outq := x.outq ++ [t] } else u).memWf := by
    intro u hu; split <;> simp [hu]
  unfold State.takeInput
  extract_lets x gen t' live pass ended
  have ht : t'.memWf := h1
  clear_value t'
  have he : ended.memWf := memWf_ite (State.modShape_mem _ _ _ _ ht) ht
  repeat' split
  · exact hp _ ht
  · exact State.modShape_mem _ _ _ _ he
  · exact State.modShape_mem _ _ _ _ (hp _ he)
  · exact State.dropWord_mem _ _ _ ht
  · exact State.modShape_mem _ _ _ _ ht
  · exact ht
  · exact State.modShape_mem _ _ _ _ ht
  · exact State.dataWord_mem _ _ _ _ ht
  · exact State.scaleWord_mem _ _ _ _ ht
  · exact hp _ ht
theorem execStreamInputTake_mem (b : BrickId) (r : Nat) (s : State) (hs : s.memWf) : MemNext (execStreamInputTake b r s) := by
  unfold execStreamInputTake
  extract_lets
  split
  · exact mem_refl hs
  · exact mem_ite (paged_mem hs (mem_next (takeInput_mem _ _ _ _ hs))) (mem_refl hs)
theorem execStreamRunEnd_mem (b : BrickId) (r : Nat) (s : State) (hs : s.memWf) : MemNext (execStreamRunEnd b r s) := by
  simp only [execStreamRunEnd]
  repeat' first | exact mem_refl hs | with_reducible assumption | (rename_i e; obtain rfl := snd_eq e; clear e) | split | refine mem_when ?_ ?_ | refine mem_next ?_ | refine mem_ite ?_ ?_ | refine paged_mem hs ?_ | with_reducible refine foldl_mem ?_ ?_ | with_reducible refine foldl_mem2 ?_ ?_ | with_reducible intro u a hu | (simp (maxDischargeDepth := 30) [hs]; done) | (simp (maxDischargeDepth := 30) [hs, hu]; done)
theorem execDrawPortTake_mem (b : BrickId) (s : State) (hs : s.memWf) : MemNext (execDrawPortTake b s) := by
  simp only [execDrawPortTake]
  repeat' first | exact mem_refl hs | with_reducible assumption | (rename_i e; obtain rfl := snd_eq e; clear e) | split | refine mem_when ?_ ?_ | refine mem_next ?_ | refine mem_ite ?_ ?_ | refine paged_mem hs ?_ | with_reducible refine foldl_mem ?_ ?_ | with_reducible refine foldl_mem2 ?_ ?_ | with_reducible intro u a hu | (simp (maxDischargeDepth := 30) [hs]; done) | (simp (maxDischargeDepth := 30) [hs, hu]; done)
theorem execParamPortTake_mem (b : BrickId) (s : State) (hs : s.memWf) : MemNext (execParamPortTake b s) := by
  simp only [execParamPortTake]
  repeat' first | exact mem_refl hs | with_reducible assumption | (rename_i e; obtain rfl := snd_eq e; clear e) | split | refine mem_when ?_ ?_ | refine mem_next ?_ | refine mem_ite ?_ ?_ | refine paged_mem hs ?_ | with_reducible refine foldl_mem ?_ ?_ | with_reducible refine foldl_mem2 ?_ ?_ | with_reducible intro u a hu | (simp (maxDischargeDepth := 30) [hs]; done) | (simp (maxDischargeDepth := 30) [hs, hu]; done)
theorem execParamApply_mem (b : BrickId) (s : State) (hs : s.memWf) : MemNext (execParamApply b s) := by
  simp only [execParamApply]
  repeat' first | exact mem_refl hs | with_reducible assumption | (rename_i e; obtain rfl := snd_eq e; clear e) | split | refine mem_when ?_ ?_ | refine mem_next ?_ | refine mem_ite ?_ ?_ | refine paged_mem hs ?_ | with_reducible refine foldl_mem ?_ ?_ | with_reducible refine foldl_mem2 ?_ ?_ | with_reducible intro u a hu | (simp (maxDischargeDepth := 30) [hs]; done) | (simp (maxDischargeDepth := 30) [hs, hu]; done)
theorem execTaskRecordArrival_mem (b : BrickId) (s : State) (hs : s.memWf) : MemNext (execTaskRecordArrival b s) := by
  simp only [execTaskRecordArrival]
  repeat' first | exact mem_refl hs | with_reducible assumption | (rename_i e; obtain rfl := snd_eq e; clear e) | split | refine mem_when ?_ ?_ | refine mem_next ?_ | refine mem_ite ?_ ?_ | refine paged_mem hs ?_ | with_reducible refine foldl_mem ?_ ?_ | with_reducible refine foldl_mem2 ?_ ?_ | with_reducible intro u a hu | (simp (maxDischargeDepth := 30) [hs]; done) | (simp (maxDischargeDepth := 30) [hs, hu]; done)
theorem execWindowEnter_mem (die c : Nat) (s : State) (hs : s.memWf) : MemNext (execWindowEnter die c s) := by
  simp only [execWindowEnter]
  repeat' first | exact mem_refl hs | with_reducible assumption | (rename_i e; obtain rfl := snd_eq e; clear e) | split | refine mem_when ?_ ?_ | refine mem_next ?_ | refine mem_ite ?_ ?_ | refine paged_mem hs ?_ | with_reducible refine foldl_mem ?_ ?_ | with_reducible refine foldl_mem2 ?_ ?_ | with_reducible intro u a hu | (simp (maxDischargeDepth := 30) [hs]; done) | (simp (maxDischargeDepth := 30) [hs, hu]; done)
theorem execStaleRecord_mem (die c k : Nat) (s : State) (hs : s.memWf) : MemNext (execStaleRecord die c k s) := by
  simp only [execStaleRecord]
  repeat' first | exact mem_refl hs | with_reducible assumption | (rename_i e; obtain rfl := snd_eq e; clear e) | split | refine mem_when ?_ ?_ | refine mem_next ?_ | refine mem_ite ?_ ?_ | refine paged_mem hs ?_ | with_reducible refine foldl_mem ?_ ?_ | with_reducible refine foldl_mem2 ?_ ?_ | with_reducible intro u a hu | (simp (maxDischargeDepth := 30) [hs]; done) | (simp (maxDischargeDepth := 30) [hs, hu]; done)
theorem execTaskIssue_mem (die c : Nat) (s : State) (hs : s.memWf) : MemNext (execTaskIssue die c s) := by
  simp only [execTaskIssue]
  repeat' first | exact mem_refl hs | with_reducible assumption | (rename_i e; obtain rfl := snd_eq e; clear e) | split | refine mem_when ?_ ?_ | refine mem_next ?_ | refine mem_ite ?_ ?_ | refine paged_mem hs ?_ | with_reducible refine foldl_mem ?_ ?_ | with_reducible refine foldl_mem2 ?_ ?_ | with_reducible intro u a hu | (simp (maxDischargeDepth := 30) [hs]; done) | (simp (maxDischargeDepth := 30) [hs, hu]; done)
theorem execTaskComputeEnd_mem (b : BrickId) (acc : Nat) (s : State) (hs : s.memWf) : MemNext (execTaskComputeEnd b acc s) := by
  simp only [execTaskComputeEnd]
  repeat' first | exact mem_refl hs | with_reducible assumption | (rename_i e; obtain rfl := snd_eq e; clear e) | split | refine mem_when ?_ ?_ | refine mem_next ?_ | refine mem_ite ?_ ?_ | refine paged_mem hs ?_ | with_reducible refine foldl_mem ?_ ?_ | with_reducible refine foldl_mem2 ?_ ?_ | with_reducible intro u a hu | (simp (maxDischargeDepth := 30) [hs]; done) | (simp (maxDischargeDepth := 30) [hs, hu]; done)
theorem execDrainStart_mem (b : BrickId) (acc : Nat) (s : State) (hs : s.memWf) : MemNext (execDrainStart b acc s) := by
  simp only [execDrainStart]
  repeat' first | exact mem_refl hs | with_reducible assumption | (rename_i e; obtain rfl := snd_eq e; clear e) | split | refine mem_when ?_ ?_ | refine mem_next ?_ | refine mem_ite ?_ ?_ | refine paged_mem hs ?_ | with_reducible refine foldl_mem ?_ ?_ | with_reducible refine foldl_mem2 ?_ ?_ | with_reducible intro u a hu | (simp (maxDischargeDepth := 30) [hs]; done) | (simp (maxDischargeDepth := 30) [hs, hu]; done)
theorem execDrainWord_mem (b : BrickId) (acc : Nat) (s : State) (hs : s.memWf) : MemNext (execDrainWord b acc s) := by
  simp only [execDrainWord]
  repeat' first | exact mem_refl hs | with_reducible assumption | (rename_i e; obtain rfl := snd_eq e; clear e) | split | refine mem_when ?_ ?_ | refine mem_next ?_ | refine mem_ite ?_ ?_ | refine paged_mem hs ?_ | with_reducible refine foldl_mem ?_ ?_ | with_reducible refine foldl_mem2 ?_ ?_ | with_reducible intro u a hu | (simp (maxDischargeDepth := 30) [hs]; done) | (simp (maxDischargeDepth := 30) [hs, hu]; done)
theorem execTaskDone_mem (b : BrickId) (acc : Nat) (s : State) (hs : s.memWf) : MemNext (execTaskDone b acc s) := by
  simp only [execTaskDone]
  repeat' first | exact mem_refl hs | with_reducible assumption | (rename_i e; obtain rfl := snd_eq e; clear e) | split | refine mem_when ?_ ?_ | refine mem_next ?_ | refine mem_ite ?_ ?_ | refine paged_mem hs ?_ | with_reducible refine foldl_mem ?_ ?_ | with_reducible refine foldl_mem2 ?_ ?_ | with_reducible intro u a hu | (simp (maxDischargeDepth := 30) [hs]; done) | (simp (maxDischargeDepth := 30) [hs, hu]; done)
theorem execSteerPortTake_mem (die c : Nat) (s : State) (hs : s.memWf) : MemNext (execSteerPortTake die c s) := by
  simp only [execSteerPortTake]
  repeat' first | exact mem_refl hs | with_reducible assumption | (rename_i e; obtain rfl := snd_eq e; clear e) | split | refine mem_when ?_ ?_ | refine mem_next ?_ | refine mem_ite ?_ ?_ | refine paged_mem hs ?_ | with_reducible refine foldl_mem ?_ ?_ | with_reducible refine foldl_mem2 ?_ ?_ | with_reducible intro u a hu | (simp (maxDischargeDepth := 30) [hs]; done) | (simp (maxDischargeDepth := 30) [hs, hu]; done)
theorem execSlateMapOperation_mem (n : Nat) (s : State) (hs : s.memWf) : MemNext (execSlateMapOperation n s) := by
  unfold execSlateMapOperation
  split
  · exact mem_refl hs
  · exact mem_ite (mapTurn_mem hs (fun u hu => State.mapAccess_mem _ _ hu) hs) (mem_refl hs)
theorem execSlateRelease_mem (n : Nat) (s : State) (hs : s.memWf) : MemNext (execSlateRelease n s) := by
  unfold execSlateRelease
  split
  · exact mem_refl hs
  · extract_lets _ _ _ _ _ s1 s2 _ _
    have h1 : s1.memWf := State.releaseGranules_mem _ _ _ _ hs
    have h2 : s2.memWf := by
      show (if _ then _ else _ : State).memWf
      split
      · exact State.modBrick_mem h1 (State.brick_wf h1 _)
      · exact h1
    exact mem_ite (mapTurn_mem hs (fun u hu => State.lockEntry_mem _ _ _ _ hu fun e t n ht => State.okMap_mem _ _ _ _ ht) h2) (mem_refl hs)
theorem execFrameLand_mem (n : Nat) (s : State) (hs : s.memWf) : MemNext (execFrameLand n s) := by
  simp only [execFrameLand]
  repeat' first | exact mem_refl hs | with_reducible assumption | (rename_i e; obtain rfl := snd_eq e; clear e) | split | refine mem_when ?_ ?_ | refine mem_next ?_ | refine mem_ite ?_ ?_ | refine paged_mem hs ?_ | with_reducible refine foldl_mem ?_ ?_ | with_reducible refine foldl_mem2 ?_ ?_ | with_reducible intro u a hu | (simp (maxDischargeDepth := 30) [hs]; done) | (simp (maxDischargeDepth := 30) [hs, hu]; done)
theorem execDockNotice_mem (b : BrickId) (dock : Nat) (s : State) (hs : s.memWf) : MemNext (execDockNotice b dock s) := by
  unfold execDockNotice
  extract_lets
  split
  · extract_lets t
    have ht : t.memWf := by
      show (if _ then _ else _ : State).memWf
      split
      · exact State.fetchSlate_mem _ _ _ hs
      · exact hs
    exact mem_ite (paged_mem hs (mem_next (State.modBrick_mem (s := { t with nextId := t.nextId + 1 }) ht (State.brick_wf (s := { t with nextId := t.nextId + 1 }) ht b)))) (mem_refl hs)
  · have h1 : ∀ t : Token, ∀ c, ((s.modBrick b fun x => x.modDock dock fun d => { d with st := .docked }).arriveInput b c t).memWf :=
      fun t c => State.arriveInput_mem _ _ _ _ (State.modBrick_mem hs (State.brick_wf hs b))
    exact mem_when hs (State.modBrick_mem (h1 _ _) (State.brick_wf (h1 _ _) b))
  · exact mem_refl hs
theorem execLaunchCopyEnd_mem (b : BrickId) (dock : Nat) (s : State) (hs : s.memWf) : MemNext (execLaunchCopyEnd b dock s) := by
  simp only [execLaunchCopyEnd]
  repeat' first | exact mem_refl hs | with_reducible assumption | (rename_i e; obtain rfl := snd_eq e; clear e) | split | refine mem_when ?_ ?_ | refine mem_next ?_ | refine mem_ite ?_ ?_ | refine paged_mem hs ?_ | with_reducible refine foldl_mem ?_ ?_ | with_reducible refine foldl_mem2 ?_ ?_ | with_reducible intro u a hu | (simp (maxDischargeDepth := 30) [hs]; done) | (simp (maxDischargeDepth := 30) [hs, hu]; done)
theorem execFireEnd_mem (b : BrickId) (dock : Nat) (s : State) (hs : s.memWf) : MemNext (execFireEnd b dock s) := by
  unfold execFireEnd
  split
  · have h1 := State.fireVisit_mem s b dock hs
    extract_lets t
    refine mem_ite (paged_mem hs (mem_next ?_)) (mem_refl hs)
    split
    · exact State.modBrick_mem h1 (State.brick_wf h1 b)
    · exact State.modBrick_mem h1 (State.brick_wf h1 b)
  · exact mem_refl hs
theorem execRingPortSend_mem (b : BrickId) (dock : Nat) (s : State) (hs : s.memWf) : MemNext (execRingPortSend b dock s) := by
  unfold execRingPortSend
  split
  · extract_lets
    exact mem_ite (paged_mem hs (mem_next (State.sendFrame_mem _ _ _ hs))) (mem_refl hs)
  · exact mem_when hs (State.modBrick_mem hs (State.brick_wf hs b))
  · exact mem_refl hs
theorem execFinTokenEmit_mem (b : BrickId) (dock : Nat) (s : State) (hs : s.memWf) : MemNext (execFinTokenEmit b dock s) := by
  simp only [execFinTokenEmit]
  repeat' first | exact mem_refl hs | with_reducible assumption | (rename_i e; obtain rfl := snd_eq e; clear e) | split | refine mem_when ?_ ?_ | refine mem_next ?_ | refine mem_ite ?_ ?_ | refine paged_mem hs ?_ | with_reducible refine foldl_mem ?_ ?_ | with_reducible refine foldl_mem2 ?_ ?_ | with_reducible intro u a hu | (simp (maxDischargeDepth := 30) [hs]; done) | (simp (maxDischargeDepth := 30) [hs, hu]; done)
theorem execGatewayContribution_mem (die : Nat) (s : State) (hs : s.memWf) : MemNext (execGatewayContribution die s) := by
  simp only [execGatewayContribution]
  repeat' first | exact mem_refl hs | with_reducible assumption | (rename_i e; obtain rfl := snd_eq e; clear e) | split | refine mem_when ?_ ?_ | refine mem_next ?_ | refine mem_ite ?_ ?_ | refine paged_mem hs ?_ | with_reducible refine foldl_mem ?_ ?_ | with_reducible refine foldl_mem2 ?_ ?_ | with_reducible intro u a hu | (simp (maxDischargeDepth := 30) [hs]; done) | (simp (maxDischargeDepth := 30) [hs, hu]; done)
theorem execGatewayCombine_mem (gid : Nat) (s : State) (hs : s.memWf) : MemNext (execGatewayCombine gid s) := by
  unfold execGatewayCombine
  extract_lets s1
  have h : s1.memWf := foldl_mem hs fun u a hu => State.deliver_mem _ _ _ hu
  split
  · exact mem_next h
  · exact mem_next (foldl_mem (foldl_mem h fun u a hu => State.modGateway_mem _ _ _ hu) fun u a hu => State.modGateway_mem _ _ _ hu)
theorem execFootingPacketArrival_mem (b : BrickId) (s : State) (hs : s.memWf) : MemNext (execFootingPacketArrival b s) := by
  simp only [execFootingPacketArrival]
  repeat' first | exact mem_refl hs | with_reducible assumption | (rename_i e; obtain rfl := snd_eq e; clear e) | split | refine mem_when ?_ ?_ | refine mem_next ?_ | refine mem_ite ?_ ?_ | refine paged_mem hs ?_ | with_reducible refine foldl_mem ?_ ?_ | with_reducible refine foldl_mem2 ?_ ?_ | with_reducible intro u a hu | (simp (maxDischargeDepth := 30) [hs]; done) | (simp (maxDischargeDepth := 30) [hs, hu]; done)
theorem execQueryStart_mem (eng : Nat) (s : State) (hs : s.memWf) : MemNext (execQueryStart eng s) := by
  simp only [execQueryStart]
  repeat' first | exact mem_refl hs | with_reducible assumption | (rename_i e; obtain rfl := snd_eq e; clear e) | split | refine mem_when ?_ ?_ | refine mem_next ?_ | refine mem_ite ?_ ?_ | refine paged_mem hs ?_ | with_reducible refine foldl_mem ?_ ?_ | with_reducible refine foldl_mem2 ?_ ?_ | with_reducible intro u a hu | (simp (maxDischargeDepth := 30) [hs]; done) | (simp (maxDischargeDepth := 30) [hs, hu]; done)
theorem execExpansionStep_mem (eng q : Nat) (s : State) (hs : s.memWf) : MemNext (execExpansionStep eng q s) := by
  simp only [execExpansionStep]
  repeat' first | exact mem_refl hs | with_reducible assumption | (rename_i e; obtain rfl := snd_eq e; clear e) | split | refine mem_when ?_ ?_ | refine mem_next ?_ | refine mem_ite ?_ ?_ | refine paged_mem hs ?_ | with_reducible refine foldl_mem ?_ ?_ | with_reducible refine foldl_mem2 ?_ ?_ | with_reducible intro u a hu | (simp (maxDischargeDepth := 30) [hs]; done) | (simp (maxDischargeDepth := 30) [hs, hu]; done)
theorem execDistanceRequest_mem (eng q k : Nat) (s : State) (hs : s.memWf) : MemNext (execDistanceRequest eng q k s) := by
  simp only [execDistanceRequest]
  repeat' first | exact mem_refl hs | with_reducible assumption | (rename_i e; obtain rfl := snd_eq e; clear e) | split | refine mem_when ?_ ?_ | refine mem_next ?_ | refine mem_ite ?_ ?_ | refine paged_mem hs ?_ | with_reducible refine foldl_mem ?_ ?_ | with_reducible refine foldl_mem2 ?_ ?_ | with_reducible intro u a hu | (simp (maxDischargeDepth := 30) [hs]; done) | (simp (maxDischargeDepth := 30) [hs, hu]; done)
theorem execQueryComplete_mem (eng q : Nat) (s : State) (hs : s.memWf) : MemNext (execQueryComplete eng q s) := by
  simp only [execQueryComplete]
  repeat' first | exact mem_refl hs | with_reducible assumption | (rename_i e; obtain rfl := snd_eq e; clear e) | split | refine mem_when ?_ ?_ | refine mem_next ?_ | refine mem_ite ?_ ?_ | refine paged_mem hs ?_ | with_reducible refine foldl_mem ?_ ?_ | with_reducible refine foldl_mem2 ?_ ?_ | with_reducible intro u a hu | (simp (maxDischargeDepth := 30) [hs]; done) | (simp (maxDischargeDepth := 30) [hs, hu]; done)
theorem execQblkBufferEmit_mem (b : BrickId) (s : State) (hs : s.memWf) : MemNext (execQblkBufferEmit b s) := by
  simp only [execQblkBufferEmit]
  repeat' first | exact mem_refl hs | with_reducible assumption | (rename_i e; obtain rfl := snd_eq e; clear e) | split | refine mem_when ?_ ?_ | refine mem_next ?_ | refine mem_ite ?_ ?_ | refine paged_mem hs ?_ | with_reducible refine foldl_mem ?_ ?_ | with_reducible refine foldl_mem2 ?_ ?_ | with_reducible intro u a hu | (simp (maxDischargeDepth := 30) [hs]; done) | (simp (maxDischargeDepth := 30) [hs, hu]; done)
theorem execRegionCompletion_mem (r : RegionId) (s : State) (hs : s.memWf) : MemNext (execRegionCompletion r s) := by
  simp only [execRegionCompletion]
  repeat' first | exact mem_refl hs | with_reducible assumption | (rename_i e; obtain rfl := snd_eq e; clear e) | split | refine mem_when ?_ ?_ | refine mem_next ?_ | refine mem_ite ?_ ?_ | refine paged_mem hs ?_ | with_reducible refine foldl_mem ?_ ?_ | with_reducible refine foldl_mem2 ?_ ?_ | with_reducible intro u a hu | (simp (maxDischargeDepth := 30) [hs]; done) | (simp (maxDischargeDepth := 30) [hs, hu]; done)
theorem execCompletionWordStore_mem (r : RegionId) (s : State) (hs : s.memWf) : MemNext (execCompletionWordStore r s) := by
  simp only [execCompletionWordStore]
  repeat' first | exact mem_refl hs | with_reducible assumption | (rename_i e; obtain rfl := snd_eq e; clear e) | split | refine mem_when ?_ ?_ | refine mem_next ?_ | refine mem_ite ?_ ?_ | refine paged_mem hs ?_ | with_reducible refine foldl_mem ?_ ?_ | with_reducible refine foldl_mem2 ?_ ?_ | with_reducible intro u a hu | (simp (maxDischargeDepth := 30) [hs]; done) | (simp (maxDischargeDepth := 30) [hs, hu]; done)
theorem execCountWave_mem (r : RegionId) (s : State) (hs : s.memWf) : MemNext (execCountWave r s) := by
  simp only [execCountWave]
  repeat' first | exact mem_refl hs | with_reducible assumption | (rename_i e; obtain rfl := snd_eq e; clear e) | split | refine mem_when ?_ ?_ | refine mem_next ?_ | refine mem_ite ?_ ?_ | refine paged_mem hs ?_ | with_reducible refine foldl_mem ?_ ?_ | with_reducible refine foldl_mem2 ?_ ?_ | with_reducible intro u a hu | (simp (maxDischargeDepth := 30) [hs]; done) | (simp (maxDischargeDepth := 30) [hs, hu]; done)
theorem execRegionFault_mem (r : RegionId) (s : State) (hs : s.memWf) : MemNext (execRegionFault r s) := by
  simp only [execRegionFault]
  repeat' first | exact mem_refl hs | with_reducible assumption | (rename_i e; obtain rfl := snd_eq e; clear e) | split | refine mem_when ?_ ?_ | refine mem_next ?_ | refine mem_ite ?_ ?_ | refine paged_mem hs ?_ | with_reducible refine foldl_mem ?_ ?_ | with_reducible refine foldl_mem2 ?_ ?_ | with_reducible intro u a hu | (simp (maxDischargeDepth := 30) [hs]; done) | (simp (maxDischargeDepth := 30) [hs, hu]; done)
theorem execBindSubmit_mem (r : RegionId) (w0 : Word) (s : State) (hs : s.memWf) : MemNext (execBindSubmit r w0 s) := by
  simp only [execBindSubmit]
  repeat' first | exact mem_refl hs | with_reducible assumption | (rename_i e; obtain rfl := snd_eq e; clear e) | split | refine mem_when ?_ ?_ | refine mem_next ?_ | refine mem_ite ?_ ?_ | refine paged_mem hs ?_ | with_reducible refine foldl_mem ?_ ?_ | with_reducible refine foldl_mem2 ?_ ?_ | with_reducible intro u a hu | (simp (maxDischargeDepth := 30) [hs]; done) | (simp (maxDischargeDepth := 30) [hs, hu]; done)
theorem sendReconfig_mem (s : State) (r : RegionId) (hash : Nat) (keys : List Nat) (binds : List (Nat × Nat)) (placed : List (BrickId × BrickPart)) (hs : s.memWf) :
    (s.sendReconfig r hash keys binds placed).memWf := by
  unfold State.sendReconfig
  exact State.modSlot_mem _ _ _ (foldl_mem (State.modSlot_mem _ _ _ (foldl_mem (State.logLoad_mem _ _ _ _ _ (State.bindKeys_mem _ _ _ _ hs))
    fun u a hu => State.modSched_mem _ _ _ _ hu)) fun u a hu => State.modBrick_mem hu (State.brick_wf hu _))
theorem execReconfigSubmit_mem (r : RegionId) (s : State) (hs : s.memWf) : MemNext (execReconfigSubmit r s) := by
  unfold execReconfigSubmit
  extract_lets x t y turn done
  refine mem_when hs ?_
  simp only [done]
  have hr : ∀ u c, State.memWf u → (u.reject r c).memWf := fun u c hu => State.reject_mem _ _ _ hu
  split; · exact hr _ _ hs
  split; · exact hr _ _ hs
  split; · exact hr _ _ hs
  split; · exact State.modSlot_mem _ _ _ hs
  split
  · rename_i h; exact hr _ _ (snd_mem h (State.readLoad_mem _ _ _ _ hs))
  · rename_i h
    have h1 := snd_mem h (State.readLoad_mem _ _ _ _ hs)
    split
    · exact hr _ _ h1
    · split; · exact hr _ _ h1
      split
      · split
        · exact State.raiseFault_mem _ _ _ (hr _ _ (State.noteLoadBad_mem _ _ _ h1))
        · exact h1
      · split
        · exact hr _ _ h1
        · split
          · exact hr _ _ h1
          · exact sendReconfig_mem _ _ _ _ _ _ h1
theorem execDispatchLoad_mem (die : Nat) (s : State) (hs : s.memWf) : MemNext (execDispatchLoad die s) := by
  simp only [execDispatchLoad]
  repeat' first | exact mem_refl hs | with_reducible assumption | (rename_i e; obtain rfl := snd_eq e; clear e) | split | refine mem_when ?_ ?_ | refine mem_next ?_ | refine mem_ite ?_ ?_ | refine paged_mem hs ?_ | with_reducible refine foldl_mem ?_ ?_ | with_reducible refine foldl_mem2 ?_ ?_ | with_reducible intro u a hu | (simp (maxDischargeDepth := 30) [hs]; done) | (simp (maxDischargeDepth := 30) [hs, hu]; done)
theorem execHeldRecordRelease_mem (r : RegionId) (s : State) (hs : s.memWf) : MemNext (execHeldRecordRelease r s) := by
  simp only [execHeldRecordRelease]
  repeat' first | exact mem_refl hs | with_reducible assumption | (rename_i e; obtain rfl := snd_eq e; clear e) | split | refine mem_when ?_ ?_ | refine mem_next ?_ | refine mem_ite ?_ ?_ | refine paged_mem hs ?_ | with_reducible refine foldl_mem ?_ ?_ | with_reducible refine foldl_mem2 ?_ ?_ | with_reducible intro u a hu | (simp (maxDischargeDepth := 30) [hs]; done) | (simp (maxDischargeDepth := 30) [hs, hu]; done)
theorem execBstatKill_mem (r : RegionId) (node : Nat) (s : State) (hs : s.memWf) : MemNext (execBstatKill r node s) := by
  simp only [execBstatKill]
  repeat' first | exact mem_refl hs | with_reducible assumption | (rename_i e; obtain rfl := snd_eq e; clear e) | split | refine mem_when ?_ ?_ | refine mem_next ?_ | refine mem_ite ?_ ?_ | refine paged_mem hs ?_ | with_reducible refine foldl_mem ?_ ?_ | with_reducible refine foldl_mem2 ?_ ?_ | with_reducible intro u a hu | (simp (maxDischargeDepth := 30) [hs]; done) | (simp (maxDischargeDepth := 30) [hs, hu]; done)
theorem execBstatClr_mem (r : RegionId) (s : State) (hs : s.memWf) : MemNext (execBstatClr r s) := by
  simp only [execBstatClr]
  repeat' first | exact mem_refl hs | with_reducible assumption | (rename_i e; obtain rfl := snd_eq e; clear e) | split | refine mem_when ?_ ?_ | refine mem_next ?_ | refine mem_ite ?_ ?_ | refine paged_mem hs ?_ | with_reducible refine foldl_mem ?_ ?_ | with_reducible refine foldl_mem2 ?_ ?_ | with_reducible intro u a hu | (simp (maxDischargeDepth := 30) [hs]; done) | (simp (maxDischargeDepth := 30) [hs, hu]; done)
theorem execBayGrant_mem (node baysAsked : Nat) (s : State) (hs : s.memWf) : MemNext (execBayGrant node baysAsked s) := by
  simp only [execBayGrant]
  repeat' first | exact mem_refl hs | with_reducible assumption | (rename_i e; obtain rfl := snd_eq e; clear e) | split | refine mem_when ?_ ?_ | refine mem_next ?_ | refine mem_ite ?_ ?_ | refine paged_mem hs ?_ | with_reducible refine foldl_mem ?_ ?_ | with_reducible refine foldl_mem2 ?_ ?_ | with_reducible intro u a hu | (simp (maxDischargeDepth := 30) [hs]; done) | (simp (maxDischargeDepth := 30) [hs, hu]; done)
theorem execBayReturn_mem (node bay : Nat) (s : State) (hs : s.memWf) : MemNext (execBayReturn node bay s) := by
  simp only [execBayReturn]
  repeat' first | exact mem_refl hs | with_reducible assumption | (rename_i e; obtain rfl := snd_eq e; clear e) | split | refine mem_when ?_ ?_ | refine mem_next ?_ | refine mem_ite ?_ ?_ | refine paged_mem hs ?_ | with_reducible refine foldl_mem ?_ ?_ | with_reducible refine foldl_mem2 ?_ ?_ | with_reducible intro u a hu | (simp (maxDischargeDepth := 30) [hs]; done) | (simp (maxDischargeDepth := 30) [hs, hu]; done)
theorem execSwcmd_mem (die : Nat) (value : Word) (s : State) (hs : s.memWf) : MemNext (execSwcmd die value s) := by
  simp only [execSwcmd]
  repeat' first | exact mem_refl hs | with_reducible assumption | (rename_i e; obtain rfl := snd_eq e; clear e) | split | refine mem_when ?_ ?_ | refine mem_next ?_ | refine mem_ite ?_ ?_ | refine paged_mem hs ?_ | with_reducible refine foldl_mem ?_ ?_ | with_reducible refine foldl_mem2 ?_ ?_ | with_reducible intro u a hu | (simp (maxDischargeDepth := 30) [hs]; done) | (simp (maxDischargeDepth := 30) [hs, hu]; done)
theorem execSetwStop_mem (b : BrickId) (s : State) (hs : s.memWf) : MemNext (execSetwStop b s) := by
  simp only [execSetwStop]
  repeat' first | exact mem_refl hs | with_reducible assumption | (rename_i e; obtain rfl := snd_eq e; clear e) | split | refine mem_when ?_ ?_ | refine mem_next ?_ | refine mem_ite ?_ ?_ | refine paged_mem hs ?_ | with_reducible refine foldl_mem ?_ ?_ | with_reducible refine foldl_mem2 ?_ ?_ | with_reducible intro u a hu | (simp (maxDischargeDepth := 30) [hs]; done) | (simp (maxDischargeDepth := 30) [hs, hu]; done)
theorem execSetwWaitExpiry_mem (r : RegionId) (s : State) (hs : s.memWf) : MemNext (execSetwWaitExpiry r s) := by
  unfold execSetwWaitExpiry
  extract_lets
  split
  · exact mem_refl hs
  · exact mem_when hs (State.cancelRegion_mem _ _ (State.modSlot_mem _ _ _ (foldl_mem hs fun u a hu => State.modBrick_mem hu (by simp [hu]))))
theorem execImageCapture_mem (r : RegionId) (s : State) (hs : s.memWf) : MemNext (execImageCapture r s) := by
  unfold execImageCapture
  extract_lets
  split
  · exact mem_refl hs
  · exact mem_ite (mem_next (State.cancelRegion_mem _ _ hs)) (mem_when hs (State.capture_mem _ _ _ hs))
theorem execBsrCtlPickSet_mem (b : BrickId) (s : State) (hs : s.memWf) : MemNext (execBsrCtlPickSet b s) := by
  simp only [execBsrCtlPickSet]
  repeat' first | exact mem_refl hs | with_reducible assumption | (rename_i e; obtain rfl := snd_eq e; clear e) | split | refine mem_when ?_ ?_ | refine mem_next ?_ | refine mem_ite ?_ ?_ | refine paged_mem hs ?_ | with_reducible refine foldl_mem ?_ ?_ | with_reducible refine foldl_mem2 ?_ ?_ | with_reducible intro u a hu | (simp (maxDischargeDepth := 30) [hs]; done) | (simp (maxDischargeDepth := 30) [hs, hu]; done)
theorem execBsrCtlPickClear_mem (b : BrickId) (s : State) (hs : s.memWf) : MemNext (execBsrCtlPickClear b s) := by
  simp only [execBsrCtlPickClear]
  repeat' first | exact mem_refl hs | with_reducible assumption | (rename_i e; obtain rfl := snd_eq e; clear e) | split | refine mem_when ?_ ?_ | refine mem_next ?_ | refine mem_ite ?_ ?_ | refine paged_mem hs ?_ | with_reducible refine foldl_mem ?_ ?_ | with_reducible refine foldl_mem2 ?_ ?_ | with_reducible intro u a hu | (simp (maxDischargeDepth := 30) [hs]; done) | (simp (maxDischargeDepth := 30) [hs, hu]; done)
theorem execBsrCtlStep_mem (b : BrickId) (on : Bool) (s : State) (hs : s.memWf) : MemNext (execBsrCtlStep b on s) := by
  simp only [execBsrCtlStep]
  repeat' first | exact mem_refl hs | with_reducible assumption | (rename_i e; obtain rfl := snd_eq e; clear e) | split | refine mem_when ?_ ?_ | refine mem_next ?_ | refine mem_ite ?_ ?_ | refine paged_mem hs ?_ | with_reducible refine foldl_mem ?_ ?_ | with_reducible refine foldl_mem2 ?_ ?_ | with_reducible intro u a hu | (simp (maxDischargeDepth := 30) [hs]; done) | (simp (maxDischargeDepth := 30) [hs, hu]; done)
theorem execBsrCtlPass_mem (b : BrickId) (s : State) (hs : s.memWf) : MemNext (execBsrCtlPass b s) := by
  simp only [execBsrCtlPass]
  repeat' first | exact mem_refl hs | with_reducible assumption | (rename_i e; obtain rfl := snd_eq e; clear e) | split | refine mem_when ?_ ?_ | refine mem_next ?_ | refine mem_ite ?_ ?_ | refine paged_mem hs ?_ | with_reducible refine foldl_mem ?_ ?_ | with_reducible refine foldl_mem2 ?_ ?_ | with_reducible intro u a hu | (simp (maxDischargeDepth := 30) [hs]; done) | (simp (maxDischargeDepth := 30) [hs, hu]; done)
theorem execTscfgWrite_mem (t : Nat) (value : Word) (s : State) (hs : s.memWf) : MemNext (execTscfgWrite t value s) := by
  simp only [execTscfgWrite]
  repeat' first | exact mem_refl hs | with_reducible assumption | (rename_i e; obtain rfl := snd_eq e; clear e) | split | refine mem_when ?_ ?_ | refine mem_next ?_ | refine mem_ite ?_ ?_ | refine paged_mem hs ?_ | with_reducible refine foldl_mem ?_ ?_ | with_reducible refine foldl_mem2 ?_ ?_ | with_reducible intro u a hu | (simp (maxDischargeDepth := 30) [hs]; done) | (simp (maxDischargeDepth := 30) [hs, hu]; done)
theorem execErrwinWrite_mem (value : Word) (s : State) (hs : s.memWf) : MemNext (execErrwinWrite value s) := by
  simp only [execErrwinWrite]
  repeat' first | exact mem_refl hs | with_reducible assumption | (rename_i e; obtain rfl := snd_eq e; clear e) | split | refine mem_when ?_ ?_ | refine mem_next ?_ | refine mem_ite ?_ ?_ | refine paged_mem hs ?_ | with_reducible refine foldl_mem ?_ ?_ | with_reducible refine foldl_mem2 ?_ ?_ | with_reducible intro u a hu | (simp (maxDischargeDepth := 30) [hs]; done) | (simp (maxDischargeDepth := 30) [hs, hu]; done)
theorem execRegisterWrite_mem (r : RegName) (value : Word) (s : State) (hs : s.memWf) : MemNext (execRegisterWrite r value s) := by
  simp only [execRegisterWrite]
  repeat' first | exact mem_refl hs | with_reducible assumption | (rename_i e; obtain rfl := snd_eq e; clear e) | split | refine mem_when ?_ ?_ | refine mem_next ?_ | refine mem_ite ?_ ?_ | refine paged_mem hs ?_ | with_reducible refine foldl_mem ?_ ?_ | with_reducible refine foldl_mem2 ?_ ?_ | with_reducible intro u a hu | (simp (maxDischargeDepth := 30) [hs]; done) | (simp (maxDischargeDepth := 30) [hs, hu]; done)
theorem execPatrolScrub_mem (b : BrickId) (s : State) (hs : s.memWf) : MemNext (execPatrolScrub b s) := by
  simp only [execPatrolScrub]
  repeat' first | exact mem_refl hs | with_reducible assumption | (rename_i e; obtain rfl := snd_eq e; clear e) | split | refine mem_when ?_ ?_ | refine mem_next ?_ | refine mem_ite ?_ ?_ | refine paged_mem hs ?_ | with_reducible refine foldl_mem ?_ ?_ | with_reducible refine foldl_mem2 ?_ ?_ | with_reducible intro u a hu | (simp (maxDischargeDepth := 30) [hs]; done) | (simp (maxDischargeDepth := 30) [hs, hu]; done)
theorem execErrorEvent_mem (u : UnitRef) (kind : ErrorKind) (addr : Nat) (s : State) (hs : s.memWf) : MemNext (execErrorEvent u kind addr s) := by
  cases kind with
  | corrected =>
    refine mem_next (State.weigh_mem _ _ _ _ (State.setUnit_mem _ _ _ ?_))
    split
    · exact State.modPowered_mem _ _ _ hs fun x h => h
    · exact hs
  | retry => exact mem_next (State.weigh_mem _ _ _ _ (State.setUnit_mem _ _ _ hs))
  | uncorrectable => exact mem_next (State.weigh_mem _ _ _ _ (State.markWord_mem _ _ _ (State.setUnit_mem _ _ _ hs)))
theorem execBoot_mem (s : State) (hs : s.memWf) : MemNext (execBoot s) := ⟨_, rfl, hs.1, hs.2.1, fun _ h => nomatch h⟩
theorem execMapoutRemove_mem (b : BrickId) (s : State) (hs : s.memWf) : MemNext (execMapoutRemove b s) := by
  simp only [execMapoutRemove]
  repeat' first | exact mem_refl hs | with_reducible assumption | (rename_i e; obtain rfl := snd_eq e; clear e) | split | refine mem_when ?_ ?_ | refine mem_next ?_ | refine mem_ite ?_ ?_ | refine paged_mem hs ?_ | with_reducible refine foldl_mem ?_ ?_ | with_reducible refine foldl_mem2 ?_ ?_ | with_reducible intro u a hu | (simp (maxDischargeDepth := 30) [hs]; done) | (simp (maxDischargeDepth := 30) [hs, hu]; done)
theorem execKick_mem (s : State) (hs : s.memWf) : MemNext (execKick s) := by
  have h1 : ∀ h : HostLink, h.memory = s.host.memory → ({ s with host := h } : State).memWf := fun h e => ⟨hs.1, e ▸ hs.2.1, hs.2.2⟩
  simp only [execKick]
  split
  · exact mem_refl hs
  · refine mem_when hs (h1 _ ?_)
    (repeat' split) <;> rfl
theorem execKickReread_mem (s : State) (hs : s.memWf) : MemNext (execKickReread s) := by
  have h1 : ∀ h : HostLink, h.memory = s.host.memory → ({ s with host := h } : State).memWf := fun h e => ⟨hs.1, e ▸ hs.2.1, hs.2.2⟩
  simp only [execKickReread]
  split
  · exact mem_refl hs
  · refine mem_when hs (h1 _ ?_)
    (repeat' split) <;> rfl
theorem execCompletionPost_mem (s : State) (hs : s.memWf) : MemNext (execCompletionPost s) := by
  simp only [execCompletionPost]
  repeat' first | exact mem_refl hs | with_reducible assumption | (rename_i e; obtain rfl := snd_eq e; clear e) | split | refine mem_when ?_ ?_ | refine mem_next ?_ | refine mem_ite ?_ ?_ | refine paged_mem hs ?_ | with_reducible refine foldl_mem ?_ ?_ | with_reducible refine foldl_mem2 ?_ ?_ | with_reducible intro u a hu | (simp (maxDischargeDepth := 30) [hs]; done) | (simp (maxDischargeDepth := 30) [hs, hu]; done)
theorem execCqbaseWrite_mem (value : Word) (s : State) (hs : s.memWf) : MemNext (execCqbaseWrite value s) := by
  simp only [execCqbaseWrite]
  repeat' first | exact mem_refl hs | with_reducible assumption | (rename_i e; obtain rfl := snd_eq e; clear e) | split | refine mem_when ?_ ?_ | refine mem_next ?_ | refine mem_ite ?_ ?_ | refine paged_mem hs ?_ | with_reducible refine foldl_mem ?_ ?_ | with_reducible refine foldl_mem2 ?_ ?_ | with_reducible intro u a hu | (simp (maxDischargeDepth := 30) [hs]; done) | (simp (maxDischargeDepth := 30) [hs, hu]; done)
theorem execHostNop_mem (s : State) (hs : s.memWf) : MemNext (execHostNop s) := runCommand_mem hs fun _ => mem_next hs
theorem execSummary_mem (s : State) (hs : s.memWf) : MemNext (execSummary s) := by
  refine runCommand_mem hs fun c => ?_
  have h1 : ∀ a l, (s.modHost fun h => { h with memory := cellsWrite h.memory a l }).memWf := fun a l => State.modHost_mem _ _ hs (cellsWrite_wf _ _ hs.2.1)
  extract_lets
  exact mem_next (State.endCommand_mem _ _ _ _ (h1 _ _))
theorem meetStreamed_mem (s : State) (hs : s.memWf) : s.meetStreamed.memWf := by
  unfold State.meetStreamed
  exact foldl_mem (foldl_mem hs fun u a hu => State.hbmUeRecord_mem _ _ _ hu) fun u a hu => foldl_mem hu fun v w hv => State.meetBad_mem _ _ _ hv
theorem execChkpt_mem (s : State) (hs : s.memWf) : MemNext (execChkpt s) := by
  refine runCommand_mem hs fun c => ?_
  split
  · exact mem_next (State.modHost_mem _ _ hs hs.2.1)
  · split
    · exact mem_next (State.startWave_mem _ _ _ _ _ (State.draw_mem _ hs))
    · extract_lets
      refine mem_ite ?_ (mem_when hs (State.endCommand_mem _ _ _ _ hs))
      have h1 := State.checkpointBytes_mem _ s.us (meetStreamed_mem _ (State.flushLoft_mem _ hs))
      exact mem_when hs (State.endCommand_mem _ _ _ _ (State.modHost_mem _ _ h1 h1.2.1))
theorem execTenset_mem (s : State) (hs : s.memWf) : MemNext (execTenset s) := by
  refine runCommand_mem hs fun c => ?_
  extract_lets
  exact mem_ite (mem_next (State.endCommand_mem _ _ _ _ hs)) (mem_next (State.endCommand_mem _ _ _ _ (State.setTenancy_mem _ _ _ _ _ hs)))
theorem execTenclr_mem (s : State) (hs : s.memWf) : MemNext (execTenclr s) := by
  refine runCommand_mem hs fun c => ?_
  extract_lets
  exact mem_ite (mem_next (State.endCommand_mem _ _ _ _ hs)) (mem_next (State.endCommand_mem _ _ _ _ (State.clearTenancy_mem _ _ hs)))
theorem execKeymap_mem (s : State) (hs : s.memWf) : MemNext (execKeymap s) := by
  refine runCommand_mem hs fun c => ?_
  extract_lets
  exact mem_ite (mem_next (State.endCommand_mem _ _ _ _ hs)) (mem_next (State.endCommand_mem _ _ _ _ (State.modKeySlot_mem _ _ _ hs)))
theorem restoreFrom_mem (s : State) (c : Command) (tier : List Byte) (hs : s.memWf) : (s.restoreFrom c tier).memWf := by
  unfold State.restoreFrom
  extract_lets segs good written bytesOf held
  have h1 : written.memWf := foldl_mem (s := { s with loft := [] }) hs fun u a hu => State.writeSegment_mem _ _ hu
  split
  · exact State.endCommand_mem _ _ _ _ (foldl_mem h1 fun u a hu => State.wipeSegment_mem _ _ hu)
  · exact State.endCommand_mem _ _ _ _ (State.unsealKeys_mem _ _ (foldl_mem h1 fun u a hu => State.reholdBrick_mem _ _ _ hu))
theorem execRestore_mem (safeTier : List Byte) (s : State) (hs : s.memWf) : MemNext (execRestore safeTier s) := by
  refine runCommand_mem hs fun c => ?_
  extract_lets
  refine mem_ite (mem_next (State.endCommand_mem _ _ _ _ hs)) (mem_when hs ?_)
  split
  · exact restoreFrom_mem _ _ _ hs
  · exact State.endCommand_mem _ _ _ _ hs
theorem sessionAnswer_mem (s : State) (k : Nat) (l : List Byte) (hs : s.memWf) : (s.sessionAnswer k l).memWf := by
  unfold State.sessionAnswer
  split
  · exact hs
  · exact State.spdmAnswer_mem _ _ hs
theorem openSession_mem (s : State) (k : Nat) (p : Nat × Nat) (auth : Option ((Nat × Nat) × (Nat × Nat))) (hs : s.memWf) : (s.openSession k p auth).memWf := by
  have h1 := State.drawKey_mem s hs
  unfold State.openSession
  split
  rename_i e
  replace h1 := snd_mem e h1
  extract_lets
  split
  · exact State.spdmAnswer_mem _ _ h1
  · rename_i u _ _ _ _ _ _ _
    exact State.spdmAnswer_mem _ _ (show State.memWf u from h1)
theorem execKeyload_mem (session t hash key : Nat) (s : State) (hs : s.memWf) : MemNext (execKeyload session t hash key s) := by
  unfold execKeyload
  split
  · exact mem_refl hs
  · refine mem_ite (mem_next (sessionAnswer_mem _ _ _ hs)) ?_
    split
    · exact mem_next (sessionAnswer_mem _ _ _ hs)
    · exact mem_next (sessionAnswer_mem _ _ _ (State.modKeySlot_mem _ _ _ hs))
theorem execKeydrop_mem (session slot : Nat) (s : State) (hs : s.memWf) : MemNext (execKeydrop session slot s) := by
  unfold execKeydrop
  split
  · exact mem_refl hs
  · exact mem_ite (mem_next (sessionAnswer_mem _ _ _ (State.emptySlot_mem _ _ hs))) (mem_next (sessionAnswer_mem _ _ _ hs))
theorem execSpdmGetCertificate_mem (s : State) (hs : s.memWf) : MemNext (execSpdmGetCertificate s) := by
  simp only [execSpdmGetCertificate]
  repeat' first | exact mem_refl hs | with_reducible assumption | (rename_i e; obtain rfl := snd_eq e; clear e) | split | refine mem_when ?_ ?_ | refine mem_next ?_ | refine mem_ite ?_ ?_ | refine paged_mem hs ?_ | with_reducible refine foldl_mem ?_ ?_ | with_reducible refine foldl_mem2 ?_ ?_ | with_reducible intro u a hu | (simp (maxDischargeDepth := 30) [hs]; done) | (simp (maxDischargeDepth := 30) [hs, hu]; done)
theorem execSpdmChallenge_mem (nonce : Nat) (s : State) (hs : s.memWf) : MemNext (execSpdmChallenge nonce s) := by
  simp only [execSpdmChallenge]
  repeat' first | exact mem_refl hs | with_reducible assumption | (rename_i e; obtain rfl := snd_eq e; clear e) | split | refine mem_when ?_ ?_ | refine mem_next ?_ | refine mem_ite ?_ ?_ | refine paged_mem hs ?_ | with_reducible refine foldl_mem ?_ ?_ | with_reducible refine foldl_mem2 ?_ ?_ | with_reducible intro u a hu | (simp (maxDischargeDepth := 30) [hs]; done) | (simp (maxDischargeDepth := 30) [hs, hu]; done)
theorem execSpdmGetMeasurements_mem (index nonce : Nat) (s : State) (hs : s.memWf) : MemNext (execSpdmGetMeasurements index nonce s) := by
  simp only [execSpdmGetMeasurements]
  repeat' first | exact mem_refl hs | with_reducible assumption | (rename_i e; obtain rfl := snd_eq e; clear e) | split | refine mem_when ?_ ?_ | refine mem_next ?_ | refine mem_ite ?_ ?_ | refine paged_mem hs ?_ | with_reducible refine foldl_mem ?_ ?_ | with_reducible refine foldl_mem2 ?_ ?_ | with_reducible intro u a hu | (simp (maxDischargeDepth := 30) [hs]; done) | (simp (maxDischargeDepth := 30) [hs, hu]; done)
theorem execSpdmKeyExchange_mem (request : SessionRequest) (s : State) (hs : s.memWf) : MemNext (execSpdmKeyExchange request s) := by
  cases request with
  | exchange x y auth =>
    unfold execSpdmKeyExchange
    dsimp only
    split
    · refine mem_next ?_
      split
      · exact openSession_mem _ _ _ _ hs
      · exact State.spdmAnswer_mem _ _ hs
    · exact mem_next (State.spdmAnswer_mem _ _ hs)
  | update k =>
    refine mem_next ?_
    split
    · exact sessionAnswer_mem _ _ _ hs
    · exact hs
  | heartbeat k => exact mem_next (sessionAnswer_mem _ _ _ hs)
  | leave k => exact mem_next (sessionAnswer_mem s k [] hs)
theorem execWeightChunkRead_mem (b : BrickId) (va : Nat) (s : State) (hs : s.memWf) : MemNext (execWeightChunkRead b va s) := by
  simp only [execWeightChunkRead]
  repeat' first | exact mem_refl hs | with_reducible assumption | (rename_i e; obtain rfl := snd_eq e; clear e) | split | refine mem_when ?_ ?_ | refine mem_next ?_ | refine mem_ite ?_ ?_ | refine paged_mem hs ?_ | with_reducible refine foldl_mem ?_ ?_ | with_reducible refine foldl_mem2 ?_ ?_ | with_reducible intro u a hu | (simp (maxDischargeDepth := 30) [hs]; done) | (simp (maxDischargeDepth := 30) [hs, hu]; done)
theorem linkRetry_mem (s : State) (p : Nat) (hs : s.memWf) : (s.linkRetry p).memWf := State.weigh_mem _ _ _ _ (State.setUnit_mem _ _ _ hs)
theorem execRingFlitReceive_mem (port : Nat) (flit : List Byte) (s : State) (hs : s.memWf) : MemNext (execRingFlitReceive port flit s) := by
  unfold execRingFlitReceive
  extract_lets
  refine mem_when hs ?_
  repeat' split
  · exact linkRetry_mem _ _ (State.modPort_mem _ _ _ hs)
  · exact State.modTenancy_mem _ _ _ hs
  · dsimp only
    split
    · exact linkRetry_mem _ _ (State.modPort_mem _ _ _ hs)
    · exact State.modPort_mem _ _ _ hs
  · exact State.modTenancy_mem _ _ _ (State.modPort_mem _ _ _ hs)
  · exact State.modPort_mem _ _ _ hs
theorem execLinkdown_mem (u : UnitRef) (s : State) (hs : s.memWf) : MemNext (execLinkdown u s) := by
  simp only [execLinkdown]
  repeat' first | exact mem_refl hs | with_reducible assumption | (rename_i e; obtain rfl := snd_eq e; clear e) | split | refine mem_when ?_ ?_ | refine mem_next ?_ | refine mem_ite ?_ ?_ | refine paged_mem hs ?_ | with_reducible refine foldl_mem ?_ ?_ | with_reducible refine foldl_mem2 ?_ ?_ | with_reducible intro u a hu | (simp (maxDischargeDepth := 30) [hs]; done) | (simp (maxDischargeDepth := 30) [hs, hu]; done)
theorem execPowerLimitStepDown_mem (watts : Nat) (s : State) (hs : s.memWf) : MemNext (execPowerLimitStepDown watts s) := mem_when hs (show (s.setClock _).memWf from hs)
theorem execPowerStepUp_mem (watts : Nat) (s : State) (hs : s.memWf) : MemNext (execPowerStepUp watts s) := mem_when hs (show (s.setClock _).memWf from hs)
theorem execTdiLeaveRun_mem (t : Nat) (target : TdiState) (s : State) (hs : s.memWf) : MemNext (execTdiLeaveRun t target s) := by
  simp only [execTdiLeaveRun]
  repeat' first | exact mem_refl hs | with_reducible assumption | (rename_i e; obtain rfl := snd_eq e; clear e) | split | refine mem_when ?_ ?_ | refine mem_next ?_ | refine mem_ite ?_ ?_ | refine paged_mem hs ?_ | with_reducible refine foldl_mem ?_ ?_ | with_reducible refine foldl_mem2 ?_ ?_ | with_reducible intro u a hu | (simp (maxDischargeDepth := 30) [hs]; done) | (simp (maxDischargeDepth := 30) [hs, hu]; done)
theorem execInternalAcknowledgement_mem (n : Nat) (s : State) (hs : s.memWf) : MemNext (execInternalAcknowledgement n s) := by
  simp only [execInternalAcknowledgement]
  repeat' first | exact mem_refl hs | with_reducible assumption | (rename_i e; obtain rfl := snd_eq e; clear e) | split | refine mem_when ?_ ?_ | refine mem_next ?_ | refine mem_ite ?_ ?_ | refine paged_mem hs ?_ | with_reducible refine foldl_mem ?_ ?_ | with_reducible refine foldl_mem2 ?_ ?_ | with_reducible intro u a hu | (simp (maxDischargeDepth := 30) [hs]; done) | (simp (maxDischargeDepth := 30) [hs, hu]; done)
theorem execHstAccess_mem (t : Nat) (ide : Bool) (va : Nat) (store : Option (List Byte)) (len : Nat) (s : State) (hs : s.memWf) : MemNext (execHstAccess t ide va store len s) := by
  simp only [execHstAccess]
  repeat' first | exact mem_refl hs | with_reducible assumption | (rename_i e; obtain rfl := snd_eq e; clear e) | split | refine mem_when ?_ ?_ | refine mem_next ?_ | refine mem_ite ?_ ?_ | refine paged_mem hs ?_ | with_reducible refine foldl_mem ?_ ?_ | with_reducible refine foldl_mem2 ?_ ?_ | with_reducible intro u a hu | (simp (maxDischargeDepth := 30) [hs]; done) | (simp (maxDischargeDepth := 30) [hs, hu]; done)
theorem execTdiEnterRun_mem (t : Nat) (bound : Bool) (s : State) (hs : s.memWf) : MemNext (execTdiEnterRun t bound s) := by
  simp only [execTdiEnterRun]
  repeat' first | exact mem_refl hs | with_reducible assumption | (rename_i e; obtain rfl := snd_eq e; clear e) | split | refine mem_when ?_ ?_ | refine mem_next ?_ | refine mem_ite ?_ ?_ | refine paged_mem hs ?_ | with_reducible refine foldl_mem ?_ ?_ | with_reducible refine foldl_mem2 ?_ ?_ | with_reducible intro u a hu | (simp (maxDischargeDepth := 30) [hs]; done) | (simp (maxDischargeDepth := 30) [hs, hu]; done)

end Sys2Proof.Machine
end

