-- ==== Sys2Proof/Laws/Slices.lean ====
section
/-! SUPPORT. Fields of a number, slices and nibbles: a read after a write of the same place, and of another. -/

namespace Sys2Proof.Machine

open Sys2Proof

theorem insertBits_testBit (x lo n v i : Nat) :
    (insertBits x lo n v).testBit i = if i < lo then x.testBit i else if i < lo + n then v.testBit (i - lo) else x.testBit i := by
  have e : insertBits x lo n v = 2 ^ lo * (2 ^ n * (x >>> (lo + n)) + v % 2 ^ n) + x % 2 ^ lo := by
    unfold insertBits
    rw [Nat.pow_add, Nat.mul_add]
    rw [Nat.mul_comm (x >>> (lo + n)) (2 ^ lo * 2 ^ n), Nat.mul_assoc, Nat.mul_comm (v % 2 ^ n) (2 ^ lo)]
    omega
  rw [e, Nat.testBit_two_pow_mul_add _ (Nat.mod_lt _ (Nat.two_pow_pos lo))]
  split
  · rename_i h
    rw [Nat.testBit_mod_two_pow]; simp [h]
  · rename_i h
    rw [Nat.testBit_two_pow_mul_add _ (Nat.mod_lt _ (Nat.two_pow_pos n))]
    by_cases h2 : i < lo + n
    · rw [if_pos (by omega), if_pos h2, Nat.testBit_mod_two_pow]
      have : i - lo < n := by omega
      simp [this]
    · rw [if_neg (by omega), if_neg h2, Nat.testBit_shiftRight]
      congr 1; omega

theorem bits_testBit (x hi lo i : Nat) : (bits x hi lo).testBit i = (decide (i < hi + 1 - lo) && x.testBit (lo + i)) := by
  unfold bits
  rw [Nat.testBit_mod_two_pow, Nat.testBit_shiftRight]

/-- The slices just written read as the value (R97, R99). -/
theorem readSlices_writeSlices_same (f : BitVec 448) (lo n v : Nat) (h0 : 0 < n) (h : lo + n ≤ 112) :
    readSlices (writeSlices f lo n v) lo n = v % 2 ^ (4 * n) := by
  apply Nat.eq_of_testBit_eq
  intro i
  unfold readSlices writeSlices
  rw [bits_testBit, BitVec.toNat_ofNat, Nat.testBit_mod_two_pow, insertBits_testBit, Nat.testBit_mod_two_pow]
  by_cases hi : i < 4 * n
  · have h1 : i < 4 * (lo + n) - 1 + 1 - 4 * lo := by omega
    have h2 : 4 * lo + i < 448 := by omega
    rw [if_neg (by omega), if_pos (by omega)]
    have h3 : 4 * lo + i - 4 * lo = i := by omega
    simp [h1, h2, h3, hi]
  · have h1 : ¬ i < 4 * (lo + n) - 1 + 1 - 4 * lo := by omega
    simp [h1, hi]

/-- Every other slice keeps its value (R99). -/
theorem readSlices_writeSlices_other (f : BitVec 448) (lo n v m : Nat) (h : m < lo ∨ lo + n ≤ m) (hm : m < 112) :
    readSlices (writeSlices f lo n v) m 1 = readSlices f m 1 := by
  apply Nat.eq_of_testBit_eq
  intro i
  unfold readSlices writeSlices
  rw [bits_testBit, bits_testBit, BitVec.toNat_ofNat, Nat.testBit_mod_two_pow, insertBits_testBit]
  by_cases hi : i < 4 * (m + 1) - 1 + 1 - 4 * m
  · have h2 : 4 * m + i < 448 := by omega
    simp only [hi, h2, decide_true, Bool.true_and]
    split
    · rfl
    · rw [if_neg (by omega)]
  · simp [hi]

theorem nibbleGet_set (l : List Host.Cell) (n m v : Nat) (h : Memory.wf l = true) :
    nibbleGet (nibbleSet l n v) m = if m = n then v % 16 else nibbleGet l m := by
  unfold nibbleSet nibbleGet
  rw [cellsGet_set _ _ _ h]
  by_cases hb : m / 2 = n / 2
  · rw [if_pos hb, hb]
    have small : insertBits (cellsGet l (n / 2)).toNat (4 * (n % 2)) 4 v < 256 := by
      have hx := (cellsGet l (n / 2)).isLt
      unfold insertBits
      have : n % 2 = 0 ∨ n % 2 = 1 := by omega
      rcases this with e | e <;> simp only [e, Nat.shiftRight_eq_div_pow] <;> omega
    rw [BitVec.toNat_ofNat, Nat.mod_eq_of_lt small]
    have hx := (cellsGet l (n / 2)).isLt
    unfold insertBits
    have hn : n % 2 = 0 ∨ n % 2 = 1 := by omega
    have hm : m % 2 = 0 ∨ m % 2 = 1 := by omega
    rcases hn with e | e <;> rcases hm with e' | e' <;> simp only [e, e', Nat.shiftRight_eq_div_pow]
    · rw [if_pos (by omega)]; omega
    · rw [if_neg (by omega)]; omega
    · rw [if_neg (by omega)]; omega
    · rw [if_pos (by omega)]; omega
  · rw [if_neg hb, if_neg (by omega)]

/-- The nibbles just written read as the value, and every other nibble as before (R210). -/
theorem nibbleGet_write : ∀ (len n v m : Nat) {l : List Host.Cell}, Memory.wf l = true →
    nibbleGet (nibblesWrite l n len v) m = if n ≤ m ∧ m < n + len then v / 16 ^ (m - n) % 16 else nibbleGet l m := by
  intro len
  induction len with
  | zero =>
    intro n v m l h
    rw [if_neg (by omega)]
    rfl
  | succ len ih =>
    intro n v m l h
    show nibbleGet (nibblesWrite (nibbleSet l n v) (n + 1) len (v / 16)) m = _
    rw [ih (n + 1) (v / 16) m (nibbleSet_wf n v h), nibbleGet_set _ _ _ _ h]
    by_cases h1 : n + 1 ≤ m ∧ m < n + 1 + len
    · rw [if_pos h1, if_pos (by omega), Nat.div_div_eq_div_mul, ← Nat.pow_succ']
      congr 3; omega
    · rw [if_neg h1]
      by_cases h2 : m = n
      · subst h2; rw [if_pos rfl, if_pos (by omega)]; simp
      · rw [if_neg h2, if_neg (by omega)]

end Sys2Proof.Machine
end

