-- ==== Sys2Proof/Tests/Slice0.lean ====
section
/-! SUPPORT. Tests: words written out from the encoding tables of the spec decode to their instructions and fire; each check of the loader refuses an ill-formed term; worked examples of the spec; and states that meet the hypotheses of the statements. -/

namespace Sys2Proof.Tests.Slice0

open Sys2Proof Sys2Proof.Machine

/-! One theorem at a time: each holds much memory while the kernel evaluates it. -/
set_option Elab.async false

/-! ## Decoding and firing -/

/-- The word decodes to an instruction that `p` accepts. -/
def decodesTo (w : Nat) (p : Instr → Bool) : Bool :=
  match decodeTableWord 64 w with
  | some i => p i
  | none => false

/-- Placed to be fetched, the word decodes to an instruction that `p` accepts, which may fire there and is what the picker takes: the hypotheses of the statements about rules. -/
def fires (w : Nat) (p : Instr → Bool) : Bool :=
  let s := State.reset.withFetchWord 64 w
  match decode true (BitVec.ofNat 64 w) with
  | .instr i => p i && i.wf true && (encode i = some (BitVec.ofNat 64 w)) && s.focus = (0, 0) && s.focusWord = BitVec.ofNat 64 w &&
      pickerRuns s.now (s.brick 0) && eligible s 0 0 s.focusWord i && s.picked 0 = some (0, i) && (beatOf i).isSome && (ruleInfo i).isSome
  | _ => false

theorem mayFire_of_fires {w : Nat} {p : Instr → Bool} (h : fires w p = true) : ∃ i, p i = true ∧ MayFire i (State.reset.withFetchWord 64 w) := by
  unfold fires at h
  split at h
  · rename_i i _
    simp only [Bool.and_eq_true, decide_eq_true_eq] at h
    refine ⟨i, h.1.1.1.1.1.1.1.1.1, ?_⟩
    exact ⟨h.1.1.1.1.2, h.1.1.1.2⟩
  · simp at h

/-- Integer arithmetic: each word, written from R30, R32, R44 and the encoding table of its rule, is the instruction it stands for, and fires. -/
theorem test_wordsArithmetic_1 :
    fires 0x0200000018820600 (· matches .add ..) = true ∧
    fires 0x0400000018820600 (· matches .sub ..) = true ∧
    fires 0x0600000018820624 (· matches .adc ..) = true ∧
    fires 0x0800000018820624 (· matches .sbb ..) = true ∧
    fires 0x0a000000188fff40 (· matches .addi ..) = true ∧
    fires 0x0c00000018820600 (· matches .mul ..) = true ∧
    fires 0x0e00000018820600 (· matches .mulh ..) = true ∧
    fires 0x1000000018820600 (· matches .mulhu ..) = true := by decide +kernel
theorem test_wordsArithmetic_2 :
    fires 0x1200000018820600 (· matches .mad ..) = true ∧
    fires 0x1400000018820600 (· matches .divu ..) = true ∧
    fires 0x1600000018820600 (· matches .remu ..) = true ∧
    fires 0x1800000018820600 (· matches .divs ..) = true ∧
    fires 0x1a00000018820600 (· matches .rems ..) = true ∧
    fires 0x1c00000018820600 (· matches .adds ..) = true ∧
    fires 0x1e00000018820600 (· matches .addsu ..) = true ∧
    fires 0x2000000018820600 (· matches .subs ..) = true := by decide +kernel
theorem test_wordsArithmetic_3 :
    fires 0x2200000018820600 (· matches .subsu ..) = true ∧
    fires 0x2400000018820600 (· matches .min ..) = true ∧
    fires 0x2600000018820600 (· matches .max ..) = true ∧
    fires 0x2800000018820600 (· matches .minu ..) = true ∧
    fires 0x2a00000018820600 (· matches .maxu ..) = true ∧
    fires 0x2c00000018820000 (· matches .abs ..) = true ∧
    fires 0x2e00000018820000 (· matches .neg ..) = true := by decide +kernel

/-- Logic, shifts and fields: each word, written from R30, R32, R44 and the encoding table of its rule, is the instruction it stands for, and fires. -/
theorem test_wordsLogic_1 :
    fires 0x3000000018820600 (· matches .and ..) = true ∧
    fires 0x3200000018820600 (· matches .or ..) = true ∧
    fires 0x3400000018820600 (· matches .xor ..) = true ∧
    fires 0x3600000018820600 (· matches .andn ..) = true ∧
    fires 0x3800000018820600 (· matches .orn ..) = true ∧
    fires 0x3a00000018820600 (· matches .xnor ..) = true ∧
    fires 0x3c000000188fff40 (· matches .andi ..) = true ∧
    fires 0x3e000000188fff40 (· matches .ori ..) = true := by decide +kernel
theorem test_wordsLogic_2 :
    fires 0x40000000188fff40 (· matches .xori ..) = true ∧
    fires 0x4200000018820600 (· matches .shl ..) = true ∧
    fires 0x4400000018820600 (· matches .shr ..) = true ∧
    fires 0x4600000018820600 (· matches .sar ..) = true ∧
    fires 0x4800000018820600 (· matches .rol ..) = true ∧
    fires 0x4a00000018820140 (· matches .shli ..) = true ∧
    fires 0x4c00000018820140 (· matches .shri ..) = true ∧
    fires 0x4e00000018820140 (· matches .sari ..) = true := by decide +kernel
theorem test_wordsLogic_3 :
    fires 0x5000000018820140 (· matches .roli ..) = true ∧
    fires 0x5200000011402280 (· matches .bext ..) = true ∧
    fires 0x5400000018820680 (· matches .bexts ..) = true ∧
    fires 0x5600000018820680 (· matches .bins ..) = true ∧
    fires 0x58000000188201c0 (· matches .sext ..) = true ∧
    fires 0x5a00000018820000 (· matches .clz ..) = true ∧
    fires 0x5c00000018820000 (· matches .ctz ..) = true ∧
    fires 0x5e00000018820000 (· matches .popc ..) = true := by decide +kernel
theorem test_wordsLogic_4 :
    fires 0x6000000018820000 (· matches .brev ..) = true := by decide +kernel

/-- Moves and compares: each word, written from R30, R32, R44 and the encoding table of its rule, is the instruction it stands for, and fires. -/
theorem test_wordsMoves_1 :
    fires 0x6200000018821d00 (· matches .mov ..) = true ∧
    fires 0x6400000018820040 (· matches .movw ..) = true ∧
    fires 0x66000000194ffec0 (· matches .movi ..) = true ∧
    fires 0x6800000018801540 (· matches .movhi ..) = true ∧
    fires 0x6a00000018820618 (· matches .sel ..) = true ∧
    fires 0x6c0000001f42060c (· matches .cmpeq ..) = true ∧
    fires 0x6e0000001f42060c (· matches .cmpne ..) = true ∧
    fires 0x700000001f42060c (· matches .cmplt ..) = true := by decide +kernel
theorem test_wordsMoves_2 :
    fires 0x720000001f42060c (· matches .cmpltu ..) = true ∧
    fires 0x740000001f42060c (· matches .cmple ..) = true ∧
    fires 0x760000001f42060c (· matches .cmpleu ..) = true ∧
    fires 0x78000000188fff52 (· matches .cmpeqi ..) = true ∧
    fires 0x7a000000188fff52 (· matches .cmplti ..) = true ∧
    fires 0x7c000000188fff52 (· matches .cmpltui ..) = true ∧
    fires 0x7e0000001f4200ce (· matches .btst ..) = true := by decide +kernel

/-- Floating point: each word, written from R30, R32, R44 and the encoding table of its rule, is the instruction it stands for, and fires. -/
theorem test_wordsFloats_1 :
    fires 0x8000000028820600 (· matches .fadd ..) = true ∧
    fires 0x8200000028820600 (· matches .fsub ..) = true ∧
    fires 0x8400000018820600 (· matches .fmul ..) = true ∧
    fires 0x8600000021000100 (· matches .ffma ..) = true ∧
    fires 0x8800000028820600 (· matches .ffms ..) = true ∧
    fires 0x8a00000028820600 (· matches .fmin ..) = true ∧
    fires 0x8c00000028820600 (· matches .fmax ..) = true ∧
    fires 0x8e00000028820600 (· matches .fminm ..) = true := by decide +kernel
theorem test_wordsFloats_2 :
    fires 0x9000000028820600 (· matches .fmaxm ..) = true ∧
    fires 0x920000002f42060a (· matches .fcmpeq ..) = true ∧
    fires 0x940000002f42060a (· matches .fcmplt ..) = true ∧
    fires 0x960000002f42060a (· matches .fcmple ..) = true ∧
    fires 0x980000002f42060a (· matches .fcmpun ..) = true ∧
    fires 0x9a00000020820000 (· matches .fabs ..) = true ∧
    fires 0x9c00000020820000 (· matches .fneg ..) = true ∧
    fires 0x9e00000028820600 (· matches .fscb ..) = true := by decide +kernel
theorem test_wordsFloats_3 :
    fires 0xa000000028820600 (· matches .fdiv ..) = true := by decide +kernel

/-- Functions, conversions and blocks: each word, written from R30, R32, R44 and the encoding table of its rule, is the instruction it stands for, and fires. -/
theorem test_wordsFunctions_1 :
    fires 0xa200000028820000 (· matches .sfuExp2 ..) = true ∧
    fires 0xa200000028820040 (· matches .sfuLog2 ..) = true ∧
    fires 0xa200000028820080 (· matches .sfuRcp ..) = true ∧
    fires 0xa2000000288200c0 (· matches .sfuRsqrt ..) = true ∧
    fires 0xa200000028820100 (· matches .sfuSqrt ..) = true ∧
    fires 0xa200000028820140 (· matches .sfuTanh ..) = true ∧
    fires 0xa200000028820180 (· matches .sfuSinpi ..) = true ∧
    fires 0xa2000000288201c0 (· matches .sfuCospi ..) = true := by decide +kernel
theorem test_wordsFunctions_2 :
    fires 0xa4000000288200c0 (· matches .cvt ..) = true ∧
    fires 0xa600000028820140 (· matches .cvtfi ..) = true ∧
    fires 0xa800000028820140 (· matches .cvtif ..) = true ∧
    fires 0xaa00000028820000 (· matches .frnd ..) = true ∧
    fires 0xac00000068821d00 (· matches .fsum ..) = true ∧
    fires 0xae00000068821d00 (· matches .fmaxr ..) = true ∧
    fires 0xb000000058820600 (· matches .fdot ..) = true ∧
    fires 0xb200000028820600 (· matches .expd ..) = true := by decide +kernel
theorem test_wordsFunctions_3 :
    fires 0xb4000020cf2e0140 (· matches .qblk ..) = true ∧
    fires 0xb600000028820600 (· matches .dqblk ..) = true ∧
    fires 0xb800000008821d00 (· matches .bpspl ..) = true ∧
    fires 0xba00000008820600 (· matches .bpjn ..) = true ∧
    fires 0xbc0000002f421052 (· matches .fcls ..) = true := by decide +kernel

/-- Predicates and control: each word, written from R30, R32, R44 and the encoding table of its rule, is the instruction it stands for, and fires. -/
theorem test_wordsPredicates :
    fires 0xc000000019480000 (· matches .plog ..) = true ∧
    fires 0xc20000000001e0a0 (· matches .psetv ..) = true ∧
    fires 0xc4000000088e8000 (· matches .ptos ..) = true ∧
    fires 0xc60000000f420000 (· matches .stop ..) = true ∧
    fires 0xc80000001f420240 (· matches .trap ..) = true ∧
    fires 0xca000000074e8240 (· matches .bkpt ..) = true ∧
    fires 0xcc000000074e8000 (· matches .idle ..) = true ∧
    fires 0xce000000074e8000 (· matches .nop ..) = true := by decide +kernel

/-- The bank: each word, written from R30, R32, R44 and the encoding table of its rule, is the instruction it stands for, and fires. -/
theorem test_wordsBank_1 :
    fires 0xd0000000188000c0 (· matches .ldb ..) = true ∧
    fires 0xd2000000188200c0 (· matches .stb ..) = true ∧
    fires 0xd4000000188200c0 (· matches .ldbi ..) = true ∧
    fires 0xd6000000188200c0 (· matches .stbi ..) = true ∧
    fires 0xd800000028820000 (· matches .atb ..) = true ∧
    fires 0xda00000028820000 (· matches .casb ..) = true ∧
    fires 0xdc00000018820000 (· matches .spl ..) = true ∧
    fires 0xde00000018820000 (· matches .fil ..) = true := by decide +kernel
theorem test_wordsBank_2 :
    fires 0xee00000018820840 (· matches .ldpw ..) = true := by decide +kernel

/-- Channels: each word, written from R30, R32, R44 and the encoding table of its rule, is the instruction it stands for, and fires. -/
theorem test_wordsChannels :
    fires 0xe00000001a74009a (· matches .emit ..) = true ∧
    fires 0xe20000002c74400a (· matches .eos ..) = true ∧
    fires 0xe400000000740000 (· matches .mark ..) = true ∧
    fires 0xe600000000740000 (· matches .weep ..) = true ∧
    fires 0xe800004000710000 (· matches .drop ..) = true ∧
    fires 0xea0000203af00000 (· matches .rtag ..) = true ∧
    fires 0xec0000002e08000c (· matches .steer ..) = true := by decide +kernel

/-- Global memory and streams: each word, written from R30, R32, R44 and the encoding table of its rule, is the instruction it stands for, and fires. -/
theorem test_wordsGlobal :
    fires 0xf000000069e803a0 (· matches .gld ..) = true ∧
    fires 0xf2000000281043a0 (· matches .gst ..) = true ∧
    fires 0xf400000010104018 (· matches .gat ..) = true ∧
    fires 0xf600000028e9d3a0 (· matches .strmArm ..) = true ∧
    fires 0xf600000029e9d3a0 (· matches .strmAbort ..) = true ∧
    fires 0xf60000002a41d3a0 (· matches .strmStat ..) = true := by decide +kernel

/-- Tasks, slates, docks and queries: each word, written from R30, R32, R44 and the encoding table of its rule, is the instruction it stands for, and fires. -/
theorem test_wordsEngines_1 :
    fires 0xf800000000e803a0 (· matches .ttq ..) = true ∧
    fires 0xf800000020e80020 (· matches .ttqTid ..) = true ∧
    fires 0xfa00000000e9d008 (· matches .slfFire ..) = true ∧
    fires 0xfa00000001104000 (· matches .slfHdrLaunch ..) = true ∧
    fires 0xfa00000001110100 (· matches .slfHdrRd ..) = true ∧
    fires 0xfa00000001110200 (· matches .slfHdrWr ..) = true ∧
    fires 0xfa00000002e21c00 (· matches .slfFin ..) = true ∧
    fires 0xfa00000003e81c00 (· matches .slfRoute ..) = true := by decide +kernel
theorem test_wordsEngines_2 :
    fires 0xfa00000004060000 (· matches .slfPin ..) = true ∧
    fires 0xfa00000005044008 (· matches .slfUnpin ..) = true ∧
    fires 0xfa00000006044000 (· matches .slfLook ..) = true ∧
    fires 0xfc00000000e80010 (· matches .fqryPost ..) = true ∧
    fires 0xfc00000001e82010 (· matches .fqryCncl ..) = true := by decide +kernel

/-- System: each word, written from R30, R32, R44 and the encoding table of its rule, is the instruction it stands for, and fires. -/
theorem test_wordsSystem :
    fires 0xfe00000000e9d018 (· matches .sysXfence ..) = true ∧
    fires 0xfe00000001082018 (· matches .sysHandover ..) = true ∧
    fires 0xfe0000000251d000 (· matches .sysRdbsr ..) = true ∧
    fires 0xfe00000003e82068 (· matches .sysWrbsr ..) = true ∧
    fires 0xfe00000004162000 (· matches .sysWatch ..) = true ∧
    fires 0xfe000000050423a0 (· matches .sysSink ..) = true ∧
    fires 0xfe0000000641d008 (· matches .sysWptr ..) = true ∧
    fires 0xfe0000000741d3a0 (· matches .sysRdts ..) = true := by decide +kernel

/-! ## Ill-formed terms: one for each check of R47 -/

def head0 : Head := { pcare := 0, pval := 0, inrdy := 0, tagEn := 0, tagCh := 0, tagTag := 0, beats := 0 }
def body0 : TBody := { wid := 3, d := 8, a := 16, b := 24, pdst := 0, pmode := 0, keep := 0 }
def bodyU : UBody := { wid := 3, d := 8, a := 16, imm7 := 0, pdst := 0, pmode := 0, keep := 0 }
def bodyX : XBody := { sub := 0, d := 116, a := 0, b := 0, keep := 0, z := 0 }

theorem test_wellFormed_terms : (Instr.add head0 body0).wf true = true ∧ (Instr.abs head0 bodyU).wf true = true ∧ (Instr.slfFire head0 bodyX).wf true = true := by
  decide +kernel
theorem test_wf_refuses_HEAD : (Instr.add { head0 with pval := 1 } body0).wf true = false := by decide +kernel
theorem test_wf_refuses_WIDTH : (Instr.fadd head0 { body0 with wid := 6 }).wf true = false := by decide +kernel
theorem test_wf_refuses_BEATS : (Instr.slfFire { head0 with beats := 1 } bodyX).wf true = false := by decide +kernel
theorem test_wf_refuses_SUBOP : (Instr.abs head0 { bodyU with imm7 := 1 }).wf true = false := by decide +kernel
theorem test_wf_refuses_OPCODE7 : (Instr.add head0 { body0 with a := 120 }).wf true = false := by decide +kernel
theorem test_wf_refuses_DSTILL : (Instr.add head0 { body0 with d := 117 }).wf true = false := by decide +kernel
theorem test_wf_refuses_UNUSED : (Instr.mov head0 body0).wf true = false := by decide +kernel
theorem test_wf_refuses_RANGE : (Instr.add head0 { body0 with d := 109 }).wf true = false := by decide +kernel
theorem test_wf_refuses_PMODE : (Instr.add head0 { body0 with pdst := 1 }).wf true = false := by decide +kernel
theorem test_wf_refuses_RESV : (Instr.slfFire head0 { bodyX with z := 1 }).wf true = false := by decide +kernel
theorem test_wf_refuses_other_subop : (Instr.sfuExp2 head0 { bodyU with wid := 5, imm7 := 1 }).wf true = false := by decide +kernel

/-- Words that fail each check, the first failing check of the table being the reason (R47). -/
theorem test_rejected_words :
    decode true 0x0000000000000001 = .rejected .invbits ∧ decode true 0xBE00000000000000 = .rejected .opcode ∧
    decode true 0x0200020018820600 = .rejected .head ∧ decode true 0x80000000308204C0 = .rejected .width := by decide +kernel

/-! ## Worked examples of the spec -/

/-- What beat 0 of a rule word writes, on a brick set up by `f`. -/
def result (w : Nat) (f : Brick → Brick) : Option Nat :=
  let s := (State.reset.withFetchWord 64 w).modBrick 0 f
  match decode true (BitVec.ofNat 64 w) with
  | .instr i => match beatOf i, ruleInfo i with
    | some o, some r => (o s 0 (mkFiring s 0 0 s.focusWord i r) r 0).write
    | _, _ => none
  | _ => none

/-- Slices from `lo` on hold the value. -/
def holds (lo v : Nat) (x : Brick) : Brick := { x with slices := x.slices ||| BitVec.ofNat 448 (v * 16 ^ lo) }

/-- The worked example of R121: the field at bits [8:6] of 0x01C0. -/
theorem test_example_BEXT : result 0x5200000011402280 (holds 0 0x01C0) = some 7 := by decide +kernel
/-- The worked examples of R173. -/
theorem test_example_planes :
    result (0x5C * 2 ^ 57 + 2 ^ 27 + 16 * 2 ^ 20 + 116 * 2 ^ 6) (holds 0 0xB3) = some 0x0101000001010001 ∧
    result (0x5D * 2 ^ 57 + 2 ^ 27 + 32 * 2 ^ 20 + 16 * 2 ^ 13 + 48 * 2 ^ 6) (fun x => holds 16 0x0101000001010001 (holds 48 3 x)) = some 0xA0 := by decide +kernel
/-- The worked example of R164: EXPD of -3.0 and 2.0 is 2^-5, of -∞ and 2.0 is +0, and of -∞ and -∞ is NaN. -/
theorem test_example_EXPD :
    let w := 0x59 * 2 ^ 57 + 5 * 2 ^ 27 + 8 * 2 ^ 20 + 0 * 2 ^ 13 + 16 * 2 ^ 6
    result w (fun x => holds 0 0xC0400000 (holds 16 0x40000000 x)) = some 0x3D000000 ∧
    result w (fun x => holds 0 0xFF800000 (holds 16 0x40000000 x)) = some 0 ∧
    result w (fun x => holds 0 0xFF800000 (holds 16 0xFF800000 x)) = some 0x7FC00000 := by decide +kernel
/-- The worked example of R95: `bsr.fires` reads 0x412 before the rule commits. -/
theorem test_example_RDBSR : result 0xFE0000000251D000 (fun x => { x with fires := 0x412 }) = some 0x412 := by decide +kernel
/-- The worked example of R218: LDB.16 with offset 3 at address 0x0100 reads bytes 0x0106 and 0x0107. -/
theorem test_example_LDB : result 0xD0000000188000C0 (fun x => { holds 0 0x100 x with bank := cellsWrite [] 0x106 [0x34, 0x12] }) = some 0x1234 := by decide +kernel
/-- R114 by hand: -8 / -1 at 4 bits overflows to -8; a divisor of zero gives all ones; -7 / 2 rounds toward zero. -/
theorem test_divide :
    let divs := 0x0C * 2 ^ 57 + 8 * 2 ^ 20 + 0 * 2 ^ 13 + 1 * 2 ^ 6
    result divs (fun x => holds 0 8 (holds 1 15 x)) = some 8 ∧ result divs (holds 0 8) = some 15 ∧
    result divs (fun x => holds 0 9 (holds 1 2 x)) = some 13 := by decide +kernel

/-! ## States that meet the hypotheses of the statements about events -/

/-- Reset, with brick 0.0.0 changed. -/
def on (f : Brick → Brick) : State := State.reset.modBrick 0 f
def slot0 : RegionId := { die := 0, slot := 0 }
def data (v : Nat) : Token := dataToken v
def running (x : Brick) : Brick := { x.setPick true with life := .running, region := some slot0 }
/-- A region in RUN on brick 0.0.0. -/
def region (f : Slot → Slot) (g : Brick → Brick) : State :=
  (State.reset.modSlot slot0 fun x => f { x with st := .run, bricks := [0] }).modBrick 0 fun x => g (running x)

/-! Tokens move -/

def flight0 : Flight := { tok := data 7, src := 1, port := 0, dest := .input 0 2, due := 0 }
theorem test_witness_tokenArrival :
    let s : State := { State.reset with flights := [flight0] }
    s.flights[0]? = some flight0 ∧ flight0.due ≤ s.now ∧ firstOfItsPath s.flights 0 flight0 = true ∧ s.placeFor flight0 = true ∧
    flight0.dest = .input 0 2 ∧ (s.brick 0).discard = false ∧ ((s.brick 0).input 2).watch = none ∧ ((s.brick 0).input 2).gutter = none := by decide +kernel
def gutter0 : Gutter := { off := 0x1000, size := 256, count := 1 }
theorem test_witness_gutterRefill :
    let g := gutter0
    let s := on fun x => x.modInput 1 fun i => { i with gutter := some g }
    let t := s.modBrick 0 fun x => { x with bankUe := [0x1000 / 8] }
    let u := on fun x => x.modInput 1 fun i => { i with gutter := some { g with stopped := true, trap := some 1 } }
    ((u.brick 0).input 1).gutter = some { g with stopped := true, trap := some 1 } ∧ (u.brick 0).firings = [] ∧ (u.brick 0).trapValid = false ∧
    ((s.brick 0).input 1).gutter = some g ∧ 0 < g.count ∧ g.stopped = false ∧ g.trap = none ∧ 0 < ((s.brick 0).input 1).queueFree ∧
    ((s.brick 0).wordUe (g.addr 0 / 8) || (s.brick 0).wordUe (g.addr 0 / 8 + 1)) = false ∧
    ((t.brick 0).input 1).gutter = some g ∧ 0 < ((t.brick 0).input 1).queueFree ∧
    ((t.brick 0).wordUe (g.addr 0 / 8) || (t.brick 0).wordUe (g.addr 0 / 8 + 1)) = true ∧ 1 < (t.brick 0).inputs.length := by decide +kernel
theorem test_witness_tokenForward :
    let s := on fun x => x.modOut 0 fun p => { p with route := [.input 1 0], skid := [{ tok := data 7, todo := [0] }] }
    let t := on fun x => x.modOut 0 fun p => { p with route := [.input 1 0], skid := [{ tok := data 7, todo := [0], forked := true }] }
    ((s.portOf (.out 0 0)).skid.findIdx? fun e => !e.forked) = some 0 ∧ s.frozen (.out 0 0) = false ∧
    ((t.portOf (.out 0 0)).skid.findIdx? fun e => e.forked && e.todo.contains 0) = some 0 ∧ t.frozen (.out 0 0) = false ∧
    t.branchOpen (.out 0 0) 0 0 = true := by decide +kernel
def heads (t : Token) (x : Brick) : Brick := (running x).modInput 0 fun i => { i with connected := true, queue := [t] }
theorem test_witness_align_and_weep :
    let s := on (heads (markToken 0))
    let t := on (heads (weepToken 0))
    let u := on fun x => { running x with weep := .ordered }
    alignReady s.now (s.brick 0) = true ∧ weepReady t.now (t.brick 0) = true ∧ (t.brick 0).weep ≠ .ordered ∧
    (u.brick 0).weep = .ordered ∧ (u.brick 0).firings = [] ∧ (u.brick 0).outputsHaveRoom = true := by decide +kernel
theorem test_witness_pickerWake :
    let s : State := { on fun x => { running x with idle := some (0, true) } with now := 1 }
    (s.brick 0).mayResume s.now = true := by decide +kernel
theorem test_witness_qblkBufferEmit :
    let s := on fun x => { x with qblk := some (0, [1, 2], 0) }
    (s.brick 0).qblk = some (0, [1, 2], 0) ∧ 0 ≤ s.now ∧ 1 ≤ (s.brick 0).room 0 ∧ (s.brick 0).portClear 0 = true := by decide +kernel
theorem test_witness_regionRoundUpdate :
    let s := region id fun x => { x with round := 1 }
    (s.slot slot0).active = true ∧ (s.slot slot0).round ≠ s.leastRound slot0 := by decide +kernel

/-! Regions start -/

theorem test_witness_bindSubmit : (State.reset.slot slot0).st = .free ∧ (0x8000000000000000 : Word).getLsbD 63 = true ∧ (0 : Word).getLsbD 63 = false := by decide +kernel
theorem test_witness_dispatchLoad :
    let s := State.reset.modSlot slot0 fun x => { x with st := .load }
    let t := State.reset.modSlot slot0 fun x => { x with st := .valid, order := 1 }
    s.loading 0 = some slot0 ∧ (s.slot slot0).ranAt ≤ s.now ∧
    t.loading 0 = none ∧ t.nextValid 0 = some slot0 ∧ (t.slot slot0).rcf = false := by decide +kernel
theorem test_witness_heldRecordRelease :
    let s := State.reset.modSlot slot0 fun x => { x with st := .hold, bricks := [0] }
    (s.slot slot0).st = .hold ∧ (s.slot slot0).rcf = false ∧ s.loading slot0.die = none ∧
    s.mustHold (s.slot slot0) (s.slot slot0).bricks = false ∧ s.behindHeld slot0 (s.slot slot0).bricks = false := by decide +kernel
def slot1 : RegionId := { die := 0, slot := 1 }
/-- A live node 0 of tenancy 0, a region of it in slot 0, and a reconfiguration of that region with the next GEN in slot 1. -/
def reconfig (f g : Slot → Slot) : State :=
  ({ State.reset with nodes := [(0, [0xFFF0000000001, 0, 0, 0, 1, 0, 0, 0])] }.modSlot slot0 fun x => f { x with st := .run }).modSlot slot1 fun x =>
    g { x with st := .valid, order := 1, words := [0xC000000000800000, 0, 0, 0, 0, 0, 0, 0] }
theorem test_witness_reconfigSubmit :
    let s := reconfig id id
    let t := reconfig id fun x => { x with words := [0xC000000000000000, 0, 0, 0, 0, 0, 0, 0] }
    let u := reconfig (fun x => { x with st := .drain }) fun x => { x with st := .hold }
    (s.slot slot1).rcf = true ∧ (s.slot slot1).st = .valid ∧ s.nextValid slot1.die = some slot1 ∧ s.loading slot1.die = none ∧
    (s.slot slot1).target slot1 = slot0 ∧ (s.slot slot1).reconfigFormat (s.slot slot0) = true ∧ s.nodeOk (s.slot slot1) = true ∧
    (s.slot slot0).st = .run ∧ (s.slot slot0).wave = none ∧ s.reconfiguring slot0 = false ∧
    (t.slot slot1).rcf = true ∧ (t.slot slot1).st = .valid ∧ t.nextValid 0 = some slot1 ∧ t.loading 0 = none ∧
    (t.slot slot1).reconfigFormat (t.slot slot0) = false ∧
    (u.slot slot1).rcf = true ∧ (u.slot slot1).st = .hold ∧ u.reconfiguring slot0 = false ∧ (u.slot slot1).reconfigFormat (u.slot slot0) = true ∧
    u.nodeOk (u.slot slot1) = true ∧ (u.slot slot0).st ≠ .run := by decide +kernel
def hold0 : Hold := { pool := List.replicate 16 0, outs := [], sos := [], gutters := [], note := none, shapes := [], gen := 1, slot := slot1 }
theorem test_witness_reconfigApply :
    let s := region (fun x => { x with bricks := [0] }) fun x => { x.setPick false with weep := .wept, hold := some hold0 }
    let t := (region (fun x => { x with bricks := [0, 1] }) fun x => { x.setPick false with weep := .wept, hold := some hold0 }).modBrick 1 fun x => { running x with hold := some hold0 }
    let u := (region (fun x => { x with bricks := [0, 64] }) fun x => { x.setPick false with weep := .wept, hold := some hold0 }).modBrick 64 fun x => { running x with hold := some hold0 }
    let after (v : State) : State := (v.modBrick 0 fun x => x.applyHold hold0).connectRegion slot0
    (s.brick 0).hold = some hold0 ∧ (s.brick 0).region = some slot0 ∧ (s.brick 0).weep = .wept ∧ (s.brick 0).pick = false ∧ (s.brick 0).firings = [] ∧
    (s.brick 0).gutterFits hold0.gutters = true ∧ (t.brick 0).pick = false ∧ (u.brick 0).pick = false ∧ ((after s).slot slot0).bricks = [0] ∧ ((after s).brick 0).hold.isSome = false ∧
    (t.brick 0).hold = some hold0 ∧ (t.brick 0).weep = .wept ∧ ((after t).slot slot0).bricks = [0, 1] ∧ BrickId.course 1 = BrickId.course 0 ∧ ((after t).brick 1).hold.isSome = true ∧
    (u.brick 0).hold = some hold0 ∧ (u.brick 0).weep = .wept ∧ ((after u).slot slot0).bricks = [0, 64] ∧ BrickId.course 64 ≠ BrickId.course 0 ∧
    ((after u).brick 0).hold.isSome = false ∧ ((after u).brick 64).hold.isSome = true := by decide +kernel
theorem test_witness_bstatClr :
    ((State.reset.modSlot slot0 fun x => { x with st := .done }).slot slot0).st = .done := by decide +kernel
theorem test_witness_bays :
    let s : State := { State.reset with nodes := [(0, [0xFFF0000000001, 1, 0, 0, 0, 0, 0, 0])], tenancies := [(0, { cfg := 0x8000000000000001 })] }
    let t : State := { s with nodes := [(0, [0xFFF0000000001, 1, 0, 0, 1, 0, 0, 0])] }
    s.nodeLive 0 = true ∧ 1 ≤ ((List.range 32).filter (s.bayFree 0)).length ∧ s.lineage 4096 0 = [0] ∧
    ((List.range 32).filter fun k => bit (s.bayMask 0 1) k || s.bayCharged 0 k).length ≤ s.effective 0 0 ∧
    bit (t.nodeWord 0 4) 0 = true ∧ (∀ i, i < 512 → (t.brick (BrickId.mk 0 (i / 64) (i % 64))).life = .free) := by decide +kernel

/-! Regions end -/

theorem test_witness_regionCompletion :
    let s := region id id
    (s.slot slot0).st = .run ∧ (s.slot slot0).wave = none ∧ (s.slot slot0).pending = none ∧ s.unreported slot0 = [] := by decide +kernel
theorem test_witness_regionFault :
    let s : State := { region (fun x => { x with pending := some (0, [0x0100000000000000, 0, 0, 0]) }) id with now := 1 }
    (s.slot slot0).pending = some (0, [0x0100000000000000, 0, 0, 0]) ∧ 0 < s.now ∧ (s.slot slot0).fault = none ∧ (s.slot slot0).st = .run := by decide +kernel
def ended (k : Nat) (f : Slot → Slot) : State := region (fun x => f { x with st := .drain, kind := k }) fun x => { x with weep := .wept, life := .draining }
theorem test_witness_weepOrder :
    let s := ended 2 id
    (s.slot slot0).st = .drain ∧ ((ended 1 id).slot slot0).kind = 1 ∧ ((ended 1 id).slot slot0).st = .drain ∧ (s.slot slot0).kind = 2 ∧ s.accessesDone slot0 = true ∧
    (s.slot slot0).bricks = [0] ∧ (s.brick 0).region = some slot0 ∧ (s.brick 0).discard = false := by decide +kernel
theorem test_witness_completionWordStore :
    let s := ended 1 id
    let t := ended 2 id
    (s.slot slot0).st = .drain ∧ (s.slot slot0).ended = false ∧ (s.slot slot0).kind = 1 ∧ s.allWept slot0 = true ∧ s.accessesDone slot0 = true ∧ s.linksEmpty slot0 = true ∧
    (s.slot slot0).bricks = [0] ∧ (s.brick 0).firings = [] ∧ s.enginesDone slot0 = true ∧
    (t.slot slot0).kind = 2 ∧ t.allWept slot0 = true ∧ t.accessesDone slot0 = true ∧ t.linksEmpty slot0 = true ∧ t.enginesSettled slot0 = true := by decide +kernel
theorem test_witness_brickReclaim :
    let s := ended 1 fun x => { x with ended := true }
    (s.brick 0).region = some slot0 ∧ (s.brick 0).life = .draining ∧ (s.slot slot0).ended = true ∧ (s.brick 0).accs.map Acc.busy = [false, false] ∧ s.allWept slot0 = true ∧ s.linksEmpty slot0 = true := by decide +kernel
theorem test_witness_countWave :
    let s : State := { region id fun x => { x with inputs := modifyAt (fun i => { i with sink := some { target := 1 } }) 0 x.inputs } with now := 4096 }
    let t : State := { region (fun x => { x with lastWave := some (0, 0) }) fun x =>
      { x with inputs := modifyAt (fun i => { i with sink := some { target := 1 } }) 0 x.inputs } with now := 4096 }
    s.countDue slot0 = true ∧ (s.slot slot0).lastWave ≠ some (s.counts slot0) ∧
    t.countDue slot0 = true ∧ t.regionBusy slot0 = false ∧ t.counts slot0 = (0, 0) ∧ (t.slot slot0).lastWave = some (t.counts slot0) := by decide +kernel
theorem test_witness_bstatKill : ((region id id).slot slot0).st = .run := by decide +kernel
/-- A region whose PRE lets a wave halt it. -/
def halting (w : Wave) (g : Brick → Brick) : State := region (fun x => { x with st := .drain, kind := 3, wave := some w }) g
def wave0 : Wave := { addr := 0, pinI := false, started := 0, limit := 0, target := none }
theorem test_witness_waves :
    let s := region (fun x => { x with words := [0x8000000000000020, 0, 0, 0, 0, 0, 0, 0] }) id
    let t := halting wave0 id
    let u := halting { wave0 with target := some 3 } id
    (0x8000000000000000 : Word).getLsbD 63 = true ∧ (0x7FFF000000000000 : Word).getLsbD 63 = false ∧ s.mayWave slot0 = true ∧
    (State.reset.slot slot0).st ≠ .run ∧ (State.reset.die 0).swcmd.getLsbD 63 = false ∧
    (t.brick 0).region = some slot0 ∧ (t.slot slot0).wave = some wave0 ∧ wave0.target = none ∧ (t.brick 0).wave ≠ .stopped ∧
    (u.slot slot0).wave = some { wave0 with target := some 3 } ∧ wave0.started + wave0.limit ≤ u.now ∧ (u.slot slot0).bricks = [0] ∧ (u.brick 0).wave ≠ .stopped := by decide +kernel
def query0 : Query := { id := 0, region := slot0, brick := 0, tenancy := 0, packet := List.replicate 8 0, vector := [], started := true }
theorem test_witness_imageCapture :
    let s := halting wave0 fun x => { x with wave := .stopped }
    let t := s.modFooting 0 fun e => { e with posts := [query0] }
    (s.slot slot0).wave = some wave0 ∧ (s.slot slot0).bricks = [0] ∧ (s.brick 0).wave = .stopped ∧ (s.brick 0).firings = [] ∧
    s.liveQueries slot0 = false ∧ (s.slot slot0).pending = none ∧ s.accessesDone slot0 = true ∧ s.linksEmpty slot0 = true ∧ s.enginesSettled slot0 = true ∧
    (t.slot slot0).wave = some wave0 ∧ t.liveQueries slot0 = true := by decide +kernel

/-! Global requests travel -/

def req0 : Req := { id := 5, brick := 0, seq := 0, kind := .load false 2, va := 0x100 }
def asked (r : Req) (f : State → State) : State := f { region id id with reqs := [r] }
theorem test_witness_ownerRequest :
    let s := asked req0 id
    let t := asked req0 fun s => { s with handovers := [{ region := slot0, old := 1, new := 0, first := 0, count := 1, before := 0 }] }
    s.req 5 = some req0 ∧ (s.brick req0.brick).region = some slot0 ∧ req0.stage = .waiting ∧ (s.tenancy req0.tenancy).rebasing = false ∧
    (s.brick req0.brick).pts ≤ tsLimit ∧ s.mayLeave req0 = true ∧
    s.missRoom (s.ownerOf slot0 0 0) req0.tenancy req0.va = true ∧ s.handoverHolds slot0 (s.ownerOf slot0 0 0) 0 = false ∧
    t.req 5 = some req0 ∧ t.mayLeave req0 = true ∧ t.ownerOf slot0 0 0 = 0 ∧ t.handoverHolds slot0 0 0 = true := by decide +kernel
def buffered0 : Req := { req0 with kind := .store, data := [1, 2, 3, 4], stage := .buffered }
theorem test_witness_coalesceTimeout :
    let s := asked buffered0 fun s => { s with now := 64 }
    s.reqs = [buffered0] ∧ buffered0.owner = 0 ∧ buffered0.lines = (4, 4) ∧ buffered0.since + 64 ≤ s.now := by decide +kernel
def missed0 : Req := { req0 with stage := .miss }
theorem test_witness_pageWalk :
    let s := asked missed0 id
    s.req 5 = some missed0 ∧ missed0.stage = .miss ∧ missed0.walkPage = (0, 0) ∧ s.bayWalks (BrickId.bay missed0.owner) = [(0, 0)] := by decide +kernel
def sent0 : Req := { req0 with stage := .toLoft, parts := [{ va := 0x100, len := 4, pa := 0x100 }] }
def full : LoftLine := { emptyLine with valid := 3 }
theorem test_witness_loftAccess :
    let s := asked sent0 id
    let weights : Req := { sent0 with parts := [{ va := 0x100, len := 4, pa := 0x100, key := some 0 }] }
    let chunk : Chunk := { slot := 0, n := 0, region := slot0, data := [] }
    let copy : L1Line := { line := 4, tenancy := 0, data := [], bytes := 0xF, wts := 0, rts := 5 }
    let store : Req := { sent0 with kind := .store, data := [1, 2, 3, 4] }
    let atomic : Req := { sent0 with kind := .atomic 0 32 1 0 }
    let t := asked atomic fun s => { s with loft := [(4, full)] }
    s.req 5 = some sent0 ∧ sent0.nextPart = some 0 ∧ sent0.stage = .toLoft ∧ s.lineTurn sent0 (sent0.parts.getD 0 { va := 0, len := 0 }) = true ∧
    sent0.kind = .load false 2 ∧ (sent0.parts.getD 0 { va := 0, len := 0 }).key = none ∧ s.l1Hit sent0 (sent0.parts.getD 0 { va := 0, len := 0 }) = none ∧
    s.outstanding sent0.owner < (s.brick sent0.owner).edge.window ∧
    weights.nextPart = some 0 ∧ (weights.parts.getD 0 { va := 0, len := 0 }).key = some 0 ∧
    (asked weights id).lineTurn weights (weights.parts.getD 0 { va := 0, len := 0 }) = true ∧
    (asked weights id).heldChunk 0 (some slot0) 0 0 = none ∧
    (asked weights fun s => s.modBrick 0 fun x => { x with edge := { x.edge with chunks := [chunk] } }).heldChunk 0 (some slot0) 0 0 = some chunk ∧
    (asked sent0 fun s => s.modBrick 0 fun x => { x with edge := { x.edge with l1 := [copy] } }).l1Hit sent0 (sent0.parts.getD 0 { va := 0, len := 0 }) = some copy ∧
    store.nextPart = some 0 ∧ (asked store id).lineTurn store (store.parts.getD 0 { va := 0, len := 0 }) = true ∧
    atomic.nextPart = some 0 ∧ t.lineTurn atomic (atomic.parts.getD 0 { va := 0, len := 0 }) = true ∧ t.missingSectors 0x100 4 = [] ∧
    (asked atomic id).missingSectors 0x100 4 ≠ [] := by decide +kernel
def fill0 : Fill := { sector := 8, arrived := 0, latest := some 0, served := some (List.replicate 32 0, 0) }
theorem test_witness_loftFillDone :
    let s : State := { State.reset with fills := [fill0] }
    (s.fills.find? fun f => f.sector = 8) = some fill0 ∧ fill0.served = some (List.replicate 32 0, 0) := by decide +kernel

/-- Reset at a time at which channel 0 of stack 0 is `d` ns past the start of its last refresh, whatever its phase. -/
def phased (d : Nat) (f : State → State) : State := f { State.reset with clockTime := (Config.refreshPhase 0 0 % 3900 + d) * unitsPerNs }
theorem phased_elapsed (d : Nat) (h : d < 3900) : (phased d id).refreshElapsed 0 0 = unitsPerNs * d := by
  show ((Config.refreshPhase 0 0 % 3900 + d) * unitsPerNs + (0 - 0) * (10 * unitsPerNs / 27) + (3900 - (Config.refreshPhase 0 0 % 3900 + 0 * (3900 / 64)) % 3900) * unitsPerNs) % (3900 * unitsPerNs) = unitsPerNs * d
  unfold unitsPerNs
  generalize Config.refreshPhase 0 0 = p
  omega
theorem phased_notBusy (d : Nat) (h : d < 3900) (hb : 260 ≤ d) : (phased d id).refreshBusy 0 0 = false := by
  unfold State.refreshBusy
  rw [phased_elapsed d h]
  have h2 : (phased d id).stack 0 = {} := rfl
  rw [h2, Bool.or_eq_false_iff]
  exact ⟨decide_eq_false (by unfold refreshBlock unitsPerNs; omega), rfl⟩
def fillAt (n : Nat) : Fill := { sector := 0, arrived := 0, latest := some n }
/-- A fill whose latest time is now, and one whose latest time has passed. -/
theorem test_witness_hbmRequest_and_deadlineService (d : Nat) (hd : d < 3900) (hb : 260 ≤ d) :
    let s := phased d fun s => { s with now := 1, clockAt := 1, fills := [fillAt 1] }
    let t := phased d fun s => { s with now := 1, clockAt := 1, fills := [fillAt 0] }
    s.fillReady 0 = true ∧ t.fillReady 0 = true ∧ (s.fills.find? fun f => f.sector = 0) = some (fillAt 1) ∧ s.now = 1 ∧
    (t.fills.find? fun f => f.sector = 0) = some (fillAt 0) ∧ t.fills = [fillAt 0] ∧ 0 < t.now := by
  have h := phased_notBusy d hd hb
  have hr : ∀ n, ({ phased d id with now := 1, clockAt := 1, fills := [fillAt n] } : State).fillReady 0 = true := by
    intro n
    show (true && !(phased d id).refreshBusy 0 0 && true || false) = true
    rw [h]; rfl
  exact ⟨hr _, hr _, rfl, rfl, rfl, rfl, Nat.one_pos⟩
theorem test_witness_refreshes (d : Nat) (hd : d < 3900) (hb : 260 ≤ d) :
    let s := phased 0 id
    let t := phased d fun s => s.modStack 0 fun x => { x with refreshing := [(0, 0)] }
    s.refreshElapsed 0 0 < refreshBlock ∧ (s.stack 0).refreshing = [] ∧
    ((t.stack 0).refreshing.find? fun p => p.1 = 0) = some (0, 0) ∧ refreshBlock ≤ t.refreshElapsed 0 0 := by
  refine ⟨?_, rfl, rfl, ?_⟩
  · rw [phased_elapsed 0 (by omega)]; unfold refreshBlock unitsPerNs; omega
  · show refreshBlock ≤ (phased d id).refreshElapsed 0 0
    rw [phased_elapsed d hd]; unfold refreshBlock unitsPerNs; omega

theorem test_witness_weightChunkRead :
    let r : Req := { sent0 with stage := .flash }
    let s := asked r id
    (s.reqs.find? fun r => r.owner = 0 && r.stage = .flash && r.parts.any fun p => !p.performed && p.va ≤ 0x100 && 0x100 < p.va + p.len) = some r ∧
    (s.brick r.brick).region = some slot0 := by decide +kernel
def done0 : Req := { sent0 with stage := .done }
theorem test_witness_globalReturn_and_acknowledgement :
    let s := asked done0 id
    let r : Req := { done0 with kind := .store }
    let t := asked r id
    s.req 5 = some done0 ∧ done0.stage = .done ∧ done0.isStore = false ∧ s.returnTurn done0.brick done0.rch done0.seq = true ∧
    t.req 5 = some r ∧ r.stage = .done ∧ r.isStore = true := by decide +kernel
theorem test_witness_handovers :
    let h : Handover := { region := slot0, old := 1, new := 0, first := 0, count := 1, before := 0 }
    let s : State := { State.reset with handovers := [h] }
    let t : State := { State.reset with handovers := [{ h with sent := true }] }
    s.handovers[0]? = some h ∧ h.sent = false ∧ s.reqs = [] ∧ t.handovers[0]? = some { h with sent := true } := by decide +kernel
theorem test_witness_rebase :
    let s := on fun x => { x with tenancy := 1, pts := tsLimit + 1 }
    let t := State.reset.modTenancy 1 fun x => { x with rebasing := true }
    (s.tenancy 1).rebasing = false ∧ s.nearLimit 1 = true ∧ (t.tenancy 1).rebasing = true ∧ t.reqs = [] ∧ t.maps = [] := by decide +kernel
theorem test_witness_invcmd :
    let s := State.reset.modDie 0 fun d => { d with invcmd := 0x8000000000000000 }
    (State.reset.die 0).invBusy = false ∧ (s.die 0).invBusy = true ∧ (s.die 0).invMarks = [] := by decide +kernel

/-! The stream engine -/

/-- A LIVE record of four elements to stream route 0, from memory, in record 0 of brick 0.0.0. -/
def live0 : Shape := { state := 1, credit := 1, words := [0, 0, 3, 0x8000000000, 0, 0, 0] }
def streaming (f : Shape → Shape) : State := on fun x => { x with edge := { x.edge with shapes := [f live0] } }
theorem test_witness_streamTileStart :
    let s := streaming id
    let x := s.shape 0 0
    s.waveCame 0 = false ∧ x.state = 1 ∧ x.dkind ≠ 0 ∧ x.tileLeft = 0 ∧ x.fin = false ∧ 0 < x.credit ∧ x.next < x.length ∧ s.sourceRoom 0 x = true := by decide +kernel
theorem test_witness_streamWordSend :
    let s := streaming fun x => { x with notes := [data 1] }
    let t := streaming fun x => { x with outq := [data 1] }
    let u := streaming fun x => { x with tileLeft := 4 }
    s.waveCame 0 = false ∧ (s.shape 0 0).notes = [data 1] ∧ s.routeRoom 0 (s.shape 0 0).nrt = true ∧
    (t.shape 0 0).notes = [] ∧ (t.shape 0 0).outq = [data 1] ∧ t.routeRoom 0 ((t.shape 0 0).dst % 8) = true ∧ (t.shape 0 0).sendAt ≤ t.now ∧
    (u.shape 0 0).notes = [] ∧ (u.shape 0 0).outq = [] ∧ (u.shape 0 0).state = 1 ∧ (u.shape 0 0).skind = 0 ∧ (u.shape 0 0).tileLeft ≠ 0 ∧
    (u.shape 0 0).fin = false ∧ (u.shape 0 0).sendAt ≤ u.now ∧ u.sourceRoom 0 (u.shape 0 0) = true := by decide +kernel
theorem test_witness_streamRunEnd :
    let s := streaming fun x => { x with fin := true }
    s.waveCame 0 = false ∧ (s.shape 0 0).state = 1 ∧ (s.shape 0 0).fin = true ∧ (s.shape 0 0).outq = [] := by decide +kernel
/-- A record whose source is stream input 0, with a token there. -/
def fed (t : Token) (f : Shape → Shape) : State :=
  on fun x => { x with edge := { x.edge with si := [[t]], shapes := [f { live0 with words := [0, 0, 3, 0xA000000000, 0, 0, 0], tileLeft := 1 }] } }
theorem test_witness_streamInputTake :
    let s := fed (markToken 1) id
    let t := fed (data 1) fun x => { x with surplus := true }
    let u := fed (data 1) id
    s.waveCame 0 = false ∧ (s.brick 0).edge.si.getD ((s.shape 0 0).src % 8) [] = [markToken 1] ∧ (s.shape 0 0).skind = 1 ∧ (s.shape 0 0).takeAt ≤ s.now ∧
    (s.shape 0 0).outq = [] ∧ (s.shape 0 0).state ≠ 2 ∧ (markToken 1).isMark = true ∧
    (t.brick 0).edge.si.getD ((t.shape 0 0).src % 8) [] = [data 1] ∧ (t.shape 0 0).surplus = true ∧ (data 1).isMark = false ∧ (data 1).isWeep = false ∧ (data 1).tag = .data ∧
    (u.shape 0 0).surplus = false ∧ (u.shape 0 0).state = 1 ∧ (u.shape 0 0).fin = false ∧ (u.shape 0 0).tileLeft ≠ 0 ∧
    (eosToken 0 false false 1).tag = .eos ∧ (ctrlToken 8 0).tag = .ctrl ∧ (ctrlToken 8 0).subtype = 8 ∧ (weepToken 0).isWeep = true ∧ (weepToken 0).isMark = false := by decide +kernel
theorem test_witness_drawPortTake :
    let t := ctrlToken 4 2
    let s := on fun x => { x with edge := { x.edge with dp := [t] } }
    s.waveCame 0 = false ∧ (s.brick 0).edge.dp = [t] ∧ (s.brick 0).edge.dpAt ≤ s.now ∧ t.tag = .ctrl ∧ t.subtype = 4 ∧ (data 1).tag ≠ .ctrl := by decide +kernel
theorem test_witness_paramPortTake :
    let f : Flight := { tok := ctrlToken 3 0, src := 1, port := 0, dest := .param 0, due := 0 }
    let s : State := { State.reset with flights := [f] }
    (s.flights.findIdx? fun f => f.dest = .param 0 && f.due ≤ s.now) = some 0 ∧ s.flights[0]? = some f ∧ f.tok.tag = .ctrl ∧ f.tok.subtype = 3 ∧
    (s.brick 0).edge.pp = none ∧ (data 1).tag ≠ .ctrl := by decide +kernel
theorem test_witness_paramApply :
    let t := ctrlToken 3 0
    let u := ctrlToken 3 (7 * 2 ^ 54)
    let s := on fun x => { x with edge := { x.edge with pp := some (t, true), shapes := [{ live0 with state := 0 }] } }
    let v := on fun x => { x with edge := { x.edge with pp := some (u, true), shapes := [{ live0 with state := 0 }] } }
    let w := on fun x => { x with edge := { x.edge with pp := some (u, true) } }
    (s.brick 0).edge.pp = some (t, true) ∧ (s.shape 0 0).state = 0 ∧ bits t.pay.toNat 59 57 = 0 ∧ bits t.pay.toNat 56 54 ≠ 7 ∧
    ((s.shape 0 0).param (bits t.pay.toNat 56 54) (bits t.pay.toNat 53 0)).malformed = false ∧
    (v.brick 0).edge.pp = some (u, true) ∧ (v.shape 0 0).state = 0 ∧ bits u.pay.toNat 56 54 = 7 ∧ (v.shape 0 0).dkind = 1 ∧
    (w.brick 0).edge.pp = some (u, true) ∧ (w.shape 0 0).dkind ≠ 1 := by decide +kernel

/-! Slabs and gateways -/

def task0 : Task := { words := List.replicate 8 0 }
def sched (f : Sched → Sched) (g : State → State) : State :=
  g ((region id fun x => { x with gmap := 0 }).modSched 0 0 fun q => f { q with region := some slot0, size := 64 })
theorem test_witness_taskRecordArrival :
    let good : Task := { words := [0, 0, 0, 0, 0, 0, 0, 0] }
    let bad : Task := { words := [0xC000000000, 0, 0, 0, 0, 0, 0, 0] }
    let s := sched id fun s => s.modBrick 0 fun x => { x with taskPort := [good] }
    let t := sched id fun s => s.modBrick 0 fun x => { x with taskPort := [bad] }
    (s.brick 0).taskPort = [good] ∧ (s.brick 0).taskAt ≤ s.now ∧ (s.sched 0 0).ring.length + (s.sched 0 0).window.length < (s.sched 0 0).size ∧
    s.taskMalformed 0 0 good = false ∧ (t.brick 0).taskPort = [bad] ∧ t.taskMalformed 0 0 bad = true := by decide +kernel
theorem test_witness_windowEnter :
    let s := sched (fun q => { q with ring := [task0] }) id
    let u := sched (fun q => { q with ring := [{ task0 with stored := true }], gen := 1 }) id
    let q := s.sched 0 0
    let v := u.sched 0 0
    q.ring = [task0] ∧ s.schedStopped 0 0 = false ∧ q.isStale (s.ringHead q task0).1 = false ∧ q.window.length < 32 ∧ q.entry (s.ringHead q task0).1.tid = boardFree ∧
    u.schedStopped 0 0 = false ∧ v.isStale (u.ringHead v task0).1 = true := by decide +kernel
theorem test_witness_staleRecord_and_taskIssue :
    let dep : Task := { words := [0x0001004000000000, 0, 0, 0, 0, 0, 0, 0] }
    let bad : Task := { words := [0, 0xFFFF * 2 ^ 26, 0, 0, 0, 0, 0, 0] }
    let s := sched (fun q => { q with window := [task0], gen := 1 }) id
    let t := (sched (fun q => { q with window := [dep], board := (4, 4, 0) :: (4, 4, 0) :: q.board }) id).sched 0 0
    let u := sched (fun q => { q with window := [task0] }) fun s => s.modBrick 0 fun x => { x with accs := [{}, {}] }
    let v := sched (fun q => { q with window := [bad] }) fun s => s.modBrick 0 fun x => { x with accs := [{}, {}] }
    (s.sched 0 0).window[0]? = some task0 ∧ (s.sched 0 0).isStale task0 = true ∧ t.window.findIdx? (t.depFailed 1) = some 0 ∧
    (u.sched 0 0).window.findIdx? ((u.sched 0 0).depFailed u.now) = none ∧ (u.sched 0 0).window.findIdx? ((u.sched 0 0).isReady u.now) = some 0 ∧
    ((u.slabSet 0 0).find? fun b => (u.brick b).freeAcc.isSome) = some 0 ∧ (u.brick 0).freeAcc = some 0 ∧ (u.sched 0 0).issueAt ≤ u.now ∧ u.schedStopped 0 0 = false ∧ s.schedStopped 0 0 = false ∧ v.schedStopped 0 0 = false ∧
    (u.rangesOk 0 0 (task0.operandRanges 1 ++ task0.operandRanges 2 ++ task0.loadRanges) && (task0.stw || u.drainOk (u.sched 0 0) task0 task0.ridx)) = true ∧
    (v.sched 0 0).window.findIdx? ((v.sched 0 0).isReady v.now) = some 0 ∧ (v.brick 0).freeAcc = some 0 ∧
    v.rangesOk 0 0 (bad.operandRanges 1 ++ bad.operandRanges 2 ++ bad.loadRanges) = false := by decide +kernel
/-- The slab's accumulator 0 of brick 0.0.0 at work. -/
def slab (w : AccWork) (q : Sched → Sched) : State :=
  sched q fun s => s.modBrick 0 fun x => { x with accs := [{ work := w }, {}] }
theorem test_witness_slabWork :
    let s : State := { slab (.computing task0 0) id with now := 1 }
    let e := s.modBrick 0 fun x => { x with bankUe := [0] }
    let w := slab (.waiting task0 0) id
    let bad := slab (.waiting task0 0) fun q => { q with routes := [([.bank 0 65535], true)] }
    let steered := slab (.waiting { words := [0x400000, 0, 0, 0, 0, 0, 0, 0] } 0) fun q => { q with steer := [some 3] }
    let rs := task0.operandRanges 1 ++ task0.operandRanges 2 ++ task0.loadRanges
    let torn : State := s.modSlot slot0 fun x => { x with st := .drain, kind := 2 }
    s.tornDown 0 = false ∧ e.tornDown 0 = false ∧ torn.tornDown 0 = true ∧ ((torn.brick 0).acc 0).work = .computing task0 0 ∧
    ((s.brick 0).acc 0).work = .computing task0 0 ∧ 0 < s.now ∧ s.badWord 0 0 rs = none ∧ e.badWord 0 0 rs = some (0, 0) ∧
    ((w.brick 0).acc 0).work = .waiting task0 0 ∧ w.waveCame 0 = false ∧ task0.stw = false ∧ w.drainOk (w.sched 0 0) task0 task0.ridx = true ∧
    bad.drainOk (bad.sched 0 0) task0 0 = false ∧ (steered.sched 0 0).steer.getD 0 none = some 3 := by decide +kernel
theorem test_witness_drainWord_and_taskDone :
    let s := slab (.draining task0 0 0 0 [0] []) fun q => { q with routes := [([.input 0 0], true)] }
    let t := slab (.draining task0 0 0 0 [0] []) fun q => { q with routes := [([.bank 0 4096], true)] }
    let v := slab (.draining task0 0 0 0 [0] []) fun q => { q with routes := [([.bank 0 65535], true)] }
    let u : State := { slab (.ending task0 0 0) id with now := 1 }
    ((s.brick 0).acc 0).work = .draining task0 0 0 0 [0] [] ∧ s.waveCame 0 = false ∧ (0 : Nat) < 512 ∧ s.accepts (.input 0 0) (dataToken 0) = true ∧
    (t.brick 0).scratchRange 4096 8 = true ∧ (v.brick 0).scratchRange 65535 8 = false ∧ bankRoute ((v.sched 0 0).routes.getD 0 ([], true)).1 = some (0, 65535) ∧ bankRoute ((s.sched 0 0).routes.getD 0 ([], true)).1 = none ∧
    bankRoute ((t.sched 0 0).routes.getD 0 ([], true)).1 = some (0, 4096) ∧ ((u.brick 0).acc 0).work = .ending task0 0 0 ∧ 0 < u.now := by decide +kernel
theorem test_witness_steerPortTake :
    let s := sched (fun q => { q with port := [ctrlToken 2 (9 * 2 ^ 16 + 3)] }) id
    (s.sched 0 0).port = [ctrlToken 2 (9 * 2 ^ 16 + 3)] ∧ (s.sched 0 0).takeAt ≤ s.now ∧ (ctrlToken 2 (9 * 2 ^ 16 + 3)).tag = .ctrl ∧
    (ctrlToken 2 (9 * 2 ^ 16 + 3)).subtype = 2 ∧ bits (ctrlToken 2 (9 * 2 ^ 16 + 3)).pay.toNat 47 16 = 9 ∧ (data 1).tag ≠ .ctrl := by decide +kernel
theorem test_witness_gateway :
    let s := State.reset.modGateway 0 fun g => { g with port := [(0, data 1)] }
    let t := State.reset.modGateway 0 fun g => { g with out := [{ gid := 5, brick := 0, ch := 0, toks := [data 1] }] }
    let u := State.reset.modGateway 0 fun g => { g with contribs := [{ brick := 0, head := BitVec.ofNat 64 (5 * 2 ^ 49 + 2 ^ 41), eos := some 0 }] }
    (s.gateway 0).port = [(0, data 1)] ∧ ((List.range 4).any fun d => (t.gateway d).out.any fun o => o.gid = 5) = true ∧
    ((List.range 4).any fun d => (u.gateway d).out.any fun o => o.gid = 5) = false ∧ (u.gwReady 5).isSome = true := by decide +kernel

/-! Yealms and slates -/

def map0 : MapOp := { id := 1, brick := 0, seq := 0, kind := .unpinDrop, rch := 0, block := [], tenancy := 0 }
theorem test_witness_slateMapOperation :
    let s : State := { State.reset with maps := [map0] }
    (s.maps.find? fun m => m.id = 1) = some map0 ∧ s.mapMayStep map0 = true ∧ map0.phase = .desc ∧ (s.mapAccessTo map0 map0.nextVa).via = none := by decide +kernel
theorem test_witness_slateRelease :
    let m : MapOp := { map0 with phase := .release }
    let s : State := { State.reset with maps := [m] }
    (s.maps.find? fun m => m.id = 1) = some m ∧ (s.brick (BitVec.ofNat 14 (entLoc m.entry))).firings = [] ∧
    (∀ d ∈ (s.brick (BitVec.ofNat 14 (entLoc m.entry))).docks, d.st = .empty) ∧
    (s.brick (BitVec.ofNat 14 (entLoc m.entry))).visiting (bits (entLoc m.entry) 17 14) = false ∧ (s.mapAccessTo m m.nextVa).via = none := by decide +kernel
def frame0 : Frame := { src := 1, target := 0, pkg := 0, stop := .entry 0 0, data := List.replicate 13 0 ++ [1], due := 0 }
theorem test_witness_frameLand :
    let s : State := { (on fun x => { running x with dockBrick := true }).modBrick 1 running with frames := [frame0] }
    let t : State := { (on fun x => { running x with dockBrick := true, docks := [{ st := .docked }, { st := .docked }] }).modBrick 1 running with frames := [frame0] }
    s.frames[0]? = some frame0 ∧ frame0.due ≤ s.now ∧ s.frames.take 0 = [] ∧ s.frameFits 0 frame0 = true ∧
    t.frameFits 0 frame0 = false ∧ frame0.parked = false := by decide +kernel
def docked (d : DockState) : State := { on fun x => { running x with dockBrick := true, docks := [{ st := d }, {}] } with now := 1 }
theorem test_witness_docks :
    let s := docked (.noticing 3)
    let t := docked (.finishing 0 0 0)
    ((docked (.landing 0 false)).brick 0).docks.map (·.st) = [.landing 0 false, .empty] ∧ 0 < (docked (.landing 0 false)).now ∧
    ((s.brick 0).dock 0).st = .noticing 3 ∧ ((s.brick 0).docks.map (·.st) = [.noticing 3, .empty]) ∧
    s.accepts (.input 0 ((s.brick 0).note.getD 0)) ((s.brick 0).notice 0) = true ∧
    (((docked (.copying 0 64 1)).brick 0).dock 0).st = .copying 0 64 1 ∧ (((docked (.firing true 0)).brick 0).dock 0).st = .firing true 0 ∧
    (((docked (.leaving 1)).brick 0).dock 0).st = .leaving 1 ∧ (((docked (.sending 0)).brick 0).dock 0).st = .sending 0 ∧
    ((t.brick 0).dock 0).st = .finishing 0 0 0 ∧ 1 ≤ (t.brick 0).room 0 ∧ (t.brick 0).portClear 0 = true := by decide +kernel

/-! Footing queries -/

def footQuery0 : Query := { id := 7, region := slot0, brick := 0, tenancy := 0, node := 3, packet := [], vector := [] }
/-- A live node 3 without parent, its query budget 1,023. -/
def withNode (s : State) : State := { s with nodes := s.nodes.set 3 [0xFFF0000000001, 0, 0x7FE0, 0, 0, 0, 0, 0] }
def footing (f : Footing → Footing) : State := withNode ((region id id).modFooting 0 f)
theorem test_witness_footingPacketArrival :
    let s := region id fun x => { x with footPort := [(0, [], [])] }
    (s.brick 0).footPort = [(0, [], [])] ∧ (s.brick 0).region = some slot0 ∧ (s.footing 0).posts.length < 16 := by decide +kernel
theorem test_witness_queryStart :
    let s := footing fun e => { e with posts := [footQuery0] }
    let t := footing fun e => { e with posts := [footQuery0], contexts := [{ footQuery0 with id := 6, started := true }] }
    (s.footing 0).posts = [footQuery0] ∧ (s.footing 0).used < 64 ∧ s.chargeFits footQuery0.node 4 1 = true ∧ (s.footing 0).contexts = [] ∧
    (t.footing 0).posts = [footQuery0] ∧ (t.footing 0).used < 64 ∧ t.chargeFits footQuery0.node 4 1 = true ∧
    (t.footing 0).contexts.map Query.qid = [footQuery0.qid] := by decide +kernel
theorem test_witness_distanceRequest_and_expansionStep :
    let r : FootReq := { node := 3, record := false }
    let q : Query := { footQuery0 with started := true, reqs := [r] }
    let s := footing fun e => { e with contexts := [q] }
    let bad : Query := { q with reqs := [{ r with status := 2 }] }
    let one : Query := { q with reqs := [{ r with reply := some (0, [1]) }], phase := 1 }
    s.query 0 7 = some q ∧ q.reqs[0]? = some r ∧ r.reply = none ∧ r.status = 0 ∧
    (footing fun e => { e with contexts := [bad] }).query 0 7 = some bad ∧ bad.started = true ∧ bad.finished = false ∧ (bad.reqs.find? fun r => r.status ≠ 0).isSome = true ∧
    (footing fun e => { e with contexts := [one] }).query 0 7 = some one ∧ (one.reqs.all fun r => r.reply.isSome && r.status = 0) = true ∧ one.phase = 1 ∧
    ({ one with phase := 2 } : Query).phase ≠ 1 := by decide +kernel
theorem test_witness_queryComplete :
    let q : Query := { footQuery0 with started := true, finished := true }
    let p : Query := { q with prepared := true, out := [(0, 1, data 1)] }
    let e : Query := { q with prepared := true }
    let f : Query := { q with prepared := true, recOrder := some 4 }
    (footing fun g => { g with contexts := [q] }).query 0 7 = some q ∧ q.finished = true ∧ q.prepared = false ∧
    (footing fun g => { g with contexts := [p] }).query 0 7 = some p ∧ p.recOrder = none ∧
    ((footing fun g => { g with contexts := [p] }).footing 0).turn 0 p = true ∧ ({ e with copies := [1] } : Query).out = [] ∧
    (footing fun g => { g with contexts := [p] }).accepts (.input 0 1) (data 1) = true ∧
    (footing fun g => { g with contexts := [e] }).query 0 7 = some e ∧ e.out = [] ∧ e.copies = [] ∧ e.recOrder = none ∧ (footing fun g => { g with contexts := [e] }).resultsFlying 0 e = false ∧
    (footing fun g => { g with contexts := [f] }).query 0 7 = some f ∧ f.out = [] ∧ f.recOrder.isSome = true ∧ f.doneAt < 1 := by decide +kernel

/-! Heat, errors, power, the management window and host commands -/

theorem test_witness_refresh_and_sensor :
    let s : State := State.reset.modStack 0 fun x => { x with refreshing := [(1, 0)] }
    let t : State := State.reset.modStack 0 fun x => { x with hot := some 105 }
    ((s.stack 0).refreshing.find? fun p => p.1 = 1) = some (1, 0) ∧ (State.reset.stack 0).refreshing = [] ∧
    (t.stack 0).hot = some 105 ∧ (State.reset.stack 0).hot = none ∧ (t.stack 0).tripped = false := by decide +kernel
theorem test_witness_thermalNotice :
    let s := (region (fun x => { x with words := [0x80, 0, 0, 0, 0, 0, 0, 0x100000] }) id).modSlot slot0 fun x => { x with hot := [0], notices := [(0, ctrlToken 0xE 0)] }
    (s.slot slot0).therm = 1 ∧ (s.slot slot0).notices = [(0, ctrlToken 0xE 0)] ∧ (s.slot slot0).st = .run ∧ (s.slot slot0).bricks = [0] ∧ BrickId.die 0 = 0 ∧ (s.die 0).allow ≥ (s.slot slot0).tth ∧ (s.slot slot0).hot.contains 0 = true ∧
    s.owns slot0 0 = true ∧ s.hottestStack 0 = 0 ∧ s.accepts (.input 0 0) (ctrlToken 0xE 0) = true := by decide +kernel
theorem test_witness_errors_and_scrub :
    let s : State := { State.reset with now := 2048 }
    let t := s.modBrick 0 fun x => { x with bankUe := [0] }
    UnitRef.isLink (.port 0) = true ∧ (s.unit (.port 0)).down = false ∧ (s.errwin.2.2 = 8) ∧
    (s.brick 0).life ≠ .out ∧ (s.brick 0).scrub < s.now / 2048 ∧ (s.brick 0).wordUe 0 = false ∧ (t.brick 0).wordUe 0 = true := by decide +kernel
theorem test_witness_flit :
    let h := 1
    let body := leBytes 8 h ++ List.replicate 240 0
    let flit := body ++ leBytes 4 (crc32 body) ++ List.replicate 4 0
    let q := State.reset.modTenancy 0 fun x => { x with port := 1 }
    flit.length = 256 ∧ crc32 (flit.take 248) = fieldAt flit 248 4 ∧ bits (wordAt flit 0) 21 10 = (q.ports.getD 0 {}).expect ∧
    bit (State.reset.tenancy 0).port.toNat 0 = false ∧ bit (q.tenancy (bits (wordAt flit 0) 9 4)).port.toNat 0 = true ∧ bits (wordAt flit 0) 3 0 = 1 ∧
    ([] : List Byte).length ≠ 256 := by decide +kernel
theorem test_witness_management :
    (State.reset.slot slot0).st = .free ∧ ((region id id).slot slot0).st ≠ .free ∧ State.reset.host.kicks = [] ∧ State.reset.fclk = 27 ∧
    bits (0x1000010 : Word).toNat 10 0 = 16 ∧ bits (0x1000010 : Word).toNat 31 16 = 256 ∧ bits (0xFF0010 : Word).toNat 31 16 < 256 := by decide +kernel

/-- An open completion ring. -/
def hosted (f : HostLink → HostLink) : State := State.reset.modHost fun h => f { h with cqbase := 0x1000, cons := 5 }
theorem test_witness_kick :
    let crc := crc16 (List.replicate 16 0)
    let good := hosted fun h => { h with kicks := [BitVec.ofNat 64 (crc * 2 ^ 16)] }
    let late := hosted fun h => { h with kicks := [1] }
    let torn := hosted fun h => { h with kicks := [BitVec.ofNat 64 ((crc + 1) % 65536 * 2 ^ 16)] }
    let again (n : Nat) := torn.modHost fun h => { h with tries := n }
    good.host.tries = 0 ∧ good.host.ringOpen = true ∧ good.host.posts = [] ∧ good.host.next = 0 ∧
    (good.host.readKick (BitVec.ofNat 64 (crc * 2 ^ 16))).isSome = true ∧ late.host.ringOpen = true ∧ late.host.next ≠ 1 ∧
    torn.host.readKick (BitVec.ofNat 64 ((crc + 1) % 65536 * 2 ^ 16)) = none ∧
    (again 1).host.retryAt ≤ (again 1).time ∧ (again 1).host.tries < 4 ∧ 4 ≤ (again 4).host.tries := by decide +kernel
theorem test_witness_commands :
    let c (opc len : Nat) : Command := { seq := 0, opc, len, arg := 0, body := [0, 0] }
    let s (opc len : Nat) : State := hosted fun h => { h with commands := [c opc len] }
    (∀ p ∈ [(7, 0), (0, 0), (1, 0), (2, 1), (3, 3), (4, 0), (5, 2), (6, 1)], (s p.1 p.2).host.running = some (c p.1 p.2)) ∧
    (hosted fun h => { h with posts := [(1, 0, 0)] }).host.ringOpen = true ∧ (hosted id).host.commands = [] ∧ (hosted id).host.posts = [] ∧
    State.reset.tensetRefused 0 (2 ^ 63) 0 0 = false ∧ State.reset.tensetRefused 63 (2 ^ 63) 0 0 = true ∧
    State.reset.tenancies = [] ∧ State.reset.bricks = [] := by decide +kernel
theorem test_witness_waves_and_keys :
    let s : State := region (fun x => { x with words := [BitVec.ofNat 64 (2 ^ 40)] }) id
    let k := (State.reset.modKeySlot 0 fun x => { x with st := 1, requester := some 3 }).modTenancy 0 fun x => { x with cfg := BitVec.ofNat 64 (2 ^ 63) }
    let t : State := { k with keystone := { k.keystone with sessions := [{ id := 1, requester := some 3, key := 0 }] } }
    State.reset.slotsBusy 0 = false ∧ (∀ r ∈ allSlots, (State.reset.slot r).st = .free) ∧ allSlots.find? State.reset.mayWave = none ∧
    (t.keySlot 0).st = 1 ∧ (t.keySlot 0).requester = some 3 ∧ t.session 1 = some { id := 1, requester := some 3, key := 0 } ∧
    (t.tenancy 0).cfg.getLsbD 63 = true ∧ ((List.range 256).find? fun k => (t.keySlot k).st = 0) = some 1 ∧
    State.reset.freeSession = some 0 ∧ (s.slot slot0).st = .run := by decide +kernel
/-- A fault record of tenancy 1, a key slot of tenancy 1, and registers: what TDI 1 sees and TDI 2 does not. -/
theorem test_witness_tdiView :
    let s := (State.reset.modDie 0 fun d => { d with log := [(0, [BitVec.ofNat 64 (2 ^ 50)])] }).modKeySlot 0 fun x => { x with st := 1, tenancy := 1 }
    (s.die 0).log.getD (0 % 256) [] ≠ [] ∧ bits ((s.die 0).logWord 0 0).toNat 55 50 = 1 ∧ (s.keySlot 0).st ≠ 0 ∧ (s.keySlot 0).tenancy = 1 ∧
    s.tdiView 1 (.flog 0 0 0) = some (BitVec.ofNat 64 (2 ^ 50)) ∧ s.tdiView 2 (.flog 0 0 0) = none ∧ s.tdiView 2 (.kstat 0) = none ∧
    s.tdiView 1 (.kstat 0) = some (s.keySlot 0).kstat ∧ s.tdiView 1 (.tscfg 1) = some (s.tenancy 1).tscfg ∧ s.tdiView 1 (.tscfg 2) = none := by decide +kernel
theorem test_witness_tdi_and_host_access :
    let s := State.reset.modTenancy 0 fun x => { x with tdi := .run }
    (s.tenancy 0).tdi = .run ∧ (State.reset.writeFault { cls := .hst, tenancy := 0 } 0 0).1 = none ∧ (State.reset.writeFault { cls := .hst, tenancy := 0 } 0 8).1.isSome = true ∧
    (State.reset.hstRead 0 false []).1 = some [] ∧ (State.reset.hstRead 0 false [(0, 8)]).1 = none := by decide +kernel

/-! Rules: firing, commit, write-back, issue, trap -/

/-- The state that an answer gives. -/
def got (o : Host.Outcome State Fault Refusal) : State :=
  match o with
  | .next t => t
  | _ => State.reset
/-- Reset with a word in slot 0, once its rule has fired. -/
def fired0 (w : Nat) : State :=
  let s := State.reset.withFetchWord 64 w
  match decode true (BitVec.ofNat 64 w) with
  | .instr i => got (exec i s)
  | _ => s
def addWord : Nat := 0x0200000018820600
theorem test_witness_firingCommit_and_beatWriteBack :
    let s : State := { fired0 addWord with now := 5 }
    let t := got (exec (.firingCommit 0) s)
    (s.brick 0).oldest = some 0 ∧ ((s.brick 0).firings[0]?).isSome = true ∧
    ((s.brick 0).firings.all fun f => f.trap.isNone && f.pastPoint s.now && f.fired + commitDelay f.instr < s.now && s.fenceReady 0 f && !f.committed) = true ∧
    ((t.brick 0).nextWriteBack t.now 0).isSome = true ∧ (t.brick 0).fires = 1 := by decide +kernel
theorem test_witness_beatIssue :
    let s : State := { fired0 (addWord + 2 ^ 30) with now := 4 }
    (s.brick 0).firings.findIdx? Firing.unissued = some 0 ∧
    ((s.brick 0).firings.all fun f => !f.committed && f.trap.isNone && f.issued = 1 && (match ruleInfo f.instr with
      | some r => r.beats = 4 && beatReady s (s.brick 0) r f && (s.brick 0).spanFree s.now 0 f (f.beatSpan s 0 r f.issued)
      | none => false)) = true := by decide +kernel
def trapWord : Nat := 0xC80000001F420240
theorem test_witness_preciseTrap :
    let s : State := { fired0 trapWord with now := 5 }
    let t := got (exec (.preciseTrap 0) s)
    (((s.brick 0).firings.findIdx? fun f => f.trap.isSome) = some 0 ∧ ((s.brick 0).firings.all fun f => f.found < s.now) = true ∧ (s.brick 0).pick = true) ∧
    ((t.brick 0).pick = false ∧ (t.brick 0).firings.length = 1 ∧ ((t.brick 0).firings.all fun f => f.pastPoint t.now) = true ∧ ((t.brick 0).firings.findIdx? fun f => f.trap.isSome) = some 0) := by decide +kernel
/-- The hypotheses of the life of a one-beat rule, met by ADD.32 on slices that hold 5 and 7. -/
theorem test_witness_oneBeatRuleLife :
    let i : Instr := .add head0 body0
    let s := (State.reset.withFetchWord 64 addWord).modBrick 0 fun x => holds 16 5 (holds 24 7 x)
    ∃ o r, beatOf i = some o ∧ ruleInfo i = some r ∧
      let f := mkFiring s 0 0 s.focusWord i r
      let out := o s 0 f r 0
      s.focus.1 = 0 ∧ pickerRuns s.now (s.brick 0) = true ∧ eligible s 0 0 s.focusWord i = true ∧ r.beats = 1 ∧ r.d < 112 ∧ r.du.writes = true ∧
      0 < r.du.slices ∧ r.d + r.du.slices ≤ 112 ∧ trapDelay i = none ∧ commitDelay i = 0 ∧ RuleInfo.isSerial i = false ∧ (s.brick 0).firings = [] ∧ f.trap = none ∧ out.trap = none ∧
      out.effects = [] ∧ out.wbs = [] ∧ out.out = none ∧ out.write = some 12 :=
  ⟨_, _, rfl, rfl, by decide +kernel⟩
/-- The FP32 square root that SFU gives of the FP32 word v in slice 16. -/
def sqrtOf (v : Nat) : Option Nat :=
  let s := (State.reset.withFetchWord 64 0xa200000028820100).modBrick 0 (holds 16 v)
  let i : Instr := .sfuSqrt head0 { wid := 5, d := 8, a := 16, imm7 := 4, pdst := 0, pmode := 0, keep := 0 }
  match beatOf i, ruleInfo i with
  | some o, some r => (o s 0 (mkFiring s 0 0 s.focusWord i r) r 0).write
  | _, _ => none
/-- SQRT rounds the exact root (R163): of 4.0 it is 2.0, of 2.0 it is 1.41421356 to nearest even (calculated by hand). -/
theorem test_sqrt : sqrtOf 0x40800000 = some 0x40000000 ∧ sqrtOf 0x40000000 = some 0x3FB504F3 := by decide +kernel
/-- The hypotheses of the serial rules' firing, met by RDBSR alone in flight (R94). -/
theorem test_witness_serialRule :
    let i : Instr := .sysRdbsr head0 { sub := 2, d := 40, a := 116, b := 0, z := 0, keep := 0 }
    RuleInfo.isSerial i = true ∧ RuleInfo.isSerial (.add head0 body0) = false ∧ ((fired0 0xFE0000000251D000).brick 0).firings.map (·.instr) = [i] ∧
    ((fired0 addWord).brick 0).firings.length = 1 := by decide +kernel
theorem test_ineligible :
    eligible State.reset 0 0 0 (.add { head0 with pcare := 1, pval := 1 } body0) = false ∧ pickerRuns 0 (State.reset.brick 0) = false := by decide +kernel
/-- A pick fires the rule in slot 0; a tick passes a cycle only where nothing is due. -/
theorem test_step_moves :
    let s := (State.reset.withFetchWord 64 addWord)
    let pick : State := { s with agenda := [.pick 0] }
    let idle : State := { State.reset with agenda := [.pick 0] }
    let tick : State := { State.reset with agenda := [.tick] }
    ((got (step pick)).brick 0).firings.length = 1 ∧ (got (step pick)).agenda = [] ∧ (idle.brick 0).firings = [] ∧
    (got (step tick)).now = 1 ∧ (got (step { s with agenda := [.tick] })).now = 0 ∧
    (got (step { State.reset with agenda := [.event (.rstallRead 0)] })).agenda = [] := by decide +kernel

/-! The blocks of TTQ, the slate-map rules and FQRY; docks; the bank; parameter windows -/

theorem test_witness_blocks :
    let x := State.reset.brick 0
    let pin (w2 w3 : Nat) : Brick := { x with bank := cellsWrite [] 16 (leBytes 8 w2 ++ leBytes 8 w3) }
    let w2 := 6 * 2 ^ 13 + 2 ^ 4
    bankDenied x 0 128 false = false ∧ spanUe x 0 128 false = none ∧ spanUe x 0 64 false = none ∧ x.wordUe 0 = false ∧
    (x.wordsAt 0 4).map (·.toNat) = [0, 0, 0, 0] ∧ ((pin w2 8192).wordsAt 0 4).map (·.toNat) = [0, 0, w2, 8192] ∧
    bits w2 63 17 = 0 ∧ bits w2 16 13 = 6 ∧ 0 < bits w2 10 4 ∧ bits w2 10 4 ≤ slatePmax (bits w2 12 11) ∧
    bits w2 3 0 + slateGranules (bits w2 12 11) ≤ 16 ∧ 8192 % 8192 = 0 ∧
    bankDenied { x with gmap := 2 } 0 128 false = true := by decide +kernel
theorem test_witness_bankTrap :
    let x := State.reset.brick 0
    bankTrap x 131064 8 0 false false false = none ∧ (bankTrap x 131064 9 0 false false false).isSome = true ∧
    bankTrap { x with gmap := 1 } 0 8 0 false false false = none ∧ (bankTrap { x with gmap := 1 } 0 8 0 true false false).isSome = true ∧
    (bankTrap x 0 8 3 false false true) = some { cls := 0x05, detail := 0, beat := 3 } := by decide +kernel
theorem test_witness_dockRules :
    let s := docked .docked
    let t := s.modBrick 0 fun x => x.modDock 0 fun d => { d with stop := .home }
    ((s.brick 0).dock 0).st = .docked ∧ ((s.brick 0).dock 0).stop ≠ .home ∧ ((t.brick 0).dock 0).stop = .home ∧ ((docked (.landing 0 false)).brick 0).dock 0 ≠ {} ∧
    (s.brick 0).dockRoom s.now = true ∧ ceilDiv (yealmSize ((s.brick 0).dockWord 0 1)) 8 ≤ 2000 ∧ 0 < ceilDiv (yealmSize ((s.brick 0).dockWord 0 1)) 8 := by decide +kernel

/-! Invariants and encodings -/

theorem test_witness_clockOk : State.reset.clockOk ∧ ({ State.reset with fclk := 1 } : State).clockOk := by unfold State.clockOk; decide +kernel
theorem test_witness_memory :
    Memory.wf (cellsWrite [] 3 [1, 2]) = true ∧ ([1, 2] : List Byte)[1]? = some 2 ∧ Memory.wf (cellsWrite (cellsWrite [] 3 [1, 2]) 3 [0]) = true ∧
    cellsWrite (cellsWrite [] 3 [1, 2]) 3 [0, 0] = [] := by decide +kernel
theorem test_witness_encoding :
    (Instr.add head0 body0).wf false = true ∧ encode (.add head0 body0) = some (BitVec.ofNat 64 addWord) ∧
    decode false (BitVec.ofNat 64 addWord) = .instr (.add head0 body0) := by decide +kernel
theorem test_witness_operandCodes :
    BrickId.mk 3 63 63 = 0x3FFF ∧ BrickId.bay (BrickId.mk 3 63 63) = 31 ∧ BrickId.die (BrickId.mk 2 1 0) = 2 := by decide +kernel

/-! ## Further forms of the statements' hypotheses -/


/-- The state after the rule in slot 0 has fired on a brick set up by `f`. -/
def firedOn (w : Nat) (f : Brick → Brick) : State :=
  let s := (State.reset.withFetchWord 64 w).modBrick 0 f
  match decode true (BitVec.ofNat 64 w) with
  | .instr i => got (exec i s)
  | _ => s
def fireWord : Nat := 0xFA00000000E9D008
/-- A dock rule is decided at its trap point, on the dock as it then stands (R331). -/
theorem test_witness_decided :
    let s : State := { firedOn fireWord (fun x => { x with dockBrick := true }) with now := 5 }
    let t : State := { firedOn fireWord (fun x => { x with dockBrick := true, docks := [{ st := .docked }, {}] }) with now := 5 }
    let decides (s : State) (p : Firing → Bool) : Bool := (s.brick 0).oldest = some 0 && (s.brick 0).firings.all fun f =>
      f.trap.isNone && judgedLate f.instr && f.pastPoint s.now && f.fired + commitDelay f.instr < s.now && s.fenceReady 0 f && p (s.decided 0 f)
    decides s (·.trap.isSome) = true ∧ decides t (·.trap.isNone) = true ∧ ((got (exec (.firingCommit 0) s)).brick 0).fires = 0 ∧
    ((got (exec (.firingCommit 0) s)).brick 0).firings.map (fun f => f.trap.map (·.cls)) = [some 0x08] ∧
    ((got (exec (.firingCommit 0) t)).brick 0).fires = 1 ∧ ((got (exec (.firingCommit 0) t)).brick 0).docks.map (·.st) ≠ [.docked, .empty] := by decide +kernel
/-- Beats that issue before and after their firing's commit, and the last beat. -/
theorem test_witness_beatIssue_branches :
    let s : State := { fired0 (addWord + 2 ^ 30) with now := 4 }
    let t : State := { got (exec (.firingCommit 0) s) with now := 5 }
    let again (s : State) : State := { got (exec (.beatIssue 0) s) with now := s.now + 4 }
    let last := again (again s)
    let may (s : State) (committed : Bool) (n : Nat) : Bool := (s.brick 0).firings.findIdx? Firing.unissued = some 0 && ((s.brick 0).firings.all fun f =>
      f.committed = committed && f.trap.isNone && f.issued = n && (match ruleInfo f.instr with
        | some r => r.beats = 4 && beatReady s (s.brick 0) r f && (s.brick 0).spanFree s.now 0 f (f.beatSpan s 0 r f.issued)
        | none => false))
    may s false 1 = true ∧ may t true 1 = true ∧ may last false 3 = true ∧
    ((again s).brick 0).firings.map (·.issued) = [2] ∧ ((again t).brick 0).firings.map (·.issued) = [2] ∧
    ((again last).brick 0).firings.map (·.issued) = [4] := by decide +kernel
/-- The write-backs of a rule that writes a port and of one that writes a predicate. -/
theorem test_witness_beatWriteBack_forms :
    let s : State := { firedOn 0xE00000001A74009A (fun x => x.modOut 1 fun p => { p with route := [.input 1 0] }) with now := 9 }
    let t := got (exec (.firingCommit 0) s)
    let u : State := { fired0 0x6C0000001F42060C with now := 9 }
    let v := got (exec (.firingCommit 0) u)
    (((t.brick 0).nextWriteBack t.now 0).map fun p => (p.1, p.2.port.map (·.1), p.2.lo)) = some (0, some 1, none) ∧
    (((v.brick 0).nextWriteBack v.now 0).map fun p => (p.2.port, p.2.preds.length)) = some (none, 1) ∧
    ((got (exec (.beatWriteBack 0 0) t)).brick 0).outs.map (fun p => p.skid.length) = [0, 1, 0, 0] := by decide +kernel
/-- A trap that is found on a RUNNING brick of a live region faults the region. -/
theorem test_witness_trapFaultsRegion :
    let s : State := (region id id)
    (s.brick 0).region = some slot0 ∧ (s.slot slot0).active = true ∧ (s.slot slot0).fault = none ∧ (s.slot slot0).ended = false ∧ (s.slot slot0).pending = none ∧
    (((s.takeTrap 0 1 9 0 0 0 0 []).slot slot0).pending.map fun p => bits (p.2.getD 0 0).toNat 63 56) = some 0x01 ∧
    ((s.takeTrap 0 2 9 0 0 0 0 []).slot slot0).pending = none := by decide +kernel
theorem test_witness_moves :
    let h : State := { State.reset with agenda := [.hold 0 3] }
    let s : State := { State.reset.withFetchWord 64 addWord with agenda := [.pick 0] }
    let a : State := { s with flights := [flight0] }
    let d : State := { fired0 addWord with now := 5, agenda := [.pick 0] }
    ((got (step h)).brick 0).aged = (0, 3) ∧ ({ a with agenda := [] } : State).arriving 0 = true ∧ ({ d with agenda := [] } : State).brickDue 0 = true ∧
    ({ s with agenda := [] } : State).brickDue 0 = false ∧ ({ s with agenda := [] } : State).arriving 0 = false ∧
    (got (step a)).bricks = a.bricks ∧ (got (step d)).bricks = d.bricks := by decide +kernel
theorem test_witness_memWf : State.reset.memWf ∧ (on fun x => { x with bank := cellsWrite [] 3 [1, 2] }).memWf ∧
    ∃ t, step (on fun x => { x with bank := cellsWrite [] 3 [1, 2] }) = .next t := by
  refine ⟨?_, ?_, _, rfl⟩ <;> unfold State.memWf <;> decide +kernel


/-- Brick 0.0.0 holds a translation of page 0 of tenancy 0. -/
def mapped (x : Brick) : Brick := { x with edge := { x.edge with tlb := [{ tenancy := 0, level := 3, page := 0, leaf := 0 }] } }

theorem test_witness_slotRules :
    let s := region id id
    let d := ended 1 fun x => { x with ended := true }
    let two := (ended 1 fun x => { x with ended := true, bricks := [0, 1] }).modBrick 1 fun x => { running x with weep := .wept, life := .draining }
    let after (s : State) : State := s.setBrick 0 ((s.brick 0).reclaimed true)
    slot0.exists = true ∧ ({ die := 0, slot := 64 } : RegionId).exists = false ∧ (s.slot slot0).rcf = false ∧
    (after d).courseEmpty slot0 (0, 0) = true ∧ (after two).courseEmpty slot0 (0, 0) = false ∧ two.allWept slot0 = true ∧ two.linksEmpty slot0 = true ∧
    ([0, 1] : List BrickId).Nodup := by decide +kernel
theorem test_witness_discards :
    let s := on fun x => { x with discard := true }
    (s.brick 0).discard = true ∧ (∀ d ∈ [Dest.input 0 1, .streamIn 0 1, .draw 0, .param 0, .bank 0 1, .ring 0], s.arrive { flight0 with dest := d } = s) := by decide +kernel
theorem test_witness_misses :
    let s := asked missed0 id
    let w : Walk := { id := 9, edge := 0, tenancy := 0, va := 0x100 }
    let t : State := { on id with walks := [w] }
    let k : KeySlot := {}
    s.portRoom 0 req0 = true ∧ s.missOf 5 = some (0, 0, 0) ∧ t.missOf 9 = some (0, 0, 0x100) ∧ t.bayWalks (BrickId.bay 0) = [(0, 0)] ∧
    k.chunkOf 0x100 = some 0 ∧ ({ k with wbase := 0x200 } : KeySlot).chunkOf 0x100 = none ∧ s.mayStore 4 = true := by decide +kernel
/-- An engine's access to a page that no TLB entry holds asks for its walk; with the entry it takes place. -/
theorem test_witness_paged :
    let l (s : State) : List (Access × Nat × Nat) := s.wordAccesses 0 (s.shape 0 0) (s.shape 0 0).src false
    let s := streaming fun x => { x with tileLeft := 4 }
    let t := s.modBrick 0 mapped
    s.missing (l s) = some (0, 0, 0) ∧ s.walks = [] ∧ s.missRoom 0 0 0 = true ∧ t.missing (l t) = none ∧
    (t.shape 0 0).notes = [] ∧ (t.shape 0 0).outq = [] ∧ (t.shape 0 0).fin = false ∧ t.sourceRoom 0 (t.shape 0 0) = true ∧
    (got (exec (.streamWordSend 0 0) s)).walks.map Walk.page = [(0, 0)] := by decide +kernel
/-- A word from a stream input to memory, and one to a stream route. -/
theorem test_witness_streamInputForms :
    let s := (fed (data 1) fun x => { x with words := [0, 0, 3, 0x2000000000, 0, 0, 0] }).modBrick 0 mapped
    let t := fed (data 1) id
    (s.shape 0 0).skind = 1 ∧ (s.shape 0 0).dkind = 0 ∧ (s.shape 0 0).writesToken (data 1) = true ∧
    s.missing (s.wordAccesses 0 (s.shape 0 0) (s.shape 0 0).dst true) = none ∧
    (t.shape 0 0).dkind = 1 ∧ (t.shape 0 0).writesToken (data 1) = false ∧ t.routeRoom 0 ((t.shape 0 0).dst % 8) = true := by decide +kernel
theorem test_witness_schedulers :
    let s := sched id fun s => s.modBrick 0 fun x => { x with taskPort := [task0] }
    let u := sched (fun q => { q with window := [task0] }) fun s => s.modBrick 0 fun x => { x with accs := [{}, {}] }
    (s.sched 0 0).region = (s.brick 0).region ∧ u.courseSettled 0 0 = true ∧ (State.reset.gwReady 5).isSome = false ∧
    s.accepts (.input 0 0) (dataToken 0) = true ∧ (on fun x => { x with inputs := modifyAt (fun i => { i with queue := List.replicate 32 (data 0) }) 0 x.inputs }).accepts (.input 0 0) (dataToken 0) = false := by decide +kernel
/-- A slate-map operation of a brick of a region, whose accesses go by the owner of their page. -/
theorem test_witness_slateMapByOwner :
    let s : State := { (region id mapped) with maps := [map0] }
    let h : State := { s with handovers := [{ region := slot0, old := 1, new := 0, first := 0, count := 1, before := 0 }] }
    let a : State := { s with reqs := [{ req0 with va := 0, stage := .buffered }] }
    let held : State := { (State.reset.modBrick 0 fun x => { x with life := .held }) with maps := [{ map0 with phase := .release }] }
    (s.maps.find? fun m => m.id = 1) = some map0 ∧ s.mapMayStep map0 = true ∧ (s.mapAccessTo map0 map0.nextVa).via = some 0 ∧
    (s.brick (s.mapAgent map0)).region = some slot0 ∧ s.handoverHolds slot0 0 (map0.nextVa / 8192) = false ∧ h.handoverHolds slot0 0 (map0.nextVa / 8192) = true ∧
    s.aheadAt 0 0 (map0.nextVa / 64) = [] ∧ a.aheadAt 0 0 (map0.nextVa / 64) ≠ [] ∧ s.missing [(s.mapAccessTo map0 map0.nextVa, map0.nextVa, map0.nextLen)] = none ∧
    (held.brick 0).life = .held := by decide +kernel
theorem test_witness_frames :
    let p : Frame := { frame0 with parked := true }
    let s : State := { (on fun x => { running x with dockBrick := true }).modBrick 1 running with frames := [p] }
    let l := docked (.landing 0 true)
    let two := docked (.leaving 1)
    let home := two.modBrick 0 fun x => x.setDockWord 0 6 0
    let away := (two.modBrick 0 mapped).modBrick 0 fun x => x.setDockWord 0 6 1
    s.frames[0]? = some p ∧ p.parked = true ∧ s.frameFits 0 p = true ∧
    ((l.brick 0).dock 0).st = .landing 0 true ∧ ((l.modBrick 0 mapped).missing [(l.modBrick 0 mapped).fetchAccess 0 0]) = none ∧
    (∀ d ∈ (two.brick 0).docks, d.st = .leaving 1 ∨ d.st = .empty) ∧ ((two.brick 0).dock 0).order ≤ 0 ∧
    (home.brick 0).goesHome 0 = true ∧ (away.brick 0).goesHome 0 = false ∧ away.missing [(away.hopAccess 0 0, (away.brick 0).hopVa 0, 16)] = none ∧
    (docked (.firing true 0)).missing ((docked (.firing true 0)).visitAccesses 0 0) = none := by decide +kernel


/-- What a port makes of a flit: one whose check fails, an ACK, a flit out of sequence, one for no tenancy of the port, and one that it takes (R441, R442). -/
theorem test_witness_flits :
    let whole (l : List Byte) : Bool := l.length = 256 && crc32 (l.take 248) = fieldAt l 248 4
    let s := State.reset.modTenancy 1 fun x => { x with port := 1 }
    let good := linkFlit 1 1 0 [7]
    let late := linkFlit 1 1 3 [7]
    let ack := linkFlit flAck 1 0 []
    whole good = true ∧ whole late = true ∧ whole ack = true ∧ whole (modifyAt (· + 1) 8 good) = false ∧
    bits (wordAt good 0) 3 0 = 1 ∧ bits (wordAt good 0) 9 4 = 1 ∧ bits (wordAt good 0) 21 10 = (s.port 0).expect ∧ bits (wordAt late 0) 21 10 ≠ (s.port 0).expect ∧
    bits (wordAt ack 0) 3 0 = flAck ∧ bit (s.tenancy 1).port.toNat 0 = true ∧ s.ownersPort 1 = true ∧ bit (State.reset.tenancy 1).port.toNat 0 = false ∧
    (s.unit (.port 0)).down = false := by decide +kernel
/-- A sender with one flit to replay and one queued. -/
theorem test_witness_scalePort :
    let p : ScalePort := { replay := [linkFlit 1 1 0 [7]], seq := 1, queue := [(1, 1, [8])], credit := [(1, 2)] }
    (p.acknowledged 0).2 = false ∧ (p.acknowledged 0).1.replay.length = 1 ∧ (p.acknowledged 5).2 = true ∧ p.replay ≠ [] ∧
    p.replay.length < 512 ∧ 0 < p.credit.getD 1 0 ∧ (p.pump 1).seq = 2 ∧ ({} : ScalePort).queue = [] ∧ (1 : Nat) ≠ flCredit := by decide +kernel
theorem test_witness_weigh :
    let s := State.reset
    let x := s.unit (.bank 0)
    x.open? = none ∧ (if x.open?.isNone then 0 else x.count) + 1 < s.errwin.2.2 ∧ s.inService 0 = true ∧ UnitRef.isLink (.bank 0) = false := by decide +kernel
theorem test_witness_invcmdWrite :
    let busy := State.reset.modDie 0 fun d => { d with invcmd := 0x8000000000000000 }
    let marked : State := asked { done0 with kind := .store } fun s => s.modDie 0 fun d => { d with invcmd := 0x8000000000000000, invMarks := [5, 6] }
    (busy.die 0).invBusy = true ∧ (State.reset.die 0).invBusy = false ∧ bits (0x8000000000002000 : Word).toNat 62 61 = 0 ∧ bit (0x8000000000002000 : Word).toNat 63 = true ∧
    bits (0xA000000000000000 : Word).toNat 62 61 = 1 ∧ bit (0xA000000000000000 : Word).toNat 63 = true ∧ bit (0x2000000000000000 : Word).toNat 63 = false ∧
    State.reset.lineLocked 4 = false ∧ State.reset.mayStore 4 = true ∧
    (∀ n ∈ (marked.die 0).invMarks, marked.req n = none ∨ ∃ r, marked.req n = some r ∧ r.isStore = true ∧ r.stage = .done) := by
  refine ⟨by decide +kernel, by decide +kernel, by decide +kernel, by decide +kernel, by decide +kernel, by decide +kernel, by decide +kernel, by decide +kernel, by decide +kernel, ?_⟩
  intro n hn
  rcases List.mem_cons.1 hn with rfl | hn
  · exact .inr ⟨_, rfl, by decide +kernel⟩
  · rcases List.mem_cons.1 hn with rfl | hn
    · exact .inl rfl
    · cases hn
/-- A boot spends a spare of each lane that is down, while it has one (R443). -/
theorem test_witness_bootLanes :
    let s : State := { State.reset with units := [(.lane 0, { down := true }), (.lane 1, { down := true, spares := 2 }), (.lane 2, { count := 3 })] }
    (got (exec .boot s)).units = [(.lane 0, { spares := 1 }), (.lane 1, { down := true, spares := 2 }), (.lane 2, {})] := by decide +kernel
theorem test_witness_hostLinks :
    let kick : Word := 1
    let s := hosted fun h => { h with kicks := [kick], tries := 1 }
    let chk : Command := { seq := 0, opc := 2, len := 1, arg := 0, body := [1] }
    let live : State := { State.reset with tenancies := [(1, { cfg := 0x8000000000000000 })] }
    let w : State := region (fun x => { x with words := [0x8000000000000020, 0, 0, 0, 0, 0, 0, 0] }) id
    s.host.ringOpen = true ∧ s.host.posts = [] ∧ s.host.retryAt ≤ s.time ∧
    State.reset.carriers chk.portMask = [0] ∧ (∀ r ∈ allSlots, (State.reset.slot r).active = false) ∧
    allSlots.find? w.mayWave = some slot0 ∧ (∃ e ∈ live.tenancies, e.2.cfg.getLsbD 63 = true) ∧ (∀ e ∈ State.reset.tenancies, e.2.cfg.getLsbD 63 = false) ∧
    manifestSigned (List.replicate 4096 0) = false ∧ manifestSegments (List.replicate 4096 0) = [] ∧
    (manifestSegments (leBytes 8 1 ++ List.replicate 4088 0)).map (·.2.2.2.2) = [false] ∧
    (hosted fun h => { h with posts := [(1, stKickStale, 0)] }).host.commands = [] := by
  refine ⟨by decide +kernel, by decide +kernel, by decide +kernel, by decide +kernel, by decide +kernel, by decide +kernel, ⟨_, .head _, by decide +kernel⟩, by decide +kernel, ?_, by decide +kernel, by decide +kernel, by decide +kernel⟩
  show (_ && decide (wordAt (List.replicate 4096 0) 0 / 2 ^ 60 = 1)) = false
  rw [show decide (wordAt (List.replicate 4096 0) 0 / 2 ^ 60 = 1) = false by decide +kernel, Bool.and_false]
theorem test_witness_sessions :
    let e : Session := { id := 1, requester := some 3, key := 0 }
    let full : State := { State.reset with keystone := { State.reset.keystone with sessions := (List.range 8).map fun k => { id := k } } }
    let s : State := { (State.reset.modKeySlot 4 fun x => { x with st := 1, requester := some 3 }) with keystone := { (State.reset.modKeySlot 4 fun x => { x with st := 1, requester := some 3 }).keystone with sessions := [e] } }
    s.session 1 = some e ∧ e.requester = some 3 ∧ (s.keySlot 4).st ≠ 0 ∧ (s.keySlot 4).requester = some 3 ∧ (∀ k, k < 8 → full.session k ≠ none) ∧ s.freeSession = some 0 ∧
    onCurve (1, 1) = false ∧ onCurve p256G = true := by decide +kernel
theorem test_witness_tdi :
    let many : State := { State.reset with tenancies := (List.range 8).map fun t => (t, { ide := true, tdi := .run }) }
    let locked := State.reset.modTenancy 0 fun x => { x with tdi := .configLocked }
    (State.reset.tenancy 0).tdi = .configUnlocked ∧ (locked.tenancy 0).tdi = .configLocked ∧ State.reset.streamsUsed 0 < 8 ∧ 8 ≤ many.streamsUsed 9 ∧ (many.tenancy 0).tdi = .run ∧
    TdiState.configLocked ≠ .run := by decide +kernel

end Sys2Proof.Tests.Slice0
end

namespace Sys2Proof.Machine

open Sys2Proof

/-! Steps and rows: what a step can do, and what an enabled step of an agent does -/

/-- What every change of the agenda and of the focus, a tick, a hold and every row of the table keep, a step keeps. -/
theorem step_preserves {P : State → Prop}
    (hmoves : ∀ (s : State) (a : List Move) (e : Nat) (f : BrickId × Nat), P s → P { s with agenda := a, epoch := e, focus := f })
    (htick : ∀ s : State, P s → P { s with now := s.now + 1 })
    (hhold : ∀ (s : State) (b : BrickId) (banks : BitVec 8), P s → P (s.modBrick b fun x => { x with aged := (s.now, banks) }))
    (hexec : ∀ (i : Instr) (s t : State), P s → exec i s = .next t → P t)
    {s t : State} (hs : P s) (h : step s = .next t) : P t := by
  have hrest (rest : List Move) : P { s with agenda := rest } := hmoves s rest s.epoch s.focus hs
  unfold step at h
  split at h
  case h_1 => cases h; exact hmoves s _ _ s.focus hs
  case h_2 rest _ =>
    cases h
    unfold State.advance
    split
    · exact hrest rest
    · exact htick _ (hrest rest)
  case h_3 b rest _ =>
    split at h
    · cases h; exact hrest rest
    · exact hexec _ _ _ (hmoves s rest s.epoch _ hs) h
  case h_4 b banks rest _ => cases h; exact hhold _ b banks (hrest rest)
  case h_5 i rest _ =>
    split at h
    · cases h; exact hrest rest
    · exact hexec i _ _ (hrest rest) h

theorem stepWhen_true {c : Bool} {s t : State} (h : c = true) : stepWhen c s t = .next t := by rw [h]; rfl

/-- A step of an agent takes effect where it is enabled, and otherwise leaves the state. -/
theorem eq_of_stepWhen {c : Bool} {s t u : State} (h : stepWhen c s t = .next u) : u = s ∨ (c = true ∧ u = t) := by
  cases c
  · exact .inl (Host.Outcome.next.inj h).symm
  · exact .inr ⟨rfl, (Host.Outcome.next.inj h).symm⟩

/-! The clock, ERRWIN, the capability register and the cycle counter -/

/-- What a row of the table makes of `State.fixed`: a boot starts it afresh but for the agenda, the epoch and the focus (R9, log 2); a write of ERRWIN takes values that are not zero (R406); the power limit moves the clock by 100 MHz between 0.1 and 2.7 GHz (R444); every other row leaves it. -/
inductive FixedMove (s : State) : Instr → Fixed → Prop where
  | none (i : Instr) : FixedMove s i s.fixed
  | boot (capb : Word) (bpm : List Word) :
      FixedMove s .boot { State.reset.fixed with agenda := s.agenda, epoch := s.epoch, focus := s.focus, capb, bpm }
  | errwin (v : Word) (w : Nat × Nat × Nat) (hw : 1 ≤ w.1 ∧ 1 ≤ w.2.1 ∧ 1 ≤ w.2.2) :
      FixedMove s (.errwinWrite v) { s.fixed with errwin := w }
  | stepDown (watts : Nat) (h : 1 < s.fclk) : FixedMove s (.powerLimitStepDown watts) (s.setClock (s.fclk - 1)).fixed
  | stepUp (watts : Nat) (h : s.fclk < 27) : FixedMove s (.powerStepUp watts) (s.setClock (s.fclk + 1)).fixed

/-- Every row makes one of these moves. -/
theorem exec_fixedMove {i : Instr} {s t : State} (h : exec i s = .next t) : FixedMove s i t.fixed := by
  cases hi : setsFixed i with
  | false =>
    obtain ⟨u, hu, hf⟩ := exec_keeps i s hi
    cases hu.symm.trans h
    rw [hf]
    exact .none i
  | true =>
    cases i with
    | boot => cases h; exact .boot _ _
    | errwinWrite v =>
      obtain rfl | ⟨hc, rfl⟩ := eq_of_stepWhen h
      · exact .none _
      · simp only [Bool.and_eq_true, decide_eq_true_eq] at hc
        obtain ⟨⟨hwin, hue⟩, hthr⟩ := hc
        exact .errwin v _ ⟨Nat.pos_of_ne_zero hwin, Nat.pos_of_ne_zero hue, Nat.pos_of_ne_zero hthr⟩
    | powerLimitStepDown watts =>
      obtain rfl | ⟨hc, rfl⟩ := eq_of_stepWhen h
      · exact .none _
      · simp only [Bool.and_eq_true, decide_eq_true_eq] at hc
        exact .stepDown watts hc.2
    | powerStepUp watts =>
      obtain rfl | ⟨hc, rfl⟩ := eq_of_stepWhen h
      · exact .none _
      · simp only [Bool.and_eq_true, decide_eq_true_eq] at hc
        exact .stepUp watts hc.2
    | _ => cases hi

/-- `State.clockOk`, said of the part of the state that it speaks of. -/
def Fixed.clockOk (x : Fixed) : Prop :=
  1 ≤ x.fclk ∧ x.fclk ≤ 27 ∧ x.clockAt ≤ x.now ∧ 1 ≤ x.errwin.1 ∧ 1 ≤ x.errwin.2.1 ∧ 1 ≤ x.errwin.2.2

theorem State.fixed_clockOk (s : State) : s.fixed.clockOk ↔ s.clockOk := Iff.rfl

theorem State.reset_clockOk : State.reset.clockOk := by unfold State.clockOk; decide

/-- Every row keeps the clock's invariant. -/
theorem FixedMove.clockOk {s : State} {i : Instr} {x : Fixed} (hs : s.clockOk) (h : FixedMove s i x) : x.clockOk := by
  obtain ⟨hlow, hhigh, hpast, hwin⟩ := hs
  cases h with
  | none => exact ⟨hlow, hhigh, hpast, hwin⟩
  | boot => exact State.reset_clockOk
  | errwin v w hw => exact ⟨hlow, hhigh, hpast, hw⟩
  | stepDown watts h => exact ⟨Nat.le_sub_one_of_lt h, Nat.le_trans (Nat.sub_le ..) hhigh, Nat.le_refl s.now, hwin⟩
  | stepUp watts h => exact ⟨Nat.le_add_left .., h, Nat.le_refl s.now, hwin⟩

/-- A tick leaves the last change of the clock in the past. -/
theorem clockOk_tick (s : State) (hs : s.clockOk) : State.clockOk { s with now := s.now + 1 } := by
  obtain ⟨hlow, hhigh, hpast, hwin⟩ := hs
  exact ⟨hlow, hhigh, Nat.le_succ_of_le hpast, hwin⟩

/-- Settles O40: over a row by the move that it makes of `State.fixed`, and over the other moves of the agenda. -/
theorem clockInvariantKept : Obligations.ClockInvariantKept := by
  intro s t hs h
  exact step_preserves (P := State.clockOk) (fun _ _ _ _ hs => hs) clockOk_tick (fun _ _ _ hs => hs)
    (fun _ _ t hs h => t.fixed_clockOk.1 ((exec_fixedMove h).clockOk hs)) hs h

/-- Which rows may change which fields of `State.fixed`. -/
theorem FixedMove.frame {s : State} {i : Instr} {x : Fixed} (h : FixedMove s i x) :
    (i ≠ .boot → x.capb = s.capb ∧ x.bpm = s.bpm ∧ x.now = s.now) ∧
    (i ≠ .boot → (∀ w, i ≠ .powerLimitStepDown w) → (∀ w, i ≠ .powerStepUp w) →
      x.fclk = s.fclk ∧ x.clockAt = s.clockAt ∧ x.clockTime = s.clockTime) ∧
    (i ≠ .boot → (∀ v, i ≠ .errwinWrite v) → x.errwin = s.errwin) ∧
    x.agenda = s.agenda ∧ x.epoch = s.epoch := by
  have hcapb : s.capb = s.capb ∧ s.bpm = s.bpm ∧ s.now = s.now := ⟨rfl, rfl, rfl⟩
  have hclock : s.fclk = s.fclk ∧ s.clockAt = s.clockAt ∧ s.clockTime = s.clockTime := ⟨rfl, rfl, rfl⟩
  cases h with
  | none => exact ⟨fun _ => hcapb, fun _ _ _ => hclock, fun _ _ => rfl, rfl, rfl⟩
  | boot => exact ⟨fun hb => absurd rfl hb, fun hb => absurd rfl hb, fun hb => absurd rfl hb, rfl, rfl⟩
  | errwin v => exact ⟨fun _ => hcapb, fun _ _ _ => hclock, fun _ hv => absurd rfl (hv v), rfl, rfl⟩
  | stepDown watts => exact ⟨fun _ => hcapb, fun _ hd _ => absurd rfl (hd watts), fun _ _ => rfl, rfl, rfl⟩
  | stepUp watts => exact ⟨fun _ => hcapb, fun _ _ hu => absurd rfl (hu watts), fun _ _ => rfl, rfl, rfl⟩

/-- Settles O41, by the move that the row makes of `State.fixed`. -/
theorem onlyCertainMovesChange : Obligations.OnlyCertainMovesChange :=
  fun _ _ _ h => (exec_fixedMove h).frame

end Sys2Proof.Machine

namespace Sys2Proof.Machine

open Sys2Proof

/-! The canonical form of the memories -/

/-- Every row keeps the canonical form. -/
theorem exec_mem (i : Instr) (s : State) (hs : s.memWf) : MemNext (exec i s) := by
  cases hi : i.isRule with
  | true =>
    obtain ⟨o, -, he⟩ := exec_rule hi
    rw [he s]
    exact fireRule_mem hs
  | false =>
    cases i with
    | beatIssue _ => exact execBeatIssue_mem _ s hs
    | beatWriteBack _ _ => exact execBeatWriteBack_mem _ _ s hs
    | firingCommit _ => exact execFiringCommit_mem _ s hs
    | preciseTrap _ => exact execPreciseTrap_mem _ s hs
    | pickerWake _ => exact execPickerWake_mem _ s hs
    | tokenArrival _ => exact execTokenArrival_mem _ s hs
    | gutterRefill _ _ => exact execGutterRefill_mem _ _ s hs
    | tokenForward _ => exact execTokenForward_mem _ s hs
    | branchHoldDeliver _ _ => exact execBranchHoldDeliver_mem _ _ s hs
    | brickAlign _ => exact execBrickAlign_mem _ s hs
    | regionRoundUpdate _ => exact execRegionRoundUpdate_mem _ s hs
    | brickWeep _ => exact execBrickWeep_mem _ s hs
    | weepOrder _ => exact execWeepOrder_mem _ s hs
    | reconfigApply _ => exact execReconfigApply_mem _ s hs
    | brickReclaim _ => exact execBrickReclaim_mem _ s hs
    | ownerRequest _ => exact execOwnerRequest_mem _ s hs
    | coalesceTimeout _ _ => exact execCoalesceTimeout_mem _ _ s hs
    | pageWalk _ => exact execPageWalk_mem _ s hs
    | loftAccess _ => exact execLoftAccess_mem _ s hs
    | loftFillDone _ => exact execLoftFillDone_mem _ s hs
    | hbmRequest _ => exact execHbmRequest_mem _ s hs
    | deadlineService _ => exact execDeadlineService_mem _ s hs
    | refreshStart _ _ => exact execRefreshStart_mem _ _ s hs
    | refreshEnd _ _ => exact execRefreshEnd_mem _ _ s hs
    | stackSensorReading _ _ => exact execStackSensorReading_mem _ _ s hs
    | thermtrip _ => exact execThermtrip_mem _ s hs
    | talwUpdate _ _ => exact execTalwUpdate_mem _ _ s hs
    | thermalNotice _ _ => exact execThermalNotice_mem _ _ s hs
    | rstallRead _ => exact execRstallRead_mem _ s hs
    | rebase _ => exact execRebase_mem _ s hs
    | invcmdVa _ _ _ => exact execInvcmdVa_mem _ _ _ s hs
    | invcmdTenancy _ _ => exact execInvcmdTenancy_mem _ _ s hs
    | invcmdComplete _ => exact execInvcmdComplete_mem _ s hs
    | globalReturn _ => exact execGlobalReturn_mem _ s hs
    | handoverMessage _ => exact execHandoverMessage_mem _ s hs
    | handoverRelease _ => exact execHandoverRelease_mem _ s hs
    | streamTileStart _ _ => exact execStreamTileStart_mem _ _ s hs
    | streamWordSend _ _ => exact execStreamWordSend_mem _ _ s hs
    | streamInputTake _ _ => exact execStreamInputTake_mem _ _ s hs
    | streamRunEnd _ _ => exact execStreamRunEnd_mem _ _ s hs
    | drawPortTake _ => exact execDrawPortTake_mem _ s hs
    | paramPortTake _ => exact execParamPortTake_mem _ s hs
    | paramApply _ => exact execParamApply_mem _ s hs
    | taskRecordArrival _ => exact execTaskRecordArrival_mem _ s hs
    | windowEnter _ _ => exact execWindowEnter_mem _ _ s hs
    | staleRecord _ _ _ => exact execStaleRecord_mem _ _ _ s hs
    | taskIssue _ _ => exact execTaskIssue_mem _ _ s hs
    | taskComputeEnd _ _ => exact execTaskComputeEnd_mem _ _ s hs
    | drainStart _ _ => exact execDrainStart_mem _ _ s hs
    | drainWord _ _ => exact execDrainWord_mem _ _ s hs
    | taskDone _ _ => exact execTaskDone_mem _ _ s hs
    | steerPortTake _ _ => exact execSteerPortTake_mem _ _ s hs
    | slateMapOperation _ => exact execSlateMapOperation_mem _ s hs
    | slateRelease _ => exact execSlateRelease_mem _ s hs
    | frameLand _ => exact execFrameLand_mem _ s hs
    | dockNotice _ _ => exact execDockNotice_mem _ _ s hs
    | launchCopyEnd _ _ => exact execLaunchCopyEnd_mem _ _ s hs
    | fireEnd _ _ => exact execFireEnd_mem _ _ s hs
    | ringPortSend _ _ => exact execRingPortSend_mem _ _ s hs
    | finTokenEmit _ _ => exact execFinTokenEmit_mem _ _ s hs
    | gatewayContribution _ => exact execGatewayContribution_mem _ s hs
    | gatewayCombine _ => exact execGatewayCombine_mem _ s hs
    | footingPacketArrival _ => exact execFootingPacketArrival_mem _ s hs
    | queryStart _ => exact execQueryStart_mem _ s hs
    | expansionStep _ _ => exact execExpansionStep_mem _ _ s hs
    | distanceRequest _ _ _ => exact execDistanceRequest_mem _ _ _ s hs
    | queryComplete _ _ => exact execQueryComplete_mem _ _ s hs
    | qblkBufferEmit _ => exact execQblkBufferEmit_mem _ s hs
    | regionCompletion _ => exact execRegionCompletion_mem _ s hs
    | completionWordStore _ => exact execCompletionWordStore_mem _ s hs
    | countWave _ => exact execCountWave_mem _ s hs
    | regionFault _ => exact execRegionFault_mem _ s hs
    | bindSubmit _ _ => exact execBindSubmit_mem _ _ s hs
    | reconfigSubmit _ => exact execReconfigSubmit_mem _ s hs
    | dispatchLoad _ => exact execDispatchLoad_mem _ s hs
    | heldRecordRelease _ => exact execHeldRecordRelease_mem _ s hs
    | bstatKill _ _ => exact execBstatKill_mem _ _ s hs
    | bstatClr _ => exact execBstatClr_mem _ s hs
    | bayGrant _ _ => exact execBayGrant_mem _ _ s hs
    | bayReturn _ _ => exact execBayReturn_mem _ _ s hs
    | swcmd _ _ => exact execSwcmd_mem _ _ s hs
    | setwStop _ => exact execSetwStop_mem _ s hs
    | setwWaitExpiry _ => exact execSetwWaitExpiry_mem _ s hs
    | imageCapture _ => exact execImageCapture_mem _ s hs
    | bsrCtlPickSet _ => exact execBsrCtlPickSet_mem _ s hs
    | bsrCtlPickClear _ => exact execBsrCtlPickClear_mem _ s hs
    | bsrCtlStep _ _ => exact execBsrCtlStep_mem _ _ s hs
    | bsrCtlPass _ => exact execBsrCtlPass_mem _ s hs
    | tscfgWrite _ _ => exact execTscfgWrite_mem _ _ s hs
    | errwinWrite _ => exact execErrwinWrite_mem _ s hs
    | registerWrite _ _ => exact execRegisterWrite_mem _ _ s hs
    | patrolScrub _ => exact execPatrolScrub_mem _ s hs
    | errorEvent _ _ _ => exact execErrorEvent_mem _ _ _ s hs
    | boot => exact execBoot_mem s hs
    | mapoutRemove _ => exact execMapoutRemove_mem _ s hs
    | kick => exact execKick_mem s hs
    | kickReread => exact execKickReread_mem s hs
    | completionPost => exact execCompletionPost_mem s hs
    | cqbaseWrite _ => exact execCqbaseWrite_mem _ s hs
    | hostNop => exact execHostNop_mem s hs
    | summary => exact execSummary_mem s hs
    | chkpt => exact execChkpt_mem s hs
    | tenset => exact execTenset_mem s hs
    | tenclr => exact execTenclr_mem s hs
    | keymap => exact execKeymap_mem s hs
    | restore _ => exact execRestore_mem _ s hs
    | keyload _ _ _ _ => exact execKeyload_mem _ _ _ _ s hs
    | keydrop _ _ => exact execKeydrop_mem _ _ s hs
    | spdmGetCertificate => exact execSpdmGetCertificate_mem s hs
    | spdmChallenge _ => exact execSpdmChallenge_mem _ s hs
    | spdmGetMeasurements _ _ => exact execSpdmGetMeasurements_mem _ _ s hs
    | spdmKeyExchange _ => exact execSpdmKeyExchange_mem _ s hs
    | weightChunkRead _ _ => exact execWeightChunkRead_mem _ _ s hs
    | ringFlitReceive _ _ => exact execRingFlitReceive_mem _ _ s hs
    | linkdown _ => exact execLinkdown_mem _ s hs
    | powerLimitStepDown _ => exact execPowerLimitStepDown_mem _ s hs
    | powerStepUp _ => exact execPowerStepUp_mem _ s hs
    | tdiLeaveRun _ _ => exact execTdiLeaveRun_mem _ _ s hs
    | internalAcknowledgement _ => exact execInternalAcknowledgement_mem _ s hs
    | hstAccess _ _ _ _ _ => exact execHstAccess_mem _ _ _ _ _ s hs
    | tdiEnterRun _ _ => exact execTdiEnterRun_mem _ _ s hs
    | _ => cases hi

theorem memWf_of_exec (i : Instr) (s t : State) (hs : s.memWf) (h : exec i s = .next t) : t.memWf := by
  obtain ⟨u, hu, hw⟩ := exec_mem i s hs
  cases hu.symm.trans h
  exact hw

theorem State.reset_memWf : State.reset.memWf := ⟨rfl, rfl, fun _ h => nomatch h⟩

/-- Settles O49: every move of the agenda keeps the form, and a byte after a write is one written or the one that stood there. -/
theorem memoryCanonical : Obligations.MemoryCanonical := by
  refine ⟨State.reset_memWf, fun s t hs h => ?_, fun l a vs hl => ⟨cellsWrite_wf vs a hl, fun k v hk => ?_, fun c hc => ?_⟩,
    fun l m => Memory.ext⟩
  · exact step_preserves (P := State.memWf) (fun _ _ _ _ hs => hs) (fun _ hs => hs)
      (fun s b banks hs => State.modBrick_mem hs (State.brick_wf hs b)) memWf_of_exec hs h
  · obtain ⟨hlt, rfl⟩ := List.getElem?_eq_some_iff.1 hk
    rw [cellsGet_write vs a (a + k) hl, if_pos ⟨Nat.le_add_right a k, Nat.add_lt_add_left hlt a⟩, Nat.add_sub_cancel_left, List.getD_eq_getElem _ _ hlt]
  · rw [cellsGet_write vs a c hl, if_neg (by omega)]

end Sys2Proof.Machine

namespace Sys2Proof.Machine

open Sys2Proof

/-! The moves of the agenda -/

theorem step_empty {s : State} (h : s.agenda = []) : step s = .next { s with agenda := Config.schedule s.epoch, epoch := s.epoch + 1 } := by
  simp only [step, h]

theorem step_tick {s : State} {rest : List Move} (h : s.agenda = .tick :: rest) : step s = .next ({ s with agenda := rest } : State).advance := by
  simp only [step, h]

theorem step_hold {s : State} {b : BrickId} {banks : BitVec 8} {rest : List Move} (h : s.agenda = .hold b banks :: rest) :
    step s = .next (({ s with agenda := rest } : State).modBrick b fun x => { x with aged := (s.now, banks) }) := by
  simp only [step, h]

theorem step_event {s : State} {i : Instr} {rest : List Move} (h : s.agenda = .event i :: rest) :
    step s = if i.isRule then .next { s with agenda := rest } else exec i { s with agenda := rest } := by
  simp only [step, h]

/-- The clock advances by a cycle, unless a step of this cycle is still due, and nothing else changes. -/
theorem State.advance_eq (s : State) : s.advance = { s with now := if s.due then s.now else s.now + 1 } := by
  unfold State.advance
  split <;> rfl

/-- Settles O38, by the equation of each move. -/
theorem stepRunsTheOtherMoves : Obligations.StepRunsTheOtherMoves := by
  refine ⟨fun s rest h => ⟨_, step_tick h, ?_, ?_⟩, fun s b banks rest h => ⟨_, step_hold h, rfl, ?_, fun c hc => ?_⟩,
    fun s i rest h => ⟨fun hi => ?_, fun hi => ?_⟩, fun s h => step_empty h⟩
  · rw [State.advance_eq]
  · rw [State.advance_eq]
  · exact State.modBrick_brick_same ..
  · exact State.modBrick_brick_other _ (Ne.symm hc) _
  · simp [step_event h, hi]
  · simp [step_event h, hi]

/-! Identifiers of bricks and operand codes -/

theorem BrickId.mk_toNat {d c k : Nat} (hd : d < 4) (hc : c < 64) (hk : k < 64) : (BrickId.mk d c k).toNat = d * 4096 + c * 64 + k := by
  rw [BrickId.mk, BitVec.toNat_ofNat, Nat.mod_eq_of_lt hd, Nat.mod_eq_of_lt hc, Nat.mod_eq_of_lt hk, Nat.mod_eq_of_lt (by omega)]

theorem bits_eq (x hi lo : Nat) : bits x hi lo = x / 2 ^ lo % 2 ^ (hi + 1 - lo) := by rw [bits, Nat.shiftRight_eq_div_pow]

/-- A rule reads an operand that it has as `operand` says, and zero for one that it has not. -/
theorem fieldValue_reads (s : State) (b : BrickId) (f : Firing) (r : RuleInfo) {u : Use} (hu : u.reads = true) (code i : Nat) :
    fieldValue s b f r u code i = operand s b f r.f.keep code u.slices i := if_pos hu

/-- A channel's code reads the entry of the beat, or the first under KEEP (R39). -/
theorem operand_channel (s : State) (b : BrickId) (f : Firing) (keep : Bool) (n i : Nat) {ch : Nat} (hch : ch < 4) {t : Token}
    (ht : (f.heads.getD ch [])[if keep then 0 else i]? = some t) : operand s b f keep (112 + ch) n i = t.pay.toNat % 2 ^ (4 * n) := by
  unfold operand Firing.entry
  rw [if_neg (by omega), if_pos (by omega), Nat.add_sub_cancel_left, ht]
  rfl

/-- A slice's code reads the slices of the brick, where no write-back of the firing is out (R38). -/
theorem operand_slices (s : State) (b : BrickId) {f : Firing} (hf : f.wbs = []) (keep : Bool) {code : Nat} (hc : code < 112) (n i : Nat) :
    operand s b f keep code n i = readSlices (s.brick b).slices code n := by
  unfold operand Firing.overlay
  rw [if_pos hc, hf]
  rfl

/-- Settles O47. -/
theorem operandCodes : Obligations.OperandCodes := by
  refine ⟨fun d c k hd hc hk => ?_, fun s b f r u i hu => ?_⟩
  · have h := BrickId.mk_toNat hd hc hk
    have hdie : BrickId.die (BrickId.mk d c k) = d := by rw [BrickId.die, bits_eq, h]; omega
    have hcourse : BrickId.course (BrickId.mk d c k) = c := by rw [BrickId.course, bits_eq, h]; omega
    have hcol : BrickId.col (BrickId.mk d c k) = k := by rw [BrickId.col, bits_eq, h]; omega
    exact ⟨h, hdie, hcourse, hcol, by rw [BrickId.bay, hdie, hcourse]⟩
  · simp only [fieldValue_reads s b f r hu]
    exact ⟨rfl, rfl, rfl, rfl, fun c hc hf => operand_slices s b hf _ hc _ i, fun ch t hch ht => operand_channel s b f _ _ i hch ht⟩

/-! The state after reset -/

theorem readSlices_zero (lo n : Nat) : readSlices 0 lo n = 0 := by simp [readSlices, bits]

/-- CAPB of a part with nothing mapped out: 16,384 bricks, 512 edge bricks, none mapped out, 32 whole bays (R15). -/
theorem State.reset_capb : State.reset.capb.toNat = 16384 * 2 ^ 49 + 512 * 2 ^ 39 + 32 * 2 ^ 24 := by decide +kernel

theorem State.reset_inService (b : BrickId) : State.reset.inService b = true := by
  have hword : State.reset.bpm.getD (b.toNat / 64) 0 = 0xFFFF_FFFF_FFFF_FFFF := by
    have hlt : b.toNat / 64 < 256 := by have := b.isLt; omega
    have hbpm : State.reset.bpm = List.replicate 256 0xFFFF_FFFF_FFFF_FFFF := rfl
    rw [hbpm, List.getD_eq_getElem?_getD, List.getElem?_replicate, if_pos hlt]
    rfl
  have hbit : ∀ k, k < 64 → (0xFFFF_FFFF_FFFF_FFFF : Word).getLsbD k = true := by decide
  rw [State.inService, hword]
  exact hbit _ (Nat.mod_lt _ (by decide))

theorem State.reset_brick (b : BrickId) : State.reset.brick b = Brick.reset := if_pos (State.reset_inService b)

theorem State.reset_bstat (r : RegionId) : State.reset.bstat r = 0 := by
  have hslot : State.reset.slot r = {} := rfl
  rw [State.bstat, hslot]
  rfl

theorem State.reset_die (d : Nat) : State.reset.die d = {} := rfl

/-- A brick with PICK clear fires nothing. -/
theorem not_mayFire_of_pick {i : Instr} {s : State} (h : (s.brick s.focus.1).pick = false) : ¬ MayFire i s := by
  rintro ⟨hp, -⟩
  simp [pickerRuns, h] at hp

/-- Settles O48. -/
theorem resetState : Obligations.ResetState := by
  refine ⟨State.reset_clockOk, State.reset_memWf, rfl, rfl, rfl, ?_, ?_, ?_, ?_, State.reset_inService, fun r => ⟨rfl, State.reset_bstat r⟩,
    fun t => ⟨rfl, rfl, rfl⟩, fun d => State.reset_die d ▸ ⟨rfl, rfl⟩, fun b => ?_, fun b i => ?_⟩
  iterate 4 · rw [State.reset_capb]; rfl
  · rw [State.reset_brick]
    exact ⟨rfl, rfl, readSlices_zero .., rfl, rfl, rfl, rfl, rfl, rfl, rfl, rfl⟩
  · cases hi : i.isRule with
    | false => exact .inr rfl
    | true =>
      refine .inl (exec_rule_idle hi (not_mayFire_of_pick ?_))
      exact congrArg Brick.pick (State.reset_brick b)

end Sys2Proof.Machine

namespace Sys2Proof.Machine

open Sys2Proof

/-! Refreshes (R237) -/

theorem exec_refreshStart {s : State} {stack pc : Nat} (hstack : stack < 12) (hpc : pc < 64) (hblock : s.refreshElapsed stack pc < refreshBlock)
    (hnone : ∀ p ∈ (s.stack stack).refreshing, p.1 ≠ pc) :
    exec (.refreshStart stack pc) s =
      .next (s.modStack stack fun x => { x with refreshing := x.refreshing ++ [(pc, s.now - s.refreshElapsed stack pc / s.cycleUnits)] }) := by
  show execRefreshStart stack pc s = _
  exact stepWhen_true (by simpa [hstack, hpc, hblock] using hnone)

theorem exec_refreshEnd {s : State} {stack pc start : Nat} (hfind : ((s.stack stack).refreshing.find? fun p => p.1 = pc) = some (pc, start))
    (hblock : refreshBlock ≤ s.refreshElapsed stack pc) :
    exec (.refreshEnd stack pc) s = .next ((s.modStack stack fun x => { x with refreshing := x.refreshing.filter fun p => p.1 ≠ pc }).addStall stack
      (((s.fills.filter fun f => stackOf (32 * f.sector) = stack && channelOfPa (32 * f.sector) = pc).map s.fillWait).foldl (· + ·) 0)) := by
  show execRefreshEnd stack pc s = _
  rw [execRefreshEnd, hfind]
  exact stepWhen_true (decide_eq_true hblock)

/-- What a fill has waited for the refresh of its pseudo-channel. -/
theorem State.fillWait_of_find {s : State} {stack pc start : Nat} (hfind : ((s.stack stack).refreshing.find? fun p => p.1 = pc) = some (pc, start))
    {f : Fill} (hs : stackOf (32 * f.sector) = stack) (hc : channelOfPa (32 * f.sector) = pc) :
    s.fillWait f = if f.served.isNone then s.now - max f.arrived start else 0 := by
  subst hs hc
  rw [State.fillWait, hfind]

/-! Stacks: readings and trips (R237, R238, R408) -/

/-- A stack after a reading of `temp` °C. -/
def Stack.reading (x : Stack) (temp : Nat) (grid : Nat × List Nat) : Stack :=
  { x with
    temp
    hot := if x.hot.isNone && 105 ≤ temp then some temp else x.hot
    doubled := if 85 < temp then true else if temp ≤ 83 then false else x.doubled
    grid
    throttled := if 95 ≤ temp then true else if temp ≤ 92 then false else x.throttled }

/-- The grid of refreshes after a reading: it starts afresh where the interval changes (log 1). -/
def State.gridAfter (s : State) (stack temp : Nat) : Nat × List Nat :=
  let doubled := if 85 < temp then true else if temp ≤ 83 then false else (s.stack stack).doubled
  if doubled = (s.stack stack).doubled then (s.stack stack).grid else s.regrid stack doubled

theorem exec_stackSensorReading {s : State} {stack : Nat} (temp : Nat) (h : stack < 12) :
    exec (.stackSensorReading stack temp) s = .next (s.modStack stack fun x => x.reading temp (s.gridAfter stack temp)) := by
  show execStackSensorReading stack temp s = _
  exact stepWhen_true (decide_eq_true h)

theorem unitsPerNs_pos : 0 < unitsPerNs := by decide

theorem State.refreshNs_pos (s : State) (stack : Nat) : 0 < s.refreshNs stack := by
  rw [State.refreshNs]
  split <;> decide

/-- Since the interval last changed, the elapsed time is counted on from what the grid holds. -/
theorem State.refreshElapsed_of_grid {s : State} {stack pc e : Nat} (h : (s.stack stack).grid.2[pc]? = some e) :
    s.refreshElapsed stack pc = (e + (s.time - (s.stack stack).grid.1)) % (s.refreshNs stack * unitsPerNs) := by
  unfold State.refreshElapsed
  extract_lets x i
  generalize unitsPerNs = n
  rw [h]

theorem State.regrid_start (s : State) (stack : Nat) (d : Bool) : (s.regrid stack d).1 = s.time := by unfold State.regrid; rfl

theorem State.regrid_elapsed (s : State) (stack : Nat) (d : Bool) {pc : Nat} (hpc : pc < 64) : (s.regrid stack d).2[pc]? =
    some (if s.refreshElapsed stack pc < (if d then 1950 else 3900) * unitsPerNs then s.refreshElapsed stack pc else 0) := by
  unfold State.regrid
  extract_lets i
  rw [List.getElem?_map, List.getElem?_range hpc]
  rfl

theorem ite_lt_mod {e n : Nat} (h : 0 < n) : (if e < n then e else 0) % n = if e < n then e else 0 := by
  split
  · exact Nat.mod_eq_of_lt ‹_›
  · exact Nat.mod_eq_of_lt h

/-- Where the interval has just changed, a channel goes on from what had elapsed, or refreshes at once where that is past the new interval (log 1). -/
theorem State.refreshElapsed_of_regrid {s t : State} {stack pc : Nat} (hpc : pc < 64) (htime : t.time = s.time)
    (hgrid : (t.stack stack).grid = s.regrid stack (t.stack stack).doubled) :
    t.refreshElapsed stack pc = if s.refreshElapsed stack pc < t.refreshNs stack * unitsPerNs then s.refreshElapsed stack pc else 0 := by
  have hentry := s.regrid_elapsed stack (t.stack stack).doubled hpc
  rw [← hgrid, ← State.refreshNs] at hentry
  rw [State.refreshElapsed_of_grid hentry, hgrid, State.regrid_start, htime, Nat.sub_self, Nat.add_zero]
  exact ite_lt_mod (Nat.mul_pos (t.refreshNs_pos stack) unitsPerNs_pos)

theorem State.refreshElapsed_reading {s : State} {stack temp pc : Nat} (hpc : pc < 64)
    (hne : ((s.stack stack).reading temp (s.gridAfter stack temp)).doubled ≠ (s.stack stack).doubled) :
    (s.modStack stack fun x => x.reading temp (s.gridAfter stack temp)).refreshElapsed stack pc =
      if s.refreshElapsed stack pc < (s.modStack stack fun x => x.reading temp (s.gridAfter stack temp)).refreshNs stack * unitsPerNs
      then s.refreshElapsed stack pc else 0 := by
  refine State.refreshElapsed_of_regrid hpc rfl ?_
  rw [State.modStack_stack, if_pos rfl]
  exact if_neg hne

theorem exec_thermtrip {s : State} {stack peak : Nat} (hstack : stack < 12) (hhot : (s.stack stack).hot = some peak)
    (hup : (s.stack stack).tripped = false) :
    exec (.thermtrip stack) s = .next ((s.regionsOn (stack / 3)).foldl (fun s r => s.raiseFault r { code := 0x05, detail := 0x42 })
      ((s.modStack stack fun x => { x with tripped := true }).writeRecord { code := 0x42, die := stack / 3, detail := stack, data := peak })) := by
  show execThermtrip stack s = _
  rw [execThermtrip, hhot, hup]
  exact stepWhen_true (by simp [hstack])

/-! Thermal notices (R239, R383) -/

theorem exec_talwUpdate {s : State} {die : Nat} (rise : Nat) (h : die < 4) :
    exec (.talwUpdate die rise) s = .next (allSlots.foldl (fun u r => u.noteCrossing die r)
      (s.modDie die fun d => { d with talw := BitVec.ofNat 64 (s.talwValue die rise) })) := by
  show execTalwUpdate die rise s = _
  exact stepWhen_true (decide_eq_true h)

/-- A region notes a crossing at its die: it runs under notify there, and ALLOW has passed TTH since the last notice (R383). -/
def State.crosses (s : State) (die : Nat) (r : RegionId) : Prop :=
  (s.slot r).st = .run ∧ (s.slot r).therm = 1 ∧ (∃ c ∈ (s.slot r).bricks, BrickId.die c = die) ∧
    decide ((s.die die).allow < (s.slot r).tth) ≠ (s.slot r).hot.contains die

theorem State.noteCrossing_of_crosses {s : State} {die : Nat} {r : RegionId} (h : s.crosses die r) :
    s.noteCrossing die r = s.modSlot r fun y => { y with
      hot := if (s.die die).allow < (s.slot r).tth then die :: y.hot else y.hot.filter (· ≠ die)
      notices := y.notices ++ [(s.now, ctrlToken 0xE (s.hottestStack die * 2 ^ 56 + (s.die die).allow * 2 ^ 32 + b2n (s.die die).throt * 2 ^ 31))] } := by
  obtain ⟨hst, htherm, hdie, hlow⟩ := h
  unfold State.noteCrossing
  rw [if_pos (by simpa [hst, htherm, hdie] using hlow)]
  simp only [decide_eq_true_eq]

theorem State.noteCrossing_of_not_crosses {s : State} {die : Nat} {r : RegionId} (h : ¬ s.crosses die r) : s.noteCrossing die r = s := by
  unfold State.noteCrossing
  refine if_neg fun hc => h ?_
  simpa [State.crosses, and_assoc] using hc

theorem exec_thermalNotice {s : State} {r : RegionId} {stack at' : Nat} {t : Token} {rest : List (Nat × Token)}
    (hnotices : (s.slot r).notices = (at', t) :: rest) (hstack : bits t.pay.toNat 59 56 = stack)
    (howns : s.owns r (s.slot r).noticeDest.place = true) (haccepts : s.accepts (s.slot r).noticeDest t = true) :
    exec (.thermalNotice r stack) s =
      .next ((s.modSlot r fun x => { x with notices := rest }).launch (s.slot r).noticeDest.place noticePort (s.slot r).noticeDest t) := by
  show execThermalNotice r stack s = _
  unfold execThermalNotice
  simp only [hnotices]
  exact stepWhen_true (by simp [hstack, howns, haccepts])

/-! Errors and links (R208, R405-R408) -/

theorem exec_linkdown {s : State} {u : UnitRef} (hlink : UnitRef.isLink u = true) (hup : (s.unit u).down = false) :
    exec (.linkdown u) s = .next (s.linkDown u) := by
  show execLinkdown u s = _
  exact stepWhen_true (by rw [hlink, hup]; rfl)

/-- A unit's entry reads as it was set. -/
theorem State.setUnit_unit_same (s : State) (u : UnitRef) (x : ErrUnit) : (s.setUnit u x).unit u = x := by
  have hnone : (s.units.filter fun e => e.1 ≠ u).find? (fun e => e.1 = u) = none := by simp
  rw [State.unit, State.setUnit, List.find?_append, hnone]
  simp

/-- A unit that is no link never goes down: an event only counts (R407). -/
theorem State.weigh_of_not_link {s : State} {u : UnitRef} (h : UnitRef.isLink u = false) (w addr : Nat) : s.weigh u w addr = s.countError u w addr := by
  simp [State.weigh, h]

/-- No window of the unit is open, or the one that is has ended (R405, R406). -/
def State.windowFresh (s : State) (u : UnitRef) : Bool :=
  match (s.unit u).open? with
  | none => true
  | some t => s.errwin.1 * 1000000 * unitsPerNs ≤ s.time - t

/-- The count of a unit after an event of weight w, before it is compared with THR (R405). -/
def State.countWith (s : State) (u : UnitRef) (w : Nat) : Nat := (if s.windowFresh u then 0 else (s.unit u).count) + w

/-- A count that stays below THR moves the unit's window and its count alone. -/
theorem State.countError_below {s : State} {u : UnitRef} {w : Nat} (addr : Nat) (h : s.countWith u w < s.errwin.2.2) :
    s.countError u w addr = s.setUnit u { s.unit u with
      open? := if s.windowFresh u then some s.time else (s.unit u).open?, count := s.countWith u w } := by
  unfold State.countError
  exact if_pos h

/-- Such a count marks no unit, so no link goes down. -/
theorem State.weigh_below {s : State} {u : UnitRef} {w : Nat} (addr : Nat) (h : s.countWith u w < s.errwin.2.2) :
    s.weigh u w addr = s.setUnit u { s.unit u with
      open? := if s.windowFresh u then some s.time else (s.unit u).open?, count := s.countWith u w } := by
  rw [State.weigh, State.countError_below addr h, State.setUnit_unit_same]
  refine if_neg fun hc => ?_
  simp only [Bool.and_eq_true, decide_eq_true_eq] at hc
  obtain ⟨⟨⟨-, hone⟩, -⟩, htwo⟩ := hc
  omega

theorem exec_patrolScrub {s : State} {b : BrickId} (hlife : (s.brick b).life ≠ .out) (hdue : (s.brick b).scrub < s.now / 2048) :
    exec (.patrolScrub b) s = .next (if (s.brick b).wordUe ((s.brick b).scrub % 8192)
      then (s.modBrick b fun x => { x with scrub := x.scrub + 1 }).meetBad (.bank b) (8 * ((s.brick b).scrub % 8192))
      else s.modBrick b fun x => { x with scrub := x.scrub + 1 }) := by
  show execPatrolScrub b s = _
  exact stepWhen_true (by simp [hlife, hdue])

/-! Scale-out ports (R442) -/

/-- Sending what waits leaves what the port has received. -/
theorem ScalePort.pump_received (n : Nat) (p : ScalePort) :
    (p.pump n).expect = p.expect ∧ (p.pump n).acked = p.acked ∧ (p.pump n).rx = p.rx := by
  induction n generalizing p with
  | zero => exact ⟨rfl, rfl, rfl⟩
  | succ n ih =>
    unfold ScalePort.pump
    split
    · exact ⟨rfl, rfl, rfl⟩
    · dsimp only
      split
      · exact ih _
      · exact ⟨rfl, rfl, rfl⟩

/-- The replay buffer holds 512 flits at most. -/
theorem ScalePort.pump_replay {p : ScalePort} (n : Nat) (h : p.replay.length ≤ 512) : (p.pump n).replay.length ≤ 512 := by
  induction n generalizing p with
  | zero => exact h
  | succ n ih =>
    unfold ScalePort.pump
    split
    · exact h
    · dsimp only
      split
      · rename_i hroom
        simp only [Bool.and_eq_true, decide_eq_true_eq] at hroom
        exact ih (by simpa using hroom.1)
      · exact h

/-- One flit that waits goes out, where the replay buffer has a place and the tenancy a credit. -/
theorem ScalePort.pump_send {p : ScalePort} {kind ten : Nat} {l : List Byte} {rest : List (Nat × Nat × List Byte)} (n : Nat)
    (hqueue : p.queue = (kind, ten, l) :: rest) (hkind : kind ≠ flCredit) (hroom : p.replay.length < 512) (hcredit : 0 < p.credit.getD ten 0) :
    p.pump (n + 1) = ScalePort.pump n { p with
      queue := rest, seq := (p.seq + 1) % 4096, replay := p.replay ++ [linkFlit kind ten p.seq l], tx := p.tx ++ [linkFlit kind ten p.seq l]
      credit := p.credit.set ten (p.credit.getD ten 0 - 1) } := by
  rw [ScalePort.pump, hqueue]
  simp [hkind, hroom, hcredit]

/-- Taking a flit in sequence counts it and acknowledges it. -/
theorem ScalePort.accept_received (p : ScalePort) (kind ten : Nat) (l : List Byte) :
    (p.accept kind ten l).expect = (p.expect + 1) % 4096 ∧ (p.accept kind ten l).acked = p.expect := by
  unfold ScalePort.accept
  split
  · obtain ⟨he, ha, -⟩ := ScalePort.pump_received p.queue.length
      { p.took ten with credit := p.credit.set ten (p.credit.getD ten 0 + leValue l) }
    exact ⟨he, ha⟩
  · split
    · obtain ⟨he, ha, -⟩ := ScalePort.pump_received (p.queue ++ [(flCredit, ten, leBytes 8 1)]).length
        { p.took ten with rx := p.rx ++ [(kind, ten, l)], queue := p.queue ++ [(flCredit, ten, leBytes 8 1)] }
      exact ⟨he, ha⟩
    · exact ⟨rfl, rfl⟩

theorem ScalePort.accept_rx (p : ScalePort) {kind : Nat} (ten : Nat) (l : List Byte) (h1 : 1 ≤ kind) (h3 : kind ≤ 3) :
    (p.accept kind ten l).rx = p.rx ++ [(kind, ten, l)] := by
  have hcredit : kind ≠ flCredit := by unfold flCredit; omega
  rw [ScalePort.accept, if_neg hcredit, if_pos (by simp [h1, h3])]
  exact (ScalePort.pump_received ..).2.2

theorem ScalePort.accept_rx_other (p : ScalePort) {kind : Nat} (ten : Nat) (l : List Byte) (h : kind = 0 ∨ 4 ≤ kind) :
    (p.accept kind ten l).rx = p.rx := by
  rw [ScalePort.accept]
  split
  · exact (ScalePort.pump_received ..).2.2
  · rw [if_neg (by simp; omega)]
    rfl

theorem ScalePort.accept_credit {p : ScalePort} (ten : Nat) (l : List Byte) (h : p.queue = []) :
    (p.accept flCredit ten l).credit = p.credit.set ten (p.credit.getD ten 0 + leValue l) := by
  have hsend : ((p.took ten).granted ten l).credit = (ScalePort.pump p.queue.length { p.took ten with
    credit := p.credit.set ten (p.credit.getD ten 0 + leValue l) }).credit := rfl
  rw [ScalePort.accept, if_pos rfl, hsend, h]
  rfl

/-- The places that an acknowledgement of `seq` frees in the replay buffer. -/
def ScalePort.frees (p : ScalePort) (seq : Nat) : Nat := (seq + 4097 + p.replay.length - p.seq) % 4096

theorem ScalePort.acknowledged_new {p : ScalePort} {seq : Nat} (hpos : 0 < p.frees seq) (hle : p.frees seq ≤ p.replay.length) :
    p.acknowledged seq = ({ p with replay := p.replay.drop (p.frees seq) }.sendAll, false) :=
  if_pos (by rw [Bool.and_eq_true]; exact ⟨decide_eq_true hpos, decide_eq_true hle⟩)

theorem ScalePort.acknowledged_old {p : ScalePort} {seq : Nat} (h : p.frees seq = 0 ∨ p.replay.length < p.frees seq) (hout : p.replay ≠ []) :
    p.acknowledged seq = ({ p with tx := p.tx ++ p.replay }, true) := by
  have hold : ¬ (decide (0 < p.frees seq) && decide (p.frees seq ≤ p.replay.length)) = true := by
    simp only [Bool.and_eq_true, decide_eq_true_eq]
    omega
  exact (if_neg hold).trans (if_neg (by simpa using hout))

end Sys2Proof.Machine

namespace Sys2Proof.Machine

open Sys2Proof

/-! A scale-out port receives a flit (R441, R442) -/

/-- The type, tenancy, sequence number and payload that a flit's header gives, and whether its length and CRC are right (R442). -/
def flitKind (flit : List Byte) : Nat := bits (wordAt flit 0) 3 0
def flitTenancy (flit : List Byte) : Nat := bits (wordAt flit 0) 9 4
def flitSeq (flit : List Byte) : Nat := bits (wordAt flit 0) 21 10
def flitPayload (flit : List Byte) : List Byte := (flit.drop 8).take (min 240 (bits (wordAt flit 0) 29 22))
def flitWhole (flit : List Byte) : Bool := flit.length = 256 && crc32 (flit.take 248) = fieldAt flit 248 4

/-- The flit's tenancy owns the port, or nobody does and the flit is one of the device owner's (R441). -/
def State.ownsFlit (s : State) (port : Nat) (flit : List Byte) : Bool :=
  bit (s.tenancy (flitTenancy flit)).port.toNat port ||
    (s.ownersPort port && (flitKind flit = flCkpt || flitKind flit = flCredit || flitKind flit = flAck))

theorem State.ownsFlit_iff (s : State) (port : Nat) (flit : List Byte) :
    s.ownsFlit port flit = true ↔ bit (s.tenancy (flitTenancy flit)).port.toNat port = true ∨
      (s.ownersPort port = true ∧ (flitKind flit = flCkpt ∨ flitKind flit = flCredit ∨ flitKind flit = flAck)) := by
  simp only [State.ownsFlit, Bool.or_eq_true, Bool.and_eq_true, decide_eq_true_eq, or_assoc]

/-- A tenancy loses a flit. -/
def State.loseFlit (s : State) (ten : Nat) : State := s.modTenancy ten fun x => { x with drops := min (x.drops + 1) (2 ^ 32 - 1) }

/-- An acknowledgement of `seq` reaches a port. -/
def State.takeAck (s : State) (port seq : Nat) : State :=
  let t := s.modPort port fun _ => ((s.port port).acknowledged seq).1
  if ((s.port port).acknowledged seq).2 then t.linkRetry port else t

/-- A port that is up takes a flit, drops it, or asks for a replay. -/
def State.receiveFlit (s : State) (port : Nat) (flit : List Byte) : State :=
  if !flitWhole flit || (flitKind flit ≠ flAck && flitSeq flit ≠ (s.port port).expect) then
    (s.modPort port fun p => p.sendAck (flitTenancy flit)).linkRetry port
  else if flitKind flit = flAck then
    if !s.ownsFlit port flit then s.loseFlit (flitTenancy flit) else s.takeAck port (flitSeq flit)
  else if !s.ownsFlit port flit then (s.modPort port fun p => p.took (flitTenancy flit)).loseFlit (flitTenancy flit)
  else s.modPort port fun p => p.accept (flitKind flit) (flitTenancy flit) (flitPayload flit)

theorem exec_ringFlitReceive {s : State} {port : Nat} (flit : List Byte) (hport : port < 36) (hup : (s.unit (.port port)).down = false) :
    exec (.ringFlitReceive port flit) s = .next (s.receiveFlit port flit) := by
  show execRingFlitReceive port flit s = _
  exact stepWhen_true (by simp [hport, hup])

section
variable {s : State} {port : Nat} {flit : List Byte}

theorem State.receiveFlit_bad (h : flitWhole flit = false ∨ (flitKind flit ≠ flAck ∧ flitSeq flit ≠ (s.port port).expect)) :
    s.receiveFlit port flit = (s.modPort port fun p => p.sendAck (flitTenancy flit)).linkRetry port := if_pos (by simpa using h)

theorem State.receiveFlit_ack (hw : flitWhole flit = true) (hk : flitKind flit = flAck) :
    s.receiveFlit port flit = if s.ownsFlit port flit then s.takeAck port (flitSeq flit) else s.loseFlit (flitTenancy flit) := by
  cases ho : s.ownsFlit port flit <;> simp [State.receiveFlit, hw, hk, ho]

theorem State.receiveFlit_next (hw : flitWhole flit = true) (hk : flitKind flit ≠ flAck) (hs : flitSeq flit = (s.port port).expect) :
    s.receiveFlit port flit = if s.ownsFlit port flit then s.modPort port fun p => p.accept (flitKind flit) (flitTenancy flit) (flitPayload flit)
      else (s.modPort port fun p => p.took (flitTenancy flit)).loseFlit (flitTenancy flit) := by
  cases ho : s.ownsFlit port flit <;> simp [State.receiveFlit, hw, hk, hs, ho]

end

/-! The statement of O58 -/

/-- Settles O58, each clause by the lemma of its event. -/
theorem heatErrorsAndPower : Obligations.HeatErrorsAndPower := by
  refine ⟨fun s stack pc => exec_refreshStart, fun s stack pc start hfind hblock => ⟨fun f _ => State.fillWait_of_find hfind, exec_refreshEnd hfind hblock⟩,
    fun s stack temp hstack => ?reading, fun s stack peak => exec_thermtrip, fun s die rise => exec_talwUpdate rise,
    fun s die r => ⟨fun hst htherm hdie hlow => ?crossing, fun h => ?noCrossing⟩, fun s r stack at' t rest => exec_thermalNotice,
    fun s stack => ⟨_, rfl, rfl, ?stallRead, fun k hk => ?stallOther⟩, fun s u => exec_linkdown, fun s u addr => ?errorEvent,
    fun s u w addr => State.weigh_below addr, fun s b hlife hdue => ?scrub, fun s u addr hlink => (State.weigh_of_not_link hlink ..).symm,
    fun s port flit hport hup => ?flit, fun p kind ten seq n l => ?port, fun s watts => ?power⟩
  case reading =>
    have hread : (s.modStack stack fun x => x.reading temp (s.gridAfter stack temp)).stack stack =
        (s.stack stack).reading temp (s.gridAfter stack temp) := by rw [State.modStack_stack, if_pos rfl]
    refine ⟨_, exec_stackSensorReading temp hstack, rfl, fun k hk => by rw [State.modStack_stack, if_neg (Ne.symm hk)], ?_⟩
    rw [hread]
    refine ⟨rfl, fun h => ?_, fun m h => ?_, fun h => if_pos h, fun h => ?_, fun h1 h2 => ?_, fun h => if_pos h,
      fun pc hpc => State.refreshElapsed_reading hpc, fun h => if_pos h, fun h => ?_, fun h1 h2 => ?_⟩
    · simp [Stack.reading, h]
    · simp [Stack.reading, h]
    · exact (if_neg (by omega)).trans (if_pos h)
    · exact (if_neg (by omega)).trans (if_neg (by omega))
    · exact (if_neg (by omega)).trans (if_pos h)
    · exact (if_neg (by omega)).trans (if_neg (by omega))
  case crossing => simpa using State.noteCrossing_of_crosses ⟨hst, htherm, hdie, hlow⟩
  case noCrossing =>
    refine State.noteCrossing_of_not_crosses fun ⟨hst, htherm, ⟨c, hc, hdie⟩, hlow⟩ => ?_
    obtain h | h | h | h := h
    · exact h hst
    · exact h htherm
    · exact h c hc hdie
    · exact hlow h
  case stallRead => rw [State.modStack_stack, if_pos rfl]
  case stallOther => rw [State.modStack_stack, if_neg (Ne.symm hk)]
  case errorEvent => cases u <;> exact ⟨rfl, rfl, rfl⟩
  case scrub =>
    refine ⟨fun h => ?_, fun h => ?_⟩
    · rw [exec_patrolScrub hlife hdue, h]; rfl
    · rw [exec_patrolScrub hlife hdue, h]; rfl
  case flit =>
    rw [exec_ringFlitReceive flit hport hup]
    have hown := s.ownsFlit_iff port flit
    refine ⟨fun h => congrArg _ (State.receiveFlit_bad h), fun hw hk ho => congrArg _ ?_, fun hw hk ho hq => congrArg _ ?_,
      fun hw hk ho hq => congrArg _ ?_, fun hw hk hs ho => congrArg _ ?_, fun hw hk hs ho => congrArg _ ?_⟩
    · exact (State.receiveFlit_ack hw hk).trans (if_neg (mt hown.1 ho))
    · exact ((State.receiveFlit_ack hw hk).trans (if_pos (hown.2 ho))).trans (if_neg (ne_true_of_eq_false hq))
    · exact ((State.receiveFlit_ack hw hk).trans (if_pos (hown.2 ho))).trans (if_pos hq)
    · exact (State.receiveFlit_next hw hk hs).trans (if_neg (mt hown.1 ho))
    · exact (State.receiveFlit_next hw hk hs).trans (if_pos (hown.2 ho))
  case port =>
    obtain ⟨hexpect, hacked⟩ := p.accept_received kind ten l
    exact ⟨hexpect, hacked, p.accept_rx ten l, p.accept_rx_other ten l, fun hk hqueue => hk ▸ p.accept_credit ten l hqueue,
      ScalePort.acknowledged_new, ScalePort.acknowledged_old, ScalePort.pump_replay n, fun rest => ScalePort.pump_send n⟩
  case power =>
    refine ⟨fun hw hlow => ?_, fun hw hhigh => ?_⟩
    · show execPowerLimitStepDown watts s = _
      exact stepWhen_true (by simp [hw, hlow])
    · show execPowerStepUp watts s = _
      exact stepWhen_true (by simp [hw, hhigh])

end Sys2Proof.Machine

namespace Sys2Proof.Machine

open Sys2Proof

/-- A step of an agent that is not enabled leaves the state. -/
theorem stepWhen_false {c : Bool} {s t : State} (h : c = false) : stepWhen c s t = .next s := by rw [h]; rfl

/-! The control register of a brick (R82, R89) -/

section
variable (x : Brick) (v : Bool)

theorem Brick.setPick_bits :
    (x.setPick v).pick = v ∧ (x.setPick v).bken = x.bken ∧ (x.setPick v).stepMode = x.stepMode ∧ (x.setPick v).pass = x.pass := by
  cases v <;> simp [Brick.setPick, Brick.pick, Brick.bken, Brick.stepMode, Brick.pass]

theorem Brick.setStep_bits :
    (x.setStep v).stepMode = v ∧ (x.setStep v).pick = x.pick ∧ (x.setStep v).bken = x.bken ∧ (x.setStep v).pass = x.pass := by
  cases v <;> simp [Brick.setStep, Brick.pick, Brick.bken, Brick.stepMode, Brick.pass]

theorem Brick.setPass_bits :
    (x.setPass v).pass = v ∧ (x.setPass v).pick = x.pick ∧ (x.setPass v).bken = x.bken ∧ (x.setPass v).stepMode = x.stepMode := by
  cases v <;> simp [Brick.setPass, Brick.pick, Brick.bken, Brick.stepMode, Brick.pass]

theorem Brick.setBken_bits :
    (x.setBken v).bken = v ∧ (x.setBken v).pick = x.pick ∧ (x.setBken v).stepMode = x.stepMode ∧ (x.setBken v).pass = x.pass := by
  cases v <;> simp [Brick.setBken, Brick.pick, Brick.bken, Brick.stepMode, Brick.pass]

end

/-- A brick that does not weep picks again, its trap record no longer valid (R89). -/
theorem Brick.resumePick_of_not_weeping {x : Brick} (h : x.weep = .none) :
    x.resumePick.pick = true ∧ x.resumePick.trapValid = false ∧ x.resumePick.ctl = (x.setPick true).ctl := by
  have hresume : x.resumePick =
      { (x.setPick true).wake with tcls := x.tcls &&& ~~~(0x8000 : Word), picked := x.picked || x.wave = .stopped } := if_neg (by simpa using h)
  rw [hresume]
  refine ⟨(x.setPick_bits true).1, ?_, rfl⟩
  simp [Brick.trapValid]

/-- One that weeps waits with PICK as it is (R191, R192). -/
theorem Brick.resumePick_of_weeping {x : Brick} (h : x.weep ≠ .none) : x.resumePick = x.wake := if_pos h

theorem Brick.resumePick_data (x : Brick) : x.resumePick.slices = x.slices ∧ x.resumePick.pval = x.pval ∧ x.resumePick.bank = x.bank := by
  unfold Brick.resumePick
  split <;> exact ⟨rfl, rfl, rfl⟩

/-! Registers that take a write whole, or ignore it (R272, R406) -/

theorem exec_tscfgWrite {s : State} {t : Nat} {v : Word} (ht : t ≤ 62) (hlease : 1 ≤ bits v.toNat 10 0) (hmax : bits v.toNat 10 0 ≤ 1024)
    (hdlwin : 256 ≤ bits v.toNat 31 16) :
    exec (.tscfgWrite t v) s = .next (s.modTenancy t fun x => { x with lease := bits v.toNat 10 0, dlwin := bits v.toNat 31 16 }) := by
  show execTscfgWrite t v s = _
  exact stepWhen_true (by simp [ht, hlease, hmax, hdlwin])

theorem exec_tscfgWrite_ignored {s : State} {v : Word} (t : Nat)
    (h : bits v.toNat 10 0 = 0 ∨ 1024 < bits v.toNat 10 0 ∨ bits v.toNat 31 16 < 256) : exec (.tscfgWrite t v) s = .next s := by
  show execTscfgWrite t v s = _
  exact stepWhen_false (by simp; omega)

theorem exec_errwinWrite {s : State} {v : Word} (hms : bits v.toNat 39 24 ≠ 0) (hw : bits v.toNat 15 8 ≠ 0) (hthr : bits v.toNat 7 0 ≠ 0) :
    exec (.errwinWrite v) s = .next { s with errwin := (bits v.toNat 39 24, bits v.toNat 15 8, bits v.toNat 7 0) } := by
  show execErrwinWrite v s = _
  exact stepWhen_true (by simp [hms, hw, hthr])

theorem exec_errwinWrite_ignored {s : State} {v : Word} (h : bits v.toNat 39 24 = 0 ∨ bits v.toNat 15 8 = 0 ∨ bits v.toNat 7 0 = 0) :
    exec (.errwinWrite v) s = .next s := by
  show execErrwinWrite v s = _
  exact stepWhen_false (by simp; omega)

/-! PTROOT (R224, R414) -/

/-- A mask of a field of w bits at `lo` and of k low bits keeps these two fields. -/
theorem and_field_low {k lo : Nat} (n w : Nat) (hk : k ≤ lo) :
    n &&& (2 ^ lo * (2 ^ w - 1) + (2 ^ k - 1)) = 2 ^ lo * (n / 2 ^ lo % 2 ^ w) + n % 2 ^ k := by
  have hpow : 2 ^ k ≤ 2 ^ lo := Nat.pow_le_pow_right (by decide) hk
  have hmask : 2 ^ k - 1 < 2 ^ lo := by have := Nat.two_pow_pos k; omega
  have hlow : n % 2 ^ k < 2 ^ lo := (Nat.mod_lt _ (Nat.two_pow_pos k)).trans_le hpow
  refine Nat.eq_of_testBit_eq fun j => ?_
  rw [Nat.testBit_and, Nat.testBit_two_pow_mul_add _ hmask, Nat.testBit_two_pow_mul_add _ hlow]
  split
  · rw [Nat.testBit_two_pow_sub_one, Nat.testBit_mod_two_pow, Bool.and_comm]
  · rw [Nat.testBit_two_pow_sub_one, Nat.testBit_mod_two_pow, Nat.testBit_div_two_pow, Bool.and_comm, Nat.sub_add_cancel (by omega)]

/-- The bits that PTROOT takes: the root's address, and EN only while the tenancy is live. -/
theorem toNat_and_rootMask (v : Word) (live : Bool) :
    (v &&& (if live then 0x0000_FFFF_FFFF_C001 else 0x0000_FFFF_FFFF_C000)).toNat = bits v.toNat 47 14 * 2 ^ 14 + if live then v.toNat % 2 else 0 := by
  rw [bits_eq, Nat.mul_comm]
  cases live
  · simpa [Nat.mod_one] using and_field_low (k := 0) v.toNat 34 (lo := 14) (by omega)
  · simpa using and_field_low (k := 1) v.toNat 34 (lo := 14) (by omega)

theorem exec_ptrootWrite {s : State} {t : Nat} (v : Word) (ht : t ≤ 62) :
    exec (.registerWrite (.ptroot t) v) s = .next (s.modTenancy t fun x =>
      { x with root := v &&& (if (s.tenancy t).cfg.getLsbD 63 then 0x0000_FFFF_FFFF_C001 else 0x0000_FFFF_FFFF_C000) }) := by
  show execRegisterWrite (.ptroot t) v s = _
  exact stepWhen_true (decide_eq_true ht)

/-! The host's registers, bind words, nodes and table entries (R366, R370, R436-R439) -/

theorem exec_mailboxWrite {s : State} {k i : Nat} (v : Word) (hk : k < 16) (hi : i < 32) :
    exec (.registerWrite (.mailbox k i) v) s = .next
      { s with host := { s.host with mailbox := s.host.mailbox.set k (modifyAt (fun _ => v) i (s.host.mailbox.getD k (List.replicate 32 0))) } } := by
  show execRegisterWrite (.mailbox k i) v s = _
  exact stepWhen_true (by simp [hk, hi])

theorem exec_kickWrite {s : State} (v : Word) (h : s.host.kicks.length < 16) :
    exec (.registerWrite .kickReg v) s = .next { s with host := { s.host with kicks := s.host.kicks ++ [v &&& 0xFFFF_FFFF] } } := by
  show execRegisterWrite .kickReg v s = _
  simp only [execRegisterWrite, if_pos h]

theorem exec_kickWrite_full {s : State} (v : Word) (h : 16 ≤ s.host.kicks.length) :
    exec (.registerWrite .kickReg v) s = .next { s with host := { s.host with dropped := min (s.host.dropped + 1) (2 ^ 32 - 1) } } := by
  show execRegisterWrite .kickReg v s = _
  simp only [execRegisterWrite, if_neg (Nat.not_lt.2 h)]

theorem exec_bindWrite {s : State} {r : RegionId} {i : Nat} (v : Word) (hr : r.exists = true) (hi : 1 ≤ i) (hfree : (s.slot r).st = .free) :
    exec (.registerWrite (.bind r i) v) s = .next (s.modSlot r fun x => { x with words := modifyAt (fun _ => v) i x.words }) := by
  show execRegisterWrite (.bind r i) v s = _
  exact stepWhen_true (by simp [hr, hi, hfree])

theorem exec_bindWrite_ignored {s : State} {r : RegionId} (i : Nat) (v : Word) (h : r.exists = false ∨ (s.slot r).st ≠ .free) :
    exec (.registerWrite (.bind r i) v) s = .next s := by
  show execRegisterWrite (.bind r i) v s = _
  exact stepWhen_false (by obtain h | h := h <;> simp [h])

theorem exec_nodeWrite {s : State} {n : Nat} (w : Nat) (v : Word) (hn : n < 4096) :
    exec (.registerWrite (.node n w) v) s = .next { s with nodes := s.nodes.set n (modifyAt (fun _ => v) w (s.node n)) } := by
  show execRegisterWrite (.node n w) v s = _
  exact stepWhen_true (decide_eq_true hn)

/-- Nothing is performed ahead of an access to a line that no GAT holds and that may be written. -/
theorem State.settleLine_of_open {s : State} {ln : Nat} (t : Nat) (hlocked : s.lineLocked ln = false) (hstore : s.mayStore ln = true) :
    s.settleLine t ln = s := if_neg (by simp [hlocked, hstore])

theorem exec_tableEntryWrite {s : State} {pa : Nat} (v : Word) (hlocked : s.lineLocked (pa / 64) = false) (hstore : s.mayStore (pa / 64) = true) :
    exec (.registerWrite (.tableEntry pa) v) s = .next (s.writeLine (pa / 8 * 8) (leBytes 8 v.toNat) false) := by
  show Host.Outcome.next ((s.settleLine 0 (pa / 64)).writeLine (pa / 8 * 8) (leBytes 8 v.toNat) false) = _
  rw [State.settleLine_of_open 0 hlocked hstore]

/-! INVCMD (R229) -/

section
variable {s : State} {d : Nat} {v : Word}

/-- The fields of INVCMD that a write sets. -/
def invFields (v : Word) : Nat := bits v.toNat 62 55 * 2 ^ 55 + bits v.toNat 53 13 * 8192

theorem State.writeInvcmd_ignored (h : (s.die d).invBusy = true ∨ 2 ≤ bits v.toNat 62 61) : s.writeInvcmd d v = s :=
  if_pos (by simpa using h)

theorem State.writeInvcmd_taken (hidle : (s.die d).invBusy = false) (hkind : bits v.toNat 62 61 < 2) :
    s.writeInvcmd d v = if bit v.toNat 63 then
      s.invalidate d (invFields v) fun x =>
        x.tenancy = bits v.toNat 60 55 && (bits v.toNat 62 61 = 1 || x.page = bits v.toNat 53 13 * 8192 / 2 ^ leafBits x.level)
      else s.modDie d fun d => { d with invcmd := BitVec.ofNat 64 (invFields v) } := by
  refine if_neg ?_
  simpa [hidle] using hkind

end

/-! A boot (R9, R15-R20, R443) -/

/-- CAPB's reserved low bits are zero, and MAPGEN counts modulo 256 (R15, R17). -/
theorem capbOf_low (mapOut : List Nat) (gen : Nat) :
    bits (capbOf mapOut gen).toNat 15 0 = 0 ∧ bits (capbOf mapOut gen).toNat 23 16 = gen % 256 := by
  unfold capbOf
  simp only [BitVec.toNat_ofNat, bits_eq]
  omega

/-- What becomes of a lane's entry at a boot (R443). -/
def ErrUnit.repairedLane (y : ErrUnit) : ErrUnit :=
  if y.down then (if y.spares < 2 then { spares := y.spares + 1 } else { down := true, spares := y.spares }) else { spares := y.spares }

theorem mem_repaired_lane {units : List (UnitRef × ErrUnit)} {n : Nat} {x : ErrUnit} :
    (UnitRef.lane n, x) ∈ repaired units ↔ ∃ y, (UnitRef.lane n, y) ∈ units ∧ x = y.repairedLane := by
  simp only [repaired, List.mem_filterMap]
  constructor
  · rintro ⟨⟨u, y⟩, hy, h⟩
    cases u <;> cases h
    exact ⟨y, hy, rfl⟩
  · rintro ⟨y, hy, rfl⟩
    exact ⟨_, hy, rfl⟩

theorem not_mem_repaired {units : List (UnitRef × ErrUnit)} {u : UnitRef} (hu : ∀ n, u ≠ .lane n) (x : ErrUnit) : (u, x) ∉ repaired units := by
  simp only [repaired, List.mem_filterMap]
  rintro ⟨⟨u', y⟩, -, h⟩
  cases u' <;> cases h
  exact hu _ rfl

/-! What a TDI sees (R434) -/

theorem State.tdiView_own {s : State} {t : Nat} {r : ReadReg} (h : s.ownRegister t r = true) : s.tdiView t r = some (s.window r) := if_pos h

theorem State.tdiView_other {s : State} {t : Nat} {r : ReadReg} (h : s.ownRegister t r = false) : s.tdiView t r = none :=
  if_neg (ne_true_of_eq_false h)

theorem State.tdiView_kstat (s : State) (t k : Nat) :
    s.tdiView t (.kstat k) = if (s.keySlot k).st ≠ 0 ∧ (s.keySlot k).tenancy = t then some (s.keySlot k).kstat else none := by
  simp [State.tdiView, State.ownRegister, State.window]

theorem State.tdiView_flog {s : State} {d k : Nat} (t w : Nat) (h : (s.die d).log.getD (k % 256) [] ≠ []) :
    s.tdiView t (.flog d k w) = if bits ((s.die d).logWord k 0).toNat 55 50 = t then some ((s.die d).logWord k w) else none := by
  by_cases hten : bits ((s.die d).logWord k 0).toNat 55 50 = t <;> simp [State.tdiView, State.ownRegister, State.window, recordTen, h, hten]

/-- A TDI that sees a register sees what it holds. -/
theorem State.tdiView_value {s : State} {t : Nat} {r : ReadReg} (h : s.tdiView t r ≠ none) : s.tdiView t r = some (s.window r) := by
  unfold State.tdiView at h ⊢
  split at h
  next hown => exact if_pos hown
  next => exact absurd rfl h

/-- Settles O59, each clause by the lemma of its register. -/
theorem managementWrites : Obligations.ManagementWrites := by
  refine ⟨fun s b => ⟨⟨s.modBrick b Brick.resumePick, rfl, rfl, fun c hc => s.modBrick_brick_other (Ne.symm hc) _, ?pickSet⟩, rfl, fun _ => rfl, rfl⟩,
    fun x v => ⟨x.setPick_bits v, x.setStep_bits v, x.setPass_bits v, x.setBken_bits v⟩,
    fun s t v => ⟨exec_tscfgWrite, exec_tscfgWrite_ignored t⟩, fun s v => ⟨exec_errwinWrite, exec_errwinWrite_ignored⟩,
    fun s v => ⟨fun t ht => ⟨_, exec_ptrootWrite v ht, rfl, ?root⟩, fun _ => rfl, fun _ => rfl, rfl, fun k i => exec_mailboxWrite v, exec_kickWrite v,
      exec_kickWrite_full v, fun r i => exec_bindWrite v, fun r i => exec_bindWrite_ignored i v, fun n w => exec_nodeWrite w v,
      fun pa => exec_tableEntryWrite v, fun d => ?invcmd⟩,
    fun s b v => rfl, fun s t r v => rfl, fun s t u => ?view, fun s b => rfl, fun s => ?boot⟩
  case pickSet =>
    simp only [State.modBrick_brick_same]
    refine ⟨Brick.resumePick_of_not_weeping, fun h => ?_, (s.brick b).resumePick_data⟩
    rw [Brick.resumePick_of_weeping h]
    exact ⟨rfl, rfl⟩
  case root =>
    rw [State.modTenancy_tenancy, if_pos rfl]
    exact toNat_and_rootMask v _
  case invcmd =>
    intro ten va fields
    have hwrite : exec (.registerWrite (.invcmd d) v) s = .next (s.writeInvcmd d v) := rfl
    rw [hwrite]
    refine ⟨fun h => congrArg _ (State.writeInvcmd_ignored h), fun hidle hkind hgo => congrArg _ ?_, fun hidle hkind hgo => congrArg _ ?_,
      fun hidle hkind hgo => congrArg _ ?_⟩
    · rw [State.writeInvcmd_taken hidle hkind, hgo]
      rfl
    · rw [State.writeInvcmd_taken hidle (by omega), hgo, hkind]
      rfl
    · rw [State.writeInvcmd_taken hidle (by omega), hgo, hkind]
      simp [fields, va, ten, invFields]
  case view =>
    refine ⟨fun h => ?own, fun h => ?other, s.tdiView_kstat t, fun d k w => State.tdiView_flog t w, fun r => State.tdiView_value,
      rfl, rfl, rfl, rfl, fun d i n b r => ⟨rfl, rfl, rfl, rfl, rfl, rfl, rfl⟩⟩
    case own =>
      subst h
      have hown : decide (u = u) = true := decide_eq_true rfl
      refine ⟨?_, ?_, ?_, ?_, ?_, ?_⟩ <;> exact State.tdiView_own hown
    case other =>
      have hother : decide (u = t) = false := decide_eq_false h
      refine ⟨?_, ?_, ?_, ?_, ?_, ?_⟩ <;> exact State.tdiView_other hother
  case boot =>
    obtain ⟨hlow, hgen⟩ := capbOf_low s.keystone.mapOut
      (if s.keystone.mapOut = s.keystone.previous then s.keystone.mapGen else (s.keystone.mapGen + 1) % 256)
    refine ⟨_, rfl, rfl, rfl, rfl, rfl, rfl, rfl, rfl, rfl, rfl, rfl, hlow, hgen.trans ?_, rfl, rfl, fun n x => mem_repaired_lane,
      fun u x hu => not_mem_repaired hu x⟩
    split
    · rfl
    · exact Nat.mod_mod _ _

end Sys2Proof.Machine

namespace Sys2Proof

/-- A key that has been removed reads the default. -/
theorem Table.getD_erase_same {α : Type} (t : Table α) (k : Nat) (d : α) : (t.erase k).getD k d = d := by
  have hnone : (t.erase k).get? k = none := by
    induction t with
    | nil => rfl
    | cons e rest ih =>
      obtain ⟨j, v⟩ := e
      by_cases hj : j = k <;> simp_all [Table.erase, Table.get?]
  rw [Table.getD, hnone]
  rfl

end Sys2Proof

namespace Sys2Proof.Machine

open Sys2Proof

/-! Folds over a list of bricks -/

/-- What each step of a fold leaves, the fold leaves. -/
theorem foldl_leaves {α β : Type} {π : State → β} {f : State → α → State} (h : ∀ s a, π (f s a) = π s) (l : List α) (s : State) :
    π (l.foldl f s) = π s := by
  induction l generalizing s with
  | nil => rfl
  | cons a l ih => exact (ih (f s a)).trans (h s a)

section
variable {α : Type} (key : α → BrickId) (f : α → Brick → Brick)

/-- A fold over bricks leaves every brick that it does not name. -/
theorem foldl_modBrick_brick_other {l : List α} {b : BrickId} (s : State) (h : b ∉ l.map key) :
    (l.foldl (fun s p => s.modBrick (key p) (f p)) s).brick b = s.brick b := by
  induction l generalizing s with
  | nil => rfl
  | cons p l ih =>
    rw [List.map_cons, List.mem_cons, not_or] at h
    exact (ih _ h.2).trans (s.modBrick_brick_other (Ne.symm h.1) _)

/-- It changes each brick once, where it names each once. -/
theorem foldl_modBrick_brick_mem {l : List α} {p : α} (s : State) (hl : (l.map key).Nodup) (hp : p ∈ l) :
    (l.foldl (fun s p => s.modBrick (key p) (f p)) s).brick (key p) = f p (s.brick (key p)) := by
  induction l generalizing s with
  | nil => cases hp
  | cons q l ih =>
    rw [List.map_cons, List.nodup_cons] at hl
    rw [List.foldl_cons]
    obtain rfl | hp := List.mem_cons.1 hp
    · rw [foldl_modBrick_brick_other key f _ hl.1, State.modBrick_brick_same]
    · have hne : key q ≠ key p := fun e => hl.1 (e ▸ List.mem_map_of_mem hp)
      rw [ih _ hl.2 hp, State.modBrick_brick_other _ hne]

/-- What every change of the fold leaves of a brick, the fold leaves of it. -/
theorem foldl_modBrick_leaves {β : Type} {π : Brick → β} (h : ∀ p x, π (f p x) = π x) (l : List α) (s : State) (b : BrickId) :
    π ((l.foldl (fun s p => s.modBrick (key p) (f p)) s).brick b) = π (s.brick b) := by
  refine foldl_leaves (π := fun s => π (s.brick b)) (fun s p => ?_) l s
  by_cases hb : key p = b
  · subst hb
    rw [State.modBrick_brick_same, h]
  · rw [State.modBrick_brick_other _ hb]

end

/-! Bind slots (R370, R371) -/

theorem exec_bindSubmit {s : State} {r : RegionId} (w : Word) (hr : r.exists = true) (hfree : (s.slot r).st = .free) :
    exec (.bindSubmit r w) s = .next (if w.getLsbD 63 then
        s.modSlot r fun _ => { words := modifyAt (fun _ => w) 0 (s.slot r).words, st := .valid, order := s.nextOrder }
      else s.modSlot r fun x => { x with words := modifyAt (fun _ => w) 0 (s.slot r).words }) := by
  show execBindSubmit r w s = _
  exact stepWhen_true (by simp [hr, hfree])

theorem exec_bstatClr {s : State} {r : RegionId} (h : (s.slot r).st = .done ∨ (s.slot r).st = .reject ∨ (s.slot r).st = .fault) :
    exec (.bstatClr r) s = .next { s with slots := Table.erase s.slots r.key } := by
  show execBstatClr r s = _
  exact stepWhen_true (by simpa [or_assoc] using h)

/-! Dispatch (R24, R373) -/

theorem exec_dispatchLoad_ends {s : State} {die : Nat} {r : RegionId} (hload : s.loading die = some r) (hend : (s.slot r).ranAt ≤ s.now) :
    exec (.dispatchLoad die) s = .next (s.startRun r) := by
  show execDispatchLoad die s = _
  simp only [execDispatchLoad, hload]
  exact stepWhen_true (decide_eq_true hend)

theorem exec_dispatchLoad_admits {s : State} {die : Nat} {r : RegionId} (hload : s.loading die = none) (hnext : s.nextValid die = some r)
    (hrcf : (s.slot r).rcf = false) : exec (.dispatchLoad die) s = .next (s.admitRegion r) := by
  show execDispatchLoad die s = _
  simp [execDispatchLoad, hload, hnext, hrcf]

theorem exec_heldRecordRelease {s : State} {r : RegionId} (hst : (s.slot r).st = .hold) (hrcf : (s.slot r).rcf = false)
    (hload : s.loading r.die = none) (hhold : s.mustHold (s.slot r) (s.slot r).bricks = false)
    (hbehind : s.behindHeld r (s.slot r).bricks = false) :
    exec (.heldRecordRelease r) s = .next ((s.modSlot r fun x => { x with bricks := [] }).admitRegion r) := by
  show execHeldRecordRelease r s = _
  exact stepWhen_true (by simp [hst, hrcf, hload, hhold, hbehind])

/-! A reconfiguration is submitted (R375, R423, R426, R509) -/

/-- A reconfiguration's turn: the first valid record of its die, which loads nothing, or held and no longer behind another. -/
def State.reconfigTurn (s : State) (r : RegionId) : Prop :=
  (s.slot r).st = .valid ∧ s.nextValid r.die = some r ∧ s.loading r.die = none ∨
    (s.slot r).st = .hold ∧ s.reconfiguring ((s.slot r).target r) = false

section
variable {s : State} {r : RegionId} (hrcf : (s.slot r).rcf = true) (hturn : s.reconfigTurn r)
include hrcf hturn

/-- The guard of a reconfiguration's submission holds in its turn. -/
theorem reconfigTurn_bool : ((s.slot r).rcf && (((s.slot r).st = .valid && s.nextValid r.die = some r && (s.loading r.die).isNone) ||
    ((s.slot r).st = .hold && !s.reconfiguring ((s.slot r).target r)))) = true := by
  simpa [hrcf, State.reconfigTurn, and_assoc] using hturn

theorem exec_reconfigSubmit_format (hformat : (s.slot r).reconfigFormat (s.slot ((s.slot r).target r)) = false) :
    exec (.reconfigSubmit r) s = .next (s.reject r rejFormat) :=
  (stepWhen_true (reconfigTurn_bool hrcf hturn)).trans (congrArg _ (if_pos (by rw [hformat]; rfl)))

variable (hformat : (s.slot r).reconfigFormat (s.slot ((s.slot r).target r)) = true) (hnode : s.nodeOk (s.slot r) = true)
include hformat hnode

theorem exec_reconfigSubmit_notRunning (hrun : (s.slot ((s.slot r).target r)).st ≠ .run ∨ (s.slot ((s.slot r).target r)).wave.isSome = true) :
    exec (.reconfigSubmit r) s = .next (s.reject r rejImage) :=
  (stepWhen_true (reconfigTurn_bool hrcf hturn)).trans
    (congrArg _ ((if_neg (by simp [hformat])).trans ((if_neg (by simp [hnode])).trans (if_pos (by simpa using hrun)))))

/-- A placed reconfiguration image meets the loader's checks of its words, those of R375, and the budget of its key slots; then its parts are sent. -/
def State.reconfigPlaced (u : State) (r : RegionId) (x y : Slot) (img : LoadImage) (placed : List (BrickId × BrickPart)) : State :=
  match poolFailures (placed.map fun p => (p.1, p.2.pool)) with
  | (b, k, reason, w) :: more => ((u.noteLoadBad r ((b, k, reason, w) :: more)).reject r rejLoadBad).raiseFault (x.target r)
      { code := 0x04, brick := b.toNat, cls := k, detail := reason, count := more.length + 1, data := w.toNat }
  | [] => match u.reconfigCheck y img placed with
    | some code => u.reject r code
    | none =>
      let keys := (u.matchingKeys x.tenancy img.hash).filter fun k => !y.keys.contains k
      if u.chargeFits x.node 5 keys.length = false then u.reject r rejBudget
      else u.sendReconfig r img.hash keys (newBinds y (LoadImage.plan { img with courses := [] } y placed)) placed

/-- What reading its image makes of a reconfiguration x of the region in y. -/
def State.reconfigRead (s : State) (r : RegionId) (x y : Slot) : State :=
  match s.readLoad (x.target r) x.tenancy x.img with
  | (none, u) => u.reject r rejImage
  | (some img, u) => match img.placed y with
    | none => u.reject r rejImage
    | some placed => if placed.map (·.1) ≠ y.bricks then u.reject r rejImage else u.reconfigPlaced r x y img placed

theorem exec_reconfigSubmit_reads (hrun : (s.slot ((s.slot r).target r)).st = .run) (hwave : (s.slot ((s.slot r).target r)).wave = none)
    (hfirst : s.reconfiguring ((s.slot r).target r) = false) :
    exec (.reconfigSubmit r) s = .next (s.reconfigRead r (s.slot r) (s.slot ((s.slot r).target r))) := by
  refine (stepWhen_true (reconfigTurn_bool hrcf hturn)).trans (congrArg _ ((if_neg (by simp [hformat])).trans
    ((if_neg (by simp [hnode])).trans ((if_neg (by simp [hrun, hwave])).trans ((if_neg (by simp [hfirst])).trans ?_)))))
  unfold State.reconfigRead
  obtain ⟨_ | img, u⟩ := s.readLoad ((s.slot r).target r) (s.slot r).tenancy (s.slot r).img
  · rfl
  dsimp only
  cases img.placed (s.slot ((s.slot r).target r)) with
  | none => rfl
  | some placed =>
    refine if_congr Iff.rfl rfl ?_
    unfold State.reconfigPlaced
    dsimp only
    cases poolFailures (placed.map fun p => (p.1, p.2.pool)) with
    | cons p more => rfl
    | nil =>
      dsimp only
      refine (if_neg (by simp)).trans ?_
      cases u.reconfigCheck (s.slot ((s.slot r).target r)) img placed with
      | some code => rfl
      | none => exact if_congr (by simp) rfl rfl

end

/-! A reconfiguration is sent and applied (R192, R375) -/

theorem State.charge_brick (s : State) (n i add : Nat) (b : BrickId) : (s.charge n i add).brick b = s.brick b := by
  unfold State.charge
  split
  · rfl
  · unfold State.setCharges
    refine foldl_leaves (π := fun u => u.brick b) (fun _ _ => ?_) _ s
    rfl

theorem State.bindKeys_brick (s : State) (r : RegionId) (node : Nat) (keys : List Nat) (b : BrickId) : (s.bindKeys r node keys).brick b = s.brick b := by
  refine (State.charge_brick ..).trans (foldl_leaves (π := fun u : State => u.brick b) (fun _ _ => ?_) keys s)
  rfl

/-- A brick is given its part of the reconfiguration x of the region in y to hold. -/
def Brick.givePart (y x : Slot) (r : RegionId) (p : BrickId × BrickPart) (z : Brick) : Brick := { z with hold := some (holdOf y x r p) }

/-- Every placed brick is given its part. -/
def State.giveParts (s : State) (y x : Slot) (r : RegionId) (placed : List (BrickId × BrickPart)) : State :=
  placed.foldl (fun s p => s.modBrick p.1 (Brick.givePart y x r p)) s

section
variable (s : State) (y x : Slot) (r : RegionId) {placed : List (BrickId × BrickPart)}

theorem State.giveParts_hold (hnodup : (placed.map (·.1)).Nodup) {p : BrickId × BrickPart} (hp : p ∈ placed) :
    ((s.giveParts y x r placed).brick p.1).hold = some (holdOf y x r p) :=
  congrArg Brick.hold (foldl_modBrick_brick_mem Prod.fst (Brick.givePart y x r) s hnodup hp)

/-- Nothing of a brick changes but what it holds. -/
theorem State.giveParts_brick (b : BrickId) :
    (s.giveParts y x r placed).brick b = { s.brick b with hold := ((s.giveParts y x r placed).brick b).hold } :=
  congrArg (fun z : Brick => { z with hold := ((s.giveParts y x r placed).brick b).hold })
    (foldl_modBrick_leaves Prod.fst (Brick.givePart y x r) (π := fun z : Brick => { z with hold := none }) (fun _ _ => rfl) placed s b)

end

/-- What a reconfiguration changes before its parts are given, it changes outside the bricks. -/
theorem State.sendReconfig_eq (s : State) (r : RegionId) (hash : Nat) (keys : List Nat) (binds : List (Nat × Nat)) (placed : List (BrickId × BrickPart)) :
    ∃ t : State, (∀ b, t.brick b = s.brick b) ∧ s.sendReconfig r hash keys binds placed =
      (t.giveParts (s.slot ((s.slot r).target r)) (s.slot r) r placed).modSlot r fun x => { x with st := .run, hash } := by
  refine ⟨_, fun b => ?_, rfl⟩
  have hkeys := State.bindKeys_brick s ((s.slot r).target r) (s.slot r).node keys b
  refine Eq.trans (foldl_leaves (π := fun u : State => u.brick b) (fun _ _ => ?_) binds _) hkeys
  rfl

/-- Sending starts the reconfiguration's slot, and gives each placed brick its part to hold. -/
theorem State.sendReconfig_holds (s : State) (r : RegionId) (hash : Nat) (keys : List Nat) (binds : List (Nat × Nat)) (placed : List (BrickId × BrickPart)) :
    let u := s.sendReconfig r hash keys binds placed
    (u.slot r).st = .run ∧ (∀ b, u.brick b = { s.brick b with hold := (u.brick b).hold }) ∧
    ((placed.map (·.1)).Nodup → ∀ p ∈ placed, (u.brick p.1).hold = some (holdOf (s.slot ((s.slot r).target r)) (s.slot r) r p)) := by
  obtain ⟨t, ht, hu⟩ := s.sendReconfig_eq r hash keys binds placed
  rw [hu]
  refine ⟨by rw [State.modSlot_slot_same], fun b => ?_, fun hnodup p hp => t.giveParts_hold _ _ r hnodup hp⟩
  rw [← ht b]
  exact t.giveParts_brick _ _ r b

/-- The state once a brick has applied the part that it holds. -/
def State.afterApply (s : State) (b : BrickId) (h : Hold) (r : RegionId) : State :=
  ((s.stopLive b).modBrick b fun x => x.applyHold h).connectRegion r

/-- A brick still holds its part. -/
def State.waitsToApply (s : State) (c : BrickId) : Bool := (s.brick c).hold.isSome

/-- CGEN of the brick's course follows (R96). -/
def State.courseGen (s : State) (b : BrickId) (h : Hold) (r : RegionId) : State :=
  s.modSched (BrickId.die b) (BrickId.course b) fun q => if q.region = some r then { q with gen := h.gen } else q

/-- GEN of the region follows, and the reconfiguration's slot is DONE (R375). -/
def State.targetGen (s : State) (h : Hold) (r : RegionId) : State :=
  (s.modSlot r fun y => { y with words := modifyAt (fun w => BitVec.ofNat 64 (insertBits w.toNat 23 16 h.gen)) 0 y.words }).modSlot h.slot
    fun y => { y with st := .done }

/-- The two bricks stand in one course. -/
def sameCourse (b c : BrickId) : Bool := BrickId.die c = BrickId.die b && BrickId.course c = BrickId.course b

/-- What follows once brick b of region r has applied its part. -/
def State.followApply (s : State) (b : BrickId) (h : Hold) (r : RegionId) : State :=
  let t := if ((s.slot r).bricks.filter (sameCourse b)).any s.waitsToApply then s else s.courseGen b h r
  if (s.slot r).bricks.any s.waitsToApply then t else t.targetGen h r

section
variable {s : State} {b : BrickId} (h : Hold) {r : RegionId}

/-- Nothing yet, while a brick of the course still holds its part. -/
theorem State.followApply_courseWaits (hwaits : ∃ c ∈ (s.slot r).bricks, sameCourse b c = true ∧ s.waitsToApply c = true) :
    s.followApply b h r = s := by
  obtain ⟨c, hc, hsame, hw⟩ := hwaits
  have hmates : (s.slot r).bricks.any s.waitsToApply = true := List.any_eq_true.2 ⟨c, hc, hw⟩
  have hcourse : ((s.slot r).bricks.filter (sameCourse b)).any s.waitsToApply = true :=
    List.any_eq_true.2 ⟨c, List.mem_filter.2 ⟨hc, hsame⟩, hw⟩
  exact (if_pos hmates).trans (if_pos hcourse)

/-- CGEN, once the course's bricks have applied theirs. -/
theorem State.followApply_courseDone (hcourse : ∀ c ∈ (s.slot r).bricks, sameCourse b c = true → s.waitsToApply c = false)
    (hwaits : ∃ c ∈ (s.slot r).bricks, s.waitsToApply c = true) : s.followApply b h r = s.courseGen b h r :=
  (if_pos (List.any_eq_true.2 hwaits)).trans (if_neg (by simpa using hcourse))

/-- CGEN and GEN, once all have. -/
theorem State.followApply_regionDone (hdone : ∀ c ∈ (s.slot r).bricks, s.waitsToApply c = false) :
    s.followApply b h r = (s.courseGen b h r).targetGen h r :=
  (if_neg (by simpa using hdone)).trans (congrArg (State.targetGen · h r) (if_neg (by simpa using fun c hc _ => hdone c hc)))

end

theorem exec_reconfigApply {s : State} {b : BrickId} {h : Hold} {r : RegionId} (hhold : (s.brick b).hold = some h) (hregion : (s.brick b).region = some r)
    (hwept : (s.brick b).weep = .wept) (hpick : (s.brick b).pick = false) (hfirings : (s.brick b).firings = [])
    (hfits : (s.brick b).gutterFits h.gutters = true) :
    exec (.reconfigApply b) s = .next ((s.afterApply b h r).followApply b h r) := by
  show execReconfigApply b s = _
  simp only [execReconfigApply, hhold, hregion]
  exact stepWhen_true (by simp [hwept, hpick, hfirings, hfits])

/-! Bays (R21, R25, R26, R368) -/

theorem exec_bayGrant {s : State} {node n : Nat} (hlive : s.nodeLive node = true)
    (hfree : n ≤ ((List.range 32).filter (s.bayFree node)).length)
    (hfit : ∀ m ∈ s.lineage 4096 node, ((List.range 32).filter fun k => bit (s.bayMask node n) k || s.bayCharged m k).length ≤ s.effective m 0) :
    exec (.bayGrant node n) s = .next
      { s with nodes := s.nodes.set node (modifyAt (fun w => w ||| BitVec.ofNat 64 (s.bayMask node n)) 4 (s.node node)) } := by
  have hbays : s.baysFit node (s.bayMask node n) = true := List.all_eq_true.2 fun m hm => decide_eq_true (hfit m hm)
  show execBayGrant node n s = _
  exact stepWhen_true (by simp [hlive, hfree, hbays])

theorem exec_bayReturn {s : State} {node bay : Nat} (hheld : bit (s.nodeWord node 4) bay = true)
    (hempty : ∀ b ∈ bricksOfBay bay, (s.brick b).life = .free ∨ (s.brick b).life = .out) :
    exec (.bayReturn node bay) s = .next
      { s with nodes := s.nodes.set node (modifyAt (fun w => BitVec.ofNat 64 (w.toNat - 2 ^ bay)) 4 (s.node node)) } := by
  have hall : ((bricksOfBay bay).all fun b => (s.brick b).life = .free || (s.brick b).life = .out) = true := by simpa using hempty
  show execBayReturn node bay s = _
  exact stepWhen_true (by rw [hheld, hall]; rfl)

/-- Settles O51, each clause by the lemma of its event. -/
theorem regionsStart : Obligations.RegionsStart := by
  refine ⟨fun s r w hr hfree => ⟨fun hgo => ?submitted, fun hgo => ?written⟩, fun s die r => exec_dispatchLoad_ends,
    fun s die r => exec_dispatchLoad_admits, fun s r => exec_heldRecordRelease,
    fun s r hrcf hturn => ⟨exec_reconfigSubmit_format hrcf hturn, exec_reconfigSubmit_notRunning hrcf hturn, exec_reconfigSubmit_reads hrcf hturn⟩,
    State.sendReconfig_holds, fun s b h r hhold hregion hwept hpick hfirings hfits => ?apply,
    fun x h => ⟨rfl, rfl, ((x.regutter h.gutters).setPick_bits true).1, rfl⟩,
    fun s r h => ⟨_, exec_bstatClr h, Table.getD_erase_same s.slots r.key {}, rfl⟩, fun s node n => exec_bayGrant,
    fun s node bay hheld hempty => exec_bayReturn hheld ?empty⟩
  case submitted => rw [exec_bindSubmit w hr hfree, if_pos hgo]
  case written => rw [exec_bindSubmit w hr hfree, if_neg (ne_true_of_eq_false hgo)]
  case apply =>
    have happly := exec_reconfigApply hhold hregion hwept hpick hfirings hfits
    exact ⟨fun hwaits => happly.trans (congrArg _ (State.followApply_courseWaits h hwaits)),
      fun hcourse hwaits => happly.trans (congrArg _ (State.followApply_courseDone h hcourse hwaits)),
      fun hdone => happly.trans (congrArg _ (State.followApply_regionDone h hdone))⟩
  case empty => simpa [bricksOfBay] using hempty

end Sys2Proof.Machine

namespace Sys2Proof.Machine

open Sys2Proof

/-! A region completes, faults or is killed (R369, R378, R403) -/

theorem exec_regionCompletion {s : State} {r : RegionId} (hst : (s.slot r).st = .run) (hrcf : (s.slot r).rcf = false) (hwave : (s.slot r).wave = none)
    (hpending : (s.slot r).pending = none) (hsinks : s.unreported r = []) :
    exec (.regionCompletion r) s = .next (((s.dropReconfigs r 0).drainBricks r).modSlot r fun x => { x with st := .drain, kind := 1 }) := by
  show execRegionCompletion r s = _
  exact stepWhen_true (by simp [hst, hrcf, hwave, hpending, hsinks])

/-- The code of a fault record (R401). -/
def recordCode (ws : List Word) : Nat := bits (ws.getD 0 0).toNat 63 56

/-- The slot of a region that has faulted. -/
def Slot.faulted (x : Slot) (code seq : Nat) : Slot :=
  { x with st := .drain, kind := 2, fault := some code, reason := code, pending := none, wave := none, faultSeq := seq }

/-- The fault's record is written, and the region's reconfigurations, engines and bricks stop. -/
def State.stopFaulted (s : State) (r : RegionId) (ws : List Word) : State :=
  (((s.modDie r.die fun d => d.logWords s.us ws).dropReconfigs r (recordCode ws)).stopEngines r).drainBricks r

/-- A die's fault log has no place left. -/
def Die.logFull (d : Die) : Bool := (d.head + 1) % 256 = d.tail

/-- SEQ of the record to be written next at a die, 0xFFFF where its log is full. -/
def Die.nextSeq (d : Die) : Nat := if d.logFull then 0xFFFF else d.seq

theorem exec_regionFault {s : State} {r : RegionId} {at' : Nat} {ws : List Word} (hpending : (s.slot r).pending = some (at', ws)) (hdue : at' < s.now)
    (hfirst : (s.slot r).fault = none) (hst : (s.slot r).st = .run ∨ (s.slot r).st = .drain) :
    exec (.regionFault r) s = .next ((s.stopFaulted r ws).modSlot r fun x => x.faulted (recordCode ws) (s.die r.die).nextSeq) := by
  show execRegionFault r s = _
  simp only [execRegionFault, hpending]
  exact stepWhen_true (by simpa [hdue, hfirst, Slot.underway] using hst)

theorem exec_bstatKill {s : State} {r : RegionId} (node : Nat) (hst : (s.slot r).st = .run) (hrcf : (s.slot r).rcf = false) :
    exec (.bstatKill r node) s = .next (s.raiseFault r { code := 0x06, data := node % 4096 }) := by
  show execBstatKill r node s = _
  exact stepWhen_true (by simp [hst, hrcf])

/-! Weep orders (R191) -/

theorem exec_weepOrder_completing {s : State} {r : RegionId} (hst : (s.slot r).st = .drain) (hkind : (s.slot r).kind = 1) :
    exec (.weepOrder r) s = .next ((s.slot r).bricks.foldl (fun s b => s.modBrick b fun y =>
      if y.noConnectedInput && y.weep = .none then { y.setPick false with weep := .ordered } else y) s) := by
  show execWeepOrder r s = _
  exact if_pos (by simp [hst, hkind])

/-- At a fault, or once the image is written, the engines stop and every brick is ordered directly. -/
def State.orderAll (s : State) (r : RegionId) : State :=
  (s.slot r).bricks.foldl (fun s b => s.modBrick b Brick.orderDirect) ((s.stopEngines r).modSlot r fun x => { x with wave := none })

theorem exec_weepOrder_direct {s : State} {r : RegionId} (hst : (s.slot r).st = .drain)
    (hkind : (s.slot r).kind = 2 ∨ (s.slot r).kind = 3 ∧ (s.slot r).ended = true)
    (hleft : ∃ b ∈ (s.slot r).bricks, (s.brick b).region = some r ∧ (s.brick b).discard = false) :
    exec (.weepOrder r) s = .next { s.orderAll r with flights := (s.orderAll r).flights.filter fun f => match f.dest with
      | .param b => !s.owns r b
      | _ => true } := by
  have hgentle : ((s.slot r).st = .drain && (s.slot r).kind = 1 : Bool) = false := by
    obtain h | ⟨h, -⟩ := hkind <;> simp [h]
  have hdirect : ((s.slot r).st = .drain && ((s.slot r).kind = 2 || ((s.slot r).kind = 3 && (s.slot r).ended)) : Bool) = true := by
    simpa [hst] using hkind
  have hany : ((s.slot r).bricks.any fun b => s.owns r b && !(s.brick b).discard) = true := by
    simpa [State.owns] using hleft
  show execWeepOrder r s = _
  refine (if_neg (ne_true_of_eq_false hgentle)).trans (stepWhen_true ?_)
  rw [hdirect, hany]
  rfl

/-! The completion word, and bricks leave DRAINING (R23, R206, R282, R378) -/

theorem exec_completionWordStore {s : State} {r : RegionId} (hst : (s.slot r).st = .drain) (hended : (s.slot r).ended = false)
    (hkind : (s.slot r).kind = 1 ∨ (s.slot r).kind = 2) (hwept : s.allWept r = true) (haccesses : s.accessesDone r = true)
    (hlinks : s.linksEmpty r = true) (hfirings : ∀ b ∈ (s.slot r).bricks, (s.brick b).firings = [])
    (hdone : (s.slot r).kind = 1 → s.enginesDone r = true) (hsettled : (s.slot r).kind = 2 → s.enginesSettled r = true) :
    exec (.completionWordStore r) s = .next ((((s.storeCompletion r).idleRecords r).modSlot r fun x => { x with ended := true }).settleSlot r) := by
  have hquiet : ((s.slot r).bricks.all fun b => (s.brick b).quietFirings) = true := by simpa [Brick.quietFirings] using hfirings
  show execCompletionWordStore r s = _
  refine stepWhen_true ?_
  obtain hk | hk := hkind
  · simp [hst, hended, hk, hwept, haccesses, hlinks, hquiet, hdone hk]
  · simp [hst, hended, hk, hwept, haccesses, hlinks, hquiet, hsettled hk]

/-- The region's bricks keep their bound granules, all but those of an image with PINI = 1 (R312). -/
def State.keepsBound (s : State) (r : RegionId) : Bool := !((s.slot r).kind = 3 && bit (s.die r.die).swcmd.toNat 56)

/-- A brick after its reclaim, the granules that it gives up no longer charged. -/
def State.reclaim (s : State) (b : BrickId) (keep : Bool) : State :=
  (s.setBrick b ((s.brick b).reclaimed keep)).refund (s.brick b).pinNode 1
    ((s.brick b).pinned.length - popCount 16 ((s.brick b).reclaimed keep).bound.toNat)

/-- The parameter windows of a region leave a course's store. -/
def State.dropWindows (s : State) (r : RegionId) (c : Nat × Nat) : State :=
  { s with params := s.params.set (64 * c.1 + c.2) ((s.params.getD (64 * c.1 + c.2) []).filter fun w => w.region ≠ r) }

theorem exec_brickReclaim {s : State} {b : BrickId} {r : RegionId} (hregion : (s.brick b).region = some r) (hlife : (s.brick b).life = .draining)
    (hended : (s.slot r).ended = true) (haccs : ∀ a ∈ (s.brick b).accs, a.busy = false) (hwept : s.allWept r = true) (hlinks : s.linksEmpty r = true) :
    exec (.brickReclaim b) s = .next ((if (s.reclaim b (s.keepsBound r)).courseEmpty r (BrickId.die b, BrickId.course b) then
      (s.reclaim b (s.keepsBound r)).dropWindows r (BrickId.die b, BrickId.course b) else s.reclaim b (s.keepsBound r)).settleSlot r) := by
  have hidle : ((s.brick b).accs.all fun a => !a.busy) = true := by simpa using haccs
  show execBrickReclaim b s = _
  simp only [execBrickReclaim, hregion]
  exact stepWhen_true (by rw [hlife, hended, hidle, hwept, hlinks]; rfl)

theorem Brick.reclaimed_life (x : Brick) (keep : Bool) :
    ((x.reclaimed keep).life = .free ∨ (x.reclaimed keep).life = .held) ∧
      (keep = false → (x.reclaimed keep).life = .free ∧ (x.reclaimed keep).bound = 0) := by
  refine ⟨?_, fun h => ?_⟩
  · exact ite_eq_or_eq _ _ _
  · subst h
    exact ⟨rfl, rfl⟩

/-! Count waves (R379, R380) -/

/-- No agent of the region is busy, and as much was taken as launched. -/
def State.quiet (s : State) (r : RegionId) : Bool := !s.regionBusy r && (s.counts r).1 = (s.counts r).2

/-- The slot notes a count wave. -/
def State.noteWave (s : State) (r : RegionId) : State :=
  s.modSlot r fun x => { x with lastWave := if s.quiet r then some (s.counts r) else none, countedAt := s.now }

theorem exec_countWave {s : State} {r : RegionId} (hdue : s.countDue r = true) :
    exec (.countWave r) s = .next (if s.quiet r && (s.slot r).lastWave = some (s.counts r) then
      (s.noteWave r).raiseFault r { code := 0x03, brick := lowestBrick (s.unreported r), count := (s.unreported r).length
                                    data := lowestBrick (s.unreported r) }
      else s.noteWave r) := by
  show execCountWave r s = _
  exact stepWhen_true hdue

/-! Set waves (R387-R391) -/

section
variable {s : State} {die : Nat} {v : Word}

/-- The region that a write of SWCMD names. -/
def waveRegion (die : Nat) (v : Word) : RegionId := { die, slot := bits v.toNat 62 57 }

theorem exec_swcmd_go (hgo : v.getLsbD 63 = true) :
    exec (.swcmd die v) s = stepWhen (s.mayWave (waveRegion die v)) s
      (s.startWave (waveRegion die v) v.toNat (s.die die).swaddr.toNat ((s.slot (waveRegion die v)).pre = 1)) := by
  show execSwcmd die v s = _
  exact if_pos hgo

theorem State.mayWave_eq_false {r : RegionId} (h : (s.slot r).st ≠ .run ∨ (s.slot r).pre ≠ 1 ∧ (s.slot r).pre ≠ 2 ∨
    (s.die r.die).swcmd.getLsbD 63 = true ∨ s.reconfiguring r = true) : s.mayWave r = false := by
  unfold State.mayWave
  obtain h | ⟨h1, h2⟩ | h | h := h
  · simp [h]
  · simp [h1, h2]
  · simp [h]
  · simp [h]

theorem exec_swcmd_noGo (hgo : v.getLsbD 63 = false) (hidle : (s.die die).swcmd.getLsbD 63 = false) :
    exec (.swcmd die v) s = .next (s.modDie die fun d => { d with swcmd := v &&& 0x7FFF_0000_0000_0000 }) := by
  show execSwcmd die v s = _
  refine (if_neg (ne_true_of_eq_false hgo)).trans (stepWhen_true ?_)
  rw [hidle]
  rfl

end

/-- The fields of SWCMD that such a write sets: SLOT, PINI and WAIT. -/
theorem swcmdMask_bits (v : Word) : (v &&& 0x7FFF_0000_0000_0000).getLsbD 63 = false ∧
    ∀ k, 48 ≤ k → k < 63 → (v &&& 0x7FFF_0000_0000_0000).getLsbD k = v.getLsbD k := by
  refine ⟨by simp, fun k hlo hhi => ?_⟩
  rw [BitVec.getLsbD_and]
  interval_cases k <;> simp

theorem exec_setwStop {s : State} {b : BrickId} {r : RegionId} {w : Wave} (hregion : (s.brick b).region = some r) (hwave : (s.slot r).wave = some w)
    (h : w.target = none ∨ (s.brick b).trapValid = true ∧ (s.brick b).pick = false) :
    exec (.setwStop b) s = .next (s.modBrick b Brick.stopAtWave) := by
  show execSetwStop b s = _
  simp only [execSetwStop, hregion, hwave]
  exact stepWhen_true (by simpa using h)

/-- A wave stops a brick that it has not stopped yet. -/
theorem Brick.stopAtWave_of_not_stopped {x : Brick} (h : x.wave ≠ .stopped) :
    x.stopAtWave = { x.setPick false with wave := .stopped, picked := x.pick, life := .draining } := if_neg h

theorem exec_setwWaitExpiry {s : State} {r : RegionId} {w : Wave} {n : Nat} (hwave : (s.slot r).wave = some w) (htarget : w.target = some n)
    (hlimit : w.started + w.limit ≤ s.now) (hlate : ∃ b ∈ (s.slot r).bricks, (s.brick b).wave ≠ .stopped) :
    exec (.setwWaitExpiry r) s = .next ((((s.slot r).bricks.foldl (fun s b => s.modBrick b Brick.stopAtWave) s).modSlot r fun x =>
      { x with wave := some { w with target := none }, cut := false }).cancelRegion r) := by
  have hany : ((s.slot r).bricks.any fun b => (s.brick b).wave ≠ .stopped) = true := by simpa using hlate
  show execSetwWaitExpiry r s = _
  simp only [execSetwWaitExpiry, hwave]
  exact stepWhen_true (by rw [htarget, hany]; simpa using hlimit)

theorem exec_imageCapture {s : State} {r : RegionId} {w : Wave} (hwave : (s.slot r).wave = some w) (hended : (s.slot r).ended = false)
    (hstopped : ∀ b ∈ (s.slot r).bricks, (s.brick b).wave = .stopped ∧ (s.brick b).firings = []) :
    exec (.imageCapture r) s = if s.liveQueries r then .next (s.cancelRegion r) else
    stepWhen ((s.slot r).pending.isNone && s.accessesDone r && s.linksEmpty r && s.enginesSettled r) s (s.capture r w) := by
  have hall : ((s.slot r).bricks.all fun b => (s.brick b).wave = .stopped && (s.brick b).firings.isEmpty) = true := by simpa using hstopped
  show execImageCapture r s = _
  simp only [execImageCapture, hwave, hall, hended, Bool.not_false, Bool.true_and]

/-- Settles O52, each clause by the lemma of its event. -/
theorem regionsEnd : Obligations.RegionsEnd := by
  refine ⟨fun s r => exec_regionCompletion, fun s r at' ws hpending hdue hfirst hst => ?fault,
    fun s r hst => ⟨exec_weepOrder_completing hst, exec_weepOrder_direct hst⟩, fun s r => exec_completionWordStore,
    fun s b r hregion hlife hended haccs hwept hlinks => ?reclaim,
    fun x keep => ⟨rfl, rfl, (x.reclaimed_life keep).1, (x.reclaimed_life keep).2, rfl, rfl, rfl, rfl, rfl, rfl, rfl⟩,
    fun s r hdue => ?count, fun s r node => exec_bstatKill node, fun s die v => ⟨fun hgo hmay => ?start, fun hgo h => ?ignored, fun hgo hidle => ?noGo⟩,
    fun s b r w => exec_setwStop, fun x h => ?stopped, fun s r w n => exec_setwWaitExpiry, fun s r w hwave hended hstopped => ?capture⟩
  case fault =>
    refine ⟨_, exec_regionFault hpending hdue hfirst hst, ?_⟩
    rw [State.modSlot_slot_same]
    exact ⟨rfl, rfl, rfl, rfl, rfl, rfl⟩
  case reclaim =>
    have hreclaim := exec_brickReclaim hregion hlife hended haccs hwept hlinks
    exact ⟨fun h => hreclaim.trans (congrArg (fun t : State => Host.Outcome.next (t.settleSlot r)) (if_neg (ne_true_of_eq_false h))),
      fun h => hreclaim.trans (congrArg (fun t : State => Host.Outcome.next (t.settleSlot r)) (if_pos h))⟩
  case count =>
    refine ⟨fun h => (exec_countWave hdue).trans (congrArg _ (if_neg fun hq => ?_)), fun hquiet hlast => (exec_countWave hdue).trans (congrArg _ (if_pos ?_))⟩
    · obtain ⟨hquiet, hlast⟩ := (Bool.and_eq_true _ _).mp hq
      obtain h | h := h
      · exact absurd hquiet (ne_true_of_eq_false h)
      · exact h (of_decide_eq_true hlast)
    · rw [Bool.and_eq_true]
      exact ⟨hquiet, decide_eq_true hlast⟩
  case start => exact (exec_swcmd_go hgo).trans (stepWhen_true hmay)
  case ignored => exact (exec_swcmd_go hgo).trans (stepWhen_false (State.mayWave_eq_false h))
  case noGo =>
    refine ⟨_, exec_swcmd_noGo hgo hidle, rfl, ?_⟩
    rw [State.modDie_die, if_pos rfl]
    exact ⟨(swcmdMask_bits v).1, (swcmdMask_bits v).2, rfl⟩
  case stopped =>
    rw [Brick.stopAtWave_of_not_stopped h]
    exact ⟨(x.setPick_bits false).1, rfl, rfl, rfl⟩
  case capture =>
    rw [exec_imageCapture hwave hended hstopped]
    refine ⟨fun h => if_pos h, fun hquery hpending haccesses hlinks hsettled => ?_⟩
    rw [if_neg (ne_true_of_eq_false hquery)]
    exact stepWhen_true (by simp [hpending, haccesses, hlinks, hsettled])

end Sys2Proof.Machine

namespace Sys2Proof

/-! Making a word of its fields (R30, R32) -/

/-- Opcode and head of a word are its bits [63:30] (R30). -/
theorem head_toBits_ofWord (w : Word) : (Head.ofWord w).toBits (w.extractLsb' 57 7).toNat = w.extractLsb' 30 34 := by
  simp only [Head.toBits, Head.ofWord, BitVec.ofNat_toNat, BitVec.setWidth_eq, BitVec.extractLsb'_append_extractLsb'_eq_extractLsb']

theorem bodyT_toBits_ofWord (w : Word) : (TBody.ofWord w).toBits = w.extractLsb' 0 30 := by
  simp only [TBody.toBits, TBody.ofWord, BitVec.extractLsb'_append_extractLsb'_eq_extractLsb']

theorem bodyU_toBits_ofWord (w : Word) : (UBody.ofWord w).toBits = w.extractLsb' 0 30 := by
  simp only [UBody.toBits, UBody.ofWord, BitVec.extractLsb'_append_extractLsb'_eq_extractLsb']

theorem bodyI_toBits_ofWord (w : Word) : (IBody.ofWord w).toBits = w.extractLsb' 0 30 := by
  simp only [IBody.toBits, IBody.ofWord, BitVec.extractLsb'_append_extractLsb'_eq_extractLsb']

theorem bodyM_toBits_ofWord (w : Word) : (MBody.ofWord w).toBits = w.extractLsb' 0 30 := by
  simp only [MBody.toBits, MBody.ofWord, BitVec.extractLsb'_append_extractLsb'_eq_extractLsb']

theorem bodyP_toBits_ofWord (w : Word) : (PBody.ofWord w).toBits = w.extractLsb' 0 30 := by
  simp only [PBody.toBits, PBody.ofWord, BitVec.extractLsb'_append_extractLsb'_eq_extractLsb']

theorem bodyK_toBits_ofWord (w : Word) : (KBody.ofWord w).toBits = w.extractLsb' 0 30 := by
  simp only [KBody.toBits, KBody.ofWord, BitVec.extractLsb'_append_extractLsb'_eq_extractLsb']

theorem bodyX_toBits_ofWord (w : Word) : (XBody.ofWord w).toBits = w.extractLsb' 0 30 := by
  simp only [XBody.toBits, XBody.ofWord, BitVec.extractLsb'_append_extractLsb'_eq_extractLsb']

/-- A word is made of the fields it is cut into (R30, R32). -/
theorem toWord_ofWord (w : Word) : (Raw.ofWord w).toWord = w := by
  have join {y : BitVec 30} (hy : y = w.extractLsb' 0 30) : (Head.ofWord w).toBits (w.extractLsb' 57 7).toNat ++ y = w := by
    rw [head_toBits_ofWord, hy]
    exact BitVec.extractLsb'_append_extractLsb' (w := 34) (len := 30)
  unfold Raw.ofWord
  dsimp only
  split
  case h_1 => exact join (bodyT_toBits_ofWord w)
  case h_2 => exact join (bodyU_toBits_ofWord w)
  case h_3 => exact join (bodyI_toBits_ofWord w)
  case h_4 => exact join (bodyM_toBits_ofWord w)
  case h_5 => exact join (bodyP_toBits_ofWord w)
  case h_6 => exact join (bodyK_toBits_ofWord w)
  case h_7 => exact join (bodyX_toBits_ofWord w)
  case h_8 => rfl

/-! The maps of opcodes and sub-operations: each row names an instruction that stands under this opcode (R44, R46) -/

theorem toRaw_ofT {opc : Nat} {c : Head → TBody → Instr} (hc : ofT opc = some c) (h : Head) (x : TBody) : toRaw (c h x) = some (.fT opc h x) := by
  unfold ofT at hc
  split at hc <;> cases hc <;> rfl

theorem toRaw_ofSfu {imm : Nat} {c : Head → UBody → Instr} (hc : ofSfu imm = some c) (h : Head) (x : UBody) : toRaw (c h x) = some (.fU 0x51 h x) := by
  unfold ofSfu at hc
  split at hc <;> cases hc <;> rfl

theorem toRaw_ofU {opc imm : Nat} {c : Head → UBody → Instr} (hc : ofU opc imm = some c) (h : Head) (x : UBody) : toRaw (c h x) = some (.fU opc h x) := by
  unfold ofU at hc
  split at hc
  case h_19 => exact toRaw_ofSfu hc h x
  all_goals cases hc <;> rfl

theorem toRaw_ofI {opc : Nat} {c : Head → IBody → Instr} (hc : ofI opc = some c) (h : Head) (x : IBody) : toRaw (c h x) = some (.fI opc h x) := by
  unfold ofI at hc
  split at hc <;> cases hc <;> rfl

theorem toRaw_ofM {opc : Nat} {c : Head → MBody → Instr} (hc : ofM opc = some c) (h : Head) (x : MBody) : toRaw (c h x) = some (.fM opc h x) := by
  unfold ofM at hc
  split at hc <;> cases hc <;> rfl

theorem toRaw_ofP {opc : Nat} {c : Head → PBody → Instr} (hc : ofP opc = some c) (h : Head) (x : PBody) : toRaw (c h x) = some (.fP opc h x) := by
  unfold ofP at hc
  split at hc <;> cases hc <;> rfl

theorem toRaw_ofK {opc : Nat} {c : Head → KBody → Instr} (hc : ofK opc = some c) (h : Head) (x : KBody) : toRaw (c h x) = some (.fK opc h x) := by
  unfold ofK at hc
  split at hc <;> cases hc <;> rfl

theorem toRaw_ofX {opc : Nat} {y : XBody} {c : Head → XBody → Instr} (hc : ofX opc y = some c) (h : Head) (x : XBody) : toRaw (c h x) = some (.fX opc h x) := by
  unfold ofX at hc
  dsimp only at hc
  split at hc
  case h_1 | h_2 | h_3 => cases hc; rfl
  case h_4 | h_5 | h_7 | h_8 => split at hc <;> cases hc <;> rfl
  case h_6 =>
    split at hc
    case h_2 => split at hc <;> cases hc <;> rfl
    all_goals cases hc <;> rfl
  case h_9 => cases hc

/-- What raw fields name has those raw fields. -/
theorem toRaw_of_ofRaw {r : Raw} {i : Instr} (hi : ofRaw r = some i) : toRaw i = some r := by
  cases r with
  | fT opc h x => obtain ⟨c, hc, rfl⟩ := Option.map_eq_some_iff.1 hi; exact toRaw_ofT hc h x
  | fU opc h x => obtain ⟨c, hc, rfl⟩ := Option.map_eq_some_iff.1 hi; exact toRaw_ofU hc h x
  | fI opc h x => obtain ⟨c, hc, rfl⟩ := Option.map_eq_some_iff.1 hi; exact toRaw_ofI hc h x
  | fM opc h x => obtain ⟨c, hc, rfl⟩ := Option.map_eq_some_iff.1 hi; exact toRaw_ofM hc h x
  | fP opc h x => obtain ⟨c, hc, rfl⟩ := Option.map_eq_some_iff.1 hi; exact toRaw_ofP hc h x
  | fK opc h x => obtain ⟨c, hc, rfl⟩ := Option.map_eq_some_iff.1 hi; exact toRaw_ofK hc h x
  | fX opc h x => obtain ⟨c, hc, rfl⟩ := Option.map_eq_some_iff.1 hi; exact toRaw_ofX hc h x
  | other w => cases hi

/-! The decoder -/

/-- An instruction with a word is well formed where its fields pass every check of R47 and name it. -/
theorem Instr.wf_iff {edge : Bool} {i : Instr} {r : Raw} (hr : toRaw i = some r) : i.wf edge = true ↔ r.reason edge = 0 ∧ ofRaw r = some i := by
  simp only [Instr.wf, hr, Bool.and_eq_true, decide_eq_true_eq]

/-- When the decoder accepts a word, and as what (R29, R47). -/
theorem decode_eq_instr {edge : Bool} {w : Word} {i : Instr} :
    decode edge w = .instr i ↔ w ≠ 0 ∧ (Raw.ofWord w).reason edge = 0 ∧ ofRaw (Raw.ofWord w) = some i := by
  unfold decode
  split
  case isTrue hw => exact ⟨nofun, fun ⟨hne, _⟩ => absurd hw hne⟩
  case isFalse hw =>
    dsimp only
    split
    case h_1 hreason =>
      rw [and_iff_right hw, and_iff_right hreason]
      cases ofRaw (Raw.ofWord w) <;> simp
    case h_2 hreason => exact ⟨nofun, fun ⟨_, hzero, _⟩ => absurd hzero hreason⟩

theorem decode_zero (edge : Bool) : decode edge 0 = .inv := if_pos rfl

/-- A word of opcode 0x00 has no format (R29). -/
theorem ofWord_of_opcode_zero {w : Word} (h : (w.extractLsb' 57 7).toNat = 0) : Raw.ofWord w = .other w := by
  simp only [Raw.ofWord, h]
  rfl

theorem decode_of_opcode_zero {edge : Bool} {w : Word} (hw : w ≠ 0) (h : (w.extractLsb' 57 7).toNat = 0) : decode edge w = .rejected .invbits := by
  have hreason : (Raw.ofWord w).reason edge = 1 := by
    rw [ofWord_of_opcode_zero h]
    exact (if_neg hw).trans (if_pos h)
  simp only [decode, if_neg hw, hreason]
  rfl

theorem opcode_eq_zero {w : Word} (h : w.toNat / 2 ^ 57 = 0) : (w.extractLsb' 57 7).toNat = 0 := by
  rw [BitVec.extractLsb'_toNat, Nat.shiftRight_eq_div_pow, h]

/-- Settles O44, each rule by its lemma; a step of another agent has no word. -/
theorem fieldsKept : Obligations.FieldsKept := by
  intro i
  cases i with
  | add h x => exact Laws.FieldsKept.add h x
  | sub h x => exact Laws.FieldsKept.sub h x
  | adc h x => exact Laws.FieldsKept.adc h x
  | sbb h x => exact Laws.FieldsKept.sbb h x
  | addi h x => exact Laws.FieldsKept.addi h x
  | mul h x => exact Laws.FieldsKept.mul h x
  | mulh h x => exact Laws.FieldsKept.mulh h x
  | mulhu h x => exact Laws.FieldsKept.mulhu h x
  | mad h x => exact Laws.FieldsKept.mad h x
  | divu h x => exact Laws.FieldsKept.divu h x
  | remu h x => exact Laws.FieldsKept.remu h x
  | divs h x => exact Laws.FieldsKept.divs h x
  | rems h x => exact Laws.FieldsKept.rems h x
  | adds h x => exact Laws.FieldsKept.adds h x
  | addsu h x => exact Laws.FieldsKept.addsu h x
  | subs h x => exact Laws.FieldsKept.subs h x
  | subsu h x => exact Laws.FieldsKept.subsu h x
  | min h x => exact Laws.FieldsKept.min h x
  | max h x => exact Laws.FieldsKept.max h x
  | minu h x => exact Laws.FieldsKept.minu h x
  | maxu h x => exact Laws.FieldsKept.maxu h x
  | abs h x => exact Laws.FieldsKept.abs h x
  | neg h x => exact Laws.FieldsKept.neg h x
  | and h x => exact Laws.FieldsKept.and h x
  | or h x => exact Laws.FieldsKept.or h x
  | xor h x => exact Laws.FieldsKept.xor h x
  | andn h x => exact Laws.FieldsKept.andn h x
  | orn h x => exact Laws.FieldsKept.orn h x
  | xnor h x => exact Laws.FieldsKept.xnor h x
  | andi h x => exact Laws.FieldsKept.andi h x
  | ori h x => exact Laws.FieldsKept.ori h x
  | xori h x => exact Laws.FieldsKept.xori h x
  | shl h x => exact Laws.FieldsKept.shl h x
  | shr h x => exact Laws.FieldsKept.shr h x
  | sar h x => exact Laws.FieldsKept.sar h x
  | rol h x => exact Laws.FieldsKept.rol h x
  | shli h x => exact Laws.FieldsKept.shli h x
  | shri h x => exact Laws.FieldsKept.shri h x
  | sari h x => exact Laws.FieldsKept.sari h x
  | roli h x => exact Laws.FieldsKept.roli h x
  | bext h x => exact Laws.FieldsKept.bext h x
  | bexts h x => exact Laws.FieldsKept.bexts h x
  | bins h x => exact Laws.FieldsKept.bins h x
  | sext h x => exact Laws.FieldsKept.sext h x
  | clz h x => exact Laws.FieldsKept.clz h x
  | ctz h x => exact Laws.FieldsKept.ctz h x
  | popc h x => exact Laws.FieldsKept.popc h x
  | brev h x => exact Laws.FieldsKept.brev h x
  | mov h x => exact Laws.FieldsKept.mov h x
  | movw h x => exact Laws.FieldsKept.movw h x
  | movi h x => exact Laws.FieldsKept.movi h x
  | movhi h x => exact Laws.FieldsKept.movhi h x
  | sel h x => exact Laws.FieldsKept.sel h x
  | cmpeq h x => exact Laws.FieldsKept.cmpeq h x
  | cmpne h x => exact Laws.FieldsKept.cmpne h x
  | cmplt h x => exact Laws.FieldsKept.cmplt h x
  | cmpltu h x => exact Laws.FieldsKept.cmpltu h x
  | cmple h x => exact Laws.FieldsKept.cmple h x
  | cmpleu h x => exact Laws.FieldsKept.cmpleu h x
  | cmpeqi h x => exact Laws.FieldsKept.cmpeqi h x
  | cmplti h x => exact Laws.FieldsKept.cmplti h x
  | cmpltui h x => exact Laws.FieldsKept.cmpltui h x
  | btst h x => exact Laws.FieldsKept.btst h x
  | fadd h x => exact Laws.FieldsKept.fadd h x
  | fsub h x => exact Laws.FieldsKept.fsub h x
  | fmul h x => exact Laws.FieldsKept.fmul h x
  | ffma h x => exact Laws.FieldsKept.ffma h x
  | ffms h x => exact Laws.FieldsKept.ffms h x
  | fmin h x => exact Laws.FieldsKept.fmin h x
  | fmax h x => exact Laws.FieldsKept.fmax h x
  | fminm h x => exact Laws.FieldsKept.fminm h x
  | fmaxm h x => exact Laws.FieldsKept.fmaxm h x
  | fcmpeq h x => exact Laws.FieldsKept.fcmpeq h x
  | fcmplt h x => exact Laws.FieldsKept.fcmplt h x
  | fcmple h x => exact Laws.FieldsKept.fcmple h x
  | fcmpun h x => exact Laws.FieldsKept.fcmpun h x
  | fabs h x => exact Laws.FieldsKept.fabs h x
  | fneg h x => exact Laws.FieldsKept.fneg h x
  | fscb h x => exact Laws.FieldsKept.fscb h x
  | fdiv h x => exact Laws.FieldsKept.fdiv h x
  | sfuExp2 h x => exact Laws.FieldsKept.sfuExp2 h x
  | sfuLog2 h x => exact Laws.FieldsKept.sfuLog2 h x
  | sfuRcp h x => exact Laws.FieldsKept.sfuRcp h x
  | sfuRsqrt h x => exact Laws.FieldsKept.sfuRsqrt h x
  | sfuSqrt h x => exact Laws.FieldsKept.sfuSqrt h x
  | sfuTanh h x => exact Laws.FieldsKept.sfuTanh h x
  | sfuSinpi h x => exact Laws.FieldsKept.sfuSinpi h x
  | sfuCospi h x => exact Laws.FieldsKept.sfuCospi h x
  | cvt h x => exact Laws.FieldsKept.cvt h x
  | cvtfi h x => exact Laws.FieldsKept.cvtfi h x
  | cvtif h x => exact Laws.FieldsKept.cvtif h x
  | frnd h x => exact Laws.FieldsKept.frnd h x
  | fsum h x => exact Laws.FieldsKept.fsum h x
  | fmaxr h x => exact Laws.FieldsKept.fmaxr h x
  | fdot h x => exact Laws.FieldsKept.fdot h x
  | expd h x => exact Laws.FieldsKept.expd h x
  | qblk h x => exact Laws.FieldsKept.qblk h x
  | dqblk h x => exact Laws.FieldsKept.dqblk h x
  | bpspl h x => exact Laws.FieldsKept.bpspl h x
  | bpjn h x => exact Laws.FieldsKept.bpjn h x
  | fcls h x => exact Laws.FieldsKept.fcls h x
  | plog h x => exact Laws.FieldsKept.plog h x
  | psetv h x => exact Laws.FieldsKept.psetv h x
  | ptos h x => exact Laws.FieldsKept.ptos h x
  | stop h x => exact Laws.FieldsKept.stop h x
  | trap h x => exact Laws.FieldsKept.trap h x
  | bkpt h x => exact Laws.FieldsKept.bkpt h x
  | idle h x => exact Laws.FieldsKept.idle h x
  | nop h x => exact Laws.FieldsKept.nop h x
  | ldb h x => exact Laws.FieldsKept.ldb h x
  | stb h x => exact Laws.FieldsKept.stb h x
  | ldbi h x => exact Laws.FieldsKept.ldbi h x
  | stbi h x => exact Laws.FieldsKept.stbi h x
  | atb h x => exact Laws.FieldsKept.atb h x
  | casb h x => exact Laws.FieldsKept.casb h x
  | spl h x => exact Laws.FieldsKept.spl h x
  | fil h x => exact Laws.FieldsKept.fil h x
  | ldpw h x => exact Laws.FieldsKept.ldpw h x
  | emit h x => exact Laws.FieldsKept.emit h x
  | eos h x => exact Laws.FieldsKept.eos h x
  | mark h x => exact Laws.FieldsKept.mark h x
  | weep h x => exact Laws.FieldsKept.weep h x
  | drop h x => exact Laws.FieldsKept.drop h x
  | rtag h x => exact Laws.FieldsKept.rtag h x
  | steer h x => exact Laws.FieldsKept.steer h x
  | gld h x => exact Laws.FieldsKept.gld h x
  | gst h x => exact Laws.FieldsKept.gst h x
  | gat h x => exact Laws.FieldsKept.gat h x
  | strmArm h x => exact Laws.FieldsKept.strmArm h x
  | strmAbort h x => exact Laws.FieldsKept.strmAbort h x
  | strmStat h x => exact Laws.FieldsKept.strmStat h x
  | ttq h x => exact Laws.FieldsKept.ttq h x
  | ttqTid h x => exact Laws.FieldsKept.ttqTid h x
  | slfFire h x => exact Laws.FieldsKept.slfFire h x
  | slfHdrLaunch h x => exact Laws.FieldsKept.slfHdrLaunch h x
  | slfHdrRd h x => exact Laws.FieldsKept.slfHdrRd h x
  | slfHdrWr h x => exact Laws.FieldsKept.slfHdrWr h x
  | slfFin h x => exact Laws.FieldsKept.slfFin h x
  | slfRoute h x => exact Laws.FieldsKept.slfRoute h x
  | slfPin h x => exact Laws.FieldsKept.slfPin h x
  | slfUnpin h x => exact Laws.FieldsKept.slfUnpin h x
  | slfLook h x => exact Laws.FieldsKept.slfLook h x
  | fqryPost h x => exact Laws.FieldsKept.fqryPost h x
  | fqryCncl h x => exact Laws.FieldsKept.fqryCncl h x
  | sysXfence h x => exact Laws.FieldsKept.sysXfence h x
  | sysHandover h x => exact Laws.FieldsKept.sysHandover h x
  | sysRdbsr h x => exact Laws.FieldsKept.sysRdbsr h x
  | sysWrbsr h x => exact Laws.FieldsKept.sysWrbsr h x
  | sysWatch h x => exact Laws.FieldsKept.sysWatch h x
  | sysSink h x => exact Laws.FieldsKept.sysSink h x
  | sysWptr h x => exact Laws.FieldsKept.sysWptr h x
  | sysRdts h x => exact Laws.FieldsKept.sysRdts h x
  | _ => exact fun _ e => nomatch e

/-- Settles O42: the word is cut into the fields it was made of, which pass the checks and name the rule. -/
theorem decodeOfEncode : Obligations.DecodeOfEncode := by
  intro edge i w hwf hw
  obtain ⟨r, hr, rfl⟩ := Option.map_eq_some_iff.1 hw
  obtain ⟨hcut, hne⟩ := fieldsKept i r hr
  exact decode_eq_instr.2 ⟨hne, hcut.symm ▸ (Instr.wf_iff hr).1 hwf⟩

/-- Settles O43: the fields of an accepted word name the rule, and make the word again. -/
theorem encodeOfDecode : Obligations.EncodeOfDecode := by
  intro edge w i h
  obtain ⟨-, hreason, hi⟩ := decode_eq_instr.1 h
  have hr : toRaw i = some (Raw.ofWord w) := toRaw_of_ofRaw hi
  exact ⟨Option.map_eq_some_iff.2 ⟨_, hr, toWord_ofWord w⟩, (Instr.wf_iff hr).2 ⟨hreason, hi⟩⟩

/-- Settles O45: the decoder evaluated on each word. -/
theorem writtenWordsDecode : Obligations.WrittenWordsDecode :=
  ⟨⟨_, _, rfl⟩, ⟨_, _, rfl⟩, ⟨_, _, rfl⟩, ⟨_, _, rfl⟩, ⟨_, _, rfl⟩, ⟨_, _, rfl⟩, ⟨_, _, rfl⟩, ⟨_, _, rfl⟩⟩

end Sys2Proof

namespace Sys2Proof.Machine

open Sys2Proof

/-! The picker and INV slots -/

theorem slotInstr_of_inv {s : State} {b : BrickId} {k : Nat} (h : (s.brick b).pool.getD k 0 = 0) : slotInstr s b k = none := by
  rw [slotInstr, h, decode_zero]
  rfl

/-- The picker takes a slot that holds an instruction (R66). -/
theorem slotInstr_of_pickSlot {s : State} {b : BrickId} {k : Nat} {i : Instr} (h : pickSlot s b = some (k, i)) : slotInstr s b k = some i := by
  unfold pickSlot at h
  split at h
  case isFalse => cases h
  case isTrue =>
    obtain ⟨n, -, hn⟩ := List.exists_of_findSome?_eq_some h
    split at hn
    case h_2 => cases hn
    case h_1 j hj =>
      split at hn
      case isFalse => cases hn
      case isTrue => cases hn; exact hj

/-- Settles O46: the picker takes only slots that decode to an instruction, and INV is none. -/
theorem invIsNoInstruction : Obligations.InvIsNoInstruction := by
  refine ⟨decode_zero, fun edge w hw hopc => decode_of_opcode_zero hw (opcode_eq_zero hopc), fun s b k i hinv hpick => ?_⟩
  cases (slotInstr_of_inv hinv).symm.trans (slotInstr_of_pickSlot hpick)

end Sys2Proof.Machine

namespace Sys2Proof.Machine

open Sys2Proof

/-! When a slot is eligible, condition by condition (R65) -/

/-- What R65 asks of slot `k` of brick `b`, whose word is the rule `i`. -/
structure SlotReady (s : State) (b : BrickId) (k : Nat) (word : Word) (i : Instr) (r : RuleInfo) : Prop where
  guard : guardHolds (s.brick b) r.h = true
  preds : ∀ p, p < 8 → bit (predReads i r ||| predWrites i r) p = true → (s.brick b).pending p = false
  channels : ∀ ch, ch < 4 → r.needs ch ≤ ((s.brick b).ready ch).length
  room : ∀ p, rulePort i r = some p → min r.beats 4 ≤ (s.brick b).room p
  ports : ∀ p ∈ portsEntered (s.brick b) i r, portHeld (s.brick b) p = false
  slices : ∀ g ∈ r.sliceReads ++ r.sliceWrites, busyRange (s.brick b) g = false
  datapath : (s.brick b).dpFree ≤ s.now
  issued : ∀ f ∈ (s.brick b).firings, f.unissued = false
  noSerial : ∀ f ∈ (s.brick b).firings, RuleInfo.isSerial f.instr = false
  alone : RuleInfo.isSerial i = true → (s.brick b).firings = []
  words : comparatorOk (s.brick b) (mkFiring s b k word i r) = true
  subBanks : subBanksFree s b r (mkFiring s b k word i r) = true
  engines : enginesFree s b i r = true

theorem SlotReady.of_eligible {s : State} {b : BrickId} {k : Nat} {word : Word} {i : Instr} {r : RuleInfo} (hr : ruleInfo i = some r)
    (h : eligible s b k word i = true) : SlotReady s b k word i r := by
  unfold eligible at h
  rw [hr] at h
  simp only [Bool.and_eq_true] at h
  obtain ⟨⟨⟨⟨⟨⟨⟨⟨⟨⟨⟨hguard, hpreds⟩, hchannels⟩, hroom⟩, hports⟩, hslices⟩, hdatapath⟩, hnoSerial⟩, halone⟩, hwords⟩, hsubBanks⟩, hengines⟩ := h
  simp only [datapathFree, Bool.and_eq_true, decide_eq_true_eq, List.all_eq_true, Bool.not_eq_true'] at hdatapath
  refine ⟨hguard, fun p hp hbit => ?_, fun ch hch => ?_, fun p hp => ?_, ?_, ?_, hdatapath.1, hdatapath.2, ?_, fun hserial => ?_, hwords, hsubBanks, hengines⟩
  · simpa [hbit] using List.all_eq_true.1 hpreds p (List.mem_range.2 hp)
  · simpa using List.all_eq_true.1 hchannels ch (List.mem_range.2 hch)
  · simpa [hp] using hroom
  · simpa using hports
  · exact fun g hg => Bool.not_eq_true' _ ▸ List.all_eq_true.1 hslices g hg
  · simpa using hnoSerial
  · simpa [hserial] using halone

theorem Instr.isRule_of_ruleInfo {i : Instr} {r : RuleInfo} (h : ruleInfo i = some r) : i.isRule = true := by
  unfold ruleInfo at h
  split at h
  case h_1 raw hraw => rw [Instr.isRule, hraw]; rfl
  case h_2 => cases h

/-- Only a rule may fire, and it finds its slot as R65 asks. -/
theorem MayFire.slotReady {i : Instr} {s : State} (h : MayFire i s) :
    ∃ r, ruleInfo i = some r ∧ SlotReady s s.focus.1 s.focus.2 s.focusWord i r := by
  obtain ⟨-, he⟩ := h
  cases hr : ruleInfo i with
  | none => simp [eligible, hr] at he
  | some r => exact ⟨r, rfl, .of_eligible hr he⟩

theorem MayFire.pick {i : Instr} {s : State} (h : MayFire i s) : (s.brick s.focus.1).pick = true := by
  by_contra hp
  exact not_mayFire_of_pick (Bool.eq_false_iff.2 hp) h

theorem guardHolds_preds {x : Brick} {h : Head} (hg : guardHolds x h = true) {p : Nat} (hp : p < 8) (hcare : h.pcare.getLsbD p = true) :
    x.pending p = false ∧ x.pred p = h.pval.getLsbD p := by
  rw [guardHolds, Bool.and_eq_true] at hg
  simpa [hcare] using List.all_eq_true.1 hg.1 p (List.mem_range.2 hp)

theorem guardHolds_tag {x : Brick} {h : Head} (hg : guardHolds x h = true) (htag : h.tagEn = 1) :
    ∃ t rest, x.visible h.tagCh.toNat = t :: rest ∧ t.tag = Tag.ofCode h.tagTag.toNat := by
  rw [guardHolds, Bool.and_eq_true] at hg
  cases hv : x.visible h.tagCh.toNat with
  | nil => simp [htag, hv] at hg
  | cons t rest => exact ⟨t, rest, rfl, by simpa [htag, hv] using hg.2⟩

/-- A channel of INRDY has to hold BEATS entries, but one for the D of a reduction (R65, R152). -/
theorem RuleInfo.needs_of_inrdy {r : RuleInfo} {ch : Nat} (h : bit r.h.inrdy.toNat ch = true) :
    r.needs ch = if (r.isReduction && RuleInfo.channelOf r.du r.d = some ch) = true then 1 else r.beats := by
  simp [RuleInfo.needs, h]

/-! The engines that a rule needs (R65) -/

theorem countInFlight_eq_zero {x : Brick} {p : Instr → Bool} (h : countInFlight x p = 0) {f : Firing} (hf : f ∈ x.firings) (hp : p f.instr = true) :
    f.committed = true := by
  rw [countInFlight, List.length_eq_zero_iff, List.filter_eq_nil_iff] at h
  simpa [hp] using h f hf

section
variable {s : State} {b : BrickId} {h : Head} {r : RuleInfo}

theorem enginesFree_divider {i : Instr} (he : enginesFree s b i r = true) (hdiv : r.usesDivider = true) : (s.brick b).divFree ≤ s.now := by
  simp only [enginesFree, Bool.and_eq_true] at he
  simpa [hdiv] using he.1.1

theorem enginesFree_returns {i : Instr} (he : enginesFree s b i r = true) {ch n : Nat} (hret : returnsOf i = some (ch, n)) :
    ((s.brick b).input ch).queue.length + s.credited (.input b ch) .queue + ((s.brick b).input ch).ret + n * r.beats ≤ 32 := by
  simp only [enginesFree, Bool.and_eq_true] at he
  simpa [hret, returnRoom] using he.1.2

theorem enginesFree_qblk {y : UBody} (he : enginesFree s b (.qblk h y) r = true) :
    (s.brick b).qblk = none ∧ ∀ f ∈ (s.brick b).firings, ∀ h' y', f.instr = .qblk h' y' → f.committed = true := by
  simp only [enginesFree, Bool.and_eq_true, Bool.not_eq_true', Bool.or_eq_false_iff, decide_eq_false_iff_not, Nat.not_lt, Nat.le_zero] at he
  obtain ⟨-, hbuffer, hflight⟩ := he
  exact ⟨by simpa using hbuffer, fun f hf h' y' hi => countInFlight_eq_zero hflight hf (by rw [hi])⟩

theorem enginesFree_barrier {i : Instr} {y : KBody} (hi : i = .mark h y ∨ i = .weep h y) (he : enginesFree s b i r = true) :
    (s.brick b).noConnectedInput = true ∧ (s.brick b).outputsHaveRoom = true := by
  obtain rfl | rfl := hi
  · simp only [enginesFree, Bool.and_eq_true] at he
    exact he.2.1
  · simp only [enginesFree, Bool.and_eq_true] at he
    exact he.2

theorem enginesFree_strmArm {y : XBody} (he : enginesFree s b (.strmArm h y) r = true) :
    ((s.brick b).edge.shapes.getD (y.sub.toNat / 8) {}).state ≠ 1 := by
  simp only [enginesFree, Bool.and_eq_true] at he
  simpa using he.2

/-- A port of two places that holds one, and has another free, has none promised to a firing in flight. -/
theorem countInFlight_eq_zero_of_port {α : Type} {l : List α} {x : Brick} {p : Instr → Bool} (h : l.length + countInFlight x p < 2) (hl : l ≠ []) :
    countInFlight x p = 0 := by
  have := List.length_pos_of_ne_nil hl
  omega

theorem enginesFree_ttq {i : Instr} {y : XBody} (hi : i = .ttq h y ∨ i = .ttqTid h y) (he : enginesFree s b i r = true) :
    (s.brick b).taskPort.length < 2 ∧ ((s.brick b).taskPort ≠ [] →
      ∀ f ∈ (s.brick b).firings, ∀ h' y', f.instr = .ttq h' y' ∨ f.instr = .ttqTid h' y' → f.committed = true) := by
  have hplaces : (s.brick b).taskPort.length + countInFlight (s.brick b) (fun j => match j with
      | .ttq .. | .ttqTid .. => true
      | _ => false) < 2 := by
    obtain rfl | rfl := hi
    · simp only [enginesFree, Bool.and_eq_true, decide_eq_true_eq] at he
      exact he.2
    · simp only [enginesFree, Bool.and_eq_true, decide_eq_true_eq] at he
      exact he.2
  refine ⟨Nat.lt_of_le_of_lt (Nat.le_add_right ..) hplaces, fun hport f hf h' y' hinstr => ?_⟩
  refine countInFlight_eq_zero (countInFlight_eq_zero_of_port hplaces hport) hf ?_
  obtain hj | hj := hinstr <;> rw [hj]

theorem enginesFree_fqryPost {y : XBody} (he : enginesFree s b (.fqryPost h y) r = true) :
    (s.brick b).footPort.length < 2 ∧ ((s.brick b).footPort ≠ [] →
      ∀ f ∈ (s.brick b).firings, ∀ h' y', f.instr = .fqryPost h' y' → f.committed = true) := by
  simp only [enginesFree, Bool.and_eq_true, decide_eq_true_eq] at he
  obtain ⟨-, hplaces⟩ := he
  refine ⟨Nat.lt_of_le_of_lt (Nat.le_add_right ..) hplaces, fun hport f hf h' y' hinstr => ?_⟩
  exact countInFlight_eq_zero (countInFlight_eq_zero_of_port hplaces hport) hf (by rw [hinstr])

theorem enginesFree_dock {i : Instr} (hi : isDockRule i = true) (he : enginesFree s b i r = true) : ringHeld (s.brick b) s.now = false := by
  cases i with
  | slfHdrLaunch h y =>
    simp only [enginesFree, Bool.and_eq_true, Bool.not_eq_true'] at he
    exact he.2.1
  | slfFire | slfHdrRd | slfHdrWr | slfFin | slfRoute =>
    simp only [enginesFree, Bool.and_eq_true, Bool.not_eq_true'] at he
    exact he.2
  | _ => cases hi

theorem enginesFree_launch {y : XBody} (he : enginesFree s b (.slfHdrLaunch h y) r = true) : (s.brick b).dockRoom s.now = true := by
  simp only [enginesFree, Bool.and_eq_true] at he
  exact he.2.2

theorem enginesFree_handover {y : XBody} (he : enginesFree s b (.sysHandover h y) r = true) {w : Handover} (hw : w ∈ s.handovers)
    (hold : w.old = b) : w.sent = true := by
  simp only [enginesFree, Bool.and_eq_true] at he
  simpa [hold] using List.all_eq_true.1 he.2.1 w hw

end

/-- Settles O28: each condition of R65 on its own, and each engine from `enginesFree`. -/
theorem eligibleMeans : Obligations.EligibleMeans := by
  intro i s r hmay hr x
  obtain ⟨r', hr', hready⟩ := hmay.slotReady
  cases hr.symm.trans hr'
  have hchannels (ch : Nat) (hch : ch < 4) (hin : bit r.h.inrdy.toNat ch = true) := RuleInfo.needs_of_inrdy hin ▸ hready.channels ch hch
  have hengines := hready.engines
  exact ⟨hmay.pick, fun p => guardHolds_preds hready.guard, hready.preds, guardHolds_tag hready.guard,
    fun ch hch hin hred => (if_neg (Bool.eq_false_iff.1 hred)).symm.trans_le (hchannels ch hch hin),
    fun ch hch hin hred => (if_pos hred).symm.trans_le (hchannels ch hch hin),
    hready.room, hready.slices, hready.datapath, hready.issued, hready.ports, hready.words, hready.noSerial, hready.alone, hready.subBanks,
    enginesFree_divider hengines, fun ch n => enginesFree_returns hengines,
    fun h y hi => enginesFree_qblk (h := h) (y := y) (hi ▸ hengines), fun h y hi => enginesFree_barrier hi hengines,
    fun h y hi => enginesFree_strmArm (h := h) (hi ▸ hengines), fun h y hi => enginesFree_ttq hi hengines,
    fun h y hi => enginesFree_fqryPost (h := h) (y := y) (hi ▸ hengines), fun hi => enginesFree_dock hi hengines,
    fun h y hi => enginesFree_launch (h := h) (y := y) (hi ▸ hengines),
    fun h y hi w hw hold => enginesFree_handover (h := h) (y := y) (hi ▸ hengines) hw hold⟩

end Sys2Proof.Machine

namespace Sys2Proof.Machine

open Sys2Proof

/-! What a rule's meaning answers, and the firing that it leaves (R65, R67, R70) -/

/-- What beat 0 of the rule in focus gives; a dock rule that A names a dock for is decided later (R331). -/
def firstOut (i : Instr) (o : Beat) (s : State) (r : RuleInfo) : BeatOut :=
  if judgedLate i then {} else o s s.focus.1 (mkFiring s s.focus.1 s.focus.2 s.focusWord i r) r 0

/-- The firing of the slot in focus after its fire cycle. -/
def firedFiring (i : Instr) (o : Beat) (s : State) (r : RuleInfo) : Firing :=
  settle s (recordBeat s.now r (mkFiring s s.focus.1 s.focus.2 s.focusWord i r) (firstOut i o s r))

theorem fired_brick_eq (i : Instr) (o : Beat) (s : State) (r : RuleInfo) :
    (fired i o s r).brick s.focus.1 = takeFiring s (s.brick s.focus.1) i r (firedFiring i o s r) := fired_brick i o s r

theorem fired_firings (i : Instr) (o : Beat) (s : State) (r : RuleInfo) :
    ((fired i o s r).brick s.focus.1).firings = (s.brick s.focus.1).firings ++ [firedFiring i o s r] := by
  rw [fired_brick_eq, takeFiring_firings]

section
variable (s : State) (f : Firing)
@[simp] theorem settle_instr : (settle s f).instr = f.instr := by rw [settle_frame]
@[simp] theorem settle_slot : (settle s f).slot = f.slot := by rw [settle_frame]
@[simp] theorem settle_fired : (settle s f).fired = f.fired := by rw [settle_frame]
@[simp] theorem settle_issued : (settle s f).issued = f.issued := by rw [settle_frame]
@[simp] theorem settle_committed : (settle s f).committed = f.committed := by rw [settle_frame]
@[simp] theorem settle_trap : (settle s f).trap = f.trap := by rw [settle_frame]
@[simp] theorem settle_effects : (settle s f).effects = f.effects := by rw [settle_frame]
@[simp] theorem settle_sticky : (settle s f).sticky = f.sticky := by rw [settle_frame]
@[simp] theorem settle_point : (settle s f).point = f.point := by rw [settle_frame]
end

theorem firedFiring_kept (i : Instr) (o : Beat) (s : State) (r : RuleInfo) :
    (firedFiring i o s r).instr = i ∧ (firedFiring i o s r).slot = s.focus.2 ∧ (firedFiring i o s r).fired = s.now ∧
    (firedFiring i o s r).issued = 1 ∧ (firedFiring i o s r).committed = false := by
  simp [firedFiring]

theorem completes_of_isRule {i : Instr} (hi : i.isRule = true) : Completes i := by
  intro s hmay
  obtain ⟨o, r, -, -, hexec⟩ := exec_rule_fires hi hmay
  exact ⟨_, _, hexec, fired_firings i o s r, firedFiring_kept i o s r⟩

/-- Settles O27. -/
theorem ineligibleRuleFiresNothing : Obligations.IneligibleRuleFiresNothing :=
  fun _ hi => ⟨completes_of_isRule hi, fun _ => exec_rule_idle hi⟩

/-- A rule's meaning fires it, or leaves the state. -/
theorem eq_of_exec_rule {i : Instr} (hi : i.isRule = true) {s t : State} (h : exec i s = .next t) :
    t = s ∨ ∃ o r, t = fired i o s r := by
  by_cases hmay : MayFire i s
  · obtain ⟨o, r, -, -, hexec⟩ := exec_rule_fires hi hmay
    exact .inr ⟨o, r, Host.Outcome.next.inj (h.symm.trans hexec)⟩
  · exact .inl (Host.Outcome.next.inj (h.symm.trans (exec_rule_idle hi hmay)))

/-! Lists -/

theorem modifyAt_eq {α : Type} (f : α → α) (n : Nat) (l : List α) : modifyAt f n l = l.modify n f := by
  induction l generalizing n with
  | nil => simp [modifyAt]
  | cons a l ih => cases n <;> simp [modifyAt, ih]

theorem removeAt_eq {α : Type} (n : Nat) (l : List α) : removeAt n l = l.eraseIdx n := by
  induction l generalizing n with
  | nil => simp [removeAt]
  | cons a l ih => cases n <;> simp [removeAt, ih]

/-- A change of one element that a projection does not see. -/
theorem map_modifyAt {α β : Type} (g : α → β) {f : α → α} (h : ∀ a, g (f a) = g a) (n : Nat) (l : List α) :
    (modifyAt f n l).map g = l.map g := by
  refine List.ext_getElem? fun j => ?_
  rw [modifyAt_eq, List.getElem?_map, List.getElem?_map, List.getElem?_modify]
  cases l[j]? with
  | none => rfl
  | some a => by_cases hj : n = j <;> simp [hj, h]

/-! The frame of a firing (R65, R67, R99) -/

theorem takeFiring_eq (s : State) (x : Brick) (i : Instr) (r : RuleInfo) (f : Firing) :
    let y := takeFiring s x i r f
    y = { x with ctl := y.ctl, pend := y.pend, firings := y.firings, stirred := y.stirred, dpFree := y.dpFree, divFree := y.divFree, inputs := y.inputs } := by
  unfold takeFiring
  split <;> rfl

theorem takeFiring_ctl (s : State) (x : Brick) (i : Instr) (r : RuleInfo) (f : Firing) : (takeFiring s x i r f).ctl = (x.setPass false).ctl := by
  unfold takeFiring
  split <;> rfl

theorem takeFiring_pend (s : State) (x : Brick) (i : Instr) (r : RuleInfo) (f : Firing) :
    (takeFiring s x i r f).pend = x.pend ||| BitVec.ofNat 8 (predWrites i r) := by
  unfold takeFiring
  split <;> rfl

theorem takeFiring_dpFree (s : State) (x : Brick) (i : Instr) (r : RuleInfo) (f : Firing) : (takeFiring s x i r f).dpFree = s.now + r.spacing := by
  unfold takeFiring
  split <;> rfl

/-- An input without its return places. -/
def Input.withoutReturns (q : Input) : Input := { q with ret := 0 }

theorem Brick.modInput_returns (x : Brick) (ch : Nat) (g : Input → Nat) :
    (x.modInput ch fun q => { q with ret := g q }).inputs.map Input.withoutReturns = x.inputs.map Input.withoutReturns :=
  map_modifyAt Input.withoutReturns (f := fun q => { q with ret := g q }) (fun _ => rfl) ch x.inputs

/-- Only return places change in the inputs. -/
theorem takeFiring_inputs (s : State) (x : Brick) (i : Instr) (r : RuleInfo) (f : Firing) :
    (takeFiring s x i r f).inputs.map Input.withoutReturns = x.inputs.map Input.withoutReturns := by
  unfold takeFiring
  split
  case h_1 ch n _ => exact x.modInput_returns ch fun q => q.ret + n * r.beats
  case h_2 => rfl

/-- Settles O29: what `takeFiring` does to the brick in focus. -/
theorem firingFrame : Obligations.FiringFrame := by
  intro i s t hi hexec
  obtain rfl | ⟨o, r, rfl⟩ := eq_of_exec_rule hi hexec
  · exact ⟨rfl, fun _ _ => rfl, rfl, fun _ _ => rfl, fun _ _ => id, rfl, .inl rfl⟩
  · obtain ⟨hinstr, hslot, hfired, hissued, hcommitted⟩ := firedFiring_kept i o s r
    refine ⟨rfl, fun c => fired_brick_other i o s r, ?_⟩
    simp only [fired_brick_eq]
    refine ⟨takeFiring_eq .., fun k hk => ?_, fun p _ hpend => ?_, takeFiring_inputs ..,
      .inr ⟨_, takeFiring_firings .., hinstr, hslot, hfired, hcommitted, hissued⟩⟩
    · obtain ⟨-, hpick, hbken, hstep⟩ := (s.brick s.focus.1).setPass_bits false
      rw [takeFiring_ctl]
      interval_cases k
      · exact hpick
      · exact hbken
      · exact hstep
    · rw [takeFiring_pend, BitVec.getLsbD_or, hpend, Bool.true_or]

/-! A firing of one beat (R63, R69, R72, R75) -/

/-- What a firing of one beat writes back when nothing traps. -/
def firstDue (i : Instr) (o : Beat) (s : State) (r : RuleInfo) : List WriteBack :=
  let f := mkFiring s s.focus.1 s.focus.2 s.focusWord i r
  let out := firstOut i o s r
  resultWriteBack r f.port 0 (s.now + r.latency + 1) out
    (if isBankAtomic i then [] else pmodeWrites r f out (if r.isCompare then out.cmp else out.chain) ++ out.preds) ++ out.wbs

theorem combineCompare_first (pmode : Nat) (chain c : Bool) : combineCompare pmode 0 chain c = c := if_pos rfl

theorem recordBeat_first {i : Instr} {o : Beat} {s : State} {r : RuleInfo} (hbeats : r.beats = 1)
    (hf : (mkFiring s s.focus.1 s.focus.2 s.focusWord i r).trap = none) (ho : (firstOut i o s r).trap = none) :
    let g := recordBeat s.now r (mkFiring s s.focus.1 s.focus.2 s.focusWord i r) (firstOut i o s r)
    g.trap = none ∧ g.effects = (firstOut i o s r).effects ∧ g.sticky = (firstOut i o s r).sticky ∧ g.wbs = firstDue i o s r := by
  obtain ⟨htrap, heffects, hsticky, -, hwbs⟩ := recordBeat_clean (now := s.now) (r := r) hf ho
  refine ⟨htrap, heffects, hsticky.trans (Nat.zero_or _), hwbs.trans ?_⟩
  rw [mkFiring_wbs, mkFiring_issued, mkFiring_instr, combineCompare_first, List.nil_append, firstDue]
  cases isBankAtomic i <;> simp [hbeats]

/-- A serialising firing of R94 ends with its results, or with a write-back of its own. -/
theorem settle_serial (s : State) {f : Firing} (hserial : RuleInfo.isSerial f.instr = true) (hfence : ∀ h x, f.instr ≠ .sysXfence h x) (htrap : f.trap = none) :
    (settle s f).wbs = if f.wbs.isEmpty then [{ due := s.now + 2, beat := 0 }] else f.wbs := by
  cases hi : f.instr with
  | sysWrbsr | sysRdbsr | sysRdts | sysWptr => cases hw : f.wbs <;> simp [settle, hi, hw, htrap]
  | sysXfence h x => exact absurd hi (hfence h x)
  | _ => rw [hi] at hserial; cases hserial

theorem settle_of_trap (s : State) {f : Firing} (htrap : f.trap.isSome = true) : settle s f = f := by
  unfold settle
  split
  case h_5 => rfl
  all_goals exact if_neg (by simp [Option.ne_none_iff_isSome.2 htrap])

/-- Settles O30: beat 0 by `recordBeat`, then `settle`. -/
theorem oneBeatFiring : Obligations.OneBeatFiring := by
  intro i o s r hmay hr hbeats hbeat
  refine ⟨_, _, exec_eq_fired hmay hr hbeat, fired_firings i o s r, ?_⟩
  rw [firedFiring]
  cases htrap : ((mkFiring s s.focus.1 s.focus.2 s.focusWord i r).trap.isSome || (firstOut i o s r).trap.isSome) with
  | true =>
    obtain ⟨hsome, heffects, hwbs, hsticky⟩ := recordBeat_dead (now := s.now) (r := r) htrap (mkFiring_wbs ..) (mkFiring_effects ..)
    rw [settle_of_trap s hsome]
    exact ⟨hsome.trans htrap.symm, fun hnone => absurd hnone (Option.ne_none_iff_isSome.2 hsome), fun _ => ⟨heffects, hwbs, hsticky⟩⟩
  | false =>
    rw [Bool.or_eq_false_iff, Option.isSome_eq_false_iff, Option.isNone_iff_eq_none, Option.isSome_eq_false_iff, Option.isNone_iff_eq_none] at htrap
    obtain ⟨hnone, heffects, hsticky, hwbs⟩ := recordBeat_first hbeats htrap.1 htrap.2
    have hinstr : (recordBeat s.now r (mkFiring s s.focus.1 s.focus.2 s.focusWord i r) (firstOut i o s r)).instr = i := by simp
    simp only [settle_trap, settle_effects, settle_sticky, hnone]
    refine ⟨?_, fun _ => ⟨heffects, hsticky, fun hne => ?_, fun hserial hfence => ?_⟩, fun hsome => absurd hsome (by simp)⟩
    · exact (Bool.or_eq_false_iff.2 ⟨Option.isSome_eq_false_iff.2 (Option.isNone_iff_eq_none.2 htrap.1), Option.isSome_eq_false_iff.2 (Option.isNone_iff_eq_none.2 htrap.2)⟩).symm
    · rw [settle_of_ne s hinstr hne]
      exact hwbs
    · rw [settle_serial s (hinstr.symm ▸ hserial) (hinstr.symm ▸ hfence) hnone, hwbs]
      rfl

end Sys2Proof.Machine

namespace Sys2Proof.Machine

open Sys2Proof

/-! Predicate, control and status-register rules (R80 to R95) -/

theorem mem_onesBelow {w x p : Nat} : p ∈ onesBelow w x ↔ p < w ∧ bit x p = true := by simp [onesBelow]

/-- PSETV writes the predicates of its mask, each with its bit of VAL (R85). -/
theorem mem_psetvBeat_preds {x : PBody} {s : State} {b : BrickId} {f : Firing} {r : RuleInfo} {n p : Nat} {v : Bool} :
    (p, v) ∈ (psetvBeat x s b f r n).preds ↔ p < 8 ∧ x.mask.getLsbD p = true ∧ v = x.val.getLsbD p := by
  simp only [psetvBeat, List.mem_map, mem_onesBelow, bit, BitVec.testBit_toNat, Prod.mk.injEq]
  constructor
  · rintro ⟨q, ⟨hq, hmask⟩, rfl, rfl⟩
    exact ⟨hq, hmask, rfl⟩
  · rintro ⟨hp, hmask, rfl⟩
    exact ⟨p, ⟨hp, hmask⟩, rfl, rfl⟩

/-- Settles O16. -/
theorem predicateRules : Obligations.PredicateRules :=
  fun _ x _ => ⟨computes_of_fireRule rfl fun _ => rfl, ⟨psetvBeat x, computes_of_fireRule rfl fun _ => rfl, fun _ _ _ _ _ _ _ => mem_psetvBeat_preds⟩,
    computes_of_fireRule rfl fun _ => rfl, computes_of_fireRule rfl fun _ => rfl⟩

section
variable {s : State} {b : BrickId} {f : Firing} (x : UBody) (r : RuleInfo) (n : Nat)

/-- BKPT traps while BKEN is set, unless PASS lets the slot of the last trap through (R82, R89). -/
theorem bkptBeat_traps (hbken : (s.brick b).bken = true) (hpass : (s.brick b).pass = false ∨ (s.brick b).tcls.toNat % 16 ≠ f.slot) :
    bkptBeat x s b f r n = { trap := some { cls := 0x02, detail := x.imm7.toNat, beat := n } } := by
  refine if_pos ?_
  obtain hpass | hslot := hpass
  · simp [hbken, hpass]
  · simp [hbken, Brick.trapSlot, hslot]

theorem bkptBeat_disabled (hbken : (s.brick b).bken = false) : bkptBeat x s b f r n = {} := if_neg (by simp [hbken])

theorem bkptBeat_passes (hpass : (s.brick b).pass = true) (hslot : (s.brick b).tcls.toNat % 16 = f.slot) : bkptBeat x s b f r n = {} :=
  if_neg (by simp [hpass, Brick.trapSlot, hslot])

end

/-- Settles O17. -/
theorem controlRules : Obligations.ControlRules :=
  fun _ y => ⟨computes_of_fireRule rfl fun _ => rfl,
    ⟨bkptBeat y, computes_of_fireRule rfl fun _ => rfl, fun _ _ _ r n => ⟨bkptBeat_traps y r n, bkptBeat_disabled y r n, bkptBeat_passes y r n⟩⟩,
    computes_of_fireRule rfl fun _ => rfl, computes_of_fireRule rfl fun _ => rfl⟩

/-- A serialising rule fires on a brick with nothing in flight (R94). -/
theorem MayFire.firings_of_serial {i : Instr} {s : State} (h : MayFire i s) (hserial : RuleInfo.isSerial i = true) : (s.brick s.focus.1).firings = [] := by
  obtain ⟨r, -, hready⟩ := h.slotReady
  exact hready.alone hserial

/-- It is then the one firing in flight. -/
theorem exec_serial {i : Instr} (hi : i.isRule = true) (hserial : RuleInfo.isSerial i = true) {s : State} (h : MayFire i s) :
    ∃ t f, exec i s = .next t ∧ (t.brick s.focus.1).firings = [f] ∧ f.instr = i := by
  obtain ⟨t, f, hexec, hfirings, hinstr, -⟩ := completes_of_isRule hi s h
  rw [h.firings_of_serial hserial, List.nil_append] at hfirings
  exact ⟨t, f, hexec, hfirings, hinstr⟩

/-- A register reads the value of its field, and `bsr.ts` is the program timestamp where nothing is in flight (R80, R271). -/
theorem bsrRead_registers (y : Brick) (now : Nat) :
    bsrRead y now 0x00 = y.fires % 2 ^ 48 ∧ bsrRead y now 0x01 = ((if y.life = .bound then 0 else (now : Int)) - y.cycleBase).toNat % 2 ^ 64 ∧
    bsrRead y now 0x02 = y.pval.toNat ∧ bsrRead y now 0x03 = y.ctl.toNat ∧ bsrRead y now 0x04 = y.tcls.toNat ∧
    bsrRead y now 0x05 = y.tfire % 2 ^ 48 ∧ (∀ k, k < 4 → bsrRead y now (6 + k) = (y.thead.getD k 0).toNat) ∧
    bsrRead y now 0x0A = y.tword.toNat ∧ bsrRead y now 0x0B = y.tval.toNat ∧ bsrRead y now 0x0C = y.sticky.toNat ∧
    bsrRead y now 0x0D = y.fmode.toNat ∧ bsrRead y now 0x0E = y.round ∧ bsrRead y now 0x0F = y.overBsr.toNat ∧
    bsrRead y now 0x10 = y.ts ∧ (y.firings = [] → y.ts = y.pts) := by
  refine ⟨rfl, rfl, rfl, rfl, rfl, rfl, fun k hk => ?_, rfl, rfl, rfl, rfl, rfl, rfl, rfl, fun hnone => ?_⟩
  · interval_cases k <;> rfl
  · rw [Brick.ts, hnone]
    rfl

/-- WRBSR writes BKEN alone of `bsr.ctl`, and clears the sticky bits written as one (R82, R95). -/
theorem bsrWrite_registers (y : Brick) (v : Nat) :
    (∀ k, k < 4 → (bsrWrite y 0x03 v).ctl.getLsbD k = if k = 1 then bit v 1 else y.ctl.getLsbD k) ∧
    (∀ k, k < 9 → (bsrWrite y 0x0C v).sticky.getLsbD k = (y.sticky.getLsbD k && !bit v k)) ∧
    bsrWrite y 0x0D v = { y with fmode := BitVec.ofNat 3 v } := by
  refine ⟨fun k hk => ?_, fun k hk => ?_, rfl⟩
  · obtain ⟨hbken, hpick, hstep, hpass⟩ := y.setBken_bits (bit v 1)
    interval_cases k
    · exact hpick
    · exact hbken
    · exact hstep
    · exact hpass
  · show (y.sticky &&& ~~~(BitVec.ofNat 9 v)).getLsbD k = _
    rw [BitVec.getLsbD_and, BitVec.getLsbD_not, BitVec.getLsbD_ofNat]
    simp only [hk, decide_true, Bool.true_and, bit]

/-- Settles O18. -/
theorem statusRegisterRules : Obligations.StatusRegisterRules := by
  refine ⟨fun h x => ⟨computes_of_fireRule rfl fun _ => rfl, computes_of_fireRule rfl fun _ => rfl, computes_of_fireRule rfl fun _ => rfl, ?_,
    fun s => ⟨exec_serial rfl rfl, exec_serial rfl rfl, exec_serial rfl rfl⟩⟩, bsrRead_registers, bsrWrite_registers⟩
  rintro s (hmay | hmay | hmay) <;> exact hmay.firings_of_serial rfl

/-! The picker (R66) -/

theorem Decoded.toInstr_eq_some {d : Decoded} {i : Instr} : d.toInstr = some i ↔ d = .instr i := by
  cases d <;> simp [Decoded.toInstr]

/-- What the picker finds in slot `k`: its instruction, where that is eligible. -/
def slotPick (s : State) (b : BrickId) (k : Nat) : Option (Nat × Instr) :=
  (slotInstr s b k).bind fun i => if eligible s b k ((s.brick b).pool.getD k 0) i then some (k, i) else none

theorem pickSlot_eq (s : State) (b : BrickId) :
    pickSlot s b = if pickerRuns s.now (s.brick b) then (List.range 16).findSome? (slotPick s b) else none := by
  unfold pickSlot
  congr 2
  funext k
  unfold slotPick
  cases slotInstr s b k <;> rfl

/-- Slot `k` holds the rule `i`, and it is eligible. -/
def SlotFires (s : State) (b : BrickId) (k : Nat) (i : Instr) : Prop :=
  decode (BrickId.isEdge b) ((s.brick b).pool.getD k 0) = .instr i ∧ eligible s b k ((s.brick b).pool.getD k 0) i = true

theorem slotPick_eq_some {s : State} {b : BrickId} {k : Nat} {i : Instr} (h : SlotFires s b k i) : slotPick s b k = some (k, i) := by
  obtain ⟨hdecode, heligible⟩ := h
  have hinstr : slotInstr s b k = some i := Decoded.toInstr_eq_some.2 hdecode
  rw [slotPick, hinstr]
  exact if_pos heligible

theorem slotPick_eq_none {s : State} {b : BrickId} {k : Nat} (h : ∀ i, ¬ SlotFires s b k i) : slotPick s b k = none := by
  cases hinstr : slotInstr s b k with
  | none => rw [slotPick, hinstr]; rfl
  | some i =>
    rw [slotPick, hinstr]
    exact if_neg fun heligible => h i ⟨Decoded.toInstr_eq_some.1 hinstr, heligible⟩

/-- The first of a range at which a function answers. -/
theorem findSome?_range {α : Type} {f : Nat → Option α} {n k : Nat} {a : α} (hk : k < n) (h : f k = some a) (hbefore : ∀ j, j < k → f j = none) :
    (List.range n).findSome? f = some a := by
  induction n with
  | zero => omega
  | succ n ih =>
    rw [List.range_succ, List.findSome?_append]
    obtain hlt | rfl := Nat.lt_succ_iff_lt_or_eq.1 hk
    · rw [ih hlt]
      rfl
    · have hnone : (List.range k).findSome? f = none := List.findSome?_eq_none_iff.2 fun j hj => hbefore j (List.mem_range.1 hj)
      simp [hnone, h]

section
variable {s : State} {b : BrickId}

theorem pickSlot_lowest {k : Nat} {i : Instr} (hruns : pickerRuns s.now (s.brick b) = true) (hk : k < 16) (hfires : SlotFires s b k i)
    (hlower : ∀ j, j < k → ∀ i', ¬ SlotFires s b j i') : pickSlot s b = some (k, i) := by
  rw [pickSlot_eq, if_pos hruns]
  exact findSome?_range hk (slotPick_eq_some hfires) fun j hj => slotPick_eq_none (hlower j hj)

theorem pickSlot_of_none (hnone : ∀ k, k < 16 → ∀ i, ¬ SlotFires s b k i) : pickSlot s b = none := by
  rw [pickSlot_eq]
  split
  · exact List.findSome?_eq_none_iff.2 fun k hk => slotPick_eq_none (hnone k (List.mem_range.1 hk))
  · rfl

theorem pickSlot_isSome {k : Nat} {i : Instr} (hruns : pickerRuns s.now (s.brick b) = true) (hk : k < 16) (hfires : SlotFires s b k i) :
    (pickSlot s b).isSome = true := by
  rw [pickSlot_eq, if_pos hruns, List.findSome?_isSome_iff]
  exact ⟨k, List.mem_range.2 hk, by rw [slotPick_eq_some hfires]; rfl⟩

theorem pickSlot_of_not_runs (hruns : pickerRuns s.now (s.brick b) = false) : pickSlot s b = none := by
  rw [pickSlot_eq, hruns]
  rfl

end

theorem step_pick {s : State} {b : BrickId} {rest : List Move} (h : s.agenda = .pick b :: rest) {k : Nat} {i : Instr}
    (hpicked : ({ s with agenda := rest } : State).picked b = some (k, i)) : step s = exec i { s with agenda := rest, focus := (b, k) } := by
  simp only [step, h, hpicked]

theorem step_pick_none {s : State} {b : BrickId} {rest : List Move} (h : s.agenda = .pick b :: rest)
    (hpicked : ({ s with agenda := rest } : State).picked b = none) : step s = .next { s with agenda := rest } := by
  simp only [step, h, hpicked]

/-- The picker looks at its pool once the brick's steps and arrivals of the cycle are done. -/
theorem State.picked_ready {s : State} {b : BrickId} (hdue : s.brickDue b = false) (harriving : s.arriving b = false) : s.picked b = pickSlot s b :=
  if_neg (by simp [hdue, harriving])

theorem State.picked_none {s : State} {b : BrickId} (h : s.brickDue b = true ∨ s.arriving b = true ∨ pickerRuns s.now (s.brick b) = false) :
    s.picked b = none := by
  unfold State.picked
  obtain hdue | harriving | hruns := h
  · simp [hdue]
  · simp [harriving]
  · rw [pickSlot_of_not_runs hruns, ite_self]

/-- A brick whose picker runs is listed: one that nothing has touched since boot has PICK clear. -/
theorem brick_listed {s : State} {b : BrickId} (h : (s.brick b).pick = true) : ∃ e ∈ s.bricks, e.1 = b.toNat := by
  cases hget : s.bricks.get? b.toNat with
  | some x => exact ⟨_, Table.get?_mem hget, rfl⟩
  | none =>
    have hblank : s.brick b = s.blank b := by rw [State.brick, Table.getD, hget]; rfl
    rw [hblank, State.blank] at h
    split at h <;> cases h

theorem pick_of_pickerRuns {now : Nat} {x : Brick} (h : pickerRuns now x = true) : x.pick = true := by
  by_contra hp
  simp [pickerRuns, hp] at h

theorem State.advance_of_due {s : State} (h : s.due = true) : s.advance = s := if_pos h

/-- The clock waits while a slot is eligible. -/
theorem State.due_of_pickSlot {s : State} {b : BrickId} (hruns : pickerRuns s.now (s.brick b) = true) (hpick : (pickSlot s b).isSome = true) : s.due = true := by
  obtain ⟨e, he, hkey⟩ := brick_listed (pick_of_pickerRuns hruns)
  have hbricks : (s.bricks.any fun e => s.brickDue (BitVec.ofNat 14 e.1) || (pickSlot s (BitVec.ofNat 14 e.1)).isSome) = true :=
    List.any_eq_true.2 ⟨e, he, by rw [hkey, BitVec.ofNat_toNat, BitVec.setWidth_eq, hpick, Bool.or_true]⟩
  rw [State.due]
  simp only [hbricks, Bool.true_or]

theorem RuleInfo.spacing_pos (r : RuleInfo) : 0 < r.spacing := by
  unfold RuleInfo.spacing
  split <;> decide

/-- The beat of a firing takes the datapath, so nothing more fires in its cycle (R66, R70). -/
theorem not_slotFires_fired (i : Instr) (o : Beat) (s : State) (r : RuleInfo) (k : Nat) (j : Instr) : ¬ SlotFires (fired i o s r) s.focus.1 k j := by
  rintro ⟨-, heligible⟩
  cases hj : ruleInfo j with
  | none => simp [eligible, hj] at heligible
  | some q =>
    have hfree : ((fired i o s r).brick s.focus.1).dpFree ≤ s.now := (SlotReady.of_eligible hj heligible).datapath
    rw [fired_brick_eq, takeFiring_dpFree] at hfree
    have := r.spacing_pos
    omega

/-- Settles O37. -/
theorem stepFiresLowestEligibleSlot : Obligations.StepFiresLowestEligibleSlot := by
  refine ⟨fun s b rest hagenda => ⟨fun hdue harriving hruns => ?_, fun hbusy => ?_⟩, fun s b k i rest hagenda hk hruns hdecode heligible => ?_,
    fun i s t hmay hexec => ?_⟩
  · have hpicked : ({ s with agenda := rest } : State).picked b = _ := State.picked_ready hdue harriving
    exact ⟨fun k i hk hfires hlower => step_pick hagenda (hpicked.trans (pickSlot_lowest hruns hk hfires hlower)),
      fun hnone => step_pick_none hagenda (hpicked.trans (pickSlot_of_none hnone))⟩
  · exact step_pick_none hagenda (State.picked_none hbusy)
  · have hdue := State.due_of_pickSlot (s := { s with agenda := rest }) hruns (pickSlot_isSome hruns hk ⟨hdecode, heligible⟩)
    rw [step_tick hagenda, State.advance_of_due hdue]
  · obtain ⟨r, hr, -⟩ := hmay.slotReady
    obtain ⟨o, r, -, -, hfired⟩ := exec_rule_fires (Instr.isRule_of_ruleInfo hr) hmay
    cases hexec.symm.trans hfired
    exact ⟨rfl, pickSlot_of_none fun k _ j => not_slotFires_fired i o s r k j⟩

end Sys2Proof.Machine

namespace Sys2Proof.Machine

open Sys2Proof

/-! A commit (R75, R76) -/

/-- A dock rule alone waits for its trap point to be decided (R331). -/
theorem State.decided_of_not_late (s : State) (b : BrickId) {f : Firing} (h : judgedLate f.instr = false) : s.decided b f = f := by
  unfold State.decided
  rw [h]

/-- The oldest firing takes its trap, or commits, at its trap point. -/
theorem exec_firingCommit {s : State} {b : BrickId} {k : Nat} {f : Firing} (holdest : (s.brick b).oldest = some k) (hk : (s.brick b).firings[k]? = some f)
    (htrap : f.trap = none) (hpoint : f.pastPoint s.now = true) (hcycle : f.fired + commitDelay f.instr < s.now) (hfence : s.fenceReady b f = true) :
    exec (.firingCommit b) s =
      .next (if (s.decided b f).trap.isSome then s.modFiring b k fun _ => s.decided b f else s.commit b k (s.decided b f)) := by
  show execFiringCommit b s = _
  simp only [execFiringCommit, holdest, hk]
  exact stepWhen_true (by simp [Firing.ripe, htrap, hpoint, hcycle, hfence])

/-- The entries that a firing takes. -/
def Brick.gone (x : Brick) (f : Firing) : List Token := (List.range 4).flatMap fun ch => (x.input ch).queue.take (f.take.getD ch 0)

/-- An input after the commit: its first entries are gone, and its sink has counted them. -/
def Firing.takenFrom (f : Firing) (p : Input × Nat) : Input :=
  { p.1 with
    queue := p.1.queue.drop (f.take.getD p.2 0)
    sink := p.1.sink.map (·.add ((p.1.queue.take (f.take.getD p.2 0)).filter fun t => t.tag = .eos).length) }

/-- What a commit does to its brick before its effects; STEP may clear PICK (R82), and a dock rule or one of the bank wakes the picker (R90). -/
theorem Brick.commitFiring_eq (x : Brick) (k : Nat) (f : Firing) :
    let y := x.commitFiring k f
    y = { x with
      inputs := x.inputs.zipIdx.map f.takenFrom
      fires := (x.fires + 1) % 2 ^ 48
      pts := max x.pts f.carry
      sticky := x.sticky ||| BitVec.ofNat 9 f.sticky
      seen := noteSeen x.seen (x.gone f)
      sent := x.sent + (x.gone f).length
      rcvd := x.rcvd + (x.gone f).length
      firings := modifyAt (fun _ => { f with committed := true, effects := [], sticky := 0 }) k x.firings
      ctl := y.ctl, picked := y.picked, idle := y.idle, stirred := y.stirred } := by
  simp only [Brick.commitFiring]
  split <;> split <;> rfl

theorem Brick.commitFiring_pick {x : Brick} (k : Nat) (f : Firing) (hstep : x.stepMode = true) : (x.commitFiring k f).pick = false := by
  have hpick (y : Brick) : y.haltPick.pick = false := (y.setPick_bits false).1
  simp only [Brick.commitFiring]
  split
  all_goals
    split
    next => exact hpick _
    next hno => exact absurd hstep hno

theorem Brick.gone_length (x : Brick) (f : Firing) :
    (x.gone f).length = ((List.range 4).map fun ch => ((x.input ch).queue.take (f.take.getD ch 0)).length).sum := List.length_flatMap

/-- The queue of a channel after the commit. -/
theorem Brick.takenFrom_queue (x : Brick) (f : Firing) {ch : Nat} (hch : ch < x.inputs.length) :
    ((x.inputs.zipIdx.map f.takenFrom).getD ch {}).queue = (x.input ch).queue.drop (f.take.getD ch 0) := by
  simp [Brick.input, List.getD_eq_getElem?_getD, List.getElem?_zipIdx, List.getElem?_eq_getElem hch, Firing.takenFrom]

/-- Settles O31: the commit by its cases, and the brick by `Brick.commitFiring_eq`. -/
theorem firingCommits : Obligations.FiringCommits := by
  refine ⟨fun s b k f holdest hk htrap hpoint hcycle hfence => ?_, fun x k f => ?_⟩
  · have hexec := exec_firingCommit holdest hk htrap hpoint hcycle hfence
    exact ⟨s.decided_of_not_late b, fun hsome => hexec.trans (congrArg _ (if_pos hsome)), fun hnone => hexec.trans (congrArg _ (if_neg (by simp [hnone])))⟩
  · have hy := x.commitFiring_eq k f
    refine ⟨congrArg Brick.fires hy, congrArg Brick.sticky hy, congrArg Brick.pts hy, Brick.commitFiring_pick k f, (congrArg Brick.slices hy :),
      (congrArg Brick.pval hy :), (congrArg Brick.pend hy :), (congrArg Brick.bank hy :), (congrArg Brick.outs hy :),
      x.gone_length f ▸ congrArg Brick.sent hy, x.gone_length f ▸ congrArg Brick.rcvd hy, fun hlen ch hch => ?_, fun j hj => ?_⟩
    · exact (congrArg (fun y => (Brick.input y ch).queue) hy).trans (x.takenFrom_queue f (hlen.symm ▸ hch))
    · have hfirings := congrArg Brick.firings hy
      dsimp only at hfirings
      rw [hfirings, modifyAt_eq, List.getElem?_modify_ne _ _ (Ne.symm hj)]

end Sys2Proof.Machine

namespace Sys2Proof.Machine

open Sys2Proof

/-! A bit of an 8-bit set, and predicate writes (R62, R73) -/

theorem setBit8_getLsbD (v : BitVec 8) (i : Nat) (c : Bool) {j : Nat} (hj : j < 8) : (setBit8 v i c).getLsbD j = if i = j then c else v.getLsbD j := by
  have hmask : (BitVec.ofNat 8 (1 <<< i)).getLsbD j = decide (i = j) := by
    rw [BitVec.getLsbD_ofNat, Nat.one_shiftLeft, Nat.testBit_two_pow, decide_eq_true hj, Bool.true_and]
  cases c
  · rw [setBit8, if_neg Bool.false_ne_true, BitVec.getLsbD_and, BitVec.getLsbD_not, hmask]
    by_cases hi : i = j <;> simp [hi, hj]
  · rw [setBit8, if_pos rfl, BitVec.getLsbD_or, hmask]
    by_cases hi : i = j <;> simp [hi]

theorem Brick.writePreds_single (x : Brick) {p : Nat} (v : Bool) (hp : p < 8) :
    (x.writePreds [(p, v)]).pred p = v ∧ (x.writePreds [(p, v)]).pending p = false ∧
    ∀ q, q < 8 → q ≠ p → (x.writePreds [(p, v)]).pred q = x.pred q ∧ (x.writePreds [(p, v)]).pending q = x.pending q := by
  have hpred (q : Nat) (hq : q < 8) : (x.writePreds [(p, v)]).pred q = if p = q then v else x.pred q := setBit8_getLsbD _ _ _ hq
  have hpending (q : Nat) (hq : q < 8) : (x.writePreds [(p, v)]).pending q = if p = q then false else x.pending q := setBit8_getLsbD _ _ _ hq
  refine ⟨(hpred p hp).trans (if_pos rfl), (hpending p hp).trans (if_pos rfl), fun q hq hne => ⟨?_, ?_⟩⟩
  · rw [hpred q hq, if_neg (Ne.symm hne)]
  · rw [hpending q hq, if_neg (Ne.symm hne)]

/-! Watches that come to their count (R73, R263) -/

/-- The watch has its count and its predicate is not pending. -/
def Watch.due (w : Watch) (x : Brick) : Bool := !w.fired && w.target ≤ w.seen && !x.pending w.pred

/-- A watch writes its predicate. -/
def Brick.fireWatch (x : Brick) (ch : Nat) (w : Watch) : Brick :=
  { (x.modInput ch fun i => { i with watch := some { w with fired := true } }).wake with
    pval := setBit8 x.pval w.pred true
    predTs := modifyAt (fun _ => w.ts) w.pred x.predTs }

/-- The watch of one channel, if it is due. -/
def Brick.settleWatch (x : Brick) (ch : Nat) : Brick := (x.input ch).watch.elim x fun w => if w.due x then x.fireWatch ch w else x

theorem Brick.settleWatches_eq (x : Brick) : x.settleWatches = (List.range 4).foldl Brick.settleWatch x := by
  have hstep (x : Brick) (ch : Nat) : x.settleWatch ch = match (x.input ch).watch with
      | some w => if w.due x then x.fireWatch ch w else x
      | none => x := by
    unfold Brick.settleWatch
    cases (x.input ch).watch <;> rfl
  simp only [funext fun x => funext (hstep x)]
  rfl

theorem Brick.settleWatch_of_not_due {x : Brick} {ch : Nat} (h : ∀ w, (x.input ch).watch = some w → w.due x = false) : x.settleWatch ch = x := by
  unfold Brick.settleWatch
  cases hw : (x.input ch).watch with
  | none => rfl
  | some w => exact if_neg (by simp [h w hw])

theorem Brick.settleWatches_of_not_due {x : Brick} (h : ∀ ch w, ch < 4 → (x.input ch).watch = some w → w.due x = false) : x.settleWatches = x := by
  have hch (ch : Nat) (hlt : ch < 4) : x.settleWatch ch = x := Brick.settleWatch_of_not_due fun w => h ch w hlt
  rw [Brick.settleWatches_eq]
  show (((x.settleWatch 0).settleWatch 1).settleWatch 2).settleWatch 3 = x
  simp only [hch, Nat.reduceLT]

/-! What predicate writes and watches touch -/

/-- What every step of a fold changes alone, the fold changes alone; `u x y` is `x` with those fields of `y`. -/
theorem foldl_changes {α β : Type} {f : β → α → β} (u : β → β → β) (hself : ∀ x, u x x = x) (htrans : ∀ x y z, u (u x y) z = u x z)
    (hf : ∀ x a, f x a = u x (f x a)) (l : List α) (x : β) : l.foldl f x = u x (l.foldl f x) := by
  induction l generalizing x with
  | nil => exact (hself x).symm
  | cons a l ih =>
    calc l.foldl f (f x a) = u (f x a) (l.foldl f (f x a)) := ih _
      _ = u (u x (f x a)) (l.foldl f (f x a)) := congrArg (u · _) (hf x a)
      _ = u x (l.foldl f (f x a)) := htrans ..

/-- `x` with what predicate writes and watches change, taken from `y`. -/
def Brick.withPredsOf (x y : Brick) : Brick :=
  { x with pval := y.pval, pend := y.pend, predTs := y.predTs, inputs := y.inputs, idle := y.idle, stirred := y.stirred }

theorem Brick.writePreds_eq (x : Brick) (ws : List (Nat × Bool)) : x.writePreds ws = x.withPredsOf (x.writePreds ws) :=
  foldl_changes Brick.withPredsOf (fun _ => rfl) (fun _ _ _ => rfl) (fun _ _ => rfl) ws x

theorem Brick.settleWatch_eq (x : Brick) (ch : Nat) : x.settleWatch ch = x.withPredsOf (x.settleWatch ch) := by
  unfold Brick.settleWatch
  cases (x.input ch).watch with
  | none => rfl
  | some w =>
    dsimp only [Option.elim]
    split <;> rfl

theorem Brick.settleWatches_changes (x : Brick) : x.settleWatches = x.withPredsOf x.settleWatches := by
  rw [Brick.settleWatches_eq]
  exact foldl_changes Brick.withPredsOf (fun _ => rfl) (fun _ _ _ => rfl) Brick.settleWatch_eq _ x

/-- `x` with slices, ports and firings that predicate writes and watches do not look at. -/
def Brick.withData (x : Brick) (slices : BitVec 448) (outs : List Port) (firings : List Firing) : Brick := { x with slices, outs, firings }

section
variable (x : Brick) (slices : BitVec 448) (outs : List Port) (firings : List Firing)

theorem Brick.writePreds_withData (ws : List (Nat × Bool)) :
    (x.withData slices outs firings).writePreds ws = (x.writePreds ws).withData slices outs firings :=
  List.foldl_hom (Brick.withData · slices outs firings) fun _ _ => rfl

theorem Brick.settleWatch_withData (ch : Nat) :
    (x.withData slices outs firings).settleWatch ch = (x.settleWatch ch).withData slices outs firings := by
  have hwatch : ((x.withData slices outs firings).input ch).watch = (x.input ch).watch := rfl
  unfold Brick.settleWatch
  rw [hwatch]
  cases (x.input ch).watch with
  | none => rfl
  | some w =>
    have hdue : w.due (x.withData slices outs firings) = w.due x := rfl
    dsimp only [Option.elim]
    rw [hdue]
    split <;> rfl

theorem Brick.settleWatches_withData : (x.withData slices outs firings).settleWatches = x.settleWatches.withData slices outs firings := by
  rw [Brick.settleWatches_eq, Brick.settleWatches_eq]
  exact List.foldl_hom (Brick.withData · slices outs firings) fun y ch => y.settleWatch_withData slices outs firings ch

end

/-! A write-back (R69, R72, R73, R175) -/

/-- The slices after a write-back. -/
def WriteBack.slicesAfter (w : WriteBack) (x : Brick) : BitVec 448 := w.lo.elim x.slices fun p => writeSlices x.slices p.1 p.2.1 p.2.2
/-- The ports after it. -/
def WriteBack.outsAfter (w : WriteBack) (x : Brick) : List Port := w.port.elim x.outs fun p => (x.modOut p.1 fun q => q.push p.2).outs
/-- The tokens of its firing that enter the firing's port. -/
def WriteBack.enters (w : WriteBack) (f : Firing) : Nat := w.port.elim 0 fun q => if f.port = some q.1 then 1 else 0
/-- Its firing afterwards. -/
def WriteBack.takenFrom (w : WriteBack) (j : Nat) (f : Firing) : Firing := { f with wbs := removeAt j f.wbs, entered := f.entered + w.enters f }

/-- A brick with the weep mark and the notes of R90 taken from another. -/
def Brick.withNotesOf (x y : Brick) : Brick := { x with weep := y.weep, idle := y.idle, stirred := y.stirred }

theorem modifyAt_modifyAt {α : Type} (f g : α → α) (n : Nat) (l : List α) : modifyAt g n (modifyAt f n l) = modifyAt (g ∘ f) n l := by
  simp only [modifyAt_eq, List.modify_modify_eq]

/-- The write-back but for the mark of a weep that is done and the note of an event. -/
def Brick.writtenBack (x : Brick) (k j : Nat) (w : WriteBack) : Brick :=
  ((x.writePreds w.preds).settleWatches).withData (w.slicesAfter x) (w.outsAfter x) ((modifyAt (w.takenFrom j) k x.firings).filter fun f => !f.finished)

/-- Slices, ports and firings that predicate writes and watches do not look at go on through them. -/
theorem Brick.settled_withData (x : Brick) (slices : BitVec 448) (outs : List Port) (firings : List Firing) (ps : List (Nat × Bool)) (k : Nat)
    (g : Firing → Firing) :
    (((x.withData slices outs firings).writePreds ps).modFiring k g).settleWatches.dropFinished =
      (x.writePreds ps).settleWatches.withData slices outs ((modifyAt g k firings).filter fun f => !f.finished) := by
  rw [Brick.writePreds_withData]
  exact congrArg Brick.dropFinished (Brick.settleWatches_withData (x.writePreds ps) slices outs (modifyAt g k firings))

/-- The slices and the port of a write-back. -/
theorem Brick.portWritten (x : Brick) (k : Nat) (w : WriteBack) (slices : BitVec 448) :
    (match w.port with
      | some (p, o) => (({ x with slices } : Brick).modOut p fun q => q.push o).modFiring k fun f =>
          if f.port = some p then { f with entered := f.entered + 1 } else f
      | none => { x with slices }) =
    x.withData slices (w.outsAfter x) (modifyAt (fun f => { f with entered := f.entered + w.enters f }) k x.firings) := by
  unfold WriteBack.outsAfter WriteBack.enters
  cases w.port with
  | none =>
    have hsame : modifyAt (fun f : Firing => { f with entered := f.entered + 0 }) k x.firings = x.firings := by
      rw [modifyAt_eq]
      exact List.modify_id k x.firings
    exact congrArg (x.withData slices x.outs) hsame.symm
  | some p =>
    obtain ⟨p, o⟩ := p
    have hentered : (fun f : Firing => if f.port = some p then { f with entered := f.entered + 1 } else f) =
        fun f => { f with entered := f.entered + if f.port = some p then 1 else 0 } := by
      funext f
      split <;> rfl
    exact congrArg (fun g => x.withData slices (x.modOut p fun q => q.push o).outs (modifyAt g k x.firings)) hentered

/-- The write-back, and then a weep that it ends and the event that it is. -/
theorem Brick.writeBack_eq (x : Brick) (k j : Nat) (w : WriteBack) :
    x.writeBack k j w = if x.stirs k w || x.roomier (x.writtenBack k j w).settleWeep then (x.writtenBack k j w).settleWeep.wake
      else (x.writtenBack k j w).settleWeep := by
  have hwritten : (((x.withData (w.slicesAfter x) (w.outsAfter x) (modifyAt (fun f => { f with entered := f.entered + w.enters f }) k x.firings)).writePreds
      w.preds).modFiring k fun f => { f with wbs := removeAt j f.wbs }).settleWatches.dropFinished = x.writtenBack k j w := by
    rw [Brick.settled_withData, modifyAt_modifyAt]
    rfl
  have hslices : (match w.lo with
      | some (lo, n, v) => { x with slices := writeSlices x.slices lo n v }
      | none => x) = { x with slices := w.slicesAfter x } := by
    unfold WriteBack.slicesAfter
    cases w.lo <;> rfl
  have hport := x.portWritten k w (w.slicesAfter x)
  rw [← hwritten, ← hport, ← hslices]
  rfl

theorem Brick.settleWeep_eq (x : Brick) : x.settleWeep = { x with weep := x.settleWeep.weep } := by
  unfold Brick.settleWeep
  split <;> rfl

theorem Brick.writeBack_changes (x : Brick) (k j : Nat) (w : WriteBack) : x.writeBack k j w = (x.writtenBack k j w).withNotesOf (x.writeBack k j w) := by
  rw [Brick.writeBack_eq, Brick.settleWeep_eq]
  split <;> rfl

/-- `x` with all that a write-back changes, taken from `y`. -/
def Brick.withWriteOf (x y : Brick) : Brick :=
  { x with
    slices := y.slices, outs := y.outs, pval := y.pval, pend := y.pend, predTs := y.predTs, inputs := y.inputs, firings := y.firings
    weep := y.weep, idle := y.idle, stirred := y.stirred }

theorem Brick.writeBack_frame (x : Brick) (k j : Nat) (w : WriteBack) : x.writeBack k j w = x.withWriteOf (x.writeBack k j w) := by
  have hpreds : (x.writePreds w.preds).settleWatches = x.withPredsOf (x.writePreds w.preds).settleWatches := by
    rw [Brick.settleWatches_changes, Brick.writePreds_eq]
    rfl
  have hwritten : x.writtenBack k j w = x.withWriteOf (x.writtenBack k j w) := by
    rw [Brick.writtenBack, hpreds]
    rfl
  calc x.writeBack k j w = (x.writtenBack k j w).withNotesOf (x.writeBack k j w) := x.writeBack_changes k j w
    _ = x.withWriteOf ((x.writtenBack k j w).withNotesOf (x.writeBack k j w)) := by rw [hwritten]; rfl
    _ = x.withWriteOf (x.writeBack k j w) := congrArg x.withWriteOf (x.writeBack_changes k j w).symm

theorem exec_beatWriteBack {s : State} {b : BrickId} {k j : Nat} {w : WriteBack} (h : (s.brick b).nextWriteBack s.now k = some (j, w)) :
    exec (.beatWriteBack b k) s = .next (s.setBrick b ((s.brick b).writeBack k j w)) := by
  show execBeatWriteBack b k s = _
  simp only [execBeatWriteBack, h]

theorem Port.push_connected (q : Port) (o : Out) :
    (q.connected = true → (q.push o).skid = q.skid ++ [{ tok := o.token q.count, todo := List.range q.route.length }]) ∧
    (q.connected = false → (q.push o).skid = q.skid) ∧ q.push o = { q with count := (q.push o).count, skid := (q.push o).skid } :=
  ⟨fun h => if_pos h, fun h => if_neg (by simp [h]), rfl⟩

/-- Settles O33, by `Brick.writeBack_changes` and what a write-back leaves of each part. -/
theorem beatWritesBack : Obligations.BeatWritesBack := by
  refine ⟨fun s b k j w => exec_beatWriteBack, fun x k j w => ?_, Port.push_connected, fun x p v => x.writePreds_single v, fun x hwatch => ?_⟩
  · have hy := x.writeBack_changes k j w
    intro y z
    have hslices : y.slices = w.slicesAfter x := (congrArg Brick.slices hy :)
    have houts : y.outs = w.outsAfter x := (congrArg Brick.outs hy :)
    refine ⟨fun hlo => ?_, fun lo n v hlo hpos hle => ?_, fun hport => ?_, fun p o hport => ?_, (congrArg Brick.pval hy :), (congrArg Brick.pend hy :),
      (congrArg Brick.predTs hy :), (congrArg Brick.inputs hy :), ?_, ?_⟩
    · rw [hslices, WriteBack.slicesAfter, hlo]
      rfl
    · have hwritten : y.slices = writeSlices x.slices lo n v := by
        rw [hslices, WriteBack.slicesAfter, hlo]
        rfl
      rw [hwritten]
      exact ⟨readSlices_writeSlices_same _ _ _ _ hpos hle, fun m => readSlices_writeSlices_other _ _ _ _ m⟩
    · rw [houts, WriteBack.outsAfter, hport]
      rfl
    · rw [houts, WriteBack.outsAfter, hport]
      rfl
    · have hfirings : y.firings = (modifyAt (w.takenFrom j) k x.firings).filter fun f => !f.finished := (congrArg Brick.firings hy :)
      rw [hfirings]
      congr 2
      funext f
      unfold WriteBack.takenFrom WriteBack.enters
      cases w.port <;> rfl
    · exact x.writeBack_frame k j w
  · refine Brick.settleWatches_of_not_due fun ch w hch hw => ?_
    obtain hfired | hseen | hpend := hwatch ch w hch hw
    · simp [Watch.due, hfired]
    · simp [Watch.due, Nat.not_le.2 hseen]
    · simp [Watch.due, hpend]

end Sys2Proof.Machine

namespace Sys2Proof.Machine

open Sys2Proof

/-! A later beat (R70, R77, R103) -/

/-- The first trap of a firing is its trap, and nothing that it held is left (R77). -/
theorem recordBeat_traps (now : Nat) (r : RuleInfo) {f : Firing} {o : BeatOut} {t : Trap} (hf : f.trap = none) (ho : o.trap = some t) :
    (recordBeat now r f o).trap = some { t with beat := f.issued } ∧ (recordBeat now r f o).wbs = [] ∧ (recordBeat now r f o).effects = [] := by
  unfold recordBeat
  simp [hf, ho]

/-- A firing that has trapped issues on with no further effect (R77). -/
theorem recordBeat_trapped (now : Nat) (r : RuleInfo) {f : Firing} (o : BeatOut) {t : Trap} (hf : f.trap = some t) :
    (recordBeat now r f o).trap = some t ∧ (recordBeat now r f o).wbs = f.wbs ∧ (recordBeat now r f o).effects = f.effects := by
  unfold recordBeat
  simp [hf]

section
variable {s : State} {b : BrickId} {k : Nat} {f : Firing} {r : RuleInfo} {o : Beat}

/-- What BEAT_ISSUE adds to the firing, its range grown by the beat's words. -/
def beatIssued (s : State) (b : BrickId) (f : Firing) (r : RuleInfo) (o : Beat) : Firing := issueBeat o s b r (f.cover (f.beatSpan s b r f.issued))

/-- The brick after a beat: the firing with it, and the datapath taken (R70, R149); the last beat is an event of R90. -/
def Brick.afterBeat (x : Brick) (now k : Nat) (r : RuleInfo) (g : Firing) : Brick :=
  let y : Brick := { x.modFiring k (fun _ => if g.committed then { g with effects := [], sticky := 0 } else g) with
    dpFree := now + r.spacing, divFree := if r.usesDivider then now + r.spacing else x.divFree }
  if g.issued = r.beats then y.wake else y

theorem exec_beatIssue (hfirst : (s.brick b).firings.findIdx? Firing.unissued = some k) (hk : (s.brick b).firings[k]? = some f)
    (hr : ruleInfo f.instr = some r) (ho : beatOf f.instr = some o) (hready : beatReady s (s.brick b) r f = true)
    (hspan : (s.brick b).spanFree s.now k f (f.beatSpan s b r f.issued) = true) :
    let g := beatIssued s b f r o
    let u := s.setBrick b ((s.brick b).afterBeat s.now k r g)
    exec (.beatIssue b) s = .next ((if g.committed then g.effects.foldl (fun t e => t.applyEffect b k (s.now - 1) e) u else u).modBrick b Brick.dropFinished) := by
  show execBeatIssue b s = _
  simp only [execBeatIssue, hfirst, hk, hr, ho]
  exact stepWhen_true (by simp [hready, hspan])

end

/-- Settles O34: the step by `exec_beatIssue`, and what the firing holds by `recordBeat`. -/
theorem beatIssues : Obligations.BeatIssues := by
  intro s b k f r o hfirst hk hr ho hready hspan x f' out g y u
  have hexec := exec_beatIssue hfirst hk hr ho hready hspan
  have hg : beatIssued s b f r o = g := rfl
  have hcommitted : g.committed = f'.committed := recordBeat_committed ..
  rw [hg] at hexec
  refine ⟨fun hc => hexec.trans ?_, fun hc => hexec.trans ?_, recordBeat_issued .., recordBeat_next .., hcommitted, fun hf hout hlast => ?_,
    fun hf hout hlast => ?_, fun t hf hout => recordBeat_traps s.now r hf hout, fun t hf => recordBeat_trapped s.now r out hf⟩
  · rw [if_neg (by simp [hcommitted, hc])]
    rfl
  · rw [if_pos (hcommitted.trans hc)]
    rfl
  · obtain ⟨-, heffects, -, -, hwbs⟩ := recordBeat_clean (now := s.now) (r := r) hf hout
    rw [if_neg (by simp [hlast.ne])] at hwbs
    exact ⟨hwbs, heffects⟩
  · obtain ⟨-, heffects, -, -, hwbs⟩ := recordBeat_clean (now := s.now) (r := r) hf hout
    refine ⟨hwbs.trans ?_, heffects⟩
    have hinstr : f'.instr = f.instr := rfl
    rw [hinstr]
    cases isBankAtomic f.instr <;> simp [hlast]

/-! A precise trap (R77 to R83) -/

section
variable {s : State} {b : BrickId} {k : Nat} {f : Firing} {t : Trap}

/-- First PICK clears and the later firings are discarded. -/
theorem exec_preciseTrap_discards (htrapped : (s.brick b).trapped s.now = some k) (hk : (s.brick b).firings[k]? = some f) (ht : f.trap = some t)
    (hfirst : (s.brick b).pick = true ∨ k + 1 < (s.brick b).firings.length) :
    exec (.preciseTrap b) s = .next (s.modBrick b fun x => x.discardAfter k) := by
  show execPreciseTrap b s = _
  simp only [execPreciseTrap, htrapped, hk, ht]
  exact if_pos (by simpa using hfirst)

/-- Then, past its trap point and with nothing before it in flight, the firing goes and its record is taken. -/
theorem exec_preciseTrap_records (htrapped : (s.brick b).trapped s.now = some k) (hk : (s.brick b).firings[k]? = some f) (ht : f.trap = some t)
    (hpick : (s.brick b).pick = false) (hlast : k + 1 = (s.brick b).firings.length) (hpoint : f.pastPoint s.now = true) (hzero : k = 0) :
    exec (.preciseTrap b) s = .next
      (((s.modBrick b fun x => { x.release f with firings := removeAt k (x.release f).firings }).modBrick b Brick.settleWatches).takeTrap
        b t.cls t.detail t.beat f.slot t.val f.word f.snap) := by
  show execPreciseTrap b s = _
  simp only [execPreciseTrap, htrapped, hk, ht]
  rw [if_neg (by simp [hpick, hlast.symm]), stepWhen_true (by simp [hpoint, hzero])]

end

/-- A firing that commits nothing gives back return places and pending predicates alone. -/
theorem Brick.release_eq (x : Brick) (f : Firing) : x.release f = { x with pend := (x.release f).pend, inputs := (x.release f).inputs } := by
  unfold Brick.release
  split
  · rfl
  · split <;> rfl

theorem Brick.release_inputs (x : Brick) (f : Firing) : (x.release f).inputs.map Input.withoutReturns = x.inputs.map Input.withoutReturns := by
  unfold Brick.release
  split
  case h_1 => rfl
  case h_2 r _ =>
    split
    case h_1 ch n _ => exact Brick.modInput_returns _ ch fun q => q.ret - n * r.beats
    case h_2 => rfl

theorem Brick.release_pend (x : Brick) (f : Firing) {p : Nat} (h : x.pend.getLsbD p = false) : (x.release f).pend.getLsbD p = false := by
  have hclear (m : BitVec 8) : (x.pend &&& m).getLsbD p = false := by rw [BitVec.getLsbD_and, h, Bool.false_and]
  unfold Brick.release
  split
  · exact h
  · split <;> exact hclear _

theorem Brick.release_watch (x : Brick) (f : Firing) (ch : Nat) : ((x.release f).input ch).watch = (x.input ch).watch := by
  have h := congrArg (fun l => (l[ch]?).map Input.watch) (x.release_inputs f)
  simp only [List.getElem?_map, Option.map_map] at h
  have hwatch (l : List Input) : (l.getD ch {}).watch = ((l[ch]?).map (Input.watch ∘ Input.withoutReturns)).getD none := by
    rw [List.getD_eq_getElem?_getD]
    cases l[ch]? <;> rfl
  rw [Brick.input, Brick.input, hwatch, hwatch, h]

theorem Brick.modInput_input (x : Brick) (ch c : Nat) (f : Input → Input) :
    (x.modInput ch f).input c = if c = ch ∧ ch < x.inputs.length then f (x.input ch) else x.input c := by
  simp only [Brick.modInput, Brick.input, modifyAt_eq, List.getD_eq_getElem?_getD, List.getElem?_modify]
  by_cases hc : c = ch
  · subst hc
    by_cases hlen : c < x.inputs.length
    · simp [hlen]
    · simp [hlen]
  · simp [hc, Ne.symm hc]

/-- What the settling of each channel's watch keeps, the settling of all keeps. -/
theorem Brick.settleWatches_keeps {P : Brick → Prop} (hstep : ∀ y ch, ch < 4 → P y → P (y.settleWatch ch)) {x : Brick} (hx : P x) : P x.settleWatches := by
  rw [Brick.settleWatches_eq]
  exact hstep _ 3 (by decide) (hstep _ 2 (by decide) (hstep _ 1 (by decide) (hstep _ 0 (by decide) hx)))

/-- No watch of the brick may write predicate p. -/
def Brick.unwatched (x : Brick) (p : Nat) : Prop :=
  ∀ ch w, ch < 4 → (x.input ch).watch = some w → w.pred = p → w.fired = true ∨ w.seen < w.target

/-- A watch that is due is no watch of an unwatched predicate. -/
theorem Watch.pred_ne_of_due {x : Brick} {p ch : Nat} {w : Watch} (h : x.unwatched p) (hch : ch < 4) (hw : (x.input ch).watch = some w) (hdue : w.due x = true) :
    w.pred ≠ p := by
  intro hp
  simp only [Watch.due, Bool.and_eq_true, Bool.not_eq_true', decide_eq_true_eq] at hdue
  obtain ⟨⟨hfired, hseen⟩, -⟩ := hdue
  obtain hf | hs := h ch w hch hw hp
  · rw [hf] at hfired; cases hfired
  · omega

theorem Brick.settleWatch_unwatched {x : Brick} {p ch : Nat} (hp : p < 8) (hch : ch < 4) (h : x.unwatched p) :
    (x.settleWatch ch).unwatched p ∧ (x.settleWatch ch).pred p = x.pred p := by
  by_cases hdue : ∃ w, (x.input ch).watch = some w ∧ w.due x = true
  · obtain ⟨w, hw, hdue⟩ := hdue
    have hne := Watch.pred_ne_of_due h hch hw hdue
    have hfire : x.settleWatch ch = x.fireWatch ch w := by simp [Brick.settleWatch, hw, hdue]
    rw [hfire]
    refine ⟨fun c v hc hv hpred => ?_, (setBit8_getLsbD _ _ _ hp).trans (if_neg hne)⟩
    have hinput : (x.fireWatch ch w).input c = (x.modInput ch fun i => { i with watch := some { w with fired := true } }).input c := rfl
    rw [hinput, Brick.modInput_input] at hv
    split at hv
    · cases hv
      exact .inl rfl
    · exact h c v hc hv hpred
  · have hsame : x.settleWatch ch = x := Brick.settleWatch_of_not_due fun w hw => Bool.eq_false_iff.2 fun hd => hdue ⟨w, hw, hd⟩
    rw [hsame]
    exact ⟨h, rfl⟩

theorem Brick.settleWatches_pred {x : Brick} {p : Nat} (hp : p < 8) (h : x.unwatched p) : x.settleWatches.pred p = x.pred p := by
  have hboth : x.settleWatches.unwatched p ∧ x.settleWatches.pred p = x.pred p :=
    Brick.settleWatches_keeps (P := fun y => y.unwatched p ∧ y.pred p = x.pred p)
      (fun y ch hch hy => (Brick.settleWatch_unwatched hp hch hy.1).imp id fun hs => hs.trans hy.2) ⟨h, rfl⟩
  exact hboth.2

/-- `x` with return places and pending predicates of `y`. -/
def Brick.withReservesOf (x y : Brick) : Brick := { x with pend := y.pend, inputs := y.inputs }

theorem Brick.released_eq (fs : List Firing) (x : Brick) : fs.foldl Brick.release x = x.withReservesOf (fs.foldl Brick.release x) :=
  foldl_changes Brick.withReservesOf (fun _ => rfl) (fun _ _ _ => rfl) Brick.release_eq fs x

theorem Brick.released_watch (fs : List Firing) (x : Brick) (ch : Nat) : ((fs.foldl Brick.release x).input ch).watch = (x.input ch).watch := by
  induction fs generalizing x with
  | nil => rfl
  | cons f fs ih => exact (ih _).trans (x.release_watch f ch)

/-- The brick without its later firings, before its watches settle. -/
def Brick.keepFirst (x : Brick) (k : Nat) : Brick :=
  { ((x.firings.drop (k + 1)).foldl Brick.release x).setPick false with firings := ((x.firings.drop (k + 1)).foldl Brick.release x).firings.take (k + 1) }

theorem Brick.discardAfter_eq (x : Brick) (k : Nat) : x.discardAfter k = (x.keepFirst k).withPredsOf (x.discardAfter k) := (x.keepFirst k).settleWatches_changes

/-- A discard leaves slices, bank, ports and the count of firings, and no predicate but one that a watch may write. -/
theorem Brick.discardAfter_leaves (x : Brick) (k : Nat) :
    (x.discardAfter k).pick = false ∧ (x.discardAfter k).firings = x.firings.take (k + 1) ∧ (x.discardAfter k).slices = x.slices ∧
    (x.discardAfter k).bank = x.bank ∧ (x.discardAfter k).outs = x.outs ∧ (x.discardAfter k).fires = x.fires ∧
    ∀ p, p < 8 → x.unwatched p → (x.discardAfter k).pred p = x.pred p := by
  have hy := x.discardAfter_eq k
  have hreleased := Brick.released_eq (x.firings.drop (k + 1)) x
  have hfirings : (x.keepFirst k).firings = x.firings.take (k + 1) := (congrArg (fun y => y.firings.take (k + 1)) hreleased :)
  refine ⟨(congrArg Brick.pick hy).trans (Brick.setPick_bits _ false).1, (congrArg Brick.firings hy).trans hfirings,
    (congrArg Brick.slices hy).trans (congrArg Brick.slices hreleased :), x.discardAfter_bank k,
    (congrArg Brick.outs hy).trans (congrArg Brick.outs hreleased :), (congrArg Brick.fires hy).trans (congrArg Brick.fires hreleased :), fun p hp h => ?_⟩
  have hwatch : (x.keepFirst k).unwatched p := fun ch w hch hw => h ch w hch ((Brick.released_watch _ x ch).symm.trans hw)
  exact (Brick.settleWatches_pred hp hwatch).trans (congrArg (Brick.pred · p) hreleased :)

/-! Taking a trap (R77, R83, R403) -/

theorem State.brick_congr {s t : State} (hbricks : t.bricks = s.bricks) (hfixed : t.fixed = s.fixed) (b : BrickId) : t.brick b = s.brick b := by
  have hbpm : t.bpm = s.bpm := (congrArg Fixed.bpm hfixed :)
  unfold State.brick State.blank State.inService
  rw [hbricks, hbpm]

/-- An error that weighs in a unit's window leaves bricks and bind slots. -/
theorem State.countError_leaves (s : State) (u : UnitRef) (w a : Nat) : (s.countError u w a).bricks = s.bricks ∧ (s.countError u w a).slots = s.slots := by
  have hlasting (t : State) : (t.lastingAction u a).bricks = t.bricks ∧ (t.lastingAction u a).slots = t.slots := by
    cases u <;> exact ⟨rfl, rfl⟩
  unfold State.countError
  extract_lets x fresh c y t
  split
  · exact ⟨rfl, rfl⟩
  · split
    · exact ⟨rfl, rfl⟩
    · exact hlasting _

theorem State.meetTrap_leaves (s : State) (b : BrickId) (cls detail : Nat) :
    (s.meetTrap b cls detail).bricks = s.bricks ∧ (s.meetTrap b cls detail).slots = s.slots := by
  unfold State.meetTrap
  split
  · exact State.countError_leaves ..
  · exact ⟨rfl, rfl⟩

theorem State.noteAt_leaves (s : State) (b : BrickId) (r : Record) : (s.noteAt b r).bricks = s.bricks ∧ (s.noteAt b r).slots = s.slots := by
  unfold State.noteAt
  split <;> exact ⟨rfl, rfl⟩

theorem State.raiseFault_bricks (s : State) (g : RegionId) (r : Record) : (s.raiseFault g r).bricks = s.bricks := by
  unfold State.raiseFault
  extract_lets x q take
  split <;> rfl

theorem State.raiseAt_bricks (s : State) (b : BrickId) (r : Record) : (s.raiseAt b r).bricks = s.bricks := by
  unfold State.raiseAt
  split
  · exact State.raiseFault_bricks ..
  · rfl

/-- A fault that is raised looks at the bind slots and the cycle alone. -/
theorem State.raiseFault_slots_congr {s t : State} (hslots : t.slots = s.slots) (hnow : t.now = s.now) (g : RegionId) (r : Record) :
    (t.raiseFault g r).slots = (s.raiseFault g r).slots := by
  have hslot : t.slot g = s.slot g := by rw [State.slot, State.slot, hslots]
  have hmod (f : Slot → Slot) : (t.modSlot g f).slots = (s.modSlot g f).slots := by simp only [State.modSlot, hslots, hslot]
  unfold State.raiseFault State.regionRecord
  simp only [hslot, hnow, apply_ite State.slots, hmod, hslots]

/-- The first fault of a region is kept for its controller. -/
theorem State.raiseFault_first {s : State} {g : RegionId} (r : Record) (hactive : (s.slot g).active = true) (hfault : (s.slot g).fault = none)
    (hended : (s.slot g).ended = false) (hpending : (s.slot g).pending = none) :
    (s.raiseFault g r).slot g = { s.slot g with pending := some (s.now, (s.regionRecord g r).words 0 0) } := by
  have hraise : s.raiseFault g r = s.modSlot g fun x => { x with pending := some (s.now, (s.regionRecord g r).words 0 0) } := by
    unfold State.raiseFault
    exact if_pos (by simp [hactive, hfault, hended, hpending])
  rw [hraise, State.modSlot_slot_same]

theorem State.reportTrap_bricks (s : State) (b : BrickId) (cls detail : Nat) : (s.reportTrap b cls detail).bricks = s.bricks := by
  unfold State.reportTrap
  extract_lets x
  split
  · exact (s.noteAt_leaves ..).1
  · exact State.raiseAt_bricks ..

theorem State.reportTrap_breakpoint (s : State) (b : BrickId) (detail : Nat) : (s.reportTrap b 0x02 detail).slots = s.slots := by
  unfold State.reportTrap
  exact (s.noteAt_leaves ..).2

theorem State.reportTrap_faults {s : State} {b : BrickId} {g : RegionId} {cls : Nat} (detail : Nat) (hregion : (s.brick b).region = some g) (hcls : cls ≠ 0x02) :
    s.reportTrap b cls detail =
      s.raiseFault g { code := 0x01, fire := (s.brick b).tfire, cls, detail, data := (s.brick b).tword.toNat, brick := b.toNat } := by
  unfold State.reportTrap State.raiseAt
  simp only [if_neg hcls, hregion]

section
variable (s : State) (b : BrickId) (cls detail beat slot val : Nat) (word : Word) (snap : List (Option Token))

/-- The payloads of heads that do not exist, as the record takes them (log 12). -/
def State.blankHeads (ch : Nat) : Nat := Config.freeNat ((s.meetTrap b cls detail).free + ch)

/-- The state with the record of a trap, before it is reported. -/
def State.recordedTrap : State :=
  { (s.meetTrap b cls detail).modBrick b fun x => x.recordTrap cls detail beat slot val word snap (s.blankHeads b cls detail) with
    free := (s.meetTrap b cls detail).free + 4 }

theorem State.takeTrap_eq : s.takeTrap b cls detail beat slot val word snap = (s.recordedTrap b cls detail beat slot val word snap).reportTrap b cls detail := rfl

theorem State.recordedTrap_leaves : (s.recordedTrap b cls detail beat slot val word snap).slots = s.slots ∧
    (s.recordedTrap b cls detail beat slot val word snap).now = s.now :=
  ⟨(s.meetTrap_leaves b cls detail).2, congrArg Fixed.now (s.meetTrap_fixed b cls detail)⟩

theorem State.recordedTrap_brick (c : BrickId) : (s.recordedTrap b cls detail beat slot val word snap).brick c =
    if c = b then (s.brick b).recordTrap cls detail beat slot val word snap (s.blankHeads b cls detail) else s.brick c := by
  have hmet (c : BrickId) : (s.meetTrap b cls detail).brick c = s.brick c :=
    State.brick_congr (s.meetTrap_leaves b cls detail).1 (s.meetTrap_fixed b cls detail) c
  have hrecord : (s.recordedTrap b cls detail beat slot val word snap).brick c =
      ((s.meetTrap b cls detail).modBrick b fun x => x.recordTrap cls detail beat slot val word snap (s.blankHeads b cls detail)).brick c := rfl
  rw [hrecord]
  by_cases hc : c = b
  · subst hc
    rw [State.modBrick_brick_same, hmet, if_pos rfl]
  · rw [State.modBrick_brick_other _ (Ne.symm hc), hmet, if_neg hc]

theorem State.takeTrap_brick (c : BrickId) : (s.takeTrap b cls detail beat slot val word snap).brick c =
    if c = b then (s.brick b).recordTrap cls detail beat slot val word snap (s.blankHeads b cls detail) else s.brick c :=
  (State.brick_congr (State.reportTrap_bricks ..) (State.reportTrap_fixed ..) c).trans (s.recordedTrap_brick ..)

/-- A trap's record reaches the brick, and its report the region: a fault BRKTRAP but for a breakpoint (R78, R89). -/
theorem State.takeTrap_records : ∃ blank,
    let t := s.takeTrap b cls detail beat slot val word snap
    let y := (s.brick b).recordTrap cls detail beat slot val word snap blank
    t.brick b = y ∧ (∀ c, c ≠ b → t.brick c = s.brick c) ∧ (cls = 0x02 → t.slots = s.slots) ∧
    ∀ g, (s.brick b).region = some g → cls ≠ 0x02 →
      t.slots = (s.raiseFault g { code := 0x01, fire := y.tfire, cls, detail, data := word.toNat, brick := b.toNat }).slots := by
  obtain ⟨hslots, hnow⟩ := s.recordedTrap_leaves b cls detail beat slot val word snap
  have hbrick : (s.recordedTrap b cls detail beat slot val word snap).brick b = _ := (s.recordedTrap_brick ..).trans (if_pos rfl)
  refine ⟨s.blankHeads b cls detail, (s.takeTrap_brick ..).trans (if_pos rfl), fun c hc => (s.takeTrap_brick ..).trans (if_neg hc),
    fun hcls => ?_, fun g hregion hcls => ?_⟩
  · subst hcls
    exact (State.reportTrap_breakpoint ..).trans hslots
  · have hregion' : ((s.recordedTrap b cls detail beat slot val word snap).brick b).region = some g := by rw [hbrick]; exact hregion
    rw [State.takeTrap_eq, State.reportTrap_faults detail hregion' hcls, hbrick]
    exact State.raiseFault_slots_congr hslots hnow g _

end

/-- The head bits of a trap record lie above its fields (R83). -/
theorem headBits_dvd (snap : List (Option Token)) : 2 ^ 32 ∣ headBits snap := by
  have hfold (l : List Nat) (n : Nat) (hn : 2 ^ 32 ∣ n) : 2 ^ 32 ∣ l.foldl (fun n ch => match (snap.getD ch none) with
      | some t => n + 2 ^ (40 + ch) + t.tag.code * 2 ^ (32 + 2 * ch)
      | none => n) n := by
    induction l generalizing n with
    | nil => exact hn
    | cons ch l ih =>
      refine ih _ ?_
      dsimp only
      split
      · exact Nat.dvd_add (Nat.dvd_add hn (Nat.pow_dvd_pow 2 (by omega))) (Nat.dvd_mul_left_of_dvd (Nat.pow_dvd_pow 2 (by omega)) _)
      · exact hn
  exact hfold _ 0 (Nat.dvd_zero _)

theorem Brick.recordTrap_tcls (x : Brick) {cls detail beat slot : Nat} (val : Nat) (word : Word) (snap : List (Option Token)) (blank : Nat → Nat)
    (hcls : cls < 256) (hdetail : detail < 256) (hbeat : beat < 32) (hslot : slot < 16) :
    let y := x.recordTrap cls detail beat slot val word snap blank
    bits y.tcls.toNat 23 16 = cls ∧ bits y.tcls.toNat 31 24 = detail ∧ bits y.tcls.toNat 9 5 = beat ∧ bits y.tcls.toNat 3 0 = slot ∧ y.trapValid = true := by
  intro y
  obtain ⟨h, hh⟩ := headBits_dvd snap
  have htcls : y.tcls.toNat = (2 ^ 32 * h + detail % 256 * 2 ^ 24 + cls % 256 * 2 ^ 16 + 2 ^ 15 + beat % 32 * 32 + slot % 16) % 2 ^ 64 := by
    rw [← hh]
    exact BitVec.toNat_ofNat ..
  have hvalid : y.trapValid = y.tcls.toNat.testBit 15 := (BitVec.testBit_toNat ..).symm
  rw [hvalid, Nat.testBit_eq_decide_div_mod_eq, decide_eq_true_eq, htcls]
  simp only [bits_eq]
  omega

theorem Brick.pick_congr {x y : Brick} (h : y.ctl = x.ctl) : y.pick = x.pick := by rw [Brick.pick, Brick.pick, h]

section
variable (x : Brick) (cls detail beat slot val : Nat) (word : Word) (snap : List (Option Token)) (blank : Nat → Nat)

theorem Brick.recordTrap_pick : (x.recordTrap cls detail beat slot val word snap blank).pick = false := by
  have hctl : (x.recordTrap cls detail beat slot val word snap blank).ctl = (x.setPick false).ctl := rfl
  rw [Brick.pick_congr hctl]
  exact (x.setPick_bits false).1

/-- What a trap record says beside its class word, and what taking it leaves. -/
theorem Brick.recordTrap_leaves :
    let y := x.recordTrap cls detail beat slot val word snap blank
    y.tword = word ∧ y.tval = BitVec.ofNat 64 val ∧ y.tfire = (x.fires + 1) % 2 ^ 48 ∧
    y.slices = x.slices ∧ y.pval = x.pval ∧ y.bank = x.bank ∧ y.outs = x.outs ∧ y.inputs = x.inputs :=
  ⟨rfl, rfl, rfl, rfl, rfl, rfl, rfl, rfl⟩

end

/-- Settles O35. -/
theorem trapIsPrecise : Obligations.TrapIsPrecise := by
  refine ⟨fun _ _ _ _ _ htrapped hk ht => ⟨exec_preciseTrap_discards htrapped hk ht, exec_preciseTrap_records htrapped hk ht⟩, fun _ _ => rfl,
    Brick.discardAfter_leaves, fun x f => ⟨x.release_eq f, x.release_inputs f, fun _ _ => x.release_pend f⟩, State.takeTrap_records,
    fun _ _ r => State.raiseFault_first r, ?_⟩
  intro x cls detail beat slot val word snap blank y hcls hdetail hbeat hslot
  obtain ⟨hc, hd, hb, hs, hvalid⟩ := x.recordTrap_tcls val word snap blank hcls hdetail hbeat hslot
  exact ⟨hc, hd, hb, hs, hvalid, x.recordTrap_pick .., x.recordTrap_leaves ..⟩

end Sys2Proof.Machine

namespace Sys2Proof.Machine

open Sys2Proof

/-! Tokens that arrive (R182, R183, R186, R191) -/

theorem exec_tokenArrival {s : State} {n : Nat} {f : Flight} (hf : s.flights[n]? = some f) (hdue : f.due ≤ s.now)
    (hfirst : firstOfItsPath s.flights n f = true) (hplace : s.placeFor f = true) :
    exec (.tokenArrival n) s = .next (({ s with flights := removeAt n s.flights }.arrive f).rcvd f.src 1) := by
  show execTokenArrival n s = _
  simp only [execTokenArrival, hf]
  exact stepWhen_true (by simp [State.arrivalDue, hdue, hfirst, hplace])

/-- A token for an input without watch or gutter stands last in its queue. -/
theorem State.arrive_queue {s : State} {f : Flight} {b : BrickId} {ch : Nat} (hdest : f.dest = .input b ch) (hdiscard : (s.brick b).discard = false)
    (hwatch : ((s.brick b).input ch).watch = none) (hgutter : ((s.brick b).input ch).gutter = none) :
    s.arrive f = s.modBrick b fun x => (x.modInput ch fun i => { i with queue := i.queue ++ [f.tok] }).wake := by
  have henqueue : (s.brick b).enqueue ch f.tok = (s.brick b).modInput ch fun i => { i with queue := i.queue ++ [f.tok] } := by
    simp only [Brick.enqueue, hgutter]
  simp only [State.arrive, State.discards, State.arriveInput, hdest, hdiscard, hwatch, Bool.false_eq_true, if_false, State.modBrick, henqueue]

/-- A brick that has been ordered to weep discards what reaches it (R191). -/
theorem State.arrive_discarded {s : State} {f : Flight} (h : s.discards f.dest = true) : s.arrive f = s := if_pos h

/-! Gutters (R185 to R187) -/

section
variable {s : State} {b : BrickId} {ch : Nat} {g : Gutter}

/-- A word of the gutter's head entry is uncorrectable. -/
def Brick.headBad (x : Brick) (g : Gutter) : Bool := x.wordUe (g.addr 0 / 8) || x.wordUe (g.addr 0 / 8 + 1)

theorem exec_gutterRefill (hg : ((s.brick b).input ch).gutter = some g) (hcount : 0 < g.count) (hstopped : g.stopped = false) (htrap : g.trap = none)
    (hfree : 0 < ((s.brick b).input ch).queueFree) (hgood : (s.brick b).headBad g = false) :
    exec (.gutterRefill b ch) s = .next (s.modBrick b fun x =>
      (x.modInput ch fun i => { i with
        queue := i.queue ++ [x.gutterHead g]
        gutter := some { g with head := (g.head + 1) % g.capacity, count := g.count - 1, notes := g.notes.drop 1 } }).wake) := by
  show execGutterRefill b ch s = _
  simp only [execGutterRefill, hg]
  rw [if_neg (by simp [htrap]), if_neg (by simpa [Brick.headBad] using hgood), stepWhen_true (by simp [hcount, hstopped, hfree])]

theorem exec_gutterRefill_stops (hg : ((s.brick b).input ch).gutter = some g) (hcount : 0 < g.count) (hstopped : g.stopped = false) (htrap : g.trap = none)
    (hfree : 0 < ((s.brick b).input ch).queueFree) (hbad : (s.brick b).headBad g = true) :
    exec (.gutterRefill b ch) s = .next ((s.modBrick b fun x => x.modInput ch fun i =>
      { i with gutter := some { g with stopped := true, trap := some (g.addr 0 / 4096) } }).modBrick b fun x => x.setPick false) := by
  have hword : ((s.brick b).wordUe (g.addr 0 / 8) || (s.brick b).wordUe (g.addr 0 / 8 + 1)) = true := hbad
  show execGutterRefill b ch s = _
  simp only [execGutterRefill, hg]
  rw [if_neg (by simp [htrap]), if_pos hword, stepWhen_true (by simp [hcount, hstopped, hfree])]

/-- The gutter stops with its entry, and the picker with it (R187). -/
theorem exec_gutterRefill_uncorrectable (hg : ((s.brick b).input ch).gutter = some g) (hcount : 0 < g.count) (hstopped : g.stopped = false)
    (htrap : g.trap = none) (hfree : 0 < ((s.brick b).input ch).queueFree) (hbad : (s.brick b).headBad g = true) :
    ∃ t, exec (.gutterRefill b ch) s = .next t ∧ (t.brick b).pick = false ∧ (t.brick b).bank = (s.brick b).bank ∧
      (ch < (s.brick b).inputs.length → ((t.brick b).input ch).gutter = some { g with stopped := true, trap := some (g.addr 0 / 4096) } ∧
        ((t.brick b).input ch).queue = ((s.brick b).input ch).queue) := by
  refine ⟨_, exec_gutterRefill_stops hg hcount hstopped htrap hfree hbad, ?_⟩
  rw [State.modBrick_brick_same, State.modBrick_brick_same]
  refine ⟨(Brick.setPick_bits _ false).1, rfl, fun hlen => ?_⟩
  have hinput (f : Input → Input) : (((s.brick b).modInput ch f).setPick false).input ch = f ((s.brick b).input ch) :=
    ((s.brick b).modInput_input ch ch f).trans (if_pos ⟨rfl, hlen⟩)
  rw [hinput]
  exact ⟨rfl, rfl⟩

/-- The brick takes the trap once its firings have committed and no trap stands (R89, R187). -/
theorem exec_gutterRefill_traps {part : Nat} (hg : ((s.brick b).input ch).gutter = some g) (htrap : g.trap = some part)
    (hcommitted : ∀ f ∈ (s.brick b).firings, f.committed = true) (hvalid : (s.brick b).trapValid = false) :
    exec (.gutterRefill b ch) s = .next
      ((s.modBrick b fun x => x.modInput ch fun i => { i with gutter := some { g with trap := none } }).takeTrap
        b 0x06 part 0 0 0 0 (s.brick b).headSnap) := by
  have hall : (s.brick b).firings.all (·.committed) = true := List.all_eq_true.2 hcommitted
  show execGutterRefill b ch s = _
  simp only [execGutterRefill, hg]
  rw [if_pos (by simp [htrap]), stepWhen_true (by simp [Brick.gutterTraps, htrap, hall, hvalid])]
  simp only [htrap, Option.getD_some]

end

/-! Forwarding (R183, R184) -/

theorem exec_tokenForward {s : State} {p : PortRef} {k : Nat} (hk : ((s.portOf p).skid.findIdx? fun e => !e.forked) = some k) (hfrozen : s.frozen p = false) :
    let branches := ((s.portOf p).skid.getD k { tok := dataToken 0, todo := [] }).todo
    let t := branches.foldl (fun s br => if s.branchOpen p k br then s.sendBranch p k br else s) s
    exec (.tokenForward p) s = .next ((t.setPort p { t.portOf p with skid := modifyAt (fun e => { e with forked := true }) k (t.portOf p).skid }).retirePort p) := by
  intro branches t
  show execTokenForward p s = _
  simp only [execTokenForward, hk]
  exact stepWhen_true (by simp [hfrozen])

theorem exec_branchHoldDeliver {s : State} {p : PortRef} {br k : Nat} (hk : ((s.portOf p).skid.findIdx? fun e => e.forked && e.todo.contains br) = some k)
    (hfrozen : s.frozen p = false) (hopen : s.branchOpen p k br = true) :
    exec (.branchHoldDeliver p br) s = .next ((s.sendBranch p k br).retirePort p) := by
  show execBranchHoldDeliver p br s = _
  simp only [execBranchHoldDeliver, hk]
  exact stepWhen_true (by simp [hfrozen, hopen])

/-! Alignment and weeping (R188, R191) -/

/-- `x` with what a stop at a round changes, taken from `y`. -/
def Brick.withStopOf (x y : Brick) : Brick := { x with ctl := y.ctl, wave := y.wave, picked := y.picked, life := y.life }

theorem Brick.reachRound_eq (x : Brick) : x.reachRound = x.withStopOf x.reachRound := by
  unfold Brick.reachRound
  split
  · split <;> rfl
  · rfl

/-- The brick with a new round, before it may stop there (R390). -/
def Brick.aligned (x : Brick) (round : Nat) : Brick :=
  { (x.dequeueHeads Token.isMark).pushConnected (markToken round) with round, edge := { x.edge with pp := x.edge.pp.map fun (p : Token × Bool) => (p.1, true) } }

theorem Brick.align_eq (x : Brick) : x.align = ((x.aligned ((x.round + 1) % 2 ^ 48)).withStopOf (x.aligned ((x.round + 1) % 2 ^ 48)).reachRound).wake := by
  rw [← Brick.reachRound_eq]
  rfl

theorem Brick.aligned_leaves (x y : Brick) (round barrierAt roundAt : Nat) :
    let z : Brick := { ((x.aligned round).withStopOf y).wake with barrierAt, roundAt }
    z.round = round ∧ z.inputs = (x.dequeueHeads Token.isMark).inputs ∧ z.outs = (x.pushConnected (markToken round)).outs ∧
    z.slices = x.slices ∧ z.pval = x.pval ∧ z.bank = x.bank := ⟨rfl, rfl, rfl, rfl, rfl, rfl⟩

theorem exec_brickAlign {s : State} {b : BrickId} (h : alignReady s.now (s.brick b) = true) :
    exec (.brickAlign b) s = .next (s.modBrick b fun x => { x.align with barrierAt := s.now + 1, roundAt := s.now }) := by
  show execBrickAlign b s = _
  exact stepWhen_true h

/-- A brick that aligns counts its round, drops the MARKs at its heads and sends one on (R188). -/
theorem exec_brickAlign_leaves {s : State} {b : BrickId} (h : alignReady s.now (s.brick b) = true) : ∃ t, exec (.brickAlign b) s = .next t ∧
    t = { s with bricks := t.bricks } ∧ (∀ c, c ≠ b → t.brick c = s.brick c) ∧
    (t.brick b).round = ((s.brick b).round + 1) % 2 ^ 48 ∧
    (t.brick b).inputs = ((s.brick b).dequeueHeads Token.isMark).inputs ∧
    (t.brick b).outs = ((s.brick b).pushConnected (markToken (((s.brick b).round + 1) % 2 ^ 48))).outs ∧
    (t.brick b).slices = (s.brick b).slices ∧ (t.brick b).pval = (s.brick b).pval ∧ (t.brick b).bank = (s.brick b).bank := by
  refine ⟨_, exec_brickAlign h, rfl, fun c hc => State.modBrick_brick_other _ (Ne.symm hc) _, ?_⟩
  rw [State.modBrick_brick_same, Brick.align_eq]
  generalize ((s.brick b).round + 1) % 2 ^ 48 = round
  exact Brick.aligned_leaves (s.brick b) _ round _ _

/-- A brick that weeps stops picking and keeps its slices. -/
theorem Brick.doWeep_leaves (x : Brick) (gen : Nat) (heads : Bool) :
    (x.doWeep gen heads).pick = false ∧ (x.doWeep gen heads).weep ≠ .none ∧ (x.doWeep gen heads).slices = x.slices := by
  obtain ⟨y, hy, hslices⟩ : ∃ y : Brick, x.doWeep gen heads = ({ (y.setPick false).pushConnected (weepToken gen) with weep := .weeping } : Brick).settleWeep ∧
      y.slices = x.slices := by
    cases heads
    · exact ⟨x, rfl, rfl⟩
    · exact ⟨x.dequeueHeads Token.isWeep, rfl, rfl⟩
  rw [hy]
  refine ⟨?_, ?_, ?_⟩
  · have hctl (z : Brick) : z.settleWeep.ctl = z.ctl := (congrArg Brick.ctl z.settleWeep_eq :)
    rw [Brick.pick_congr (hctl _)]
    exact (y.setPick_bits false).1
  · unfold Brick.settleWeep
    split <;> exact WeepState.noConfusion
  · rw [Brick.settleWeep_eq]
    exact hslices

/-- The controller's order is met once nothing is in flight and every output has room (R191). -/
def Brick.orderMet (x : Brick) : Bool := x.weep = .ordered && x.firings.isEmpty && x.outputsHaveRoom

theorem exec_brickWeep_ordered {s : State} {b : BrickId} (h : (s.brick b).orderMet = true) :
    exec (.brickWeep b) s = .next (s.modBrick b fun x => x.doWeep (s.regionGen x) false) := by
  show execBrickWeep b s = _
  exact if_pos h

theorem exec_brickWeep_heads {s : State} {b : BrickId} (horder : (s.brick b).orderMet = false) (h : weepReady s.now (s.brick b) = true) :
    exec (.brickWeep b) s = .next (s.modBrick b fun x => x.doWeep (s.regionGen x) true) := by
  show execBrickWeep b s = _
  exact (if_neg (Bool.eq_false_iff.1 horder)).trans (stepWhen_true h)

/-! IDLE, the QBLK buffer and the region round (R90, R171, R381) -/

theorem exec_pickerWake {s : State} {b : BrickId} (h : (s.brick b).mayResume s.now = true) :
    exec (.pickerWake b) s = .next (s.modBrick b fun x => { x with idle := none }) := by
  show execPickerWake b s = _
  exact stepWhen_true h

/-- The buffer sends its first word, and its last frees it. -/
theorem exec_qblkBufferEmit {s : State} {b : BrickId} {p : Nat} {w : Word} {ws : List Word} {ready : Nat} (hqblk : (s.brick b).qblk = some (p, w :: ws, ready))
    (hready : ready ≤ s.now) (hroom : 1 ≤ (s.brick b).room p) (hclear : (s.brick b).portClear p = true) :
    let y := (s.brick b).modOut p fun q => q.push (.tok { tag := .data, pay := w })
    exec (.qblkBufferEmit b) s = .next (s.setBrick b (if ws.isEmpty then ({ y with qblk := none } : Brick).wake else { y with qblk := some (p, ws, s.now + 1) })) := by
  intro y
  show execQblkBufferEmit b s = _
  simp only [execQblkBufferEmit, hqblk]
  rw [stepWhen_true (by simp [hready, hroom, hclear])]
  cases ws <;> rfl

theorem exec_regionRoundUpdate {s : State} {r : RegionId} (hactive : (s.slot r).active = true) (hround : (s.slot r).round ≠ s.leastRound r) :
    exec (.regionRoundUpdate r) s = .next
      ((s.slot r).bricks.foldl (fun s b => s.modBrick b Brick.wake) (s.modSlot r fun x => { x with round := s.leastRound r })) := by
  show execRegionRoundUpdate r s = _
  exact stepWhen_true (by simp [hactive, hround])

/-- Settles O50, event by event. -/
theorem tokensMove : Obligations.TokensMove := by
  refine ⟨fun _ _ _ => exec_tokenArrival, fun _ _ _ _ => State.arrive_queue, fun s f b k hdest hdiscard => State.arrive_discarded ?_,
    fun s b ch g hg hcount hstopped htrap hfree => ⟨exec_gutterRefill hg hcount hstopped htrap hfree, exec_gutterRefill_uncorrectable hg hcount hstopped htrap hfree⟩,
    fun _ _ _ _ _ => exec_gutterRefill_traps, fun _ _ _ => exec_tokenForward, fun _ _ _ _ => exec_branchHoldDeliver, fun _ _ => exec_brickAlign_leaves,
    fun s b => ⟨exec_brickWeep_ordered, exec_brickWeep_heads, fun gen heads => Brick.doWeep_leaves _ gen heads⟩, fun _ _ => exec_pickerWake,
    fun s b p w ws ready hqblk hready hroom hclear => ?_, fun _ _ => exec_regionRoundUpdate⟩
  · simp only [List.mem_cons, List.not_mem_nil, or_false] at hdest
    obtain h | h | h | h | h | h := hdest <;> rw [h] <;> exact hdiscard
  · have hexec := exec_qblkBufferEmit hqblk hready hroom hclear
    exact ⟨fun hws => hexec.trans (by rw [if_neg (by simpa using hws)]), fun hws => hexec.trans (by rw [if_pos (by simpa using hws)])⟩

end Sys2Proof.Machine

namespace Sys2Proof.Machine

open Sys2Proof

/-! A firing alone in its brick (R69, R75) -/

/-- The result of one beat goes back through D alone (R37). -/
theorem resultWriteBack_lo {r : RuleInfo} {o : BeatOut} {v : Nat} (port : Option Nat) (beat due : Nat) (preds : List (Nat × Bool)) (hout : o.out = none)
    (hwrite : o.write = some v) (hwrites : r.du.writes = true) (hd : r.d < 112) :
    resultWriteBack r port beat due o preds = [{ due, beat, preds, lo := some (r.d, r.du.slices, v) }] := by
  simp [resultWriteBack, hout, hwrite, hwrites, hd]

section
variable {s : State} {b : BrickId} {x : Brick} {f : Firing}

theorem Brick.oldest_alone (hx : x.firings = [f]) (hf : f.committed = false) : x.oldest = some 0 := by
  simp [Brick.oldest, hx, hf]

/-- A firing of no effects waits for no fence (R277). -/
theorem State.fenceReady_of_effects (hf : f.effects = []) : s.fenceReady b f = true := by
  simp [State.fenceReady, hf]

theorem State.noteTs_leaves (ts : Nat) : (s.noteTs b ts).bricks = s.bricks ∧ (s.noteTs b ts).hbm = s.hbm := by
  unfold State.noteTs
  split <;> exact ⟨rfl, rfl⟩

/-- Without effects a commit is `Brick.commitFiring` in its brick. -/
theorem State.commit_of_effects (k : Nat) (hf : f.effects = []) :
    (s.commit b k f).brick b = ((s.brick b).commitFiring k { f with sticky := s.stickyAhead b f }).dropFinished ∧ (s.commit b k f).hbm = s.hbm := by
  simp only [State.commit, hf, List.foldl_nil]
  refine ⟨(State.brick_congr (State.noteTs_leaves _).1 (State.noteTs_fixed ..) b).trans ?_, (State.noteTs_leaves _).2⟩
  rw [State.modBrick_brick_same, State.setBrick_brick_same]

/-- A firing with a write-back to come stays. -/
theorem Brick.commitFiring_alone (hx : x.firings = [f]) (g : Firing) (hg : g.wbs ≠ []) :
    ((x.commitFiring 0 g).dropFinished).firings = [{ g with committed := true, effects := [], sticky := 0 }] := by
  have hfirings : (x.commitFiring 0 g).firings = [{ g with committed := true, effects := [], sticky := 0 }] := by
    rw [x.commitFiring_eq, hx]
    rfl
  rw [Brick.dropFinished, hfirings]
  simp [Firing.finished, hg]

theorem Brick.commitFiring_keeps (x : Brick) (k : Nat) (g : Firing) :
    (x.commitFiring k g).slices = x.slices ∧ (x.commitFiring k g).fires = (x.fires + 1) % 2 ^ 48 :=
  ⟨(congrArg Brick.slices (x.commitFiring_eq k g) :), (congrArg Brick.fires (x.commitFiring_eq k g) :)⟩

theorem Brick.nextWriteBack_alone {w : WriteBack} {now : Nat} (hx : x.firings = [f]) (hf : f.committed = true) (hwbs : f.wbs = [w]) (hport : w.port = none)
    (hdue : w.due ≤ now) : x.nextWriteBack now 0 = some (0, w) := by
  simp [Brick.nextWriteBack, Brick.writeBackReady, hx, hf, hwbs, hport, hdue]

/-- The commit of a lone firing with neither trap nor effects, past its trap point, that has something to write back (R75, R76). -/
theorem exec_firingCommit_alone (hx : (s.brick b).firings = [f]) (hf : f.committed = false) (htrap : f.trap = none) (heffects : f.effects = []) (hwbs : f.wbs ≠ [])
    (hlate : judgedLate f.instr = false) (hpoint : f.pastPoint s.now = true) (hcycle : f.fired + commitDelay f.instr < s.now) :
    ∃ t g, exec (.firingCommit b) s = .next t ∧ (t.brick b).firings = [g] ∧ g.committed = true ∧ g.wbs = f.wbs ∧ t.hbm = s.hbm ∧
      (t.brick b).slices = (s.brick b).slices ∧ (t.brick b).bank = (s.brick b).bank ∧ (t.brick b).fires = ((s.brick b).fires + 1) % 2 ^ 48 := by
  have hdecided := s.decided_of_not_late b hlate
  have hexec := exec_firingCommit (Brick.oldest_alone hx hf) (by rw [hx]; rfl) htrap hpoint hcycle (State.fenceReady_of_effects heffects)
  rw [hdecided, if_neg (by simp [htrap])] at hexec
  obtain ⟨hbrick, hhbm⟩ := State.commit_of_effects (s := s) (b := b) 0 heffects
  obtain ⟨hslices, hfires⟩ := (s.brick b).commitFiring_keeps 0 { f with sticky := s.stickyAhead b f }
  refine ⟨_, { f with committed := true, effects := [], sticky := 0 }, hexec, ?_, rfl, rfl, hhbm, ?_⟩
  · rw [hbrick]
    exact Brick.commitFiring_alone hx { f with sticky := s.stickyAhead b f } hwbs
  · rw [hbrick]
    exact ⟨hslices, Brick.commitFiring_bank .., hfires⟩

/-- The write-back of a lone committed firing whose cycle has come (R69, R73). -/
theorem exec_beatWriteBack_alone {w : WriteBack} {lo n v : Nat} (hx : (s.brick b).firings = [f]) (hf : f.committed = true) (hwbs : f.wbs = [w])
    (hport : w.port = none) (hdue : w.due ≤ s.now) (hlo : w.lo = some (lo, n, v)) :
    ∃ t, exec (.beatWriteBack b 0) s = .next t ∧ (t.brick b).slices = writeSlices (s.brick b).slices lo n v ∧ t.hbm = s.hbm ∧
      (t.brick b).bank = (s.brick b).bank ∧ (t.brick b).fires = (s.brick b).fires := by
  refine ⟨_, exec_beatWriteBack (Brick.nextWriteBack_alone hx hf hwbs hport hdue), ?_⟩
  rw [State.setBrick_brick_same]
  have hslices : ((s.brick b).writeBack 0 0 w).slices = w.slicesAfter (s.brick b) := (congrArg Brick.slices ((s.brick b).writeBack_changes 0 0 w) :)
  refine ⟨hslices.trans ?_, rfl, Brick.writeBack_bank .., (congrArg Brick.fires ((s.brick b).writeBack_frame 0 0 w) :)⟩
  rw [WriteBack.slicesAfter, hlo]
  rfl

end

/-! From fire to write-back (R65, R69, R75) -/

theorem Instr.judgedLate_of_trapDelay {i : Instr} (h : trapDelay i = none) : judgedLate i = false := by
  unfold judgedLate
  split
  case h_6 => rfl
  all_goals cases h

theorem recordBeat_point {now : Nat} {r : RuleInfo} {f : Firing} {o : BeatOut} (hf : f.trap = none) (ho : o.trap = none) (hdelay : trapDelay f.instr = none) :
    (recordBeat now r f o).point = f.point := by
  obtain ⟨-, -, -, hpoint, -⟩ := recordBeat_clean (now := now) (r := r) hf ho
  rw [hpoint, hdelay]

/-- The firing of a one-beat rule that writes slices and neither traps nor has effects: it holds one write-back, through D. -/
theorem firedFiring_of_write {i : Instr} {o : Beat} {s : State} {r : RuleInfo} {v : Nat} (hbeats : r.beats = 1) (hd : r.d < 112) (hwrites : r.du.writes = true)
    (hserial : ∀ h x, i ≠ .sysWrbsr h x ∧ i ≠ .sysRdbsr h x ∧ i ≠ .sysRdts h x ∧ i ≠ .sysWptr h x) (hdelay : trapDelay i = none)
    (hf : (mkFiring s s.focus.1 s.focus.2 s.focusWord i r).trap = none) (ho : (firstOut i o s r).trap = none) (heffects : (firstOut i o s r).effects = [])
    (hwbs : (firstOut i o s r).wbs = []) (hout : (firstOut i o s r).out = none) (hwrite : (firstOut i o s r).write = some v) :
    let f := firedFiring i o s r
    f.trap = none ∧ f.effects = [] ∧ f.point = s.now ∧
    ∃ w : WriteBack, f.wbs = [w] ∧ w.lo = some (r.d, r.du.slices, v) ∧ w.port = none ∧ w.due = s.now + r.latency + 1 := by
  obtain ⟨htrap, hnone, -, hdue⟩ := recordBeat_first hbeats hf ho
  have hpoint := recordBeat_point (now := s.now) (r := r) hf ho ((congrArg trapDelay (mkFiring_instr ..)).trans hdelay)
  rw [firstDue, resultWriteBack_lo _ _ _ _ hout hwrite hwrites hd, hwbs] at hdue
  rw [firedFiring, settle_of_ne s ((recordBeat_instr ..).trans (mkFiring_instr ..)) hserial]
  exact ⟨htrap, hnone.trans heffects, hpoint.trans (mkFiring_point ..), _, hdue, rfl, rfl, rfl⟩

/-- Settles O36: the rule fires (`firedFiring_of_write`), its firing commits and writes back, each alone in the brick. -/
theorem oneBeatRuleLife : Obligations.OneBeatRuleLife := by
  intro i o s r v m n b f0 out hmay hr hbeat hbeats hd hwrites hpos hle hserial hdelay hcommit hfirings hf htrap heffects hwbs hout hwrite hm hn
  have hlate := Instr.judgedLate_of_trapDelay hdelay
  have hfirst : firstOut i o s r = out := if_neg (by simp [hlate])
  obtain ⟨hinstr, -, hfired, -, hcommitted⟩ := firedFiring_kept i o s r
  obtain ⟨hnone, hempty, hpoint, w, hw, hlo, hport, hdue⟩ := firedFiring_of_write (o := o) hbeats hd hwrites hserial hdelay hf (hfirst ▸ htrap)
    (hfirst ▸ heffects) (hfirst ▸ hwbs) (hfirst ▸ hout) (hfirst ▸ hwrite)
  let t1 := fired i o s r
  have halone : (t1.brick b).firings = [firedFiring i o s r] := (fired_firings i o s r).trans (by rw [hfirings]; rfl)
  have hpast : (firedFiring i o s r).pastPoint m = true := by simp [Firing.pastPoint, Firing.atPoint, hpoint, hinstr, hdelay, hm, Nat.le_of_lt hm]
  obtain ⟨t2, g, hexec2, hg, hgc, hgw, hhbm2, hslices2, hbank2, hfires2⟩ := exec_firingCommit_alone (s := { t1 with now := m }) halone hcommitted hnone hempty
    (by simp [hw]) (hinstr.symm ▸ hlate) hpast (by simpa [hfired, hinstr, hcommit] using hm)
  obtain ⟨t3, hexec3, hslices3, hhbm3, hbank3, hfires3⟩ := exec_beatWriteBack_alone (s := { t2 with now := n }) hg hgc (hgw.trans hw) hport
    (hdue.symm ▸ hn) hlo
  have hbrick1 : t1.brick b = takeFiring s (s.brick b) i r (firedFiring i o s r) := fired_brick_eq i o s r
  have hslices : (t3.brick b).slices = writeSlices (s.brick b).slices r.d r.du.slices v := by
    calc (t3.brick b).slices = writeSlices (t2.brick b).slices r.d r.du.slices v := hslices3
      _ = writeSlices (t1.brick b).slices r.d r.du.slices v := congrArg (writeSlices · r.d r.du.slices v) hslices2
      _ = writeSlices (s.brick b).slices r.d r.du.slices v := by rw [hbrick1, takeFiring_slices]
  refine ⟨t1, t2, t3, exec_eq_fired hmay hr hbeat, hexec2, hexec3, ?_, fun k hk hlt => ?_, ?_, hhbm3.trans hhbm2, ?_⟩
  · rw [hslices]
    exact readSlices_writeSlices_same _ _ _ _ hpos hle
  · rw [hslices]
    exact readSlices_writeSlices_other _ _ _ _ _ hk hlt
  · calc (t3.brick b).bank = (t1.brick b).bank := hbank3.trans hbank2
      _ = (s.brick b).bank := by rw [hbrick1, takeFiring_bank]
  · calc (t3.brick b).fires = ((t1.brick b).fires + 1) % 2 ^ 48 := hfires3.trans hfires2
      _ = ((s.brick b).fires + 1) % 2 ^ 48 := by rw [hbrick1, takeFiring_fires]

end Sys2Proof.Machine

namespace Sys2Proof.Machine

open Sys2Proof

/-! The integer group: what a rule computes is its beat (R106 to R110) -/

theorem computes_of_beatOf {i : Instr} {o : Beat} (hb : beatOf i = some o) : Computes i o :=
  ⟨hb, fun _ h => by
    obtain ⟨_, r, ho, hr, he⟩ := exec_rule_fires (isRule_of_beatOf hb) h
    cases hb.symm.trans ho
    exact ⟨r, hr, he⟩⟩

section
variable {i : Instr} {wid : BitVec 3} {imm : BitVec 7} {op op' : Nat → Nat → Nat → Nat × Bool}

/-- A rule's beat may be said with any operation that agrees with its own. -/
theorem computes_beatAB (hb : beatOf i = some (beatAB wid op)) (hop : ∀ w a b, op w a b = op' w a b) : Computes i (beatAB wid op') := by
  obtain rfl : op = op' := funext fun w => funext fun a => funext fun b => hop w a b
  exact computes_of_beatOf hb

theorem computes_beatAI (hb : beatOf i = some (beatAI wid imm op)) (hop : ∀ w a m, op w a m = op' w a m) : Computes i (beatAI wid imm op') := by
  obtain rfl : op = op' := funext fun w => funext fun a => funext fun m => hop w a m
  exact computes_of_beatOf hb

end

/-! Add, subtract and multiply (R111 to R113) -/

/-- A difference borrows just where it is negative. -/
theorem subOp_eq (w a b : Nat) : subOp w a b = (lowBits w ((a : Int) - b), decide ((a : Int) - b < 0)) :=
  Prod.ext rfl (decide_eq_decide.2 (by omega))

/-- Settles O1: SUB by `subOp_eq`, the others as their beats are defined. -/
theorem addAndSubtract : Obligations.AddAndSubtract :=
  fun _ _ _ => ⟨computes_of_beatOf rfl, computes_beatAB rfl subOp_eq, computes_of_beatOf rfl, computes_of_beatOf rfl, computes_of_beatOf rfl⟩

theorem mulOp_eq (w a b : Nat) : mulOp w a b =
    (a * b % 2 ^ w, decide (signed w a * signed w b < -(2 ^ (w - 1)) ∨ 2 ^ (w - 1) ≤ signed w a * signed w b)) :=
  Prod.ext rfl (Bool.decide_or ..).symm

/-- Settles O2: MUL by `mulOp_eq`, the others as their beats are defined. -/
theorem multiply : Obligations.Multiply :=
  fun _ _ => ⟨computes_beatAB rfl mulOp_eq, computes_of_beatOf rfl, computes_of_beatOf rfl, computes_of_beatOf rfl⟩

/-! Divide (R114) -/

/-- Dividing the magnitudes and then giving the quotient its sign rounds toward zero. -/
theorem tdiv_eq_natAbs (x y : Int) :
    x.tdiv y = if (x < 0) ≠ (y < 0) then -((x.natAbs / y.natAbs : Nat) : Int) else ((x.natAbs / y.natAbs : Nat) : Int) := by
  have hnonneg (k : Nat) : ¬ (k : Int) < 0 := Int.not_lt.2 (Int.natCast_nonneg k)
  obtain ⟨m, rfl | ⟨rfl, hm⟩⟩ : ∃ m : Nat, x = m ∨ (x = -(m : Int) ∧ 0 < m) := ⟨x.natAbs, by omega⟩ <;>
    obtain ⟨n, rfl | ⟨rfl, hn⟩⟩ : ∃ n : Nat, y = n ∨ (y = -(n : Int) ∧ 0 < n) := ⟨y.natAbs, by omega⟩
  · simp [hnonneg]
  · simp [hnonneg, hn]
  · simp [hnonneg, hm]
  · simp [hm, hn]

theorem quotient_eq_tdiv (w a b : Nat) : quotient w a b = (signed w a).tdiv (signed w b) := (tdiv_eq_natAbs ..).symm

theorem divsOp_eq (w a b : Nat) : divsOp w a b =
    if signed w b = 0 then (lowBits w (-1), true)
    else if (signed w a).tdiv (signed w b) = 2 ^ (w - 1) then (lowBits w (-(2 ^ (w - 1))), true)
    else (lowBits w ((signed w a).tdiv (signed w b)), false) := by
  rw [divsOp, quotient_eq_tdiv]

theorem remsOp_eq (w a b : Nat) : remsOp w a b =
    if signed w b = 0 then (a, true)
    else if (signed w a).tdiv (signed w b) = 2 ^ (w - 1) then (0, true)
    else (lowBits w (signed w a - signed w b * (signed w a).tdiv (signed w b)), false) := by
  rw [remsOp, quotient_eq_tdiv]

/-- Settles O3: the signed forms by `quotient_eq_tdiv`. -/
theorem divide : Obligations.Divide :=
  fun _ _ => ⟨computes_of_beatOf rfl, computes_of_beatOf rfl, computes_beatAB rfl divsOp_eq, computes_beatAB rfl remsOp_eq⟩

/-! Saturation, minimum and maximum (R115, R116) -/

/-- In a range that is not empty, saturation is the nearest value of the range. -/
theorem saturate_eq {lo hi : Int} (h : lo ≤ hi) (t : Int) : saturate lo hi t = (max lo (min hi t), decide (t < lo ∨ hi < t)) := by
  unfold saturate
  split
  case isTrue habove => simp [habove, min_eq_left (Int.le_of_lt habove), max_eq_right h]
  case isFalse habove =>
    have hle : t ≤ hi := Int.not_lt.1 habove
    split
    case isTrue hbelow => simp [hbelow, min_eq_right hle, max_eq_left (Int.le_of_lt hbelow)]
    case isFalse hbelow => simp [hbelow, habove, min_eq_right hle, max_eq_right (Int.not_lt.1 hbelow)]

theorem satSigned_eq (w : Nat) (t : Int) : satSigned w t =
    (lowBits w (max (-(2 ^ (w - 1))) (min (2 ^ (w - 1) - 1) t)), decide (t < -(2 ^ (w - 1)) ∨ 2 ^ (w - 1) - 1 < t)) := by
  have hpos : (0 : Int) < 2 ^ (w - 1) := Int.pow_pos (by decide)
  rw [satSigned, saturate_eq (by omega)]

theorem satUnsigned_eq (w : Nat) (t : Int) : satUnsigned w t =
    (lowBits w (max 0 (min (2 ^ w - 1) t)), decide (t < 0 ∨ 2 ^ w - 1 < t)) := by
  have hpos : (0 : Int) < 2 ^ w := Int.pow_pos (by decide)
  rw [satUnsigned, saturate_eq (by omega)]

theorem prefer_decide (a b : Nat) (p : Prop) [Decidable p] : prefer a b (decide p) = if p then (b, true) else (a, false) := by
  by_cases h : p <;> simp [prefer, h]

/-- Settles O4: the saturating forms by `saturate_eq`, MIN to MAXU by `prefer_decide`. -/
theorem saturateMinMax : Obligations.SaturateMinMax :=
  fun _ _ _ => ⟨computes_beatAB rfl fun w _ _ => satSigned_eq w _, computes_beatAB rfl fun w _ _ => satUnsigned_eq w _,
    computes_beatAB rfl fun w _ _ => satSigned_eq w _, computes_beatAB rfl fun w _ _ => satUnsigned_eq w _,
    computes_beatAB rfl fun _ a b => prefer_decide a b _, computes_beatAB rfl fun _ a b => prefer_decide a b _,
    computes_beatAB rfl fun _ a b => prefer_decide a b _, computes_beatAB rfl fun _ a b => prefer_decide a b _,
    computes_of_beatOf rfl, computes_of_beatOf rfl⟩

/-! Logic, shifts and rotates (R117 to R119) -/

theorem notW_testBit (w a i : Nat) : (notW w a).testBit i = (decide (i < w) && !a.testBit i) := by
  rw [notW, Nat.sub_sub, Nat.add_comm, Nat.testBit_two_pow_sub_succ (Nat.mod_lt _ (Nat.two_pow_pos w)), Nat.testBit_mod_two_pow]
  cases decide (i < w) <;> rfl

/-- Settles O5: the complement by `notW_testBit`, the rules as their beats are defined. -/
theorem logic : Obligations.Logic :=
  fun _ _ _ => ⟨notW_testBit, computes_of_beatOf rfl, computes_of_beatOf rfl, computes_of_beatOf rfl, computes_of_beatOf rfl, computes_of_beatOf rfl,
    computes_of_beatOf rfl, computes_of_beatOf rfl, computes_of_beatOf rfl, computes_of_beatOf rfl⟩

/-- Settles O6: each beat is defined by the operation of R119. -/
theorem shiftAndRotate : Obligations.ShiftAndRotate :=
  fun _ _ _ => ⟨computes_of_beatOf rfl, computes_of_beatOf rfl, computes_of_beatOf rfl, computes_of_beatOf rfl,
    computes_of_beatOf rfl, computes_of_beatOf rfl, computes_of_beatOf rfl, computes_of_beatOf rfl⟩

/-! Bit fields and counts (R120, R121) -/

/-- The number whose bits below `m` are those of `p`. -/
def sumBits (p : Nat → Bool) (m : Nat) : Nat := (List.range m).foldl (fun n i => n + b2n (p i) * 2 ^ i) 0

theorem b2n_eq_toNat (c : Bool) : b2n c = c.toNat := by cases c <;> rfl

theorem sumBits_succ (p : Nat → Bool) (m : Nat) : sumBits p (m + 1) = 2 ^ m * (p m).toNat + sumBits p m := by
  rw [sumBits, List.range_succ, List.foldl_append, Nat.mul_comm, Nat.add_comm, ← b2n_eq_toNat]
  rfl

theorem sumBits_lt (p : Nat → Bool) (m : Nat) : sumBits p m < 2 ^ m := by
  induction m with
  | zero => exact Nat.one_pos
  | succ m ih =>
    rw [sumBits_succ, Nat.pow_succ]
    cases p m <;> simp <;> omega

theorem sumBits_testBit (p : Nat → Bool) (m i : Nat) : (sumBits p m).testBit i = (decide (i < m) && p i) := by
  induction m with
  | zero => simp [sumBits]
  | succ m ih =>
    rw [sumBits_succ, Nat.testBit_two_pow_mul_add _ (sumBits_lt p m), Nat.testBit_bool_toNat]
    obtain hlt | rfl | hgt := Nat.lt_trichotomy i m
    · simp [hlt, Nat.lt_succ_of_lt hlt, ih]
    · simp
    · have hsub : i - m ≠ 0 := by omega
      have hge : ¬ i < m + 1 := by omega
      simp [Nat.lt_asymm hgt, hsub, hge]

theorem reverseBits_eq (w a : Nat) : reverseBits w a = sumBits (fun i => bit a (w - 1 - i)) w := rfl

theorem bit_reverseBits (w a i : Nat) : bit (reverseBits w a) i = (decide (i < w) && bit a (w - 1 - i)) := by
  rw [reverseBits_eq]
  exact sumBits_testBit ..

theorem leadingZeros_zero (w : Nat) : leadingZeros w 0 = w := by
  induction w with
  | zero => rfl
  | succ w ih =>
    have hbit : bit 0 w = false := Nat.zero_testBit w
    simp [leadingZeros, hbit, ih, Nat.add_comm]

theorem leadingZeros_reverseBits_zero (w : Nat) : leadingZeros w (reverseBits w 0) = w := by
  have hzero : reverseBits w 0 = 0 := Nat.eq_of_testBit_eq fun i => (bit_reverseBits w 0 i).trans (by simp [bit])
  rw [hzero, leadingZeros_zero]

/-- Above its highest one, at `k`, a number of `w` bits has w − 1 − k zeros. -/
theorem leadingZeros_of_highest {w a k : Nat} (hk : k < w) (hone : bit a k = true) (habove : ∀ j, k < j → j < w → bit a j = false) :
    leadingZeros w a = w - 1 - k := by
  induction w with
  | zero => omega
  | succ w ih =>
    obtain hlt | rfl := Nat.lt_succ_iff_lt_or_eq.1 hk
    · rw [leadingZeros, habove w hlt (Nat.lt_succ_self w), ih hlt fun j hj hjw => habove j hj (Nat.lt_succ_of_lt hjw)]
      simp only [Bool.false_eq_true, if_false]
      omega
    · rw [leadingZeros, hone, if_pos rfl]
      omega

/-- The lowest one of a number is the highest of its reverse. -/
theorem leadingZeros_reverseBits {w a k : Nat} (hk : k < w) (hone : bit a k = true) (hbelow : ∀ j, j < k → bit a j = false) :
    leadingZeros w (reverseBits w a) = k := by
  have hplace : w - 1 - k < w := by omega
  have hback : w - 1 - (w - 1 - k) = k := by omega
  rw [leadingZeros_of_highest hplace, hback]
  · rw [bit_reverseBits, hback, hone, decide_eq_true hplace]
    rfl
  · intro j hj hjw
    rw [bit_reverseBits, hbelow _ (by omega), Bool.and_false]

theorem popCount_eq_length (w a : Nat) : popCount w a = (onesBelow w a).length := by
  induction w with
  | zero => rfl
  | succ w ih =>
    rw [popCount, ih, onesBelow, onesBelow, List.range_succ, List.filter_append, List.length_append, Nat.add_comm]
    cases h : bit a w <;> simp [b2n, h]

theorem popcOp_eq (w a imm : Nat) : popcOp w a imm = ((onesBelow w a).length, decide ((onesBelow w a).length % 2 = 1)) := by
  rw [popcOp, popCount_eq_length]

/-- Settles O7: the fields as their beats are defined; CLZ by `leadingZeros`, CTZ by that of the reverse, POPC by `popCount_eq_length`. -/
theorem fieldsAndCounts : Obligations.FieldsAndCounts :=
  fun _ _ => ⟨computes_of_beatOf rfl, computes_of_beatOf rfl, computes_of_beatOf rfl, computes_of_beatOf rfl,
    ⟨leadingZeros, fun w a => leadingZeros w (reverseBits w a), reverseBits,
      fun w => ⟨leadingZeros_zero w, leadingZeros_reverseBits_zero w⟩,
      fun _ _ _ => leadingZeros_of_highest, fun _ _ _ => leadingZeros_reverseBits, bit_reverseBits,
      computes_of_beatOf rfl, computes_of_beatOf rfl, computes_of_beatOf rfl⟩,
    computes_beatAI rfl popcOp_eq⟩

/-! Moves, select and compares (R122 to R127) -/

/-- Settles O8: each beat is defined by the operation of its rule. -/
theorem moveAndSelect : Obligations.MoveAndSelect :=
  fun _ _ _ _ => ⟨computes_of_beatOf rfl, computes_of_beatOf rfl, computes_of_beatOf rfl, computes_of_beatOf rfl, computes_of_beatOf rfl⟩

/-- Settles O9: each beat is defined by the comparison of its rule. -/
theorem compares : Obligations.Compares :=
  fun _ _ _ _ => ⟨computes_of_beatOf rfl, computes_of_beatOf rfl, computes_of_beatOf rfl, computes_of_beatOf rfl, computes_of_beatOf rfl,
    computes_of_beatOf rfl, computes_of_beatOf rfl, computes_of_beatOf rfl, computes_of_beatOf rfl, computes_of_beatOf rfl⟩

end Sys2Proof.Machine

namespace Sys2Proof.Machine

open Sys2Proof

/-! The order of exact values (R144, R159) -/

/-- The number that a finite value is. -/
noncomputable def Val.toReal : Val → ℝ
  | .fin s m e => (if s then -(m : ℝ) else m) * 2 ^ e
  | _ => 0

/-- Where a value that is no NaN stands among the numbers and the infinities. -/
noncomputable def Val.toEReal : Val → EReal
  | .inf s => if s then ⊥ else ⊤
  | v => v.toReal

/-- The place of a value in the order of `Val.below`: by its number, and −0 before +0. -/
noncomputable def Val.place (v : Val) : EReal ×ₗ Bool := toLex (v.toEReal, !(v.isZero && v.sign))

theorem shiftBy_cast {m : Nat} {k : Int} (h : m ≠ 0 → 0 ≤ k) : ((shiftBy m k : Nat) : ℝ) = m * 2 ^ k := by
  obtain rfl | hm := eq_or_ne m 0
  · simp [shiftBy]
  · obtain ⟨n, rfl⟩ := Int.eq_ofNat_of_zero_le (h hm)
    simp [shiftBy, Nat.shiftLeft_eq]

/-- In units no greater than its own, a finite value is a whole number of units. -/
theorem Val.units_cast {s : Bool} {m : Nat} {e e0 : Int} (h : m ≠ 0 → e0 ≤ e) :
    ((Val.units e0 (.fin s m e) : Int) : ℝ) = (Val.fin s m e).toReal * 2 ^ (-e0) := by
  have hshift := shiftBy_cast (m := m) (k := e - e0) fun hm => Int.sub_nonneg.2 (h hm)
  have hpow : (2 : ℝ) ^ (e - e0) = 2 ^ e * 2 ^ (-e0) := by rw [← zpow_add₀ two_ne_zero, Int.sub_eq_add_neg]
  cases s <;> simp [Val.units, Val.toReal, hshift, hpow, mul_assoc]

theorem foldl_min_le (l : List Int) (a : Int) : l.foldl min a ≤ a ∧ ∀ x ∈ l, l.foldl min a ≤ x := by
  induction l generalizing a with
  | nil => simp
  | cons y l ih =>
    obtain ⟨hinit, hrest⟩ := ih (min a y)
    exact ⟨hinit.trans (min_le_left ..), List.forall_mem_cons.2 ⟨hinit.trans (min_le_right ..), hrest⟩⟩

theorem Val.minExp_le {vs : List Val} {s : Bool} {m : Nat} {e : Int} (h : Val.fin s m e ∈ vs) (hm : m ≠ 0) : Val.minExp vs ≤ e :=
  (foldl_min_le _ _).2 e (List.mem_filterMap.2 ⟨_, h, if_neg hm⟩)

/-- Finite values compare as the numbers that they are. -/
theorem Val.lt_fin_iff (s t : Bool) (m n : Nat) (e g : Int) :
    Val.lt (.fin s m e) (.fin t n g) = true ↔ (Val.fin s m e).toReal < (Val.fin t n g).toReal := by
  let e0 := Val.minExp [.fin s m e, .fin t n g]
  have hleft := Val.units_cast (s := s) (e0 := e0) (Val.minExp_le (s := s) (m := m) (e := e) (by simp))
  have hright := Val.units_cast (s := t) (e0 := e0) (Val.minExp_le (s := t) (m := n) (e := g) (by simp))
  calc Val.lt (.fin s m e) (.fin t n g) = true ↔ Val.units e0 (.fin s m e) < Val.units e0 (.fin t n g) := decide_eq_true_iff
    _ ↔ (Val.fin s m e).toReal * 2 ^ (-e0) < (Val.fin t n g).toReal * 2 ^ (-e0) := by rw [← hleft, ← hright, Int.cast_lt]
    _ ↔ (Val.fin s m e).toReal < (Val.fin t n g).toReal := mul_lt_mul_iff_left₀ (zpow_pos two_pos _)

theorem Val.lt_iff {a b : Val} (ha : a.isNan = false) (hb : b.isNan = false) : Val.lt a b = true ↔ a.toEReal < b.toEReal := by
  match a, b with
  | .inf s, .inf t => cases s <;> cases t <;> simp [Val.lt, Val.toEReal]
  | .inf s, .fin .. => cases s <;> simp [Val.lt, Val.toEReal]
  | .fin .., .inf t => cases t <;> simp [Val.lt, Val.toEReal]
  | .fin .., .fin .. => simp [Val.lt_fin_iff, Val.toEReal]

theorem Val.isZero_iff {a : Val} (ha : a.isNan = false) : a.isZero = true ↔ a.toEReal = 0 := by
  match a with
  | .inf s => cases s <;> simp [Val.isZero, Val.toEReal]
  | .fin s m e => cases s <;> simp [Val.isZero, Val.toEReal, Val.toReal, zpow_ne_zero]

/-- Among values that are no NaN, `below` is the order of their places. -/
theorem Val.below_iff {a b : Val} (ha : a.isNan = false) (hb : b.isNan = false) : Val.below a b = true ↔ a.place < b.place := by
  rw [Val.below, Val.place, Val.place, Prod.Lex.toLex_lt_toLex, Bool.or_eq_true, Val.lt_iff ha hb]
  refine or_congr_right ?_
  obtain heq | hne := eq_or_ne a.toEReal b.toEReal
  · have hzero : a.isZero = b.isZero := by rw [Bool.eq_iff_iff, Val.isZero_iff ha, Val.isZero_iff hb, heq]
    cases h : b.isZero <;> simp [heq, hzero, h, Bool.lt_iff, and_comm]
  · have hzero (hza : a.isZero = true) (hzb : b.isZero = true) : a.toEReal = b.toEReal :=
      ((Val.isZero_iff ha).1 hza).trans ((Val.isZero_iff hb).1 hzb).symm
    simpa [hne] using fun hza hzb => absurd (hzero hza hzb) hne

/-- A NaN lies neither below a value nor above one. -/
theorem Val.not_nan_and_below (a b : Val) : (!b.isNan && !a.isNan && Val.below a b) = Val.below a b := by
  cases a <;> cases b <;> simp [Val.below, Val.lt, Val.isZero, Val.isNan]

theorem Val.below_eq_false_iff {a b : Val} (ha : a.isNan = false) (hb : b.isNan = false) : Val.below a b = false ↔ b.place ≤ a.place := by
  rw [← not_lt, ← Val.below_iff ha hb, Bool.not_eq_true]

/-! Reductions (R167 to R169) -/

/-- The greater of the value so far and the next; the earlier one where neither lies below the other. -/
def Val.greater (m a : Val) : Val := if Val.below m a then a else m

theorem Val.greater_mem (m a : Val) : Val.greater m a = m ∨ Val.greater m a = a := by
  unfold Val.greater
  split <;> simp

theorem Val.place_le_greater {m a : Val} (hm : m.isNan = false) (ha : a.isNan = false) :
    m.place ≤ (Val.greater m a).place ∧ a.place ≤ (Val.greater m a).place := by
  unfold Val.greater
  split
  case isTrue h => exact ⟨le_of_lt ((Val.below_iff hm ha).1 h), le_rfl⟩
  case isFalse h => exact ⟨le_rfl, (Val.below_eq_false_iff hm ha).1 (Bool.eq_false_iff.2 h)⟩

theorem Val.foldl_greater_mem (d : Val) (as : List Val) : as.foldl Val.greater d ∈ d :: as :=
  List.foldlRecOn as Val.greater List.mem_cons_self fun m hm a ha => by
    obtain h | h := Val.greater_mem m a <;> rw [h]
    · exact hm
    · exact List.mem_cons_of_mem d ha

/-- No value has a later place than the greater of all in turn. -/
theorem Val.place_le_foldl_greater {d : Val} {as : List Val} (hnan : ∀ a ∈ d :: as, a.isNan = false) :
    ∀ a ∈ d :: as, a.place ≤ (as.foldl Val.greater d).place := by
  induction as generalizing d with
  | nil => simp
  | cons c as ih =>
    obtain ⟨hd, hc, has⟩ := by simpa only [List.forall_mem_cons] using hnan
    have hnext : (Val.greater d c).isNan = false := by
      obtain h | h := Val.greater_mem d c <;> rw [h] <;> assumption
    obtain ⟨hgreater, hrest⟩ := List.forall_mem_cons.1 (ih (List.forall_mem_cons.2 ⟨hnext, has⟩))
    obtain ⟨hdle, hcle⟩ := Val.place_le_greater hd hc
    exact List.forall_mem_cons.2 ⟨hdle.trans hgreater, List.forall_mem_cons.2 ⟨hcle.trans hgreater, hrest⟩⟩

/-- The greater of all in turn is one of them and lies below none. -/
theorem Val.foldl_greater_greatest {d : Val} {as : List Val} (hnan : (d.isNan || as.any Val.isNan) = false) :
    as.foldl Val.greater d ∈ d :: as ∧ ∀ a ∈ d :: as, Val.below (as.foldl Val.greater d) a = false := by
  have hnone : ∀ a ∈ d :: as, a.isNan = false := by simpa using hnan
  have hmem := Val.foldl_greater_mem d as
  exact ⟨hmem, fun a ha => (Val.below_eq_false_iff (hnone _ hmem) (hnone a ha)).2 (Val.place_le_foldl_greater hnone a ha)⟩

/-- What FSUM and FDOT write at their last beat. -/
theorem reduced_write (s : State) (b : BrickId) (f : Firing) (r : RuleInfo) (as bs : List Val) (fl : Nat) :
    (reduced s b f r as bs fl).write =
      some (fp32.enc (ftzIn (bit f.fmode 2) (dot32grp as bs (ftzIn (bit f.fmode 2) (fp32.dec (srcD s b f r 0))).1)).1) := by
  simp only [reduced, BeatOut.value, dot32grp, readF]
  congr 4
  refine (List.foldl_hom Prod.fst (init := (_, 0)) ?_).symm
  intros
  rfl

/-- The values of an unpacked word are decoded and flushed one by one. -/
theorem unpackF_values (g : Fmt) (fmode : Nat) (ws : List Nat) :
    (unpackF g fmode ws).1 = ws.flatMap fun w => (List.range (64 / g.bits)).map fun j =>
      (ftzIn (bit fmode 2) (g.dec (bits w (g.bits * j + g.bits - 1) (g.bits * j)))).1 := by
  simp only [unpackF, List.map_flatMap, List.map_map]
  rfl

/-- What FMAXR writes and flags at its last beat. -/
theorem fmaxrBeat_last (x : TBody) (s : State) (b : BrickId) (f : Firing) {r : RuleInfo} {n : Nat} (h : n + 1 = r.beats) :
    let g := Fmt.ofWid x.wid.toNat
    let flush := fun c => (ftzIn (bit f.fmode 2) c).1
    let as := (f.acc ++ [srcA s b f r n]).map fun c => flush (g.dec c)
    let d := flush (g.dec (srcD s b f r 0))
    (fmaxrBeat x s b f r n).write = some (g.enc (if d.isNan || as.any Val.isNan then .nan else as.foldl Val.greater d)) ∧
    (fmaxrBeat x s b f r n).flag = as.any fun a => Val.below d a := by
  simp only [fmaxrBeat, if_pos h, BeatOut.value, readF, Val.not_nan_and_below, and_true]
  rfl

/-- Settles O14: the sums by `reduced_write`, FMAXR by `fmaxrBeat_last` and `Val.foldl_greater_greatest`. -/
theorem reductions : Obligations.Reductions := by
  intro h x
  refine ⟨⟨completes_of_isRule rfl, completes_of_isRule rfl, completes_of_isRule rfl⟩,
    ⟨fsumBeat x, computes_of_beatOf rfl, fun s b f r n => ⟨fun hmore => ?_, fun hlast => ?_⟩⟩,
    ⟨fdotBeat x, computes_of_beatOf rfl, fun s b f r n => ⟨fun hmore => ?_, fun hlast => ?_⟩⟩,
    ⟨fmaxrBeat x, computes_of_beatOf rfl, fun s b f r n => ⟨fun hmore => ?_, fun hlast hnan => ?_, fun hlast hnan => ?_⟩⟩⟩
  · simp [fsumBeat, hmore]
  · simp only [fsumBeat, if_pos hlast, reduced_write]
  · simp [fdotBeat, hmore]
  · simp only [fdotBeat, if_pos hlast, reduced_write, unpackF_values]
  · simp [fmaxrBeat, hmore]
  · rw [(fmaxrBeat_last x s b f hlast).1, if_pos hnan]
  · obtain ⟨hwrite, hflag⟩ := fmaxrBeat_last x s b f hlast
    obtain ⟨hmem, htop⟩ := Val.foldl_greater_greatest hnan
    exact ⟨_, hwrite.trans (by rw [if_neg (Bool.eq_false_iff.1 hnan)]), hmem, htop, hflag⟩

end Sys2Proof.Machine

namespace Sys2Proof.Machine

open Sys2Proof

/-! Floating-point arithmetic, order and sign (R157 to R162) -/

/-- Settles O10: each beat is defined by its exact operation. -/
theorem floatArithmetic : Obligations.FloatArithmetic :=
  fun _ _ => ⟨computes_of_beatOf rfl, computes_of_beatOf rfl, computes_of_beatOf rfl, computes_of_beatOf rfl, computes_of_beatOf rfl,
    computes_of_beatOf rfl, computes_of_beatOf rfl⟩

/-- A NaN neither equals a value nor lies below one (R160). -/
theorem Val.eq_lt_of_nan {a b : Val} (h : a = .nan ∨ b = .nan) : Val.eq a b = false ∧ Val.lt a b = false := by
  obtain rfl | rfl := h
  · exact ⟨rfl, rfl⟩
  · cases a <;> exact ⟨rfl, rfl⟩

theorem cat_zero_left (w b : Nat) : cat 0 w b = b % 2 ^ w := by simp [cat]

/-- Settles O11: FABS by `cat_zero_left`, the compares of NaN by `Val.eq_lt_of_nan`, the others as their beats are defined. -/
theorem floatOrderAndSign : Obligations.FloatOrderAndSign := by
  refine fun _ _ _ => ⟨computes_of_beatOf rfl, computes_of_beatOf rfl, computes_of_beatOf rfl, computes_of_beatOf rfl, computes_of_beatOf rfl,
    computes_of_beatOf rfl, computes_of_beatOf rfl, computes_of_beatOf rfl, fun _ _ => Val.eq_lt_of_nan, computes_of_beatOf rfl,
    computes_of_beatOf (congrArg some ?_), computes_of_beatOf rfl⟩
  funext s b f r n
  simp only [fabsBeat, beatSign, b2n, Bool.false_eq_true, if_false, cat_zero_left]

/-! Conversions (R166) -/

/-- Saturation by cases: above the range, below it, or in it. -/
theorem saturate_eq_ite (lo hi t : Int) : saturate lo hi t = (if hi < t then hi else if t < lo then lo else t, decide (hi < t ∨ t < lo)) := by
  unfold saturate
  split
  case isTrue habove => simp [habove]
  case isFalse habove => split <;> simp [*]

/-- Settles O13: CVTFI by `saturate_eq_ite`, the others as their beats are defined. -/
theorem conversions : Obligations.Conversions := by
  refine fun _ y => ⟨computes_of_beatOf rfl, computes_of_beatOf rfl, computes_of_beatOf (congrArg some ?_), computes_of_beatOf rfl⟩
  funext s b f r n
  simp only [cvtfiBeat, saturate_eq_ite]
  rfl

end Sys2Proof.Machine

namespace Sys2Proof.Machine

open Sys2Proof

/-! Special functions (R163, R164) -/

/-- From a root of the higher bits, the root of all of them. -/
theorem isqrtFrom_spec {n k r : Nat} (hle : r * r ≤ n) (hlt : n < (r + 2 ^ k) * (r + 2 ^ k)) :
    isqrtFrom n k r * isqrtFrom n k r ≤ n ∧ n < (isqrtFrom n k r + 1) * (isqrtFrom n k r + 1) := by
  induction k generalizing r with
  | zero => exact ⟨hle, hlt⟩
  | succ k ih =>
    rw [isqrtFrom]
    split
    case isTrue hbit => exact ih hbit (by rwa [Nat.add_assoc, ← Nat.two_mul, ← Nat.pow_succ'])
    case isFalse hbit => exact ih hle (Nat.lt_of_not_le hbit)

/-- `isqrt` is the integer square root. -/
theorem isqrt_spec (n : Nat) : isqrt n * isqrt n ≤ n ∧ n < (isqrt n + 1) * (isqrt n + 1) := by
  refine isqrtFrom_spec (Nat.zero_le n) ?_
  calc n < 2 ^ (n.log2 + 1) := Nat.lt_log2_self
    _ ≤ 2 ^ (n.log2 / 2 + 1 + (n.log2 / 2 + 1)) := Nat.pow_le_pow_right Nat.two_pos (by omega)
    _ = (0 + 2 ^ (n.log2 / 2 + 1)) * (0 + 2 ^ (n.log2 / 2 + 1)) := by rw [Nat.zero_add, Nat.pow_add]

section
variable {m : Nat} (hm : m ≠ 0) (g : Fmt) (rm : Nat) (e : Int)
include hm

theorem sfuSqrt_eq_isqrt :
    let c := m * 2 ^ ((e % 2).toNat + 128)
    sfuSqrt g rm (.fin false m e) = (.fin false (2 * isqrt c + b2n (isqrt c * isqrt c ≠ c)) ((e - e % 2) / 2 - 65), 0) := by
  have hodd : ((e % 2).toNat : Int) = e % 2 := Int.toNat_of_nonneg (Int.emod_nonneg e two_ne_zero)
  simp only [sfuSqrt, hm, sqrtVal, Nat.shiftLeft_eq, Nat.mul_assoc, ← Nat.pow_add, hodd, Int.sub_sub]
  rfl

theorem sfuRsqrt_eq_isqrt :
    let c := m * 2 ^ (e % 2).toNat
    let r := isqrt (2 ^ 256 / c)
    sfuRsqrt g rm (.fin false m e) = (.fin false (2 * r + b2n (r * r * c ≠ 2 ^ 256)) (-((e - e % 2) / 2) - 129), 0) := by
  have hodd : ((e % 2).toNat : Int) = e % 2 := Int.toNat_of_nonneg (Int.emod_nonneg e two_ne_zero)
  simp only [sfuRsqrt, hm, rsqrtVal, hodd, Int.sub_sub]
  rfl

/-- The sine of π times a whole number is zero with the number's sign. -/
theorem sfuSinpi_of_whole (s : Bool) (hwhole : (overPow m e).1 % 2 ^ (overPow m e).2 = 0) :
    sfuSinpi g rm (.fin s m e) = (.zero s, 0) := by
  simp only [sfuSinpi, hm, if_false, hwhole, if_true]

end

theorem overPow_nonneg (m : Nat) {e : Int} (he : 0 ≤ e) : overPow m e = (m * 2 ^ e.toNat, 0) := if_pos he

theorem overPow_mul_pow (m k : Nat) : (overPow (m * 2 ^ k) (-(k : Int))).1 % 2 ^ (overPow (m * 2 ^ k) (-(k : Int))).2 = 0 := by
  unfold overPow
  split
  case isTrue => exact Nat.mod_one _
  case isFalse => simp

/-- The root of a quotient: the greatest number whose square, times the divisor, is at most the dividend. -/
theorem isqrt_div_spec (n : Nat) {c : Nat} (hc : 0 < c) :
    isqrt (n / c) * isqrt (n / c) * c ≤ n ∧ n < (isqrt (n / c) + 1) * (isqrt (n / c) + 1) * c := by
  obtain ⟨hle, hlt⟩ := isqrt_spec (n / c)
  exact ⟨(Nat.le_div_iff_mul_le hc).1 hle, (Nat.div_lt_iff_lt_mul hc).1 hlt⟩

theorem Val.units_ofInt (e : Int) : (Val.ofInt e).units 0 = e := by
  obtain h | h := lt_or_ge e 0
  · simp [Val.ofInt, Val.units, shiftBy, h, abs_of_neg h]
  · simp [Val.ofInt, Val.units, shiftBy, Int.not_lt.2 h, abs_of_nonneg h]

/-- A power of two with a whole exponent is exact (R145, R163). -/
theorem exp2Val_ofInt (g : Fmt) (rm : Nat) {e : Int} (hlo : -5000 ≤ e) (hhi : e ≤ 5000) : exp2Val g rm (.ofInt e) = .fin false 1 e := by
  have hunits : Val.units 0 (.fin (decide (e < 0)) e.natAbs 0) = e := Val.units_ofInt e
  simp only [Val.ofInt, exp2Val, hunits, Int.not_lt.2 hlo, Int.not_lt.2 hhi, le_refl, if_true, if_false]

theorem sfuLog2_pow (g : Fmt) (rm : Nat) (e : Int) : sfuLog2 g rm (.fin false 1 e) = (.ofInt e, 0) := by
  have hlog : Nat.log2 1 = 0 := Nat.log2_two_pow (n := 0)
  simp [sfuLog2, log2Val, hlog]

/-- The sine of π/2 is one, whatever the denominator that 1/2 is given over. -/
theorem sinPiOf_half (g : Fmt) (rm k : Nat) : sinPiOf g rm false (2 ^ k) (k + 1) = .fin false 1 0 := by
  have hturn : 2 ^ k < 2 ^ (k + 1) := Nat.pow_lt_pow_right Nat.one_lt_two (Nat.lt_succ_self k)
  have hturns : 2 ^ k < 2 ^ (k + 1 + 1) := Nat.pow_lt_pow_right Nat.one_lt_two (by omega)
  simp [sinPiOf, Nat.mod_eq_of_lt hturn, Nat.mod_eq_of_lt hturns, Nat.not_le.2 hturn, ← Nat.pow_succ']

/-- The sine of π times a whole number is a zero. -/
theorem sinPiOf_whole (g : Fmt) (rm t k : Nat) (h : 2 ^ k ∣ t) : ∃ s, sinPiOf g rm false t k = .zero s := by
  have hmod : t % 2 ^ (k + 1) % 2 ^ k = 0 := by
    rw [Nat.mod_mod_of_dvd t (Nat.pow_dvd_pow 2 (Nat.le_succ k)), Nat.mod_eq_zero_of_dvd h]
  exact ⟨_, if_pos hmod⟩

theorem sfuCospi_zero (g : Fmt) (rm : Nat) (s : Bool) (e : Int) : sfuCospi g rm (.fin s 0 e) = (.fin false 1 0, 0) := by
  obtain ⟨k, hk⟩ : ∃ k, overPow 0 e = (0, k) := by
    unfold overPow
    split <;> simp
  simp [sfuCospi, hk, sinPiOf_half]

/-- The cosine of π times a half-odd number is +0. -/
theorem sfuCospi_half (g : Fmt) (rm n : Nat) (s : Bool) : sfuCospi g rm (.fin s (2 * n + 1) (-1)) = (.zero false, 0) := by
  obtain ⟨t, ht⟩ := sinPiOf_whole g rm (2 * (2 * n + 1) + 2 ^ 1) (1 + 1) ⟨n + 1, by omega⟩
  have hover : overPow (2 * n + 1) (-1) = (2 * n + 1, 1) := rfl
  simp only [sfuCospi, hover, ht, Val.zero]

/-- Settles O12: the roots by `isqrt_spec` and `isqrt_div_spec`, the other exact cases each by its own lemma, the special operands as the functions are defined. -/
theorem specialFunctions : Obligations.SpecialFunctions := by
  refine ⟨fun h x y => ⟨computes_of_beatOf rfl, computes_of_beatOf rfl, computes_of_beatOf rfl, computes_of_beatOf rfl, computes_of_beatOf rfl,
      computes_of_beatOf rfl, computes_of_beatOf rfl, computes_of_beatOf rfl, computes_of_beatOf rfl, completes_of_isRule rfl, completes_of_isRule rfl,
      completes_of_isRule rfl, completes_of_isRule rfl, completes_of_isRule rfl, completes_of_isRule rfl, completes_of_isRule rfl, completes_of_isRule rfl,
      completes_of_isRule rfl⟩,
    fun g rm s e => ?_, fun g rm m e hm => ?_, fun g rm n s e a => ?_⟩
  · refine ⟨rfl, rfl, rfl, rfl, rfl, ?_, ?_, rfl, rfl, rfl, rfl, rfl, rfl, rfl, rfl, rfl, rfl, rfl⟩ <;> cases s <;> rfl
  · have hc : 0 < m * 2 ^ (e % 2).toNat := Nat.mul_pos (Nat.pos_of_ne_zero hm) (Nat.two_pow_pos _)
    obtain ⟨hsqrtLe, hsqrtLt⟩ := isqrt_spec (m * 2 ^ ((e % 2).toNat + 128))
    obtain ⟨hrsqrtLe, hrsqrtLt⟩ := isqrt_div_spec (2 ^ 256) hc
    refine ⟨if_neg hm, if_neg hm, if_neg hm, fun s he => sfuSinpi_of_whole hm g rm e s (by rw [overPow_nonneg m he]; exact Nat.mod_one _),
      ⟨_, hsqrtLe, hsqrtLt, sfuSqrt_eq_isqrt hm g rm e⟩, ⟨_, hrsqrtLe, hrsqrtLt, sfuRsqrt_eq_isqrt hm g rm e⟩,
      fun s k => sfuSinpi_of_whole (Nat.mul_ne_zero hm (Nat.two_pow_pos k).ne') g rm _ s (overPow_mul_pow m k)⟩
  · exact ⟨rfl, fun hlo hhi => congrArg (·, 0) (exp2Val_ofInt g rm hlo hhi), sfuLog2_pow g rm e, sfuCospi_zero g rm s e, sfuCospi_half g rm n s⟩

end Sys2Proof.Machine

namespace Sys2Proof.Machine

open Sys2Proof

/-! Packed words (R171) -/

section
variable {α : Type} {n fuel : Nat} {l : List α}

/-- Group k of a list holds its elements from n · k on. -/
theorem groupsOf_getD (hn : 0 < n) (hl : l.length ≤ fuel) (k : Nat) : (groupsOf n fuel l).getD k [] = (l.drop (n * k)).take n := by
  induction fuel generalizing l k with
  | zero => simp [List.eq_nil_of_length_eq_zero (Nat.le_zero.1 hl), groupsOf]
  | succ fuel ih =>
    rw [groupsOf]
    split
    case isTrue hempty => simp [List.isEmpty_iff.1 hempty]
    case isFalse hempty =>
      have hpos : 0 < l.length := List.length_pos_iff.2 fun h => hempty (List.isEmpty_iff.2 h)
      cases k with
      | zero => simp
      | succ k => rw [List.getD_cons_succ, ih (by rw [List.length_drop]; omega), List.drop_drop, Nat.mul_succ, Nat.add_comm]

theorem groupsOf_length (hn : 0 < n) {q : Nat} (hl : l.length = n * q) (hq : q ≤ fuel) : (groupsOf n fuel l).length = q := by
  induction fuel generalizing l q with
  | zero => simpa [groupsOf] using Nat.le_zero.1 hq |>.symm
  | succ fuel ih =>
    rw [groupsOf]
    cases q with
    | zero => simp [List.eq_nil_of_length_eq_zero hl]
    | succ q =>
      have hempty : ¬ l.isEmpty := by
        rw [List.isEmpty_iff_length_eq_zero, hl]
        exact Nat.mul_ne_zero hn.ne' (Nat.succ_ne_zero q)
      rw [if_neg hempty, List.length_cons, ih (by rw [List.length_drop, hl, Nat.mul_succ, Nat.add_sub_cancel]) (Nat.le_of_succ_le_succ hq)]

theorem mem_of_mem_groupsOf {g : List α} {c : α} (hg : g ∈ groupsOf n fuel l) (hc : c ∈ g) : c ∈ l := by
  induction fuel generalizing l with
  | zero => simp [groupsOf] at hg
  | succ fuel ih =>
    rw [groupsOf] at hg
    split at hg
    case isTrue => simp at hg
    case isFalse =>
      obtain rfl | hrest := List.mem_cons.1 hg
      · exact List.mem_of_mem_take hc
      · exact List.mem_of_mem_drop (ih hrest)

end

/-- The word of the elements `cs`, from the low bits up. -/
def packWord (w : Nat) (cs : List Nat) : Nat := cs.foldr (fun c n => n <<< w ||| c) 0

theorem packWords_eq (w : Nat) (cs : List Nat) : packWords w cs = (groupsOf (64 / w) cs.length cs).map (packWord w) := rfl

section
variable {w : Nat} {cs : List Nat}

/-- Element j of a packed word, with zeros after the last. -/
theorem bits_packWord (hw : 0 < w) (hcs : ∀ c ∈ cs, c < 2 ^ w) (j : Nat) : bits (packWord w cs) (w * j + w - 1) (w * j) = cs.getD j 0 := by
  have hwidth (j : Nat) : w * j + w - 1 + 1 - w * j = w := by omega
  induction cs generalizing j with
  | nil => simp [packWord, bits]
  | cons c cs ih =>
    obtain ⟨hc, hcs⟩ := List.forall_mem_cons.1 hcs
    have hword : packWord w (c :: cs) = 2 ^ w * packWord w cs + c := by
      rw [Nat.mul_comm, ← Nat.shiftLeft_eq, Nat.shiftLeft_add_eq_or_of_lt hc]
      rfl
    have ih := ih hcs
    simp only [bits_eq, hwidth, hword] at ih ⊢
    cases j with
    | zero => simp [Nat.mod_eq_of_lt hc]
    | succ j =>
      rw [Nat.mul_succ, Nat.add_comm (w * j), Nat.pow_add, ← Nat.div_div_eq_div_mul, Nat.mul_add_div (Nat.two_pow_pos w), Nat.div_eq_of_lt hc]
      exact ih j

theorem packWord_eq_zero (hcs : ∀ c ∈ cs, c = 0) : packWord w cs = 0 :=
  List.foldrRecOn cs _ (motive := (· = 0)) rfl fun _ hn c hc => by simp [hn, hcs c hc]

theorem packWords_eq_zero (hcs : ∀ c ∈ cs, c = 0) : ∀ x ∈ packWords w cs, x = 0 := by
  rw [packWords_eq]
  exact List.forall_mem_map.2 fun g hg => packWord_eq_zero fun c hc => hcs c (mem_of_mem_groupsOf hg hc)

/-- Element i of the packed words. -/
theorem bits_packWords (hw : 0 < w) (hw64 : w ≤ 64) (hcs : ∀ c ∈ cs, c < 2 ^ w) (i : Nat) :
    bits ((packWords w cs).getD (i / (64 / w)) 0) (w * (i % (64 / w)) + w - 1) (w * (i % (64 / w))) = cs.getD i 0 := by
  have hn : 0 < 64 / w := Nat.div_pos hw64 hw
  have hword : (packWords w cs).getD (i / (64 / w)) 0 = packWord w ((cs.drop (64 / w * (i / (64 / w)))).take (64 / w)) := by
    rw [packWords_eq, ← groupsOf_getD hn le_rfl]
    exact List.getD_map _ [] (packWord w)
  rw [hword, bits_packWord hw fun c hc => hcs c (List.mem_of_mem_drop (List.mem_of_mem_take hc))]
  simp [List.getD_eq_getElem?_getD, Nat.mod_lt i hn, Nat.div_add_mod]

end

/-! Codes fit their format (R133) -/

theorem cat_lt {a n w b : Nat} (ha : a < 2 ^ n) : cat a w b < 2 ^ (n + w) := by
  have hb : b % 2 ^ w < 2 ^ w := Nat.mod_lt b (Nat.two_pow_pos w)
  rw [cat, ← Nat.shiftLeft_add_eq_or_of_lt hb, Nat.shiftLeft_eq, Nat.pow_add]
  calc a * 2 ^ w + b % 2 ^ w < (a + 1) * 2 ^ w := by rw [Nat.succ_mul]; omega
    _ ≤ 2 ^ n * 2 ^ w := Nat.mul_le_mul_right _ ha

theorem Fmt.pack_lt (g : Fmt) (s : Bool) (e fr : Nat) : g.pack s e fr < 2 ^ g.bits :=
  cat_lt (cat_lt (by cases s <;> decide))

theorem Fmt.enc_lt {g : Fmt} (hnan : g.nan < 2 ^ g.bits) (v : Val) : g.enc v < 2 ^ g.bits := by
  cases v with
  | nan => exact hnan
  | inf s => exact g.pack_lt ..
  | fin s m e =>
    simp only [Fmt.enc]
    split
    case isTrue => exact g.pack_lt ..
    case isFalse => split <;> exact g.pack_lt ..

/-! The block of QBLK (R170) -/

theorem Val.exists_fin {v : Val} (h : v.isFinite = true) : ∃ s m x, v = .fin s m x := by
  cases v with
  | fin s m x => exact ⟨s, m, x, rfl⟩
  | nan => cases h
  | inf => cases h

/-- A finite value lies below 2^e in magnitude when it is zero or its exponent lies below e. -/
theorem Val.abs_lt_pow_iff {v : Val} (hv : v.isFinite = true) (e : Int) : Val.lt v.abs (.fin false 1 e) = true ↔ (v.isZero = false → v.log2 < e) := by
  obtain ⟨s, m, x, rfl⟩ := Val.exists_fin hv
  rw [Val.abs, Val.lt_fin_iff]
  simp only [Val.toReal, Val.isZero, Val.log2, decide_eq_false_iff_not, Bool.false_eq_true, if_false, Nat.cast_one, one_mul]
  obtain rfl | hm := eq_or_ne m 0
  · simp [zpow_pos]
  · have hlow : (2 : ℝ) ^ m.log2 ≤ m := mod_cast Nat.log2_self_le hm
    have hhigh : (m : ℝ) < 2 ^ (m.log2 + 1) := mod_cast Nat.lt_log2_self
    have hx : (0 : ℝ) < 2 ^ x := zpow_pos two_pos x
    refine ⟨fun h _ => ?_, fun h => ?_⟩
    · refine (zpow_lt_zpow_iff_right₀ (one_lt_two (α := ℝ))).1 ?_
      calc (2 : ℝ) ^ (m.log2 + x) = 2 ^ m.log2 * 2 ^ x := by rw [zpow_add₀ two_ne_zero, zpow_natCast]
        _ ≤ m * 2 ^ x := mul_le_mul_of_nonneg_right hlow hx.le
        _ < 2 ^ e := h
    · calc (m : ℝ) * 2 ^ x < 2 ^ (m.log2 + 1) * 2 ^ x := mul_lt_mul_of_pos_right hhigh hx
        _ = 2 ^ ((m.log2 + 1 : ℕ) + x) := by rw [zpow_add₀ two_ne_zero, zpow_natCast]
        _ ≤ 2 ^ e := zpow_le_zpow_right₀ one_le_two (by have := h hm; push_cast; omega)

/-- The exponent of the greatest element, at least −4000. -/
def blockTop (xs : List Val) : Int := ((xs.filter fun v => !v.isZero).map Val.log2).foldl max (-4000)

theorem blockTop_eq {xs : List Val} {e : Int} (hmem : ∃ v ∈ xs, v.isZero = false ∧ v.log2 = e) (hle : ∀ v ∈ xs, v.isZero = false → v.log2 ≤ e) :
    blockTop xs = max (-4000) e := by
  obtain ⟨v, hv, hzero, hlog⟩ := hmem
  have hin : e ∈ (xs.filter fun v => !v.isZero).map Val.log2 := List.mem_map.2 ⟨v, List.mem_filter.2 ⟨hv, by simp [hzero]⟩, hlog⟩
  have hne : (xs.filter fun v => !v.isZero).map Val.log2 ≠ [] := List.ne_nil_of_mem hin
  rw [blockTop, List.foldl_max_eq_max hne]
  refine congrArg _ ((List.max_eq_iff hne).2 ⟨hin, List.forall_mem_map.2 fun u hu => ?_⟩)
  obtain ⟨hmem, hnz⟩ := List.mem_filter.1 hu
  exact hle u hmem (by simpa using hnz)

/-- The code of one element of a block of scale code k. -/
def quantCode (g : Fmt) (m k : Nat) (v : Val) : Nat :=
  let c := (g.round (m % 4) (v.scale (127 - (k : Int)))).1
  g.enc (if (ftzIn (bit m 2) (c.scale ((k : Int) - 127))).2 ≠ 0 then .zero c.sign else c)

section
variable (g : Fmt) (m : Nat) {xs : List Val}

/-- The zeros of a block that has no finite scale or no nonzero element. -/
theorem packWords_zeros (xs : List Val) : ∀ w ∈ packWords g.bits (xs.map fun _ => 0), w = 0 :=
  packWords_eq_zero fun _ hc => by obtain ⟨-, -, rfl⟩ := List.mem_map.1 hc; rfl

theorem quantise_nonFinite (h : (xs.any fun v => !v.isFinite) = true) : (quantise g m xs).1 = 0xFF ∧ ∀ w ∈ (quantise g m xs).2.1, w = 0 := by
  have hq : quantise g m xs = (0xFF, packWords g.bits (xs.map fun _ => 0), flagIf (!xs.any Val.isNan) flNV) := if_pos h
  rw [hq]
  exact ⟨rfl, packWords_zeros g xs⟩

theorem any_nonFinite_eq_false (h : ∀ v ∈ xs, v.isFinite = true) : xs.any Val.nonFinite = false :=
  List.any_eq_false.2 fun v hv => by simp [Val.nonFinite, h v hv]

theorem Val.isFinite_of_isZero {v : Val} (h : v.isZero = true) : v.isFinite = true := by
  cases v with
  | fin => rfl
  | nan => cases h
  | inf => cases h

theorem quantise_zeros (h : xs.all Val.isZero = true) : (quantise g m xs).1 = 0 ∧ ∀ w ∈ (quantise g m xs).2.1, w = 0 := by
  have hfinite := any_nonFinite_eq_false fun v hv => Val.isFinite_of_isZero (List.all_eq_true.1 h v hv)
  have hq : quantise g m xs = (0, packWords g.bits (xs.map fun _ => 0), 0) := by
    rw [quantise, if_neg (Bool.eq_false_iff.1 hfinite), if_pos h]
  rw [hq]
  exact ⟨rfl, packWords_zeros g xs⟩

/-- The scale and the words of a block of finite elements with a nonzero one. -/
theorem quantise_finite (hfinite : ∀ v ∈ xs, v.isFinite = true) (hzero : xs.all Val.isZero = false) :
    let k := (blockTop xs - quantMax g + 127).toNat
    (quantise g m xs).1 = k ∧ (quantise g m xs).2.1 = packWords g.bits (xs.map (quantCode g m k)) := by
  rw [quantise, if_neg (Bool.eq_false_iff.1 (any_nonFinite_eq_false hfinite)), if_neg (Bool.eq_false_iff.1 hzero)]
  refine ⟨rfl, congrArg (packWords g.bits) ?_⟩
  rw [List.map_map]
  rfl

/-- Element i of a block of 32 elements stands rounded and scaled in its place. -/
theorem quantise_block {e : Int} (hg : g = e4m3 ∨ g = e5m2 ∨ g = e2m1) (hlen : xs.length = 32) (hfinite : ∀ v ∈ xs, v.isFinite = true)
    (htop : ∃ v ∈ xs, Val.lt v.abs (.fin false 1 e) = false) (hbound : ∀ v ∈ xs, Val.lt v.abs (.fin false 1 (e + 1)) = true) :
    let k := (e - quantMax g + 127).toNat
    (quantise g m xs).1 = k ∧ (quantise g m xs).2.1.length = 32 * g.bits / 64 ∧
    ∀ i v, xs[i]? = some v → let at0 := g.bits * (i % (64 / g.bits))
      bits ((quantise g m xs).2.1.getD (i / (64 / g.bits)) 0) (at0 + g.bits - 1) at0 = quantCode g m k v := by
  intro k
  have hle : ∀ v ∈ xs, v.isZero = false → v.log2 ≤ e := fun v hv hz =>
    Int.lt_add_one_iff.1 ((Val.abs_lt_pow_iff (hfinite v hv) (e + 1)).1 (hbound v hv) hz)
  obtain ⟨u, hu, hnotlt⟩ := htop
  obtain ⟨hnz, hge⟩ : u.isZero = false ∧ e ≤ u.log2 := by
    have h := mt (Val.abs_lt_pow_iff (hfinite u hu) e).2 (Bool.eq_false_iff.1 hnotlt)
    simpa using h
  have hk : (blockTop xs - quantMax g + 127).toNat = k := by
    rw [blockTop_eq ⟨u, hu, hnz, le_antisymm (hle u hu hnz) hge⟩ hle]
    obtain rfl | rfl | rfl := hg <;> simp [k, quantMax, e4m3, e5m2, e2m1] <;> omega
  obtain ⟨hscale, hwords⟩ := quantise_finite g m hfinite (List.all_eq_false.2 ⟨u, hu, by simp [hnz]⟩)
  rw [hk] at hscale hwords
  have hwidth : 0 < g.bits ∧ g.bits ≤ 64 ∧ g.nan < 2 ^ g.bits ∧ 0 < 64 / g.bits ∧ 32 = 64 / g.bits * (32 * g.bits / 64) ∧ 32 * g.bits / 64 ≤ 32 := by
    obtain rfl | rfl | rfl := hg <;> decide
  obtain ⟨hpos, h64, hnan, hn, hgroups, hcount⟩ := hwidth
  refine ⟨hscale, ?_, fun i v hv => ?_⟩
  · rw [hwords, packWords_eq, List.length_map]
    exact groupsOf_length hn (by rw [List.length_map, hlen, ← hgroups]) (by rwa [List.length_map, hlen])
  · intro at0
    have hcodes : ∀ c ∈ xs.map (quantCode g m k), c < 2 ^ g.bits := List.forall_mem_map.2 fun _ _ => Fmt.enc_lt hnan _
    rw [hwords, bits_packWords hpos h64 hcodes, List.getD_eq_getElem?_getD, List.getElem?_map, hv]
    rfl

end

/-! What QBLK gathers and what DQBLK decodes (R170, R172) -/

/-- Before its last beat QBLK takes its element in and has no effect. -/
theorem qblkBeat_gathers (y : UBody) (s : State) (b : BrickId) (f : Firing) {r : RuleInfo} {n : Nat} (h : n + 1 ≠ r.beats) :
    (qblkBeat y s b f r n).acc = f.acc ++ [srcA s b f r n] ∧ (qblkBeat y s b f r n).effects = [] := by
  simp [qblkBeat, h]

/-- The formats of packed elements by their code (R172). -/
theorem dqFormat_eq (c : Nat) : dqFormat c = if c = 0 then e2m1 else if c = 1 then e4m3 else e5m2 := by
  match c with
  | 0 => rfl
  | 1 => rfl
  | _ + 2 => rfl

/-- A NaN that no operand gives is the canonical one, and invalid (R132, R153). -/
theorem BeatOut.rounded_nan (g : Fmt) (fmode : Nat) : BeatOut.rounded g fmode [] .nan 0 = { write := some g.nan, judge := g.nan, flag := true, sticky := flNV } := by
  have hround : rndFm fmode g .nan = (.nan, 0) := by simp [rndFm, Fmt.round, ftzIn, Val.tiny, Val.isFinite, flagIf]
  rw [BeatOut.rounded, hround]
  rfl

/-! Planes (R173) -/

/-- A power of two added to a number without it sets that one bit. -/
theorem testBit_two_pow_add_of_clear {x r : Nat} (hx : x.testBit r = false) (q : Nat) : (2 ^ r + x).testBit q = (decide (r = q) || x.testBit q) := by
  obtain hlt | rfl | hgt := Nat.lt_trichotomy q r
  · simp [Nat.testBit_two_pow_add_gt hlt, hlt.ne']
  · simp [Nat.testBit_two_pow_add_eq, hx]
  · have habove : (2 ^ r + x) / 2 ^ (r + 1) = x / 2 ^ (r + 1) := by
      rw [Nat.testBit_eq_decide_div_mod_eq, decide_eq_false_iff_not] at hx
      rw [Nat.pow_succ, ← Nat.div_div_eq_div_mul, ← Nat.div_div_eq_div_mul, Nat.add_div_left x (Nat.two_pow_pos r)]
      omega
    obtain ⟨d, rfl⟩ : ∃ d, q = d + (r + 1) := ⟨q - (r + 1), by omega⟩
    rw [← Nat.testBit_div_two_pow, habove, Nat.testBit_div_two_pow, decide_eq_false hgt.ne, Bool.false_or]

/-- The number that has bit `p k` in place `σ k`, for each `k` below `m`. -/
def scatterBits (p : Nat → Bool) (σ : Nat → Nat) (m : Nat) : Nat := (List.range m).foldl (fun n k => n + b2n (p k) * 2 ^ σ k) 0

theorem scatterBits_succ (p : Nat → Bool) (σ : Nat → Nat) (m : Nat) : scatterBits p σ (m + 1) = scatterBits p σ m + b2n (p m) * 2 ^ σ m := by
  rw [scatterBits, List.range_succ, List.foldl_append]
  rfl

/-- Bits scattered to places of their own stand each in its place, and nowhere else. -/
theorem scatterBits_testBit {p : Nat → Bool} {σ : Nat → Nat} {m : Nat} (hσ : Set.InjOn σ (Set.Iio m)) (q : Nat) :
    (scatterBits p σ m).testBit q = true ↔ ∃ k < m, σ k = q ∧ p k = true := by
  induction m generalizing q with
  | zero => simp [scatterBits]
  | succ m ih =>
    have ih := ih (hσ.mono (Set.Iio_subset_Iio (Nat.le_succ m)))
    rw [scatterBits_succ, Nat.exists_lt_succ_right]
    cases hp : p m
    case false => simp [b2n, ih]
    case true =>
      have hclear : (scatterBits p σ m).testBit (σ m) = false := by
        rw [← Bool.not_eq_true, ih]
        rintro ⟨k, hk, heq, -⟩
        exact hk.ne (hσ (Nat.lt_succ_of_lt hk) (Nat.lt_succ_self m) heq)
      rw [b2n, if_pos rfl, Nat.one_mul, Nat.add_comm, testBit_two_pow_add_of_clear hclear, Bool.or_eq_true, decide_eq_true_iff, ih, or_comm]
      simp

theorem bit_planeSplit (a : Nat) {i j : Nat} (hi : i < 8) (hj : j < 8) : bit (planeSplit a) (8 * i + j) = bit a (8 * j + 7 - i) := by
  have hplace : 8 * i + j < 64 := by omega
  have hmod : (8 * i + j) % 8 = j := by omega
  have hdiv : (8 * i + j) / 8 = i := by omega
  calc bit (planeSplit a) (8 * i + j) = (sumBits (fun k => bit a (8 * (k % 8) + 7 - k / 8)) 64).testBit (8 * i + j) := rfl
    _ = bit a (8 * j + 7 - i) := by simp only [sumBits_testBit, hplace, hmod, hdiv, decide_true, Bool.true_and]

theorem planeJoin_eq (p a : Nat) : planeJoin p a = scatterBits (bit a) (fun k => 8 * (k % 8) + 7 - k / 8) (8 * p) := rfl

theorem bit_planeJoin (a : Nat) {p i j : Nat} (hp : p ≤ 8) (hi : i < 8) (hj : j < 8) :
    bit (planeJoin p a) (8 * j + 7 - i) = (decide (i < p) && bit a (8 * i + j)) := by
  have hplaces : Set.InjOn (fun k => 8 * (k % 8) + 7 - k / 8) (Set.Iio (8 * p)) := by
    intro k hk l hl
    simp only [Set.mem_Iio] at hk hl ⊢
    omega
  have hplace : (∃ k < 8 * p, 8 * (k % 8) + 7 - k / 8 = 8 * j + 7 - i ∧ bit a k = true) ↔ i < p ∧ bit a (8 * i + j) = true := by
    refine ⟨fun ⟨k, hk, hσ, hbit⟩ => ?_, fun ⟨hip, hbit⟩ => ⟨8 * i + j, by omega, by omega, hbit⟩⟩
    obtain rfl : k = 8 * i + j := by omega
    exact ⟨by omega, hbit⟩
  rw [Bool.eq_iff_iff, planeJoin_eq, bit, scatterBits_testBit hplaces, hplace, Bool.and_eq_true, decide_eq_true_iff]

/-- Settles O15: QBLK by `quantise_block`, DQBLK by `dqFormat_eq` and `BeatOut.rounded_nan`, the planes by `bit_planeSplit` and `bit_planeJoin`. -/
theorem blocksAndPlanes : Obligations.BlocksAndPlanes := by
  intro h x y
  refine ⟨⟨qblkBeat y, computes_of_beatOf rfl, fun s b f r n => ⟨qblkBeat_gathers y s b f, fun hlast => ?_⟩⟩,
    fun g m xs => quantise_nonFinite g m, fun g m xs => quantise_zeros g m, fun g m xs e hg => ?_,
    computes_of_beatOf (congrArg some ?_), fun _ => planeSplit, planeJoin, computes_of_beatOf rfl, computes_of_beatOf rfl,
    fun a i j => bit_planeSplit a, fun p a i j => bit_planeJoin a⟩
  · exact ⟨congrArg BeatOut.judge (if_pos hlast), congrArg BeatOut.effects (if_pos hlast)⟩
  · have hmax : (if g = e4m3 then 8 else if g = e5m2 then 15 else 2) = quantMax g := by
      obtain rfl | rfl | rfl := hg <;> rfl
    rw [hmax]
    exact quantise_block g m hg
  · funext s b f r n
    simp only [dqblkBeat, dqFormat_eq, BeatOut.rounded_nan, Fmt.decScaled]

end Sys2Proof.Machine

namespace Sys2Proof.Machine

open Sys2Proof

/-! The tokens of the channel rules (R178, R196, R200) -/

/-- A subtype of four bits stands whole in a CTRL payload. -/
theorem ctrlToken_of_subtype (c : BitVec 4) (v : Nat) : ctrlToken c.toNat v = { tag := .ctrl, pay := BitVec.ofNat 64 (c.toNat * 2 ^ 60 + v % 2 ^ 60) } := by
  rw [ctrlToken, Nat.mod_eq_of_lt (b := 16) c.isLt]

theorem emitToken_eq (x : KBody) (a : Nat) :
    emitToken x a =
      let v := if x.a = 116 then x.imm11.toNat else a
      if x.tag = 0 then { tag := .data, pay := BitVec.ofNat 64 v } else { tag := .ctrl, pay := BitVec.ofNat 64 (x.csub.toNat * 2 ^ 60 + v % 2 ^ 60) } := by
  rw [emitToken, ctrlToken_of_subtype]
  rfl

theorem Tag.ofCode_eq_ctrl_iff {c : BitVec 2} : Tag.ofCode c.toNat = .ctrl ↔ c = 3 := by
  revert c
  decide

theorem retag_eq (c : BitVec 2) (v : Nat) :
    retag c.toNat v =
      if c = 3 then { tag := .ctrl, pay := BitVec.ofNat 64 (0xE * 2 ^ 60 + v % 2 ^ 60) } else { tag := Tag.ofCode c.toNat, pay := BitVec.ofNat 64 v } := by
  unfold retag
  split
  case h_1 hctrl => exact (if_pos (Tag.ofCode_eq_ctrl_iff.1 hctrl)).symm
  case h_2 hother => exact (if_neg (mt Tag.ofCode_eq_ctrl_iff.2 hother)).symm

/-- Settles O19: EMIT by `emitToken_eq`, RTAG by `retag_eq`, the others as their beats are defined. -/
theorem channelRules : Obligations.ChannelRules := by
  refine fun _ x => ⟨computes_of_beatOf (congrArg some ?_), computes_of_beatOf rfl, computes_of_beatOf rfl, computes_of_beatOf (congrArg some ?_),
    computes_of_beatOf rfl⟩
  · funext s b f r n
    rw [emitBeat, emitToken_eq]
  · funext s b f r n
    rw [rtagBeat, retag_eq]

/-! MARK and WEEP (R188, R191, R198) -/

section
variable (x : Brick) (now : Nat) (t : Token)

theorem toConnected_eq : toConnected x now t = x.connectedPorts.map fun p => { due := now + 2, beat := 0, port := some (p, .tok t) } := by
  rw [← List.filterMap_eq_map', Brick.connectedPorts, List.filterMap_filter]
  rfl

/-- What enters the ports: the token, once at every connected one. -/
theorem toConnected_tokens : (toConnected x now t).filterMap (·.port) = x.connectedPorts.map fun p => (p, .tok t) := by
  rw [toConnected_eq, List.filterMap_map, ← List.filterMap_eq_map]
  rfl

theorem toConnected_ports : (toConnected x now t).filterMap (fun w => w.port.map (·.1)) = x.connectedPorts := by
  rw [← List.map_filterMap, toConnected_tokens, List.map_map]
  exact List.map_id _

end

/-- The commit of MARK advances the round (R198). -/
theorem Brick.commitMark_round (x : Brick) (k : Nat) : (x.commitMark k).round = (x.round + 1) % 2 ^ 48 :=
  congrArg Brick.round (Brick.reachRound_eq _)

/-- It gives every token of the firing the new round, and leaves its port. -/
theorem Brick.commitMark_tokens {x : Brick} {k : Nat} {f : Firing} (hk : x.firings[k]? = some f) :
    ((x.commitMark k).firings[k]?.map fun g => g.wbs.filterMap (·.port)) =
      some (f.wbs.filterMap fun w => w.port.map fun q => (q.1, .tok (markToken ((x.round + 1) % 2 ^ 48)))) := by
  have hfirings : (x.commitMark k).firings = modifyAt _ k x.firings := congrArg Brick.firings (Brick.reachRound_eq _)
  rw [hfirings, modifyAt_eq, List.getElem?_modify_eq, hk]
  exact congrArg some List.filterMap_map

theorem markToken_mod (m : Nat) : markToken (m % 2 ^ 48) = { tag := .mark, pay := BitVec.ofNat 64 (m % 2 ^ 48) } := by
  rw [markToken, Nat.mod_mod]

/-- MARK and WEEP fire on a brick of no connected input whose outputs have room (R198). -/
theorem MayFire.barrier {i : Instr} {h : Head} {y : KBody} {s : State} (hmay : MayFire i s) (hi : i = .mark h y ∨ i = .weep h y) :
    (∀ q ∈ (s.brick s.focus.1).inputs, q.connected = false) ∧ ∀ p, p < 4 → 1 ≤ (s.brick s.focus.1).room p := by
  obtain ⟨r, -, hready⟩ := hmay.slotReady
  obtain ⟨hinputs, hroom⟩ := enginesFree_barrier hi hready.engines
  exact ⟨by simpa [Brick.noConnectedInput] using hinputs, by simpa [Brick.outputsHaveRoom] using hroom⟩

/-- Settles O20: the tokens by `toConnected_tokens`, MARK's commit by `Brick.commitMark_round` and `Brick.commitMark_tokens`, the wait by `MayFire.barrier`. -/
theorem markAndWeep : Obligations.MarkAndWeep := by
  refine fun h x => ⟨⟨markBeat x, computes_of_beatOf rfl, fun _ _ _ _ _ => ⟨rfl, toConnected_ports ..⟩⟩,
    ⟨weepBeat x, computes_of_beatOf rfl, fun _ _ _ _ _ => ⟨rfl, toConnected_tokens ..⟩⟩, fun s b k c f hk => ?_, fun s hmay => ?_⟩
  · intro m t
    have hbrick : t.brick b = { (s.brick b).commitMark k with roundAt := s.now } := State.modBrick_brick_same ..
    rw [hbrick, ← markToken_mod]
    exact ⟨Brick.commitMark_round .., Brick.commitMark_tokens hk⟩
  · obtain hmark | hweep := hmay
    · exact hmark.barrier (.inl rfl)
    · exact hweep.barrier (.inr rfl)

end Sys2Proof.Machine

namespace Sys2Proof.Machine

open Sys2Proof

/-! A store at its commit (R208 to R210, R212) -/

/-- Settles O32: one brick changes, by the rules of `State.modBrick`, and of its bank the container alone, by `nibbleGet_write`. -/
theorem storeAtCommit : Obligations.StoreAtCommit := by
  intro s b k c nib len v hwf t
  have hbrick : t.brick b = (s.brick b).storeNibbles nib len v := State.modBrick_brick_same ..
  have hnibble (m : Nat) : nibbleGet (t.brick b).bank m =
      if nib ≤ m ∧ m < nib + len then v / 16 ^ (m - nib) % 16 else nibbleGet (s.brick b).bank m := by
    rw [hbrick, Brick.storeNibbles_bank, nibbleGet_write _ _ _ _ hwf]
  refine ⟨rfl, fun d hd => State.modBrick_brick_other _ hd.symm _, ?_, ?_, fun j hj => ?_, fun m hm => ?_⟩
  · rw [hbrick]
    rfl
  · rw [hbrick, Brick.storeNibbles_bank]
    exact nibblesWrite_wf _ _ _ hwf
  · rw [hnibble, if_pos ⟨Nat.le_add_right .., Nat.add_lt_add_left hj nib⟩, Nat.add_sub_cancel_left]
  · rw [hnibble, if_neg (by omega)]

/-! The bank rules and their traps (R209 to R211, R215, R218) -/

theorem mem_spanBytes {lo len a : Nat} : a ∈ spanBytes lo len ↔ lo / 2 ≤ a ∧ a ≤ (lo + len - 1) / 2 := by
  constructor
  · intro ha
    obtain ⟨k, hk, rfl⟩ := List.mem_map.1 ha
    have hlt := List.mem_range.1 hk
    omega
  · rintro ⟨hlo, hhi⟩
    exact List.mem_map.2 ⟨a - lo / 2, List.mem_range.2 (by omega), by omega⟩

section
variable (x : Brick) (lo len : Nat) (write : Bool)

/-- A span is refused past the end of the bank, and where a byte of it is not the brick's to access (R211). -/
theorem bankDenied_iff : bankDenied x lo len write = true ↔
    131072 < lo + len ∨ ∃ a, lo / 2 ≤ a ∧ a ≤ (lo + len - 1) / 2 ∧
      (x.part (a / 4096) = 2 ∨ x.inGutter a = true ∨ x.inDock a = true ∨ x.slateHold a = true ∨ (write = true ∧ x.part (a / 4096) = 1)) := by
  simp [bankDenied, mem_spanBytes, and_assoc, or_assoc]

/-- BANKADDR is the trap of a refused or misaligned span; an uncorrectable word has another class. -/
theorem bankTrap_eq_bankAddr_iff (i : Nat) (merge misaligned : Bool) :
    bankTrap x lo len i write merge misaligned = bankAddrTrap i ↔ bankDenied x lo len write = true ∨ misaligned = true := by
  rw [← Bool.or_eq_true]
  unfold bankTrap
  split
  case isTrue hrefused => exact iff_of_true rfl hrefused
  case isFalse hallowed =>
    refine iff_of_false ?_ hallowed
    split <;> simp [eccTrap, bankAddrTrap]

end

/-- Settles O21: the rules as their beats are defined, the trap by `bankTrap_eq_bankAddr_iff` and `bankDenied_iff`. -/
theorem bankLoadsAndStores : Obligations.BankLoadsAndStores := by
  refine ⟨fun h x => ⟨computes_of_beatOf rfl, computes_of_beatOf rfl, computes_of_beatOf rfl, computes_of_beatOf rfl, computes_of_beatOf rfl,
    computes_of_beatOf rfl⟩, fun y lo len n write merge misaligned _ => ?_⟩
  exact (bankTrap_eq_bankAddr_iff ..).trans ((or_congr_left (bankDenied_iff ..)).trans Or.comm)

/-! Atomics and parameter windows (R212, R216, R217, R220) -/

theorem prefer_fst (a b : Nat) (p : Prop) [Decidable p] : (prefer a b (decide p)).1 = if p then b else a := by
  rw [prefer_decide, apply_ite Prod.fst]

theorem lowBits_of_lt {w m : Nat} (h : m < 2 ^ w) : lowBits w m = m := by
  unfold lowBits
  exact_mod_cast Nat.mod_eq_of_lt h

/-- An unsigned saturating sum stops at the largest value of its width (R115). -/
theorem addsuOp_fst (w a b : Nat) : (addsuOp w a b).1 = min (a + b) (2 ^ w - 1) := by
  have hpos := Nat.two_pow_pos w
  have htop : ((2 ^ w - 1 : Nat) : Int) = 2 ^ w - 1 := by push_cast [Nat.cast_pred hpos]; rfl
  have hnearest : max 0 (min (2 ^ w - 1) ((a : Int) + b)) = (min (a + b) (2 ^ w - 1) : Nat) := by omega
  have hlt : min (a + b) (2 ^ w - 1) < 2 ^ w := by omega
  rw [addsuOp, satUnsigned_eq, hnearest, lowBits_of_lt hlt]

/-- Settles O22: the rules as their beats are defined, the minima and maxima by `prefer_fst`, the saturating sum by `addsuOp_fst`. -/
theorem atomicsAndWindows : Obligations.AtomicsAndWindows :=
  ⟨fun _ _ _ => ⟨⟨completes_of_isRule rfl, completes_of_isRule rfl, completes_of_isRule rfl⟩, computes_of_beatOf rfl, computes_of_beatOf rfl,
      computes_of_beatOf rfl⟩,
    fun _ _ _ _ => ⟨rfl, rfl, rfl, rfl, prefer_fst .., prefer_fst .., (prefer_fst ..).trans ((min_comm ..).trans (min_def_lt ..)).symm,
      (prefer_fst ..).trans (max_def_lt ..).symm, rfl, fun _ _ => addsuOp_fst .., rfl⟩⟩

end Sys2Proof.Machine

namespace Sys2Proof.Machine

open Sys2Proof

/-! From the brick to the owner (R228, R240, R242, R267) -/

theorem exec_ownerRequest {s : State} {n : Nat} {r : Req} {g : RegionId} (hr : s.req n = some r) (hregion : (s.brick r.brick).region = some g)
    (hstage : r.stage = .waiting) (hrebase : (s.tenancy r.tenancy).rebasing = false) (hpts : (s.brick r.brick).pts ≤ tsLimit)
    (hleave : s.mayLeave r = true) :
    let e := s.ownerOf g (BrickId.die r.brick) (r.va / 8192)
    s.portRoom e r = true →
    let r' := { r with owner := e, pts := (s.brick r.brick).pts, order := s.nextId }
    let t : State := { s with nextId := s.nextId + 1 }
    exec (.ownerRequest n) s = .next (if s.handoverHolds g e (r.va / 8192) then t.modReq n fun _ => { r' with stage := .held } else t.ownerTake r') := by
  intro e hroom r' t
  show execOwnerRequest n s = _
  simp only [execOwnerRequest, hr, hregion]
  exact stepWhen_true (by simp [hstage, hrebase, hpts, hleave, e, hroom])

theorem exec_coalesceTimeout {s : State} {e : BrickId} {line : Nat} {r : Req} (hr : r ∈ s.reqs) (howner : r.owner = e) (hstage : r.stage = .buffered)
    (hfirst : r.lines.1 ≤ line) (hlast : line ≤ r.lines.2) (hsince : r.since + 64 ≤ s.now) :
    exec (.coalesceTimeout e line) s = .next (s.flushLine e line) := by
  show execCoalesceTimeout e line s = _
  exact stepWhen_true (List.any_eq_true.2 ⟨r, hr, by simp [howner, hstage, hfirst, hlast, hsince]⟩)

/-! Page walks (R228) -/

theorem State.missOf_req {s : State} {n : Nat} {r : Req} (hr : s.req n = some r) (hstage : r.stage = .miss) :
    s.missOf n = some (r.owner, r.tenancy, r.miss) := by
  simp [State.missOf, hr, hstage]

theorem exec_pageWalk {s : State} {n : Nat} {e : BrickId} {t va : Nat} (hmiss : s.missOf n = some (e, t, va))
    (hwalk : (t, va / 8192) ∈ s.bayWalks (BrickId.bay e)) :
    let walk := s.walkShare (BrickId.bay e) t va
    let u := ((s.bayMisses (BrickId.bay e)).filter fun q => q.walkPage = (t, va / 8192)).foldl (State.takeWalk walk.1) walk.2
    exec (.pageWalk n) s = .next (((s.bayEngines (BrickId.bay e)).filter fun w => w.page = (t, va / 8192)).foldl (State.answerWalk walk.1) u) := by
  intro walk u
  show execPageWalk n s = _
  simp only [execPageWalk, hmiss]
  exact stepWhen_true (List.contains_iff_mem.2 hwalk)

/-! At the home slice (R194, R232, R269, R281, R428) -/

section
variable {s : State} {n k : Nat} {r : Req} {p : Part}

/-- A request's turn at its next part: it is at the loft, first of its owner's at the line, and a write of it finds a way. -/
def State.loftTurn (s : State) (r : Req) (p : Part) : Prop :=
  r.stage = .toLoft ∧ s.lineTurn r p = true ∧ (r.isLoad = false → s.mayStore (p.pa / 64) = true)

/-- The guard of a loft access holds in its turn. -/
theorem State.loftTurn_bool (h : s.loftTurn r p) : (r.stage = .toLoft && s.lineTurn r p && (r.isLoad || s.mayStore (p.pa / 64))) = true := by
  obtain ⟨hstage, hline, hstore⟩ := h
  cases hload : r.isLoad with
  | true => simp [hstage, hline]
  | false => simp [hstage, hline, hstore hload]

/-- The owner's window has a place for the request (R194). -/
def State.inWindow (s : State) (r : Req) : Prop := r.net = true ∨ s.outstanding r.owner < (s.brick r.owner).edge.window

theorem Req.isLoad_iff : r.isLoad = true ↔ ∃ dec sz, r.kind = .load dec sz := by
  cases hkind : r.kind <;> simp [Req.isLoad, hkind]

/-- An access to its home slice at a request's next part: a GAT some of whose sectors are not there takes its place and waits for them (R281). -/
def State.homePart (s : State) (n : Nat) (r : Req) (k : Nat) (p : Part) : State :=
  match r.kind with
  | .load .. => ((s.sendOut n).loadPart r k p).shareLoads r.owner (p.pa / 64)
  | .store => (s.sendOut n).storePart r k p
  | .atomic op w v y =>
    if (s.missingSectors p.pa p.len).isEmpty then (s.sendOut n).atomicPart r p op w v y
    else (s.missingSectors p.pa p.len).foldl (fun v x => v.askFill r.tenancy x r.dcl)
      ((s.sendOut n).modReq n fun r => { r with parts := modifyAt (fun p => { p with performed := true }) k r.parts })

theorem State.homePart_load {dec : Bool} {sz : Nat} (hkind : r.kind = .load dec sz) :
    s.homePart n r k p = ((s.sendOut n).loadPart r k p).shareLoads r.owner (p.pa / 64) := by
  simp only [State.homePart, hkind]

theorem State.homePart_store (hkind : r.kind = .store) : s.homePart n r k p = (s.sendOut n).storePart r k p := by
  simp only [State.homePart, hkind]

theorem State.homePart_atomic {op w v y : Nat} (hkind : r.kind = .atomic op w v y) (hthere : s.missingSectors p.pa p.len = []) :
    s.homePart n r k p = (s.sendOut n).atomicPart r p op w v y := by
  simp only [State.homePart, hkind, hthere, List.isEmpty_nil, if_true]

theorem State.homePart_atomic_waits {op w v y : Nat} (hkind : r.kind = .atomic op w v y) (hneed : s.missingSectors p.pa p.len ≠ []) :
    s.homePart n r k p = (s.missingSectors p.pa p.len).foldl (fun v x => v.askFill r.tenancy x r.dcl)
      ((s.sendOut n).modReq n fun r => { r with parts := modifyAt (fun p => { p with performed := true }) k r.parts }) := by
  simp only [State.homePart, hkind, List.isEmpty_iff, if_neg hneed]

variable (hr : s.req n = some r) (hk : r.nextPart = some k) (hp : r.parts.getD k { va := 0, len := 0 } = p) (hturn : s.loftTurn r p)
include hr hk hp hturn

theorem exec_loftAccess_weights {dec : Bool} {sz slot : Nat} (hkind : r.kind = .load dec sz) (hkey : p.key = some slot) :
    exec (.loftAccess n) s = .next (match ((s.keySlot slot).chunkOf p.va).bind fun m =>
        (s.heldChunk r.owner (s.brick r.brick).region slot m).map fun c => (m, c) with
      | some (m, c) => s.chunkPart r slot m c.data
      | none => s.modReq n fun r => { r with stage := .flash }) := by
  show execLoftAccess n s = _
  simp only [execLoftAccess, hr, hk, hp, hkind, hkey]
  exact stepWhen_true (State.loftTurn_bool hturn)

theorem exec_loftAccess_chunk {dec : Bool} {sz slot m : Nat} {c : Chunk} (hkind : r.kind = .load dec sz) (hkey : p.key = some slot)
    (hchunk : (s.keySlot slot).chunkOf p.va = some m) (hheld : s.heldChunk r.owner (s.brick r.brick).region slot m = some c) :
    exec (.loftAccess n) s = .next (s.chunkPart r slot m c.data) := by
  rw [exec_loftAccess_weights hr hk hp hturn hkind hkey, hchunk, Option.bind_some, hheld]
  rfl

theorem exec_loftAccess_flash {dec : Bool} {sz slot : Nat} (hkind : r.kind = .load dec sz) (hkey : p.key = some slot)
    (hnone : ∀ m, (s.keySlot slot).chunkOf p.va = some m → s.heldChunk r.owner (s.brick r.brick).region slot m = none) :
    exec (.loftAccess n) s = .next (s.modReq n fun r => { r with stage := .flash }) := by
  have hheld : (((s.keySlot slot).chunkOf p.va).bind fun m => (s.heldChunk r.owner (s.brick r.brick).region slot m).map fun c => (m, c)) = none := by
    simpa using hnone
  rw [exec_loftAccess_weights hr hk hp hturn hkind hkey, hheld]

theorem exec_loftAccess_copy {dec : Bool} {sz : Nat} {c : L1Line} (hkind : r.kind = .load dec sz) (hkey : p.key = none) (hhit : s.l1Hit r p = some c) :
    exec (.loftAccess n) s =
      .next (s.modReq n fun r => r.perform k (((c.data.drop (p.pa % 64)).take p.len).map some) false (max r.pts c.wts)) := by
  have hcopy : (if r.isLoad && p.key.isNone then s.l1Hit r p else none) = some c := by
    simp [Req.isLoad_iff.2 ⟨dec, sz, hkind⟩, hkey, hhit]
  show execLoftAccess n s = _
  simp only [execLoftAccess, hr, hk, hp, hcopy]
  simp only [hkind, hkey]
  exact stepWhen_true (State.loftTurn_bool hturn)

theorem exec_loftAccess_home (hhome : ∀ dec sz, r.kind = .load dec sz → p.key = none ∧ s.l1Hit r p = none) (hwindow : s.inWindow r) :
    exec (.loftAccess n) s = .next (s.homePart n r k p) := by
  have hguard : ((r.stage = .toLoft && s.lineTurn r p && (r.isLoad || s.mayStore (p.pa / 64))) &&
      (r.net || s.outstanding r.owner < (s.brick r.owner).edge.window)) = true := by
    rw [State.loftTurn_bool hturn]
    simpa [State.inWindow] using hwindow
  have hnoCopy : (if r.isLoad && p.key.isNone then s.l1Hit r p else none) = none := by
    refine ite_eq_right_iff.2 fun hfrom => ?_
    obtain ⟨dec, sz, hkind⟩ := Req.isLoad_iff.1 (Bool.and_eq_true_iff.1 hfrom).1
    exact (hhome dec sz hkind).2
  show execLoftAccess n s = _
  simp only [execLoftAccess, hr, hk, hp, hnoCopy]
  unfold State.homePart
  cases hkind : r.kind with
  | load dec sz =>
    rw [(hhome dec sz hkind).1]
    exact stepWhen_true hguard
  | store => exact stepWhen_true hguard
  | atomic op w v y => exact stepWhen_true hguard

end

/-! HBM (R235, R236, R281) -/

section
variable {s : State} {line : Nat} {f : Fill}

theorem exec_loftFillDone {data : List Byte} {ue : Nat} (hf : (s.fills.find? fun f => f.sector = line) = some f) (hserved : f.served = some (data, ue)) :
    exec (.loftFillDone line) s = .next (s.fillDone line data ue) := by
  show execLoftFillDone line s = _
  simp only [execLoftFillDone, hf, hserved]

theorem exec_hbmRequest (hready : s.fillReady line = true) : exec (.hbmRequest line) s = .next (s.serveFill line) := stepWhen_true hready

theorem exec_deadlineService {t : Nat} (hf : (s.fills.find? fun f => f.sector = line) = some f) (hlatest : f.latest = some t)
    (hready : s.fillReady line = true) (hdue : t ≤ s.now) : exec (.deadlineService line) s = .next (s.serveFill line) := by
  show execDeadlineService line s = _
  simp only [execDeadlineService, hf, hlatest]
  exact stepWhen_true (by simp [hready, hdue])

theorem State.unit_congr {s t : State} (h : t.units = s.units) (u : UnitRef) : t.unit u = s.unit u := by
  rw [State.unit, State.unit, h]

theorem State.fillLate_of_mem {t : Nat} (hf : f ∈ s.fills) (hsector : f.sector = line) (hwaits : f.served = none) (hlatest : f.latest = some t)
    (hlate : t < s.now) : s.fillLate line = true :=
  List.any_eq_true.2 ⟨f, hf, by simp [hsector, hwaits, hlatest, hlate]⟩

/-- The error units see of a served fill that it was late, and nothing else. -/
theorem State.serveFill_units (s : State) (line : Nat) :
    (s.serveFill line).units = (if s.fillLate line then s.addMiss (32 * line) else s).units := rfl

end

/-! Weight chunks (R428) -/

/-- What the flashing unit of an edge brick reads for a part of a request, and what the request takes of it. -/
def State.flashPart (s : State) (b : BrickId) (va : Nat) (r : Req) (p : Part) : State :=
  let q : Access := { cls := .brk, tenancy := r.tenancy, floor := r.pts, region := (s.brick r.brick).region, via := some b, dcl := r.dcl }
  match (s.keySlot (p.key.getD 0)).chunkOf p.va with
  | none => s.failReq r .integ va
  | some m => match s.readChunk q (p.key.getD 0) m with
    | (.error f, u) => u.failReq r f va
    | (.ok data, u) => u.chunkPart r (p.key.getD 0) m data

theorem exec_weightChunkRead {s : State} {b : BrickId} {va : Nat} {r : Req} {p : Part}
    (hr : (s.reqs.find? fun r => r.owner = b && r.stage = .flash && r.parts.any fun p => !p.performed && p.va ≤ va && va < p.va + p.len) = some r)
    (hp : r.parts.getD (r.nextPart.getD 0) { va := 0, len := 0 } = p) : exec (.weightChunkRead b va) s = .next (s.flashPart b va r p) := by
  show execWeightChunkRead b va s = _
  simp only [execWeightChunkRead, hr, hp, State.flashPart]
  cases (s.keySlot (p.key.getD 0)).chunkOf p.va with
  | none => rfl
  | some m =>
    dsimp only
    obtain ⟨_ | _, u⟩ := s.readChunk { cls := .brk, tenancy := r.tenancy, floor := r.pts, region := (s.brick r.brick).region, via := some b, dcl := r.dcl }
      (p.key.getD 0) m
    · rfl
    · rfl

/-! Returns (R194, R246 to R248, R267) -/

/-- The token by which a load or an atomic returns: its FAULT record or its data. -/
def Req.returnToken (r : Req) : Token :=
  match r.fault with
  | some p => { tag := .ctrl, pay := p, cls := some .brk, ts := r.ts }
  | none => { tag := .data, pay := r.result, cls := some .brk, ts := r.ts }

/-- A request leaves: its owner's window and its brick's timestamp take note. -/
def State.retire (s : State) (r : Req) (n : Nat) : State := ((s.dropReq n).replyTo r).modBrick r.brick fun x => x.raisePts r.ts

theorem exec_globalReturn {s : State} {n : Nat} {r : Req} (hr : s.req n = some r) (hdone : r.stage = .done) (hload : r.isStore = false)
    (hturn : s.returnTurn r.brick r.rch r.seq = true) :
    exec (.globalReturn n) s = .next ((((s.retire r n).landReturn r.brick r.rch r.returnToken).rcvd r.brick 1).noteTs r.brick r.ts) := by
  show execGlobalReturn n s = _
  simp only [execGlobalReturn, hr]
  exact stepWhen_true (by simp [hdone, hload, hturn])

theorem exec_internalAcknowledgement {s : State} {n : Nat} {r : Req} (hr : s.req n = some r) (hdone : r.stage = .done) (hstore : r.isStore = true) :
    exec (.internalAcknowledgement n) s = .next (((s.retire r n).rcvd r.brick 1).noteTs r.brick r.ts) := by
  show execInternalAcknowledgement n s = _
  simp only [execInternalAcknowledgement, hr]
  exact stepWhen_true (by simp [hdone, hstore])

/-! Handovers (R280) -/

section
variable {s : State} {n : Nat} {h : Handover}

theorem exec_handoverMessage (hn : s.handovers[n]? = some h) (hsent : h.sent = false)
    (hclosed : ∀ r ∈ s.reqs, r.owner = h.old → r.order < h.before → r.stage ≠ .waiting → r.stage ≠ .done →
      r.va / 8192 < h.first ∨ h.first + h.count ≤ r.va / 8192) :
    exec (.handoverMessage n) s = .next
      (({ s with handovers := modifyAt (fun h => { h with sent := true }) n s.handovers } : State).modBrick h.old Brick.wake) := by
  have hnone : (s.reqs.any fun r => r.owner = h.old && r.order < h.before && r.stage ≠ .waiting && r.stage ≠ .done &&
      h.first ≤ r.va / 8192 && r.va / 8192 < h.first + h.count) = false := by
    refine List.any_eq_false.2 fun r hr hopen => ?_
    simp only [Bool.and_eq_true, decide_eq_true_eq] at hopen
    obtain ⟨⟨⟨⟨⟨howner, hbefore⟩, hcame⟩, hopen⟩, hfirst⟩, hlast⟩ := hopen
    have hapart := hclosed r hr howner hbefore hcame hopen
    omega
  show execHandoverMessage n s = _
  simp only [execHandoverMessage, hn]
  exact stepWhen_true (by rw [hsent, hnone]; rfl)

/-- Requests by their arrival at the owner. -/
def inArrivalOrder (l : List Req) : List Req := l.insertionSort fun a b => a.order ≤ b.order

theorem inArrivalOrder_perm (l : List Req) : (inArrivalOrder l).Perm l := l.perm_insertionSort _

theorem inArrivalOrder_pairwise (l : List Req) : (inArrivalOrder l).Pairwise fun a b => a.order ≤ b.order := by
  have : Std.Total fun a b : Req => a.order ≤ b.order := ⟨fun a b => le_total a.order b.order⟩
  have : IsTrans Req fun a b => a.order ≤ b.order := ⟨fun _ _ _ => le_trans⟩
  exact l.pairwise_insertionSort _

/-- A request is put before those that came with it or after it. -/
theorem foldr_insert_eq_inArrivalOrder (l : List Req) :
    l.foldr (fun r acc => (acc.takeWhile fun q => q.order < r.order) ++ [r] ++ acc.dropWhile fun q => q.order < r.order) [] = inArrivalOrder l := by
  induction l with
  | nil => rfl
  | cons r l ih =>
    rw [List.foldr_cons, ih]
    unfold inArrivalOrder
    rw [List.insertionSort_cons_eq_take_drop]
    simp

/-- The requests that a handover holds at the new owner. -/
def State.heldBy (s : State) (h : Handover) : List Req :=
  s.reqs.filter fun r => r.stage = .held && r.owner = h.new && h.first ≤ r.va / 8192 && r.va / 8192 < h.first + h.count

theorem exec_handoverRelease (hn : s.handovers[n]? = some h) (hsent : h.sent = true) :
    exec (.handoverRelease n) s = .next ((inArrivalOrder (s.heldBy h)).foldl
      (fun u r => if u.handoverHolds h.region r.owner (r.va / 8192) then u else u.ownerTake r)
      (({ s with handovers := removeAt n s.handovers } : State).dropCopies h.new (s.slot h.region).tenancy)) := by
  show execHandoverRelease n s = _
  simp only [execHandoverRelease, hn, foldr_insert_eq_inArrivalOrder]
  exact stepWhen_true hsent

end

/-! Rebases (R273) -/

section
variable {s : State} {t : Nat}

theorem exec_rebase_starts (hidle : (s.tenancy t).rebasing = false) (hlimit : s.nearLimit t = true) :
    exec (.rebase t) s = .next (s.modTenancy t fun x => { x with rebasing := true }) := by
  show execRebase t s = _
  exact (if_neg (ne_true_of_eq_false hidle)).trans (stepWhen_true hlimit)

theorem exec_rebase_resets (hrebasing : (s.tenancy t).rebasing = true) (hreqs : ∀ r ∈ s.reqs, r.tenancy = t → r.stage = .waiting)
    (hmaps : ∀ m ∈ s.maps, m.tenancy = t → m.phase = .desc) :
    exec (.rebase t) s = .next ((s.resetTs t).modTenancy t fun x => { x with rebasing := false, rebase := (x.rebase + 1) % 65536 }) := by
  have hdrained : s.drained t = true := by simpa [State.drained, ← imp_iff_not_or] using And.intro hreqs hmaps
  show execRebase t s = _
  exact (if_pos hrebasing).trans (stepWhen_true hdrained)

end

/-! Invalidations (R229) -/

section
variable {s : State} {die : Nat}

theorem exec_invcmdVa (t page : Nat) (hidle : (s.die die).invBusy = false) :
    exec (.invcmdVa die t page) s = .next (s.invalidate die (t * 2 ^ 55 + page * 8192)
      (fun x => x.tenancy = t && x.page = page * 8192 / 2 ^ leafBits x.level)) := by
  show execInvcmdVa die t page s = _
  exact stepWhen_true (by rw [hidle]; rfl)

theorem exec_invcmdTenancy (t : Nat) (hidle : (s.die die).invBusy = false) :
    exec (.invcmdTenancy die t) s = .next (s.invalidate die (2 ^ 61 + t * 2 ^ 55) (fun x => x.tenancy = t)) := by
  show execInvcmdTenancy die t s = _
  exact stepWhen_true (by rw [hidle]; rfl)

/-- A die whose invalidation has completed. -/
def Die.invDone (d : Die) : Die := { d with invcmd := d.invcmd &&& ~~~(0x8000_0000_0000_0000 : Word), invMarks := [] }

theorem Die.invDone_idle (d : Die) : d.invDone.invBusy = false := by simp [Die.invDone, Die.invBusy]

theorem exec_invcmdComplete (hbusy : (s.die die).invBusy = true)
    (hfinished : ∀ n ∈ (s.die die).invMarks, s.req n = none ∨ ∃ r, s.req n = some r ∧ r.isStore = true ∧ r.stage = .done) :
    exec (.invcmdComplete die) s = .next (s.modDie die Die.invDone) := by
  show execInvcmdComplete die s = _
  refine stepWhen_true (Bool.and_eq_true_iff.2 ⟨hbusy, List.all_eq_true.2 fun n hn => ?_⟩)
  obtain hnone | ⟨r, hr, hstore, hdone⟩ := hfinished n hn
  · rw [hnone]
  · rw [hr]
    simp [hstore, hdone]

end

/-- Settles O53, each clause by the lemma of its event; the late fill by `State.serveFill_units`, the order of the held requests by `inArrivalOrder`. -/
theorem globalRequestsTravel : Obligations.GlobalRequestsTravel := by
  refine ⟨fun s n r g hr hregion hstage hrebase hpts hleave => ?owner, fun s e line r => exec_coalesceTimeout, fun s n r => State.missOf_req,
    fun s n e t va => exec_pageWalk, fun s q f x => ⟨rfl, rfl⟩, fun s n r k hr hk hstage => ?loft, fun s line f data ue => exec_loftFillDone,
    fun s line => exec_hbmRequest, fun s line f t => exec_deadlineService, fun s line f t hf hsector hwaits hlatest hlate => ?late,
    fun s b va r hr => exec_weightChunkRead hr rfl, fun s n r => exec_globalReturn, fun s n r => exec_internalAcknowledgement, fun s n h => exec_handoverMessage,
    fun s n h hn hsent => ⟨_, inArrivalOrder_perm _, inArrivalOrder_pairwise _, exec_handoverRelease hn hsent⟩,
    fun s t => ⟨exec_rebase_starts, exec_rebase_resets⟩, fun s die t page hidle => ⟨exec_invcmdVa t page hidle, exec_invcmdTenancy t hidle⟩,
    fun s die hbusy hfinished => ⟨_, exec_invcmdComplete hbusy hfinished, rfl, ?_⟩⟩
  case owner =>
    intro e hroom r' t
    have hexec := exec_ownerRequest hr hregion hstage hrebase hpts hleave hroom
    exact ⟨fun hholds => hexec.trans (congrArg _ (if_pos hholds)), fun hfree => hexec.trans (congrArg _ (if_neg (ne_true_of_eq_false hfree)))⟩
  case loft =>
    intro p hline hstore
    have hturn : s.loftTurn r p := ⟨hstage, hline, hstore⟩
    refine ⟨fun dec sz hkind slot hkey => ⟨fun m c => exec_loftAccess_chunk hr hk rfl hturn hkind hkey, exec_loftAccess_flash hr hk rfl hturn hkind hkey⟩,
      fun dec sz hkind hkey c => exec_loftAccess_copy hr hk rfl hturn hkind hkey, fun hwindow => ?_⟩
    have hhome (h : ∀ dec sz, r.kind = .load dec sz → p.key = none ∧ s.l1Hit r p = none) := exec_loftAccess_home hr hk rfl hturn h hwindow
    refine ⟨fun dec sz hkind hkey hmiss => (hhome fun _ _ _ => ⟨hkey, hmiss⟩).trans (congrArg _ (State.homePart_load hkind)),
      fun hkind => (hhome ?_).trans (congrArg _ (State.homePart_store hkind)),
      fun op w v y hkind hthere => (hhome ?_).trans (congrArg _ (State.homePart_atomic hkind hthere)),
      fun op w v y hkind hneed => (hhome ?_).trans (congrArg _ (State.homePart_atomic_waits hkind hneed))⟩
    all_goals exact fun dec sz hload => nomatch hkind.symm.trans hload
  case late =>
    intro u
    rw [State.unit_congr (State.serveFill_units s line), if_pos (State.fillLate_of_mem hf hsector hwaits hlatest hlate)]
    exact State.setUnit_unit_same ..
  rw [State.modDie_die, if_pos rfl]
  exact ⟨Die.invDone_idle _, rfl⟩

end Sys2Proof.Machine

namespace Sys2Proof.Machine

open Sys2Proof

/-! Walks that an engine's step asks for (R228) -/

theorem State.paged_of_none {s : State} {l : List (Access × Nat × Nat)} (h : s.missing l = none) (o : Host.Outcome State Fault Refusal) : s.paged l o = o := by
  rw [State.paged, h]

theorem State.paged_of_some {s : State} {l : List (Access × Nat × Nat)} {e : BrickId} {ten va : Nat} (h : s.missing l = some (e, ten, va))
    (hnew : ∀ w ∈ s.walks, w.edge = e → w.page ≠ (ten, va / 8192)) (hroom : s.missRoom e ten va = true) (o : Host.Outcome State Fault Refusal) :
    s.paged l o = .next { s with walks := s.walks ++ [{ id := s.nextId, edge := e, tenancy := ten, va }], nextId := s.nextId + 1 } := by
  have hnone : (s.walks.any fun w => w.edge = e && w.page = (ten, va / 8192)) = false := by simpa using hnew
  rw [State.paged, h]
  exact stepWhen_true (by rw [hnone, hroom]; rfl)

/-! Tiles, words and the end of a run (R250 to R254, R257, R511) -/

/-- The oldest token of a record goes to its route; of its words, one a cycle (R511). -/
def State.sendWord (s : State) (b : BrickId) (r : Nat) (t : Token) : State :=
  (s.pushRoute b ((s.shape b r).dst % 8) t).modShape b r fun x =>
    { x with
      outq := x.outq.drop 1
      sent := if t.tag = .data then x.sent + 1 else if t.tag = .eos then 0 else x.sent
      sendAt := if t.tag = .data then s.now + 1 else x.sendAt }

/-- The record of a run that has ended, with its notice (R257). -/
def Shape.ended (x : Shape) (done : Token) : Shape :=
  { x with state := 0, fin := false, tileLeft := 0, notes := if x.dkind ≠ 1 && x.nen then x.notes ++ [done] else x.notes }

/-- The notice of a run's end (R257). -/
def Shape.doneToken (x : Shape) (r : Nat) : Token :=
  { ctrlToken 5 (r * 2 ^ 57 + b2n (x.next < x.length) * 2 ^ 56 + x.next % 2 ^ 32) with cls := some .stm, ts := x.ts }

section
variable {s : State} {b : BrickId} {r : Nat} (hwave : s.waveCame b = false)
include hwave

theorem exec_streamTileStart (hlive : (s.shape b r).state = 1) (hdkind : (s.shape b r).dkind ≠ 0) (htile : (s.shape b r).tileLeft = 0)
    (hfin : (s.shape b r).fin = false) (hcredit : 0 < (s.shape b r).credit) (hnext : (s.shape b r).next < (s.shape b r).length)
    (hroom : s.sourceRoom b (s.shape b r) = true) :
    exec (.streamTileStart b r) s =
      .next (s.modShape b r fun x => { x with credit := x.credit - 1, tileLeft := min x.tile (x.length - x.next) }) := by
  show execStreamTileStart b r s = _
  exact stepWhen_true (by simp [hwave, hlive, hdkind, htile, hfin, hcredit, hnext, hroom])

theorem exec_streamWordSend_note {t : Token} {rest : List Token} (hnotes : (s.shape b r).notes = t :: rest)
    (hroom : s.routeRoom b (s.shape b r).nrt = true) :
    exec (.streamWordSend b r) s =
      .next ((s.pushRoute b (s.shape b r).nrt t).modShape b r fun x => { x with notes := x.notes.drop 1 }) := by
  have hchoice : s.sendChoice b r = .note t := by simp only [State.sendChoice, hnotes, hroom, if_true]
  show execStreamWordSend b r s = _
  simp only [execStreamWordSend, hwave, hchoice, Bool.false_eq_true, if_false]

theorem exec_streamWordSend_word {t : Token} {rest : List Token} (hnotes : (s.shape b r).notes = []) (houtq : (s.shape b r).outq = t :: rest)
    (hroom : s.routeRoom b ((s.shape b r).dst % 8) = true) (hpaced : t.tag ≠ .data ∨ (s.shape b r).sendAt ≤ s.now) :
    exec (.streamWordSend b r) s = .next (s.sendWord b r t) := by
  have hchoice : s.sendChoice b r = .word t := by
    simp only [State.sendChoice, hnotes, houtq]
    exact if_pos (by simpa [hroom] using hpaced)
  show execStreamWordSend b r s = _
  simp only [execStreamWordSend, hwave, hchoice, Bool.false_eq_true, if_false]
  rfl

theorem exec_streamWordSend_read (hnotes : (s.shape b r).notes = []) (houtq : (s.shape b r).outq = []) (hlive : (s.shape b r).state = 1)
    (hskind : (s.shape b r).skind = 0) (htile : (s.shape b r).tileLeft ≠ 0) (hfin : (s.shape b r).fin = false)
    (hpaced : (s.shape b r).sendAt ≤ s.now) (hroom : s.sourceRoom b (s.shape b r) = true)
    (hpages : s.missing (s.wordAccesses b (s.shape b r) (s.shape b r).src false) = none) :
    exec (.streamWordSend b r) s = .next (s.nextWord b r) := by
  have hchoice : s.sendChoice b r = .read := by
    simp only [State.sendChoice, hnotes, houtq]
    exact if_pos (by simp [hlive, hskind, htile, hfin, hpaced, hroom])
  show execStreamWordSend b r s = _
  simp only [execStreamWordSend, hwave, hchoice, Bool.false_eq_true, if_false]
  exact State.paged_of_none hpages _

theorem exec_streamRunEnd (hlive : (s.shape b r).state = 1) (hfin : (s.shape b r).fin = true) (houtq : (s.shape b r).outq = []) :
    exec (.streamRunEnd b r) s =
      .next ((s.modShape b r fun x => x.ended ((s.shape b r).doneToken r)).modBrick b Brick.wake) := by
  show execStreamRunEnd b r s = _
  exact stepWhen_true (by simp [hwave, hlive, hfin, houtq])

end

/-! What a stream input token does (R255 to R258, R263) -/

section
variable {s : State} {b : BrickId} {r : Nat} {t : Token}

/-- The oldest token has left a record's stream input port. -/
def State.inputTaken (s : State) (b : BrickId) (r : Nat) : State := (s.popInput b r ((s.shape b r).src % 8)).returned b 1

/-- A token that the record does not use goes on to its route, where it has one. -/
def State.passOn (s : State) (x : Shape) (b : BrickId) (r : Nat) (t : Token) : State :=
  if x.dkind = 1 then s.modShape b r fun x => { x with outq := x.outq ++ [t] } else s

theorem State.takeInput_mark (hmark : t.isMark = true) : s.takeInput b r t = (s.inputTaken b r).passOn (s.shape b r) b r t := if_pos hmark

/-- A WEEP ends the run that goes on, passes unless the record sends its own, and a run that has ended meets no more surplus. -/
theorem State.takeInput_weep (hmark : t.isMark = false) (hweep : t.isWeep = true) :
    s.takeInput b r t =
      let x := s.shape b r
      let live : Bool := x.state = 1 && !x.fin
      let ended := if live && !x.surplus then (s.inputTaken b r).modShape b r fun x => x.close false (s.regionGen (s.brick b)) else s.inputTaken b r
      (if x.weepBit then ended else ended.passOn x b r t).modShape b r fun x => { x with surplus := false } :=
  (if_neg (ne_true_of_eq_false hmark)).trans (if_pos hweep)

section
variable (hmark : t.isMark = false) (hweep : t.isWeep = false)
include hmark hweep

theorem State.takeInput_surplus (hsurplus : (s.shape b r).surplus = true) :
    s.takeInput b r t = if t.tag = .data then (s.inputTaken b r).dropWord b r
      else if t.tag = .eos then (s.inputTaken b r).modShape b r fun x => { x with surplus := false } else s.inputTaken b r :=
  (if_neg (ne_true_of_eq_false hmark)).trans ((if_neg (ne_true_of_eq_false hweep)).trans (if_pos hsurplus))

theorem State.takeInput_run (hsurplus : (s.shape b r).surplus = false) :
    s.takeInput b r t = if t.tag = .eos then (s.inputTaken b r).modShape b r fun x => x.close (bit t.pay.toNat 33) (s.regionGen (s.brick b))
      else if t.tag = .data then (s.inputTaken b r).dataWord b r t
      else if t.subtype = 8 then (s.inputTaken b r).scaleWord b r t else (s.inputTaken b r).passOn (s.shape b r) b r t :=
  (if_neg (ne_true_of_eq_false hmark)).trans ((if_neg (ne_true_of_eq_false hweep)).trans (if_neg (ne_true_of_eq_false hsurplus)))

end

/-! When a record takes the oldest token of its stream input (R255 to R258, R511) -/

/-- A record reads a stream input whose oldest token is t, owes its route nothing, and has room there; no wave has come. -/
structure State.Faces (s : State) (b : BrickId) (r : Nat) (t : Token) : Prop where
  wave : s.waveCame b = false
  head : ∃ rest, (s.brick b).edge.si.getD ((s.shape b r).src % 8) [] = t :: rest
  skind : (s.shape b r).skind = 1
  outq : (s.shape b r).outq = []
  state : (s.shape b r).state ≠ 2
  room : (s.shape b r).dkind = 1 → s.routeRoom b ((s.shape b r).dst % 8) = true

variable (h : s.Faces b r t)
include h

theorem State.Faces.canTake_eq :
    s.canTake b r = if t.isMark then true else if t.isWeep then !((s.shape b r).state = 1 && (s.shape b r).fin)
      else (s.shape b r).surplus || ((s.shape b r).state = 1 && !(s.shape b r).fin && (t.tag = .eos || (s.shape b r).dkind = 0 || (s.shape b r).tileLeft ≠ 0)) := by
  obtain ⟨rest, hhead⟩ := h.head
  have hroom : (decide ((s.shape b r).dkind ≠ 1) || s.routeRoom b ((s.shape b r).dst % 8)) = true := by
    simpa [← imp_iff_not_or] using h.room
  simp only [State.canTake, hhead, List.head?_cons, hroom, h.skind, h.outq, h.wave, List.isEmpty_nil, ne_eq, h.state]
  simp

theorem State.Faces.canTake_weep (hmark : t.isMark = false) (hweep : t.isWeep = true) (hopen : ¬((s.shape b r).state = 1 ∧ (s.shape b r).fin = true)) :
    s.canTake b r = true := by
  rw [h.canTake_eq, if_neg (ne_true_of_eq_false hmark), if_pos hweep]
  simpa [imp_iff_not_or] using hopen

theorem State.Faces.canTake_surplus (hmark : t.isMark = false) (hweep : t.isWeep = false) (hsurplus : (s.shape b r).surplus = true) :
    s.canTake b r = true := by
  rw [h.canTake_eq, if_neg (ne_true_of_eq_false hmark), if_neg (ne_true_of_eq_false hweep), hsurplus, Bool.true_or]

theorem State.Faces.canTake_run (hmark : t.isMark = false) (hweep : t.isWeep = false) (hlive : (s.shape b r).state = 1) (hfin : (s.shape b r).fin = false)
    (hplace : t.tag = .eos ∨ (s.shape b r).dkind = 0 ∨ (s.shape b r).tileLeft ≠ 0) : s.canTake b r = true := by
  rw [h.canTake_eq, if_neg (ne_true_of_eq_false hmark), if_neg (ne_true_of_eq_false hweep)]
  simp [hlive, hfin, or_assoc, hplace]

/-- A token that the record can take is taken, a written one once no page of its places is missing (R228). -/
theorem exec_streamInputTake (hcan : s.canTake b r = true) (hpaced : (s.shape b r).takeAt ≤ s.now)
    (hpages : (s.shape b r).writesToken t = true → s.missing (s.wordAccesses b (s.shape b r) (s.shape b r).dst true) = none) :
    exec (.streamInputTake b r) s = .next (s.takeInput b r t) := by
  obtain ⟨rest, hhead⟩ := h.head
  have hguard : (s.canTake b r && (s.shape b r).takeAt ≤ s.now) = true := by simp [hcan, hpaced]
  show execStreamInputTake b r s = _
  simp only [execStreamInputTake, hhead, hguard, if_true]
  refine State.paged_of_none ?_ _
  split
  case isTrue hwrites => exact hpages hwrites
  case isFalse => rfl

end

/-! The draw port and the parameter port (R254, R255, R261) -/

/-- A DRAW grants its record credit, and goes on upstream from a record that passes what it reads to a route (R254, R255). -/
def Shape.drawn (x : Shape) (v : Nat) : Shape :=
  { x with
    credit := min 65535 (x.credit + bits v 15 0)
    notes := if x.skind = 1 && x.dkind = 1 && x.nen then x.notes ++ [ctrlToken 4 (x.urec * 2 ^ 57 + bits v 56 0)] else x.notes }

/-- A token has left the draw port. -/
def State.drawTaken (s : State) (b : BrickId) (rest : List Token) : State :=
  (s.modBrick b fun x => { x with edge := { x.edge with dp := rest, dpAt := s.now + 1 } }).returned b 1

theorem exec_drawPortTake {s : State} {b : BrickId} {t : Token} {rest : List Token} (hwave : s.waveCame b = false)
    (hport : (s.brick b).edge.dp = t :: rest) (hpaced : (s.brick b).edge.dpAt ≤ s.now) :
    exec (.drawPortTake b) s = .next (if t.tag = .ctrl && t.subtype = 4 then
      (s.drawTaken b rest).modShape b (bits t.pay.toNat 59 57) fun x => x.drawn t.pay.toNat else s.drawTaken b rest) := by
  show execDrawPortTake b s = _
  simp only [execDrawPortTake, hport]
  exact stepWhen_true (by simp [hpaced, hwave])

section
variable {s : State} {b : BrickId} {n : Nat} {f : Flight}

/-- A flight has ended at the parameter port. -/
def State.flightTaken (s : State) (b : BrickId) (n : Nat) (f : Flight) : State :=
  (({ s with flights := removeAt n s.flights } : State).rcvd f.src 1).returned b 1

variable (hn : (s.flights.findIdx? fun f => f.dest = .param b && f.due ≤ s.now) = some n) (hf : s.flights[n]? = some f)
include hn hf

theorem exec_paramPortTake_holds (htag : f.tok.tag = .ctrl) (hsub : f.tok.subtype = 3) (hdiscard : (s.brick b).discard = false)
    (hfree : (s.brick b).edge.pp = none) :
    exec (.paramPortTake b) s =
      .next ((s.flightTaken b n f).modBrick b fun x => { x with edge := { x.edge with pp := some (f.tok, false) } }) := by
  show execParamPortTake b s = _
  simp only [execParamPortTake, hn, hf]
  rw [stepWhen_true (by simp [hfree]), if_pos (by simp [htag, hsub, hdiscard])]
  rfl

theorem exec_paramPortTake_drops (h : f.tok.tag ≠ .ctrl ∨ f.tok.subtype ≠ 3 ∨ (s.brick b).discard = true) :
    exec (.paramPortTake b) s = .next (s.flightTaken b n f) := by
  have hnone : (f.tok.tag = .ctrl && f.tok.subtype = 3 && !(s.brick b).discard : Bool) = false := by
    obtain htag | hsub | hdiscard := h
    · simp [htag]
    · simp [hsub]
    · simp [hdiscard]
  show execParamPortTake b s = _
  simp only [execParamPortTake, hn, hf, hnone]
  rfl

end

section
variable {s : State} {b : BrickId} {t : Token}

/-- The hold register of the parameter port is free again. -/
def State.paramTaken (s : State) (b : BrickId) : State := s.modBrick b fun x => { x with edge := { x.edge with pp := none } }

/-- The payload of a FAULT of KIND PARAM (R261). -/
def paramFault : Nat := 7 * 2 ^ 60 + 7 * 2 ^ 56

theorem exec_paramApply (hport : (s.brick b).edge.pp = some (t, true)) (hidle : (s.shape b (bits t.pay.toNat 59 57)).state = 0) :
    let v := t.pay.toNat
    let r := bits v 59 57
    let y := (s.shape b r).param (bits v 56 54) (bits v 53 0)
    exec (.paramApply b) s = .next (if bits v 56 54 = 7 || y.malformed then
        (if (s.shape b r).dkind = 1 then
          (s.paramTaken b).modShape b r fun x => { x with outq := x.outq ++ [{ tag := .ctrl, pay := BitVec.ofNat 64 paramFault }] }
         else (s.paramTaken b).raiseAt b { code := 0x02, detail := 7, data := paramFault })
      else (s.paramTaken b).modShape b r fun _ => y) := by
  intro v r y
  show execParamApply b s = _
  simp only [execParamApply, hport]
  exact stepWhen_true (by simp [hidle])

end

/-- Settles O54, each clause by the lemma of its event; what a stream input token does by the equations of `State.takeInput`. -/
theorem streamEngineSteps : Obligations.StreamEngineSteps := by
  refine ⟨fun s b r hwave => ⟨exec_streamTileStart hwave, fun t rest => exec_streamWordSend_note hwave, fun t rest => exec_streamWordSend_word hwave,
      exec_streamWordSend_read hwave, exec_streamRunEnd hwave, fun t rest hhead hskind hpaced houtq hstate hroom hpages => ?input,
      fun t rest hport hpaced => ?draw⟩,
    fun s b n f hn hf => ⟨exec_paramPortTake_holds hn hf, exec_paramPortTake_drops hn hf⟩,
    fun s l o => ⟨fun hnone => State.paged_of_none hnone o, fun e ten va hsome hnew hwalkers => State.paged_of_some hsome hnew hwalkers o⟩,
    fun s b t hport => ?param⟩
  case input =>
    intro t' gen
    have hfaces : s.Faces b r t := ⟨hwave, ⟨rest, hhead⟩, hskind, houtq, hstate, hroom⟩
    have htake {u : State} (hcan : s.canTake b r = true) (hu : s.takeInput b r t = u) : exec (.streamInputTake b r) s = .next u :=
      (exec_streamInputTake hfaces hcan hpaced hpages).trans (congrArg _ hu)
    refine ⟨fun hmark => htake (hfaces.canTake_eq.trans (if_pos hmark)) (State.takeInput_mark hmark), fun hmark hweep hsurplus htag => ?surplusWord,
      fun hmark hweep hsurplus htag => ?surplusEos, fun hmark hweep hsurplus hlive hfin => ?run,
      fun hmark hweep hopen => htake (hfaces.canTake_weep hmark hweep hopen) (State.takeInput_weep hmark hweep)⟩
    case surplusWord => exact htake (hfaces.canTake_surplus hmark hweep hsurplus) ((State.takeInput_surplus hmark hweep hsurplus).trans (if_pos htag))
    case surplusEos =>
      exact htake (hfaces.canTake_surplus hmark hweep hsurplus) ((State.takeInput_surplus hmark hweep hsurplus).trans
        ((if_neg (by simp [htag])).trans (if_pos htag)))
    case run =>
      have hrun := State.takeInput_run hmark hweep hsurplus
      have hcan := hfaces.canTake_run hmark hweep hlive hfin
      refine ⟨fun htag => htake (hcan (.inl htag)) (hrun.trans (if_pos htag)), fun htag hplace => htake (hcan (.inr hplace)) (hrun.trans ((if_neg ?_).trans (if_pos htag))),
        fun htag hsub hplace => htake (hcan (.inr hplace)) (hrun.trans ((if_neg ?_).trans ((if_neg ?_).trans (if_pos hsub))))⟩
      all_goals simp [htag]
  case draw =>
    have hexec := exec_drawPortTake hwave hport hpaced
    refine ⟨fun htag hsub => hexec.trans (congrArg _ (if_pos (by simp [htag, hsub]))), fun h => hexec.trans (congrArg _ (if_neg ?_))⟩
    simpa [imp_iff_not_or] using h
  case param =>
    intro v r y s' hidle
    have hexec := exec_paramApply hport hidle
    have hbad (h : bits v 56 54 = 7 ∨ y.malformed = true) : (bits v 56 54 = 7 || y.malformed : Bool) = true := by simpa using h
    refine ⟨fun hfield hgood => hexec.trans (congrArg _ (if_neg ?_)), fun h hroute => hexec.trans (congrArg _ ((if_pos (hbad h)).trans (if_pos hroute))),
      fun h hroute => hexec.trans (congrArg _ ((if_pos (hbad h)).trans (if_neg hroute)))⟩
    simp [v, r, y, hfield, hgood]

end Sys2Proof.Machine

namespace Sys2Proof.Machine

open Sys2Proof

/-! Global rules: GADDR or a request (R245, R247, R249, R279) -/

theorem badGlobal_iff {a : Nat} : badGlobal a = true ↔ 2 ^ 54 ≤ a := decide_eq_true_iff

/-- A beat traps GADDR at an address above the 54 bits, and otherwise leaves one request for the commit. -/
theorem globalBeat_eq (i a : Nat) (kind : ReqKind) (data : List Byte) (rch : Nat) (dcl : Bool) :
    globalBeat i a kind data rch dcl =
      if 2 ^ 54 ≤ a then { trap := some { cls := 0x07, detail := 0, beat := i } } else { effects := [.global kind a data rch dcl] } :=
  if_congr badGlobal_iff rfl rfl

/-- Settles O23: the requests by `globalBeat_eq`, HANDOVER by `badGlobal_iff`, XFENCE as its beat is defined. -/
theorem globalRules : Obligations.GlobalRules := by
  refine fun _ x => ⟨computes_of_beatOf (congrArg some ?gld), computes_of_beatOf (congrArg some ?gst), computes_of_beatOf (congrArg some ?gat),
    computes_of_beatOf rfl, computes_of_beatOf (congrArg some ?handover)⟩
  case gld | gst | gat =>
    funext s b f r n
    exact globalBeat_eq ..
  case handover =>
    funext s b f r n
    exact if_congr badGlobal_iff rfl rfl

/-! Streams, watches and sinks (R259, R260, R262, R377) -/

/-- ARM fires only while its shape record is not LIVE (R260). -/
theorem MayFire.strmArm {h : Head} {y : XBody} {s : State} (hmay : MayFire (.strmArm h y) s) :
    ((s.brick s.focus.1).edge.shapes.getD (y.sub.toNat / 8) {}).state ≠ 1 := by
  obtain ⟨r, -, hready⟩ := hmay.slotReady
  exact enginesFree_strmArm hready.engines

/-- Settles O24: each rule as its beat is defined, ARM's wait by `MayFire.strmArm`. -/
theorem streamAndWatchRules : Obligations.StreamAndWatchRules :=
  fun _ _ => ⟨computes_of_beatOf rfl, computes_of_beatOf rfl, computes_of_beatOf rfl, computes_of_beatOf rfl, computes_of_beatOf rfl,
    computes_of_beatOf rfl, fun _ => MayFire.strmArm⟩

end Sys2Proof.Machine

namespace Sys2Proof.Machine

open Sys2Proof

/-! Every row and every step answers a next state -/

/-- A row that keeps `State.fixed` answers by `exec_keeps`; the others are events that take effect or leave the state. -/
theorem exec_answers (i : Instr) (s : State) : ∃ t, exec i s = .next t := by
  cases hi : setsFixed i with
  | false =>
    obtain ⟨t, ht, -⟩ := exec_keeps i s hi
    exact ⟨t, ht⟩
  | true =>
    cases i with
    | boot | errwinWrite | powerLimitStepDown | powerStepUp => exact ⟨_, rfl⟩
    | _ => cases hi

/-- Settles O39: a row by `exec_answers`, and each move of the agenda is a row or answers outright. -/
theorem everyStepAnswersNext : Obligations.EveryStepAnswersNext := by
  refine ⟨exec_answers, fun s => ?_⟩
  cases hmoves : s.agenda with
  | nil => exact ⟨_, step_empty hmoves⟩
  | cons move rest =>
    cases move with
    | tick => exact ⟨_, step_tick hmoves⟩
    | hold b banks => exact ⟨_, step_hold hmoves⟩
    | event i =>
      rw [step_event hmoves]
      split
      · exact ⟨_, rfl⟩
      · exact exec_answers _ _
    | pick b =>
      simp only [step, hmoves]
      split
      · exact ⟨_, rfl⟩
      · exact exec_answers _ _

end Sys2Proof.Machine

namespace Sys2Proof.Machine

open Sys2Proof

/-! Rules that read a block of the bank: their traps in order, or one effect (R292, R314, R331, R358) -/

theorem blockDenied_iff {x : Brick} {off n al : Nat} :
    blockDenied x off n al = true ↔ off % al ≠ 0 ∨ bankDenied x (2 * off) (2 * n) false = true := by
  simp [blockDenied]

theorem blockDenied_eq_false {x : Brick} {off n al : Nat} (halign : off % al = 0) (hallowed : bankDenied x (2 * off) (2 * n) false = false) :
    blockDenied x off n al = false := by
  simp [blockDenied, halign, hallowed]

theorem eccOf_eq_none {x : Brick} {off n i : Nat} (h : spanUe x (2 * off) (2 * n) false = none) : eccOf x off n i = none := by
  rw [eccOf, h]

theorem badGlobal_eq_false {a : Nat} (h : a < 2 ^ 54) : badGlobal a = false :=
  decide_eq_false (Nat.not_le.2 h)

theorem firstTrap_cons_none (t : Option Trap) (ts : List (Option Trap)) : firstTrap (t :: none :: ts) = firstTrap (t :: ts) := by
  cases t <;> rfl

section
variable {s : State} {b : BrickId} {off i : Nat}

/-! TTQ (R292) -/

theorem taskBeat_denied {tid : Option Nat} (h : blockDenied (s.brick b) off 64 64 = true) : (taskBeat s b off i tid).trap = bankAddrTrap i := by
  rw [taskBeat, if_pos h]

theorem taskBeat_allowed {tid : Option Nat} (h : blockDenied (s.brick b) off 64 64 = false) (hue : spanUe (s.brick b) (2 * off) 128 false = none) :
    taskBeat s b off i tid = { effects := [.task (match tid with
      | some t => modifyAt (fun w => BitVec.ofNat 64 (insertBits w.toNat 56 8 t)) 0 ((s.brick b).wordsAt off 8)
      | none => (s.brick b).wordsAt off 8)] } := by
  rw [taskBeat, if_neg (ne_true_of_eq_false h), eccOf_eq_none hue]
  rfl

/-! Slate-map rules (R314) -/

theorem mapBeat_denied {k : MapKind} {rch : Nat} (h : blockDenied (s.brick b) off 32 32 = true) : (mapBeat s b off i k rch).trap = bankAddrTrap i := by
  rw [mapBeat, if_pos h]

section
variable {k : MapKind} {rch : Nat} {ws : List Word} (hws : (s.brick b).wordsAt off 4 = ws) (h : blockDenied (s.brick b) off 32 32 = false)
  (hue : spanUe (s.brick b) (2 * off) 64 false = none) (hwords : ∀ j, j < 4 → (s.brick b).wordUe (off / 8 + j) = false)
include hws h hue hwords

/-- A block that reads well is judged by its two addresses, then by its format. -/
theorem mapBeat_allowed : mapBeat s b off i k rch = effectsUnless (firstTrap
    [trapWhen (badGlobal (wordNat ws 0) || badGlobal (wordNat ws 3)) (gaddrTrap i),
     (blockDetail k (wordNat ws 1) (wordNat ws 2) (wordNat ws 3)).bind (slfTrap · i)]) [.map k rch ws] := by
  subst hws
  rw [mapBeat, if_neg (ne_true_of_eq_false h)]
  simp only [hwords 0 (by decide), hwords 3 (by decide), eccOf_eq_none (n := 32) hue, Bool.not_false, Bool.true_and, firstTrap_cons_none]

theorem mapBeat_badAddress (hbad : 2 ^ 54 ≤ wordNat ws 0 ∨ 2 ^ 54 ≤ wordNat ws 3) : (mapBeat s b off i k rch).trap = gaddrTrap i := by
  have hhigh : (badGlobal (wordNat ws 0) || badGlobal (wordNat ws 3)) = true := by
    simpa only [Bool.or_eq_true, badGlobal_iff] using hbad
  rw [mapBeat_allowed hws h hue hwords, hhigh]
  rfl

section
variable (h0 : wordNat ws 0 < 2 ^ 54) (h3 : wordNat ws 3 < 2 ^ 54)
include h0 h3

theorem mapBeat_badBlock {d : Nat} (hd : blockDetail k (wordNat ws 1) (wordNat ws 2) (wordNat ws 3) = some d) :
    (mapBeat s b off i k rch).trap = slfTrap d i := by
  rw [mapBeat_allowed hws h hue hwords, badGlobal_eq_false h0, badGlobal_eq_false h3, hd]
  rfl

theorem mapBeat_queues (hd : blockDetail k (wordNat ws 1) (wordNat ws 2) (wordNat ws 3) = none) :
    mapBeat s b off i k rch = { effects := [.map k rch ws] } := by
  rw [mapBeat_allowed hws h hue hwords, badGlobal_eq_false h0, badGlobal_eq_false h3, hd]
  rfl

end
end

/-! The format of a request block, by its kind (R314, R315) -/

theorem blockDetail_generation (k : MapKind) {w1 : Nat} (w2 w3 : Nat) (h : w1 % 256 ≠ 0) : blockDetail k w1 w2 w3 = some 0x01 := by
  simp [blockDetail, h]

section
variable {w1 w2 w3 : Nat} (h1 : w1 % 256 = 0)
include h1

theorem blockDetail_unplaced {k : MapKind} (hk : k ≠ .pinResident ∧ k ≠ .pinStored ∧ k ≠ .pinShare) (h2 : w2 = 0) (h3 : w3 = 0) :
    blockDetail k w1 w2 w3 = none := by
  simp [blockDetail, hk, h1, h2, h3]

theorem blockDetail_pinShare (h2 : w2 % 256 = 0) (h3 : w3 = 0) : blockDetail .pinShare w1 w2 w3 = none := by
  simp [blockDetail, h1, h2, h3]

variable (hzero : bits w2 63 17 = 0) (hfmt : bits w2 16 13 = 6 ∨ bits w2 16 13 = 7) (hcount : 0 < bits w2 10 4)
  (hmax : bits w2 10 4 ≤ slatePmax (bits w2 12 11)) (hback : w3 % 8192 = 0)
include hzero hfmt hcount hmax hback

theorem blockDetail_pinResident (hgran : bits w2 3 0 + slateGranules (bits w2 12 11) ≤ 16) : blockDetail .pinResident w1 w2 w3 = none := by
  have hhalf : isHalf (bits w2 16 13) = true := by simpa [isHalf] using hfmt
  simp [blockDetail, pinFmt, pinCount, pinDc, pinGran, h1, hzero, hhalf, hback, hcount.ne', Nat.not_lt.2 hmax, Nat.not_lt.2 hgran]

theorem blockDetail_pinStored (hplace : 0 < w3) : blockDetail .pinStored w1 w2 w3 = none := by
  have hhalf : isHalf (bits w2 16 13) = true := by simpa [isHalf] using hfmt
  simp [blockDetail, pinFmt, pinCount, pinDc, h1, hzero, hhalf, hback, hcount.ne', Nat.not_lt.2 hmax, hplace.ne']

end

/-- The operation of PIN that a B code names. -/
def pinKind (c : Nat) : MapKind := if c = 0 then .pinResident else if c = 1 then .pinStored else .pinShare
/-- The operation of UNPIN that a B code names. -/
def unpinKind (c : Nat) : MapKind := if c = 0 then .unpinDrop else if c = 1 then .unpinKeep else .unpinErase

theorem slfPinBeat_eq (x : XBody) (f : Firing) (r : RuleInfo) :
    slfPinBeat x s b f r i = mapBeat s b (addrOf s b f r i) i (pinKind (x.b.toNat % 4)) (x.d.toNat % 4) := by
  unfold slfPinBeat
  split <;> simp_all [pinKind]

theorem slfUnpinBeat_eq (x : XBody) (f : Firing) (r : RuleInfo) :
    slfUnpinBeat x s b f r i = mapBeat s b (addrOf s b f r i) i (unpinKind (x.b.toNat % 4)) (x.d.toNat % 4) := by
  unfold slfUnpinBeat
  split <;> simp_all [unpinKind]

theorem unpinKind_unplaced (c : Nat) : unpinKind c ≠ .pinResident ∧ unpinKind c ≠ .pinStored ∧ unpinKind c ≠ .pinShare := by
  unfold unpinKind
  split
  · decide
  · split <;> decide

/-! FQRY POST (R358) -/

variable {x : XBody} {f : Firing} {r : RuleInfo}

theorem fqryPostBeat_denied (h : blockDenied (s.brick b) (addrOf s b f r i) 64 64 = true) : (fqryPostBeat x s b f r i).trap = bankAddrTrap i := by
  simp only [fqryPostBeat, h, Bool.true_or, if_true]

section
variable {ws : List Word} (hws : (s.brick b).wordsAt (addrOf s b f r i) 8 = ws)
  (h : blockDenied (s.brick b) (addrOf s b f r i) 64 64 = false) (hinl : bit (wordNat ws 0) 50 = false)
  (hue : spanUe (s.brick b) (2 * addrOf s b f r i) 128 false = none)
include hws h hinl hue

/-- A packet with no inline vector is judged by its addresses, then by its format. -/
theorem fqryPostBeat_allowed : fqryPostBeat x s b f r i = effectsUnless (firstTrap
    [trapWhen (badGlobal (wordNat ws 1) || badGlobal (wordNat ws 2) || (bit (wordNat ws 0) 51 && badGlobal (wordNat ws 3))) (gaddrTrap i),
     (packetDetail s b ws x.b.toNat).bind (fqryTrap · i)]) [.post x.b.toNat ws []] := by
  subst hws
  have hbytes : packetBytes (s.brick b) (addrOf s b f r i) = 64 := if_neg (ne_true_of_eq_false hinl)
  simp only [fqryPostBeat, hbytes, h, hinl, eccOf_eq_none (n := 64) hue, Bool.or_self, Bool.not_false, Bool.true_and, Bool.false_eq_true, if_false,
    firstTrap_cons_none]

theorem fqryPostBeat_badVector (hbad : 2 ^ 54 ≤ wordNat ws 1) : (fqryPostBeat x s b f r i).trap = gaddrTrap i := by
  rw [fqryPostBeat_allowed hws h hinl hue, badGlobal_iff.2 hbad]
  rfl

theorem fqryPostBeat_queues (h1 : wordNat ws 1 < 2 ^ 54) (h2 : wordNat ws 2 < 2 ^ 54) (h3 : wordNat ws 3 < 2 ^ 54)
    (hgood : packetDetail s b ws x.b.toNat = none) : fqryPostBeat x s b f r i = { effects := [.post x.b.toNat ws []] } := by
  rw [fqryPostBeat_allowed hws h hinl hue, badGlobal_eq_false h1, badGlobal_eq_false h2, badGlobal_eq_false h3, Bool.and_false, hgood]
  rfl

end

end

/-- Settles O25: TTQ by `taskBeat_allowed`, the slate-map rules by what `mapBeat` answers and `blockDetail` of each kind, POST by `fqryPostBeat_queues`. -/
theorem recordRules : Obligations.RecordRules := by
  intro h x
  refine ⟨⟨_, _, computes_of_beatOf rfl, computes_of_beatOf rfl, fun s b f r n => ⟨fun hdenied => ?taskDenied, fun halign hallowed hue => ?task⟩⟩,
    ⟨_, _, _, computes_of_beatOf rfl, computes_of_beatOf rfl, computes_of_beatOf rfl, fun s b f r n => ⟨fun hdenied => ?mapDenied, fun halign hallowed hue hwords => ?map⟩⟩,
    ⟨_, computes_of_beatOf rfl, fun s b f r n => ⟨fun hdenied => ?postDenied, fun halign hallowed hinl hue => ?post⟩⟩, computes_of_beatOf rfl⟩
  case taskDenied =>
    have hdenied := (blockDenied_iff (n := 64)).2 hdenied
    exact ⟨taskBeat_denied hdenied, taskBeat_denied hdenied⟩
  case task =>
    have hallowed := blockDenied_eq_false (n := 64) halign hallowed
    exact ⟨taskBeat_allowed hallowed hue, taskBeat_allowed hallowed hue⟩
  case mapDenied =>
    have hdenied := (blockDenied_iff (n := 32)).2 hdenied
    exact ⟨mapBeat_denied hdenied, mapBeat_denied hdenied, mapBeat_denied hdenied⟩
  case map =>
    have hallowed := blockDenied_eq_false (n := 32) halign hallowed
    rw [slfPinBeat_eq, slfUnpinBeat_eq]
    refine ⟨fun hbad => ?address, fun h0 h3 h1 => ?generation, fun h0 h1 h2 h3 => ?unplaced, fun h0 h1 hzero hfmt hcount hmax => ?placed,
      fun h0 h1 h2 h3 hcode => ?share⟩
    case address =>
      exact ⟨mapBeat_badAddress rfl hallowed hue hwords hbad, mapBeat_badAddress rfl hallowed hue hwords hbad, mapBeat_badAddress rfl hallowed hue hwords hbad⟩
    case generation =>
      have htrap (k : MapKind) (rch : Nat) := mapBeat_badBlock (i := n) (rch := rch) rfl hallowed hue hwords h0 h3 (blockDetail_generation k _ _ h1)
      exact ⟨htrap .., htrap .., htrap ..⟩
    case unplaced =>
      have hqueues (k : MapKind) (hk) := mapBeat_queues (i := n) (rch := x.d.toNat % 4) rfl hallowed hue hwords h0 (h3.trans_lt (by decide))
        (blockDetail_unplaced h1 (k := k) hk h2 h3)
      exact ⟨hqueues _ (by decide), hqueues _ (unpinKind_unplaced _)⟩
    case placed =>
      refine ⟨fun hcode hgran hback h3 => ?_, fun hcode hplace hback h3 => ?_⟩
      · rw [hcode]
        exact mapBeat_queues rfl hallowed hue hwords h0 h3 (blockDetail_pinResident h1 hzero hfmt hcount hmax hback hgran)
      · rw [hcode]
        exact mapBeat_queues rfl hallowed hue hwords h0 h3 (blockDetail_pinStored h1 hzero hfmt hcount hmax hback hplace)
    case share =>
      have hkind : pinKind (x.b.toNat % 4) = .pinShare := by
        rw [pinKind, if_neg (by omega), if_neg (by omega)]
      rw [hkind]
      exact mapBeat_queues rfl hallowed hue hwords h0 (h3.trans_lt (by decide)) (blockDetail_pinShare h1 h2 h3)
  case postDenied =>
    exact fqryPostBeat_denied ((blockDenied_iff (n := 64)).2 hdenied)
  case post =>
    have hallowed := blockDenied_eq_false (n := 64) halign hallowed
    exact ⟨fqryPostBeat_badVector rfl hallowed hinl hue, fun h1 h2 h3 hgood => fqryPostBeat_queues rfl hallowed hinl hue h1 h2 h3 hgood⟩

/-! Dock rules (R330 to R335) -/

section
variable {s : State} {b : BrickId} {k i : Nat} (es : List Effect)

theorem effectsUnless_notDocked : effectsUnless (notDocked (s.brick b) k i) es =
    if ((s.brick b).dock k).st ≠ .docked then { trap := slfTrap 0x10 i } else { effects := es } := by
  by_cases hdocked : ((s.brick b).dock k).st = .docked <;> simp [notDocked, trapWhen, effectsUnless, hdocked, slfTrap]

/-- A dock rule is judged by its dock, then by a condition of its own. -/
theorem effectsUnless_dock (p : Prop) [Decidable p] (d : Nat) : effectsUnless (firstTrap [notDocked (s.brick b) k i, trapWhen (decide p) (slfTrap d i)]) es =
    if ((s.brick b).dock k).st ≠ .docked then { trap := slfTrap 0x10 i } else if p then { trap := slfTrap d i } else { effects := es } := by
  by_cases hdocked : ((s.brick b).dock k).st = .docked <;> by_cases hp : p <;>
    simp [notDocked, trapWhen, firstTrap, effectsUnless, hdocked, hp, slfTrap]

end

theorem Brick.dockWord_mod (x : Brick) (k w : Nat) : x.dockWord (k % 2) w = leValue (cellsRead x.bank (k % 2 * 0x3000 + 8 * w) 8) := by
  rw [Brick.dockWord, dockBase, Nat.mod_mod]

section
variable {s : State} {b : BrickId} {n : Nat} {x : XBody} {f : Firing} {r : RuleInfo}

theorem slfHdrLaunchBeat_misaligned (h : addrOf s b f r n % 64 ≠ 0) : (slfHdrLaunchBeat x s b f r n).trap = bankAddrTrap n := by
  have hdenied : blockDenied (s.brick b) (addrOf s b f r n) 64 64 = true := blockDenied_iff.2 (.inl h)
  simp only [slfHdrLaunchBeat, hdenied, Bool.true_or, if_true]

theorem slfHdrLaunchBeat_allowed (halign : addrOf s b f r n % 64 = 0)
    (hhead : bankDenied (s.brick b) (2 * addrOf s b f r n) 128 false = false)
    (himage : bankDenied (s.brick b) (2 * addrOf s b f r n) (2 * yealmSize (wordNat ((s.brick b).wordsAt (addrOf s b f r n) 8) 1)) false = false)
    (hue : spanUe (s.brick b) (2 * addrOf s b f r n) 128 false = none) :
    slfHdrLaunchBeat x s b f r n = if launchMalformed b ((s.brick b).wordsAt (addrOf s b f r n) 8) then { trap := slfTrap 0x12 n }
      else { effects := [.launch (addrOf s b f r n)] } := by
  simp only [slfHdrLaunchBeat, blockDenied_eq_false (n := 64) halign hhead, blockDenied_eq_false halign himage, eccOf_eq_none (n := 64) hue,
    Bool.or_self, Bool.false_eq_true, if_false]
  cases launchMalformed b ((s.brick b).wordsAt (addrOf s b f r n) 8) <;> rfl

end

/-- A launch fires only with a dock for it, while the ring engine is free (R330, R333). -/
theorem MayFire.slfHdrLaunch {h : Head} {x : XBody} {s : State} (hmay : MayFire (.slfHdrLaunch h x) s) :
    (s.brick s.focus.1).dockRoom s.now = true ∧ (s.brick s.focus.1).ringFree ≤ s.now := by
  obtain ⟨r, -, hready⟩ := hmay.slotReady
  have hring := enginesFree_dock rfl hready.engines
  rw [ringHeld, Bool.or_eq_false_iff] at hring
  exact ⟨enginesFree_launch hready.engines, Nat.not_lt.1 (of_decide_eq_false hring.1)⟩

section
variable {s : State} {b : BrickId} {f : Firing} {r : RuleInfo} {o : Beat}
  (hlate : judgedLate f.instr = true) (hr : ruleInfo f.instr = some r) (ho : beatOf f.instr = some o)
include hlate hr ho

theorem State.decided_of_late : s.decided b f = f.judged s b r o := by
  simp only [State.decided, hlate, hr, ho]

theorem State.decided_of_trap {t : Trap} (ht : (o s b f r 0).trap = some t) :
    s.decided b f = { f with trap := some t, found := s.now - 1, wbs := [], effects := [] } := by
  simp only [State.decided_of_late hlate hr ho, Firing.judged, ht]

theorem State.decided_of_noTrap (ht : (o s b f r 0).trap = none) :
    s.decided b f = { f with wbs := resultWriteBack r f.port 0 s.now (o s b f r 0) [], effects := (o s b f r 0).effects } := by
  simp only [State.decided_of_late hlate hr ho, Firing.judged, ht]

end

theorem slfHdrRdBeat_eq (x : XBody) (s : State) (b : BrickId) (f : Firing) (r : RuleInfo) (n : Nat) :
    let k := addrOf s b f r n % 2
    let w := bits (addrOf s b f r n) 11 1
    slfHdrRdBeat x s b f r n = if ((s.brick b).dock k).st ≠ .docked then { trap := slfTrap 0x10 n }
      else if ceilDiv (yealmSize ((s.brick b).dockWord k 1)) 8 ≤ w then { trap := slfTrap 0x14 n }
      else .value (leValue (cellsRead (s.brick b).bank (k * 0x3000 + 8 * w) 8)) := by
  intro k w
  rw [← Brick.dockWord_mod]
  by_cases hdocked : ((s.brick b).dock k).st = .docked <;> by_cases hshort : ceilDiv (yealmSize ((s.brick b).dockWord k 1)) 8 ≤ w <;>
    simp [slfHdrRdBeat, notDocked, trapWhen, firstTrap, slfTrap, k, w, hdocked, hshort]

/-- Settles O26: the rules on a dock by `effectsUnless_dock`, HDR launch by `slfHdrLaunchBeat_allowed`, the late decision by `State.decided_of_late`. -/
theorem dockRules : Obligations.DockRules := by
  refine fun h x => ⟨computes_of_beatOf (congrArg some ?fire), computes_of_beatOf (congrArg some ?fin), computes_of_beatOf (congrArg some ?route),
    computes_of_beatOf (congrArg some ?read), computes_of_beatOf (congrArg some ?write),
    ⟨_, computes_of_beatOf rfl, fun s b f r n => ⟨slfHdrLaunchBeat_misaligned, slfHdrLaunchBeat_allowed⟩⟩, fun s => MayFire.slfHdrLaunch, by simp [judgedLate, trapDelay],
    fun s b f r o hlate hr ho => ⟨fun t => State.decided_of_trap hlate hr ho, State.decided_of_noTrap hlate hr ho⟩⟩
  case fire | fin =>
    funext s b f r n
    exact effectsUnless_dock ..
  case route =>
    funext s b f r n
    exact effectsUnless_notDocked _
  case read =>
    funext s b f r n
    exact slfHdrRdBeat_eq ..
  case write =>
    funext s b f r n
    have hword (w : Nat) : (decide (w = 0) || decide (w = 1) || decide (7 ≤ w)) = decide (w = 0 ∨ w = 1 ∨ 7 ≤ w) := by simp [Bool.or_assoc]
    simp only [slfHdrWrBeat, hword]
    exact effectsUnless_dock ..

end Sys2Proof.Machine

namespace Sys2Proof.Machine

open Sys2Proof

/-! A task record arrives, and enters the window (R292 to R295, R301) -/

section
variable {s : State} {b : BrickId} {t : Task} {rest : List Task}

/-- A record has left the task port of its brick. -/
def State.taskTaken (s : State) (b : BrickId) (rest : List Task) : State :=
  ((s.modBrick b fun x => { x with taskPort := rest, taskAt := s.now + 1 }.wake).rcvd b 1).returned b 1

theorem exec_taskRecordArrival {q : Sched} (hq : s.sched (BrickId.die b) (BrickId.course b) = q) (hport : (s.brick b).taskPort = t :: rest)
    (hpaced : (s.brick b).taskAt ≤ s.now) (hroom : q.ring.length + q.window.length < q.size) (hregion : q.region = (s.brick b).region) :
    exec (.taskRecordArrival b) s = .next (if s.taskMalformed (BrickId.die b) (BrickId.course b) t then
      ((s.taskTaken b rest).modSched (BrickId.die b) (BrickId.course b) fun q => { q with malf := min 255 (q.malf + 1) }).tellDone
        (BrickId.die b) (BrickId.course b) t tskMalf 0
      else (s.taskTaken b rest).queueTask (BrickId.die b) (BrickId.course b) t) := by
  show execTaskRecordArrival b s = _
  simp only [execTaskRecordArrival, hport, hq]
  exact stepWhen_true (by simp [hpaced, hroom, hregion])

end

section
variable {s : State} {die c : Nat}

/-- The ring without its head. -/
def Sched.popped (q : Sched) (rest : List Task) : Sched := { q with ring := rest, head := (q.head + 1) % q.size }

section
variable {t0 t : Task} {rest : List Task} {q : Sched} {s1 : State} (hq : s.sched die c = q) (hring : q.ring = t0 :: rest)
  (hhead : s.ringHead q t0 = (t, s1)) (hmoves : s.schedStopped die c = false)
include hq hring hhead hmoves

theorem exec_windowEnter_stale (hstale : q.isStale t = true) :
    exec (.windowEnter die c) s =
      .next ((s1.modSched die c fun q => { q.popped rest with stale := min 255 (q.stale + 1) }).tellDone die c t tskStale 0) := by
  show execWindowEnter die c s = _
  simp only [execWindowEnter, hq, hring, hhead, hstale, if_true]
  exact stepWhen_true (by rw [hmoves]; rfl)

theorem exec_windowEnter (hfresh : q.isStale t = false) (hroom : q.window.length < 32)
    (hentry : q.entry t.tid = boardFree ∨ q.entry t.tid = boardDone ∨ q.entry t.tid = boardFault) :
    exec (.windowEnter die c) s = .next (s1.modSched die c fun y =>
      ({ y.popped rest with window := y.window ++ [{ t with prev := q.entry t.tid }] }).setEntry s.now t.tid boardQueued) := by
  show execWindowEnter die c s = _
  simp only [execWindowEnter, hq, hring, hhead, hfresh, Bool.false_eq_true, if_false]
  exact stepWhen_true (by simpa [hroom, hmoves, or_assoc] using hentry)

end

section
variable (hmoves : s.schedStopped die c = false)
include hmoves

theorem exec_staleRecord {k : Nat} {t : Task} (ht : (s.sched die c).window[k]? = some t) (hstale : (s.sched die c).isStale t = true) :
    exec (.staleRecord die c k) s = .next ((s.modSched die c fun q =>
      ({ q with window := removeAt k q.window, stale := min 255 (q.stale + 1) }).setEntry s.now t.tid t.prev).tellDone die c t tskStale 0) := by
  show execStaleRecord die c k s = _
  simp only [execStaleRecord, ht]
  exact stepWhen_true (by rw [hstale, hmoves]; rfl)

/-! A record issues (R296, R297) -/

variable (hsettled : s.courseSettled die c = true)
include hsettled

theorem exec_taskIssue_depFault {k : Nat} (hk : (s.sched die c).window.findIdx? ((s.sched die c).depFailed s.now) = some k) :
    let t := (s.sched die c).window.getD k { words := [] }
    exec (.taskIssue die c) s = .next ((s.modSched die c fun q =>
      ({ q with window := removeAt k q.window }).setEntry s.now t.tid boardFault).tellDone die c t tskDepFlt 0) := by
  intro t
  show execTaskIssue die c s = _
  simp only [execTaskIssue, hk]
  exact stepWhen_true (by rw [hmoves, hsettled]; rfl)

/-- Record k has left the window with a scoreboard entry. -/
def State.taskLeft (s : State) (die c k : Nat) (t : Task) (v : Nat) : State :=
  s.modSched die c fun q => ({ q with window := removeAt k q.window, issueAt := s.now + 1 }).setEntry s.now t.tid v

/-- The places that a record reads and writes are good (R297, R299). -/
def State.taskPlaced (s : State) (die c : Nat) (t : Task) : Bool :=
  s.rangesOk die c (t.operandRanges 1 ++ t.operandRanges 2 ++ t.loadRanges) && (t.stw || s.drainOk (s.sched die c) t t.ridx)

theorem exec_taskIssue {k a : Nat} {b : BrickId} (hmet : (s.sched die c).window.findIdx? ((s.sched die c).depFailed s.now) = none)
    (hk : (s.sched die c).window.findIdx? ((s.sched die c).isReady s.now) = some k)
    (hb : ((s.slabSet die c).find? fun b => (s.brick b).freeAcc.isSome) = some b) (ha : (s.brick b).freeAcc = some a)
    (hpaced : (s.sched die c).issueAt ≤ s.now) :
    let t := (s.sched die c).window.getD k { words := [] }
    exec (.taskIssue die c) s = .next (if s.taskPlaced die c t then
      (s.taskLeft die c k t boardRun).modAcc b a fun _ => { tile := [], work := .computing t (s.now + 16 + t.ks * t.stepCycles) }
      else (s.taskLeft die c k t boardFault).tellDone die c t tskBank (BrickId.col b)) := by
  intro t
  show execTaskIssue die c s = _
  simp only [execTaskIssue, hmet, hk, hb, ha, Option.getD_some]
  exact stepWhen_true (by simp [hpaced, hmoves, hsettled])

end

end

/-! A task computes, drains and ends (R287, R297 to R301) -/

section
variable {s : State} {b : BrickId} {acc : Nat} {t : Task}

/-- What becomes of a computation at its end. -/
theorem exec_taskComputeEnd {ends : Nat} (hwork : ((s.brick b).acc acc).work = .computing t ends) (hdue : ends < s.now) :
    exec (.taskComputeEnd b acc) s = .next
      (if s.tornDown b then s.modAcc b acc fun _ => {}
       else match s.badWord (BrickId.die b) (BrickId.course b) (t.operandRanges 1 ++ t.operandRanges 2 ++ t.loadRanges) with
         | some (o, a) => (s.meetBad (.bank o) a).endTask b acc t tskEcc
         | none => s.modAcc b acc fun _ => { tile := s.slabTile (BrickId.die b) (BrickId.course b) t, work := .waiting t (ends + 1) }) := by
  show execTaskComputeEnd b acc s = _
  simp only [execTaskComputeEnd, hwork]
  exact stepWhen_true (decide_eq_true hdue)

/-- A steered task takes its route from the scheduler's table, which gives it up (R300). -/
def State.steerTaken (s : State) (b : BrickId) (t : Task) : State :=
  if t.stw then s.modSched (BrickId.die b) (BrickId.course b) fun q => { q with steer := modifyAt (fun _ => none) t.tid q.steer } else s

theorem exec_drainStart {start r : Nat} (hwork : ((s.brick b).acc acc).work = .waiting t start) (hdue : start ≤ s.now) (hwave : s.waveCame b = false)
    (hroute : s.drainRoute b t = some r) :
    let q := s.sched (BrickId.die b) (BrickId.course b)
    exec (.drainStart b acc) s = .next
      (if s.drainOk q t r then
        (s.steerTaken b t).modAcc b acc fun a => { a with work := .draining t r 0 s.now (List.range (q.routes.getD r ([], true)).1.length) [] }
       else ((s.steerTaken b t).modAcc b acc fun _ => {}).modSched (BrickId.die b) (BrickId.course b) fun q =>
        { q with ends := q.ends ++ [(t, BrickId.col b, s.now + 4)] }) := by
  intro q
  show execDrainStart b acc s = _
  simp only [execDrainStart, hwork, hroute]
  exact stepWhen_true (by simp [hdue, hwave])

theorem exec_taskDone {status due : Nat} (hwork : ((s.brick b).acc acc).work = .ending t status due) (hdue : due < s.now) :
    exec (.taskDone b acc) s = .next (s.endTask b acc t status) := by
  show execTaskDone b acc s = _
  simp only [execTaskDone, hwork, hdue, if_true]

section
variable {r j next : Nat} {todo held : List Nat} {dests : List Dest} {noeos : Bool} (hwork : ((s.brick b).acc acc).work = .draining t r j next todo held) (hpaced : next ≤ s.now)
  (hwave : s.waveCame b = false) (hroute : (s.sched (BrickId.die b) (BrickId.course b)).routes.getD r ([], true) = (dests, noeos))
include hwork hpaced hwave hroute

/-- A word goes to the bank that the route names, or the place is no longer good (R299, R318). -/
theorem exec_drainWord_bank {target : BrickId} {base : Nat} (hbank : bankRoute dests = some (target, base)) :
    let at' := base + t.doff + j * t.perWord / 32 * t.drs + j * t.perWord % 32 * t.outBytes
    let good := (s.brick target).scratchRange at' 8
    exec (.drainWord b acc) s = .next ((if good then s.modBrick target fun x =>
        x.store at' (leBytes 8 (t.drainWord ((s.brick b).acc acc).tile j)) else s).modAcc b acc fun a =>
      { a with work :=
          if !good then .ending t tskBank (s.now + 4) else if j + 1 = t.words8 then .ending t 0 (s.now + 4) else .draining t r (j + 1) (s.now + 1) todo held }) := by
  intro at' good
  show execDrainWord b acc s = _
  simp only [execDrainWord, hwork, hroute, hbank]
  exact stepWhen_true (by simp [hpaced, hwave])

/-- A word forks to the ports that the route names (R184, R299). -/
theorem exec_drainWord_ports (hports : bankRoute dests = none) :
    let total := t.drainLength dests noeos
    let p := s.drainFork b acc t dests total j todo held
    let j' := if p.1.isEmpty && j < total then j + 1 else j
    exec (.drainWord b acc) s = .next (p.2.2.modAcc b acc fun a =>
      { a with work :=
          if j' = total && p.2.1.isEmpty then .ending t 0 (s.now + (if total = t.words8 then 4 else 3))
          else .draining t r j' (s.now + 1) (if p.1.isEmpty then List.range dests.length else p.1) p.2.1 }) := by
  intro total p j'
  show execDrainWord b acc s = _
  simp only [execDrainWord, hwork, hroute, hports]
  exact stepWhen_true (by simp [hpaced, hwave])

end

theorem Task.drainLength_eq (t : Task) (dests : List Dest) (noeos : Bool) :
    t.drainLength dests noeos = t.words8 + if noeos = true ∨ dests = [] then 0 else 1 := by
  cases noeos <;> cases dests <;> rfl

/-- Of a drain to one port, a word that the port accepts leaves, and one that it does not stays in the hold register (R184). -/
theorem State.drainFork_single {d : Dest} {total j : Nat} (hj : j < total) :
    s.drainFork b acc t [d] total j [0] [] =
      if s.accepts d (t.drainToken ((s.brick b).acc acc).tile j) then
        ([], [], s.launch b (drainPort acc) d (t.drainToken ((s.brick b).acc acc).tile j))
      else ([], [0], s) := by
  simp [State.drainFork, hj]

end

/-! The steer port (R300) -/

section
variable {s : State} {die c : Nat} {t : Token} {rest : List Token}

/-- The scheduler after it took a token from its steer port. -/
def Sched.steerTaken (q : Sched) (now : Nat) (rest : List Token) : Sched :=
  { q with port := rest, takeAt := now + 1, sent := q.sent + 1, rcvd := q.rcvd + 1 }

theorem exec_steerPortTake (hport : (s.sched die c).port = t :: rest) (hpaced : (s.sched die c).takeAt ≤ s.now) :
    exec (.steerPortTake die c) s = .next (s.modSched die c fun q =>
      if (t.tag = .ctrl && t.subtype = 2 && bits t.pay.toNat 47 16 < 256 : Bool) then
        { q.steerTaken s.now rest with steer := modifyAt (fun _ => some (t.pay.toNat % 8)) (bits t.pay.toNat 47 16) q.steer }
      else { q.steerTaken s.now rest with malf := min 255 (q.malf + 1) }) := by
  show execSteerPortTake die c s = _
  simp only [execSteerPortTake, hport]
  exact stepWhen_true (decide_eq_true hpaced)

end

/-! Gateways (R341 to R343) -/

theorem exec_gatewayContribution {s : State} {die : Nat} {b : BrickId} {t : Token} {rest : List (BrickId × Token)} (hport : (s.gateway die).port = (b, t) :: rest) :
    exec (.gatewayContribution die) s = .next ((s.modGateway die fun g => ({ g with port := rest }).take b t).returned b 1) := by
  show execGatewayContribution die s = _
  simp only [execGatewayContribution, hport]

section
variable {s : State} {gid : Nat}

theorem exec_gatewayCombine_none (h : s.gwReady gid = none) :
    exec (.gatewayCombine gid) s = .next ((List.range 4).foldl (fun s d => s.deliver d gid) s) := by
  show execGatewayCombine gid s = _
  simp only [execGatewayCombine, h]

theorem exec_gatewayCombine_some {g : Group} (h : s.gwReady gid = some g) :
    exec (.gatewayCombine gid) s = .next (((List.range 4).foldl (fun s d => s.deliver d gid) s).combine gid g) := by
  show execGatewayCombine gid s = _
  simp only [execGatewayCombine, h]

end

/-- Settles O55, each clause by the lemma of its event. -/
theorem slabsAndGatewaysStep : Obligations.SlabsAndGatewaysStep := by
  refine ⟨fun s b t rest hport hpaced => ?arrival,
    fun s die c t0 rest hring hmoves => ⟨exec_windowEnter_stale rfl hring rfl hmoves, exec_windowEnter rfl hring rfl hmoves⟩,
    fun s die c k t ht hstale hmoves => exec_staleRecord hmoves ht hstale,
    fun s die c k hk hmoves hsettled => exec_taskIssue_depFault hmoves hsettled hk,
    fun s die c k a b hmet hk hb ha hpaced hmoves hsettled => ?issue,
    fun s b acc t ends hwork hdue => ?compute, fun s b acc t start r hwork hdue hwave hroute => ?start,
    fun s b acc t r j next todo held hwork hpaced hwave => ⟨fun target base hbank => ?bank, fun hports => ?ports⟩,
    fun s b acc t d total j hj => ⟨fun haccepts => (State.drainFork_single hj).trans (if_pos haccepts),
      fun hfull => (State.drainFork_single hj).trans (if_neg (ne_true_of_eq_false hfull))⟩,
    fun s b acc t status due => exec_taskDone, fun s die c t rest hport hpaced => ?steer,
    fun s die b t rest => exec_gatewayContribution, fun s gid => ⟨exec_gatewayCombine_none, fun g => exec_gatewayCombine_some⟩⟩
  case arrival =>
    intro die c hroom hregion
    have hexec := exec_taskRecordArrival rfl hport hpaced hroom hregion
    exact ⟨fun hbad => hexec.trans (congrArg _ (if_pos hbad)), fun hgood => hexec.trans (congrArg _ (if_neg (ne_true_of_eq_false hgood)))⟩
  case issue =>
    have hexec := exec_taskIssue hmoves hsettled hmet hk hb ha hpaced
    exact ⟨fun hgood => hexec.trans (congrArg _ (if_pos hgood)), fun hbad => hexec.trans (congrArg _ (if_neg (ne_true_of_eq_false hbad)))⟩
  case compute =>
    have hexec := exec_taskComputeEnd hwork hdue
    refine ⟨fun htorn => hexec.trans (congrArg _ (if_pos htorn)), fun o a hstands hbad => hexec.trans (congrArg _ ((if_neg (ne_true_of_eq_false hstands)).trans ?_)),
      fun hstands hgood => hexec.trans (congrArg _ ((if_neg (ne_true_of_eq_false hstands)).trans ?_))⟩
    · simp only [hbad]
    · simp only [hgood]
  case start =>
    have hexec := exec_drainStart hwork hdue hwave hroute
    exact ⟨fun hgood => hexec.trans (congrArg _ (if_pos hgood)), fun hbad => hexec.trans (congrArg _ (if_neg (ne_true_of_eq_false hbad)))⟩
  case bank =>
    have hexec := exec_drainWord_bank hwork hpaced hwave rfl hbank
    refine ⟨fun hgood => hexec.trans ?_, fun hbad => hexec.trans ?_⟩
    · simp only [hgood, if_true, Bool.not_true, Bool.false_eq_true, if_false]
    · simp only [hbad, if_true, Bool.not_false, Bool.false_eq_true, if_false]
  case ports =>
    have hexec := exec_drainWord_ports hwork hpaced hwave rfl hports
    simp only [Task.drainLength_eq, List.isEmpty_iff, Bool.and_eq_true, decide_eq_true_eq] at hexec
    exact hexec
  case steer =>
    have hexec := exec_steerPortTake hport hpaced
    refine ⟨fun hgood => hexec.trans ?_, fun hbad => hexec.trans ?_⟩
    · simp only [hgood, if_true]
      rfl
    · simp only [hbad, Bool.false_eq_true, if_false]
      rfl

end Sys2Proof.Machine

namespace Sys2Proof.Machine

open Sys2Proof

/-! A slate-map operation takes its turn at the owner of its page (R240, R266, R280, R310) -/

section
variable {s : State} {m : MapOp} {k : State → State} {t : State}

theorem State.mapTurn_unowned (h : (s.mapAccessTo m m.nextVa).via = none) : s.mapTurn m k t = .next (k t) := by
  simp only [State.mapTurn, h]

section
variable {e : BrickId} (hvia : (s.mapAccessTo m m.nextVa).via = some e)
include hvia

theorem State.mapTurn_held {g : RegionId} (hregion : (s.brick (s.mapAgent m)).region = some g) (hheld : s.handoverHolds g e (m.nextVa / 8192) = true) :
    s.mapTurn m k t = .next s := by
  simp only [State.mapTurn, hvia, hregion, hheld, if_true]

section
variable (hfree : ∀ g, (s.brick (s.mapAgent m)).region = some g → s.handoverHolds g e (m.nextVa / 8192) = false)
include hfree

/-- No handover holds the page: the access waits for those ahead of it at its line. -/
theorem State.mapTurn_free : s.mapTurn m k t =
    if (s.aheadAt e m.tenancy (m.nextVa / 64)).isEmpty then s.paged [(s.mapAccessTo m m.nextVa, m.nextVa, m.nextLen)] (.next (k t))
    else .next (s.flushLine e (m.nextVa / 64)) := by
  cases hregion : (s.brick (s.mapAgent m)).region with
  | none => simp only [State.mapTurn, hvia, hregion, Bool.false_eq_true, if_false]
  | some g => simp only [State.mapTurn, hvia, hregion, hfree g hregion, Bool.false_eq_true, if_false]

theorem State.mapTurn_goes (hturn : s.aheadAt e m.tenancy (m.nextVa / 64) = []) (hpage : s.missing [(s.mapAccessTo m m.nextVa, m.nextVa, m.nextLen)] = none) :
    s.mapTurn m k t = .next (k t) := by
  rw [State.mapTurn_free hvia hfree, if_pos (List.isEmpty_iff.2 hturn), State.paged_of_none hpage]

theorem State.mapTurn_waits (hahead : s.aheadAt e m.tenancy (m.nextVa / 64) ≠ []) : s.mapTurn m k t = .next (s.flushLine e (m.nextVa / 64)) := by
  rw [State.mapTurn_free hvia hfree, if_neg (mt List.isEmpty_iff.1 hahead)]

end

end

end

theorem exec_slateMapOperation {s : State} {n : Nat} {m : MapOp} (hm : (s.maps.find? fun m => m.id = n) = some m) (hstep : s.mapMayStep m = true)
    (hrelease : m.phase ≠ .release) (hdone : m.phase ≠ .done) :
    exec (.slateMapOperation n) s = s.mapTurn m (fun t => t.mapAccess { m with ts := max m.ts (s.brick m.brick).pts }) s := by
  show execSlateMapOperation n s = _
  simp only [execSlateMapOperation, hm, hstep]
  exact if_pos (by simp [hrelease, hdone])

/-! Releases (R23, R312, R316) -/

section
variable {s : State} {n : Nat} {m : MapOp}

/-- The brick that holds the slate of a released entry. -/
def MapOp.holder (m : MapOp) : BrickId := BitVec.ofNat 14 (entLoc m.entry)

/-- The granules that a release frees, and the brick with them where it held its last. -/
def State.released (s : State) (m : MapOp) : State :=
  let s1 := s.releaseGranules m.holder (MapOp.granules (descDc m.desc) (bits (entLoc m.entry) 17 14)) false
  if (s.brick m.holder).life = .held && (s1.brick m.holder).pinned.isEmpty then s1.modBrick m.holder fun x => { x with life := .free } else s1

/-- The entry that a release leaves. -/
def State.writeReleased (s : State) (m : MapOp) : State :=
  let keep : Bool := m.kind = .unpinDrop && entBack m.entry ≠ 0
  s.lockEntry m (entryVa m.shard m.index) fun e =>
    let new := if keep then mkEntry stStored (entCount e) 0 (entRef e) (entBack e) else mkEntry 0 0 0 (entRef e) (if m.kind = .unpinErase then 0 else entBack e)
    (some new, fun s m => s.okMap m false new)

theorem exec_slateRelease (hm : (s.maps.find? fun m => m.id = n) = some m) (hphase : m.phase = .release)
    (hquiet : (s.brick m.holder).life = .held ∨ (∀ f ∈ (s.brick m.holder).firings, ∀ h' x, f.instr = .slfFire h' x → f.committed = true) ∧
      (∀ d ∈ (s.brick m.holder).docks, ∀ fwd ends, d.st ≠ .firing fwd ends) ∧ (s.brick m.holder).visiting (bits (entLoc m.entry) 17 14) = false) :
    exec (.slateRelease n) s = s.mapTurn m (fun t => t.writeReleased m) (s.released m) := by
  show execSlateRelease n s = _
  simp only [execSlateRelease, hm, hphase]
  refine if_pos ?_
  simp only [Bool.and_eq_true, Bool.or_eq_true, decide_eq_true_eq, Bool.not_eq_true', true_and]
  refine hquiet.imp_right fun ⟨hfirings, hdocks, hvisit⟩ => ⟨⟨?_, ?_⟩, hvisit⟩
  · refine List.any_eq_false.2 fun f hf => ?_
    split
    case h_1 h' x hinstr => simp [hfirings f hf h' x hinstr]
    case h_2 => exact Bool.false_ne_true
  · refine List.any_eq_false.2 fun d hd => ?_
    split
    case h_1 fwd ends hst => exact absurd hst (hdocks d hd fwd ends)
    case h_2 => exact Bool.false_ne_true

end

/-! Frames land and announce themselves (R324 to R328) -/

section
variable {s : State} {n : Nat} {f : Frame}

/-- A frame that fits starts to land in the lowest empty dock of its target. -/
def State.frameLanded (s : State) (n : Nat) (f : Frame) : State :=
  (({ s with frames := removeAt n s.frames } : State).landFrame f.target (((s.brick f.target).docks.findIdx? fun d => d.st = .empty).getD 0)
    f.stop f.data f.ue f.ts f.floor).modBrick f.target fun x => { x with away := x.away - b2n f.returning }

section
variable (hf : s.frames[n]? = some f) (hdue : f.due ≤ s.now)
  (hturn : f.parked = true ∨ ∀ g ∈ s.frames.take n, g.parked = true ∨ ¬ (g.src = f.src ∧ g.target = f.target))
include hf hdue hturn

theorem exec_frameLand_fits (hfits : s.frameFits n f = true) :
    exec (.frameLand n) s = .next (if f.parked = true then s.frameLanded n f else (s.frameLanded n f).rcvd f.src 1) := by
  show execFrameLand n s = _
  simp only [execFrameLand, hf, hfits, if_true]
  exact stepWhen_true (by simpa [hdue, imp_iff_not_or] using hturn)

theorem exec_frameLand_parks (hfull : s.frameFits n f = false) (hmoving : f.parked = false) :
    exec (.frameLand n) s = .next (({ s with frames := removeAt n s.frames ++ [{ f with parked := true }] } : State).rcvd f.src 1) := by
  show execFrameLand n s = _
  simp only [execFrameLand, hf, hfull, Bool.false_eq_true, if_false]
  exact stepWhen_true (by simpa [hdue, hmoving, imp_iff_not_or] using hturn)

end
end

section
variable {s : State} {b : BrickId} {k : Nat}

theorem exec_dockNotice_landing {ends : Nat} {fetch : Bool} (hst : ((s.brick b).dock k).st = .landing ends fetch) (hended : ends < s.now)
    (hpages : fetch = true → ((s.brick b).dock k).fetched = true → s.missing [s.fetchAccess b k] = none) :
    let t := if fetch then s.fetchSlate b k else s
    exec (.dockNotice b k) s = .next
      (({ t with nextId := t.nextId + 1 } : State).modBrick b fun x => x.modDock k fun d => { d with st := .noticing t.nextId }) := by
  intro t
  show execDockNotice b k s = _
  simp only [execDockNotice, hst, hended, if_true]
  refine State.paged_of_none ?_ _
  split
  case isTrue hfetch =>
    obtain ⟨hfetch, hfetched⟩ := Bool.and_eq_true_iff.1 hfetch
    exact hpages hfetch hfetched
  case isFalse => rfl

theorem exec_dockNotice_noticing {order : Nat} (hst : ((s.brick b).dock k).st = .noticing order)
    (hfirst : ∀ d ∈ (s.brick b).docks, ∀ o, d.st = .noticing o → order ≤ o)
    (hroom : s.accepts (.input b ((s.brick b).note.getD 0)) ((s.brick b).notice k) = true) :
    exec (.dockNotice b k) s = .next (((s.modBrick b fun x => x.modDock k fun d => { d with st := .docked }).arriveInput b ((s.brick b).note.getD 0)
      ((s.brick b).notice k)).modBrick b Brick.wake) := by
  show execDockNotice b k s = _
  simp only [execDockNotice, hst]
  refine stepWhen_true (Bool.and_eq_true_iff.2 ⟨List.all_eq_true.2 fun d hd => ?_, hroom⟩)
  split
  case h_1 o ho => exact decide_eq_true (hfirst d hd o ho)
  case h_2 => rfl

/-! Launch copies, visits and the ring port (R327, R333, R334, R336) -/

theorem exec_launchCopyEnd {off len ends : Nat} (hst : ((s.brick b).dock k).st = .copying off len ends) (hended : ends ≤ s.now) :
    exec (.launchCopyEnd b k) s = .next (s.modBrick b fun x => ((x.launchCopy k off).modDock k fun d => { d with st := .docked }).wake) := by
  show execLaunchCopyEnd b k s = _
  simp only [execLaunchCopyEnd, hst]
  exact stepWhen_true (decide_eq_true hended)

theorem exec_fireEnd {fwd : Bool} {ends : Nat} (hst : ((s.brick b).dock k).st = .firing fwd ends) (hended : ends < s.now)
    (hpages : s.missing (s.visitAccesses b k) = none) :
    exec (.fireEnd b k) s = .next (if fwd then (s.fireVisit b k).modBrick b fun x => x.modDock k fun d => { d with st := .leaving (s.now + 1) }
      else (s.fireVisit b k).modBrick b fun x => (x.modDock k fun d => { d with st := .docked }).wake) := by
  show execFireEnd b k s = _
  simp only [execFireEnd, hst, hended, if_true]
  exact State.paged_of_none hpages _

theorem exec_ringPortSend_leaving {ready : Nat} (hst : ((s.brick b).dock k).st = .leaving ready) (hready : ready ≤ s.now)
    (hturn : ∀ d ∈ (s.brick b).docks, (∃ other, d.st = .leaving other ∨ d.st = .firing true other) → ((s.brick b).dock k).order ≤ d.order)
    (hpage : (s.brick b).goesHome k = false → s.missing [(s.hopAccess b k, (s.brick b).hopVa k, 16)] = none) :
    exec (.ringPortSend b k) s = .next (s.sendFrame b k) := by
  have hsend : (s.brick b).sendTurn k = true := by
    refine List.all_eq_true.2 fun d hd => ?_
    split
    case h_1 other hleaving => exact decide_eq_true (hturn d hd ⟨other, .inl hleaving⟩)
    case h_2 other hfiring => exact decide_eq_true (hturn d hd ⟨other, .inr hfiring⟩)
    case h_3 => rfl
  show execRingPortSend b k s = _
  simp only [execRingPortSend, hst, hsend, hready, decide_true, Bool.and_self, if_true]
  refine State.paged_of_none ?_ _
  split
  case isTrue => rfl
  case isFalse hgoes => exact hpage (Bool.eq_false_iff.2 hgoes)

theorem exec_ringPortSend_sending {ends : Nat} (hst : ((s.brick b).dock k).st = .sending ends) (hended : ends < s.now) :
    exec (.ringPortSend b k) s = .next (s.modBrick b fun x => (x.modDock k fun _ => {}).wake) := by
  show execRingPortSend b k s = _
  simp only [execRingPortSend, hst]
  exact stepWhen_true (decide_eq_true hended)

/-! FIN (R335) -/

/-- The brick after token n of FIN has entered its port, or been dropped by one that weeps (R191). -/
def Brick.finEntered (x : Brick) (k port n : Nat) : Brick := if x.discard then x else x.modOut port fun p => p.push (.tok (x.finToken k n))

theorem exec_finTokenEmit {port next ready : Nat} (hst : ((s.brick b).dock k).st = .finishing port next ready) (hready : ready ≤ s.now)
    (hroom : 1 ≤ (s.brick b).room port) (hclear : (s.brick b).portClear port = true) :
    let x := s.brick b
    let y := x.finEntered k port next
    exec (.finTokenEmit b k) s = .next (s.setBrick b (if next = x.finWords k then
        ((y.setDockWord k 6 (insertBits (y.dockWord k 6) 32 1 1)).modDock k fun _ => {}).wake
      else (y.setDockWord k 7 (x.finMask k)).modDock k fun d => { d with st := .finishing port (next + 1) (s.now + 1) })) := by
  intro x y
  show execFinTokenEmit b k s = _
  simp only [execFinTokenEmit, hst, decide_eq_true_eq]
  exact stepWhen_true (by simp [hready, hroom, hclear])

end

/-- Settles O56, each clause by the lemma of its event; the turn of a slate-map access by the equations of `State.mapTurn`. -/
theorem yealmsAndSlatesStep : Obligations.YealmsAndSlatesStep := by
  refine ⟨fun s n m hm hstep hrelease hdone => ?operation, fun s m hphase => ?desc, fun s n m hm hphase => ?release,
    fun s n f hf hdue hturn => ⟨exec_frameLand_fits hf hdue hturn, exec_frameLand_parks hf hdue hturn⟩,
    fun s b k ends fetch => exec_dockNotice_landing, fun s b k order => exec_dockNotice_noticing, fun s b k off len ends => exec_launchCopyEnd,
    fun s b k ends fwd hst hended hpages => ?fire, fun s b k ready => ⟨exec_ringPortSend_leaving, exec_ringPortSend_sending⟩,
    fun s b k port next ready hst hready hroom hclear => ?fin⟩
  case operation =>
    have hexec := exec_slateMapOperation hm hstep hrelease hdone
    exact ⟨fun hvia => hexec.trans (State.mapTurn_unowned hvia), fun e hvia => ⟨fun ⟨g, hregion, hheld⟩ => hexec.trans (State.mapTurn_held hvia hregion hheld),
      fun hfree => ⟨fun hturn hpage => hexec.trans (State.mapTurn_goes hvia hfree hturn hpage), fun hahead => hexec.trans (State.mapTurn_waits hvia hfree hahead)⟩⟩⟩
  case desc =>
    simp only [State.mapAccess, hphase]
    rfl
  case release =>
    intro h gran hquiet hturn
    have hexec := exec_slateRelease hm hphase hquiet
    obtain hvia | ⟨e, hvia, hfree, hahead, hpage⟩ := hturn
    · exact hexec.trans (State.mapTurn_unowned hvia)
    · exact hexec.trans (State.mapTurn_goes hvia hfree hahead hpage)
  case fire =>
    have hexec := exec_fireEnd hst hended hpages
    exact ⟨fun hfwd => hexec.trans (congrArg _ (if_pos hfwd)), fun hstays => hexec.trans (congrArg _ (if_neg (ne_true_of_eq_false hstays)))⟩
  case fin =>
    have hexec := exec_finTokenEmit hst hready hroom hclear
    exact ⟨fun hmore => hexec.trans (congrArg _ (congrArg _ (if_neg hmore))), fun hlast => hexec.trans (congrArg _ (congrArg _ (if_pos hlast)))⟩

end Sys2Proof.Machine

namespace Sys2Proof.Machine

open Sys2Proof

/-! Packets arrive and queries start (R346, R358, R359) -/

section
variable {s : State} {eng : Nat}

/-- The query that a packet starts as. -/
def State.newQuery (s : State) (b : BrickId) (g : RegionId) (eng : Nat) (packet : List Word) (vector : List Byte) : Query :=
  { id := s.nextId, region := g, brick := b, eng, tenancy := (s.brick b).tenancy, packet, vector, floor := (s.brick b).fence, node := (s.slot g).node }

theorem exec_footingPacketArrival {b : BrickId} {packet : List Word} {inline : List Byte} {rest : List (Nat × List Word × List Byte)} {g : RegionId}
    (hport : (s.brick b).footPort = (eng, packet, inline) :: rest) (hregion : (s.brick b).region = some g) (hroom : (s.footing eng).posts.length < 16) :
    exec (.footingPacketArrival b) s = .next
      (((({ s with nextId := s.nextId + 1 } : State).modBrick b fun x => { x with footPort := rest }.wake).modFooting eng fun e =>
        { e with posts := e.posts ++ [s.newQuery b g eng packet inline] }).returned b 1) := by
  show execFootingPacketArrival b s = _
  simp only [execFootingPacketArrival, hport, hregion]
  exact stepWhen_true (decide_eq_true hroom)

variable {q : Query} {rest : List Query} (hposts : (s.footing eng).posts = q :: rest) (hfree : (s.footing eng).used < 64)
  (hcharge : s.chargeFits q.node 4 1 = true)
include hposts hfree hcharge

/-- The oldest post enters a free context, with what its start makes of it. -/
theorem exec_queryStart : exec (.queryStart eng) s =
    let p := if (s.footing eng).contexts.any (fun o => decide (o.qid = q.qid)) then (({ q with started := true } : Query).finish fqDupqid, s.charge q.node 4 1)
      else (s.charge q.node 4 1).openQuery { q with started := true }
    .next (p.2.modFooting eng fun e => { e with posts := rest, contexts := e.contexts ++ [p.1] }) := by
  show execQueryStart eng s = _
  simp only [execQueryStart, hposts]
  exact stepWhen_true (by simp [hfree, hcharge])

theorem exec_queryStart_duplicate (hdup : ∃ o ∈ (s.footing eng).contexts, o.qid = q.qid) : exec (.queryStart eng) s =
    .next ((s.charge q.node 4 1).modFooting eng fun e =>
      { e with posts := rest, contexts := e.contexts ++ [({ q with started := true } : Query).finish fqDupqid] }) := by
  have hany : (s.footing eng).contexts.any (fun o => decide (o.qid = q.qid)) = true := by simpa using hdup
  simp only [exec_queryStart hposts hfree hcharge, hany, if_true]

theorem exec_queryStart_opens (hnew : ∀ o ∈ (s.footing eng).contexts, o.qid ≠ q.qid) : exec (.queryStart eng) s =
    let p := (s.charge q.node 4 1).openQuery { q with started := true }
    .next (p.2.modFooting eng fun e => { e with posts := rest, contexts := e.contexts ++ [p.1] }) := by
  have hany : (s.footing eng).contexts.any (fun o => decide (o.qid = q.qid)) = false := by simpa using hnew
  simp only [exec_queryStart hposts hfree hcharge, hany, Bool.false_eq_true, if_false]

end

section
variable {s : State} {eng q : Nat} {qu : Query} (hq : s.query eng q = some qu)
include hq

/-! Requests and steps of a search (R348 to R355) -/

theorem exec_distanceRequest {k : Nat} {r : FootReq} (hr : qu.reqs[k]? = some r) (hopen : r.reply = none) (hok : r.status = 0) :
    exec (.distanceRequest eng q k) s = .next ((s.answer qu r).2.2.modQuery eng q fun x =>
      { x with reqs := modifyAt (fun _ => (s.answer qu r).1) k x.reqs, ts := max x.ts (s.answer qu r).2.1 }) := by
  show execDistanceRequest eng q k s = _
  simp only [execDistanceRequest, hq, hr]
  exact stepWhen_true (by simp [hopen, hok])

section
variable (hstarted : qu.started = true) (hlive : qu.finished = false) (hanswered : ∀ r ∈ qu.reqs, r.reply.isSome = true ∨ r.status ≠ 0)
include hstarted hlive hanswered

omit hq in
/-- An expansion step is enabled once every request is answered. -/
theorem Query.stepEnabled : (qu.started && !qu.finished && qu.reqs.all fun r => r.reply.isSome || r.status ≠ 0) = true := by
  simpa [hstarted, hlive] using hanswered

theorem exec_expansionStep_fails {r : FootReq} (hr : (qu.reqs.find? fun r => r.status ≠ 0) = some r) :
    exec (.expansionStep eng q) s = .next (s.modQuery eng q fun _ => qu.finish r.status) := by
  show execExpansionStep eng q s = _
  simp only [execExpansionStep, hq, hr]
  exact stepWhen_true (Query.stepEnabled hstarted hlive hanswered)

variable (hgood : ∀ r ∈ qu.reqs, r.status = 0)
include hgood

theorem exec_expansionStep_visits (hphase : qu.phase = 1) :
    exec (.expansionStep eng q) s =
      let p := s.visitAll { qu with phase := 2, reqs := [] } (qu.reqs.flatMap fun r => match r.reply with
        | some (_, l) => l
        | none => [])
      .next (p.2.modQuery eng q fun _ => p.1) := by
  have hnone : (qu.reqs.find? fun r => r.status ≠ 0) = none := by simpa using hgood
  show execExpansionStep eng q s = _
  simp only [execExpansionStep, hq, hnone, hphase, if_true]
  exact stepWhen_true (Query.stepEnabled hstarted hlive hanswered)

/-- The query with the answers of its step offered to its search. -/
def Query.offered (qu : Query) : Query := qu.reqs.foldl (fun q r => match r.reply with
  | some (d, _) => q.offer (d, r.node)
  | none => q) qu

theorem exec_expansionStep_advances (hphase : qu.phase ≠ 1) :
    exec (.expansionStep eng q) s = .next (s.modQuery eng q fun _ =>
      ({ qu.offered with reqs := [], steps := if qu.phase = 2 then qu.steps + 1 else qu.steps } : Query).advance) := by
  have hnone : (qu.reqs.find? fun r => r.status ≠ 0) = none := by simpa using hgood
  show execExpansionStep eng q s = _
  simp only [execExpansionStep, hq, hnone, hphase, if_false]
  exact stepWhen_true (Query.stepEnabled hstarted hlive hanswered)

end

/-! Completion (R361 to R363) -/

section
variable (hfinished : qu.finished = true)
include hfinished

theorem exec_queryComplete_prepares (hnew : qu.prepared = false) :
    exec (.queryComplete eng q) s = .next ((s.prepareQuery qu).2.modQuery eng q fun _ => (s.prepareQuery qu).1) := by
  show execQueryComplete eng q s = _
  simp only [execQueryComplete, hq, hfinished, hnew, Bool.not_true, Bool.not_false, Bool.false_eq_true, if_false, if_true]

variable (hprepared : qu.prepared = true)
include hprepared

theorem exec_queryComplete_sends {b : BrickId} {ch : Nat} {t : Token} {rest : List (BrickId × Nat × Token)} (hout : qu.out = (b, ch, t) :: rest)
    (hturn : (s.footing eng).turn s.now qu = true) (hroom : s.accepts (.input b ch) t = true) :
    exec (.queryComplete eng q) s = .next
      ((s.launch qu.brick (if qu.recOrder.isSome = true then footPortOf eng else resultPort eng qu.id) (.input b ch) t).modQuery eng q fun x =>
        { x with out := rest, doneAt := s.now }) := by
  show execQueryComplete eng q s = _
  simp only [execQueryComplete, hq, hfinished, hprepared, hout, Bool.not_true, Bool.false_eq_true, if_false]
  exact stepWhen_true (by rw [hturn, hroom]; rfl)

variable (hout : qu.out = [])
include hout

theorem exec_queryComplete_releases {c : Nat} {rest : List Nat} (hrec : qu.recOrder = none) (hcopies : qu.copies = c :: rest) :
    exec (.queryComplete eng q) s = .next (s.modQuery eng q fun x => { x with copies := rest }) := by
  show execQueryComplete eng q s = _
  simp only [execQueryComplete, hq, hfinished, hprepared, hout, hrec, hcopies, Bool.not_true, Bool.false_eq_true, if_false]

theorem exec_queryComplete_records (hrec : qu.recOrder = none) (hcopies : qu.copies = [])
    (hlanded : qu.toMemory = true ∨ s.resultsFlying eng qu = false) :
    exec (.queryComplete eng q) s = .next (s.modQuery eng q fun x => { x with recOrder := some s.now, out := x.record2 eng }) := by
  have hreached : s.queryReached eng qu = true := by simpa [State.queryReached, hprepared, hout, hrec, hcopies] using hlanded
  show execQueryComplete eng q s = _
  simp only [execQueryComplete, hq, hfinished, hprepared, hout, hrec, hcopies, Bool.not_true, Bool.false_eq_true, if_false]
  exact stepWhen_true hreached

theorem exec_queryComplete_ends (hrec : qu.recOrder.isSome = true) (hsent : qu.doneAt < s.now) :
    let t := s.modFooting eng fun e => { e with contexts := e.contexts.filter fun x => x.id ≠ q }
    exec (.queryComplete eng q) s = .next (((if qu.started then t.refund qu.node 4 1 else t).rcvd qu.brick 1).noteTs qu.brick qu.ts) := by
  obtain ⟨n, hrec⟩ := Option.isSome_iff_exists.1 hrec
  show execQueryComplete eng q s = _
  simp only [execQueryComplete, hq, hfinished, hprepared, hout, hrec, Bool.not_true, Bool.false_eq_true, if_false]
  exact stepWhen_true (decide_eq_true hsent)

end

end

/-- Settles O57, each clause by the lemma of its event. -/
theorem footingQueriesStep : Obligations.FootingQueriesStep := by
  refine ⟨fun s b eng packet inline rest g => exec_footingPacketArrival,
    fun s eng q rest hposts hfree hcharge => ⟨exec_queryStart_duplicate hposts hfree hcharge, exec_queryStart_opens hposts hfree hcharge⟩,
    fun s eng q k qu r hq => exec_distanceRequest hq,
    fun s eng q qu hq hstarted hlive hanswered => ⟨fun r => exec_expansionStep_fails hq hstarted hlive hanswered,
      exec_expansionStep_visits hq hstarted hlive hanswered, exec_expansionStep_advances hq hstarted hlive hanswered⟩,
    fun s eng q qu hq hfinished => ⟨exec_queryComplete_prepares hq hfinished, fun hprepared => ⟨fun b ch t rest => exec_queryComplete_sends hq hfinished hprepared,
      fun c rest hout => exec_queryComplete_releases hq hfinished hprepared hout, fun hout => exec_queryComplete_records hq hfinished hprepared hout,
      fun hout => exec_queryComplete_ends hq hfinished hprepared hout⟩⟩⟩

end Sys2Proof.Machine

namespace Sys2Proof.Machine

open Sys2Proof

/-! Kicks and completions (R437 to R439) -/

/-- The host's link after its first look at the oldest kick. -/
def HostLink.firstLook (h : HostLink) (k : Word) (rest : List Word) (retryAt : Nat) : HostLink :=
  if k.toNat % 65536 ≠ h.next then ({ h with kicks := rest } : HostLink).post (k.toNat % 65536) stKickSeq 0
  else match h.readKick k with
    | some c => h.takeKick c
    | none => { h with tries := 1, retryAt }

/-- The host's link after a later look at it. -/
def HostLink.laterLook (h : HostLink) (k : Word) (rest : List Word) (retryAt : Nat) : HostLink :=
  match h.readKick k with
  | some c => h.takeKick c
  | none =>
    if h.tries < 4 then { h with tries := h.tries + 1, retryAt }
    else ({ h with kicks := rest, tries := 0 } : HostLink).post (k.toNat % 65536) stKickStale 0

section
variable {s : State} {k : Word} {rest : List Word} (hkicks : s.host.kicks = k :: rest) (hopen : s.host.ringOpen = true) (hposts : s.host.posts = [])
include hkicks hopen hposts

section
variable (hfirst : s.host.tries = 0)
include hfirst

theorem exec_kick : exec .kick s = .next { s with host := s.host.firstLook k rest (s.time + 2000 * unitsPerNs) } := by
  show execKick s = _
  simp only [execKick, HostLink.firstLook, hkicks]
  exact stepWhen_true (by simp [hfirst, hopen, hposts])

theorem exec_kick_outOfOrder (hseq : k.toNat % 65536 ≠ s.host.next) :
    exec .kick s = .next { s with host := ({ s.host with kicks := rest } : HostLink).post (k.toNat % 65536) stKickSeq 0 } := by
  rw [exec_kick hkicks hopen hposts hfirst, HostLink.firstLook, if_pos hseq]

theorem exec_kick_takes {c : Command} (hseq : k.toNat % 65536 = s.host.next) (hread : s.host.readKick k = some c) :
    exec .kick s = .next { s with host := s.host.takeKick c } := by
  rw [exec_kick hkicks hopen hposts hfirst, HostLink.firstLook, if_neg (not_not.2 hseq), hread]

theorem exec_kick_retries (hseq : k.toNat % 65536 = s.host.next) (hread : s.host.readKick k = none) :
    exec .kick s = .next { s with host := { s.host with tries := 1, retryAt := s.time + 2000 * unitsPerNs } } := by
  rw [exec_kick hkicks hopen hposts hfirst, HostLink.firstLook, if_neg (not_not.2 hseq), hread]

end

section
variable (htries : 1 ≤ s.host.tries) (hdue : s.host.retryAt ≤ s.time)
include htries hdue

theorem exec_kickReread : exec .kickReread s = .next { s with host := s.host.laterLook k rest (s.time + 2000 * unitsPerNs) } := by
  show execKickReread s = _
  simp only [execKickReread, HostLink.laterLook, hkicks]
  exact stepWhen_true (by simp [htries, hdue, hopen, hposts])

theorem exec_kickReread_takes {c : Command} (hread : s.host.readKick k = some c) : exec .kickReread s = .next { s with host := s.host.takeKick c } := by
  rw [exec_kickReread hkicks hopen hposts htries hdue, HostLink.laterLook, hread]

theorem exec_kickReread_retries (hread : s.host.readKick k = none) (hmore : s.host.tries < 4) :
    exec .kickReread s = .next { s with host := { s.host with tries := s.host.tries + 1, retryAt := s.time + 2000 * unitsPerNs } } := by
  rw [exec_kickReread hkicks hopen hposts htries hdue, HostLink.laterLook, hread]
  simp only [hmore, if_true]

theorem exec_kickReread_stale (hread : s.host.readKick k = none) (hlast : 4 ≤ s.host.tries) :
    exec .kickReread s = .next { s with host := ({ s.host with kicks := rest, tries := 0 } : HostLink).post (k.toNat % 65536) stKickStale 0 } := by
  rw [exec_kickReread hkicks hopen hposts htries hdue, HostLink.laterLook, hread]
  simp only [Nat.not_lt.2 hlast, if_false]

end
end

theorem exec_completionPost {s : State} {seq status : Nat} {data : Word} {rest : List (Nat × Nat × Word)}
    (hposts : s.host.posts = (seq, status, data) :: rest) (hopen : s.host.ringOpen = true) :
    let h := s.host
    let prod := (h.prod + 1) % 256
    exec .completionPost s = .next { s with host := { h with
      posts := rest, prod, phase := if prod = 0 then !h.phase else h.phase
      memory := cellsWrite h.memory (h.cqbase.toNat / 4096 * 4096 + 16 * h.prod) (leBytes 8 (seq + status * 2 ^ 16 + b2n h.phase * 2 ^ 24) ++ leBytes 8 data.toNat) } } := by
  intro h prod
  show execCompletionPost s = _
  simp only [execCompletionPost, hposts]
  exact stepWhen_true hopen

theorem exec_cqbaseWrite {s : State} (v : Word) (hidle : s.host.commands = []) (hkicks : ∀ p ∈ s.host.posts, p.2.1 = stKickStale ∨ p.2.1 = stKickSeq) :
    exec (.cqbaseWrite v) s = .next { s with host := { s.host with cqbase := v &&& 0xFFFF_FFFF_FFFF_F000, prod := 0, cons := 0, phase := true } } := by
  show execCqbaseWrite v s = _
  exact stepWhen_true (by simpa [hidle] using hkicks)

/-! Commands in their turn (R438, R440) -/

section
variable {s : State} {c : Command} (hc : s.host.running = some c)
include hc

theorem HostLink.posts_of_running : s.host.posts = [] := by
  rw [HostLink.running] at hc
  split at hc
  case isTrue hready => exact List.isEmpty_iff.1 (Bool.and_eq_true_iff.1 hready).1
  case isFalse => cases hc

/-- The running command, of its length, does what its OPC says. -/
theorem runCommand_of_running {opc len : Nat} {f : Command → Outcome} (hopc : c.opc = opc) (hlen : c.len = len) : runCommand s opc len f = f c := by
  simp only [runCommand, hc, hopc, hlen, ne_eq, not_true, if_false]

theorem exec_badOpcode (hopc : 6 < c.opc) : exec .completionPost s = .next (s.endCommand c stBadOpc 0) := by
  show execCompletionPost s = _
  simp only [execCompletionPost, HostLink.posts_of_running hc, hc]
  exact stepWhen_true (decide_eq_true hopc)

theorem exec_hostNop (hopc : c.opc = 0) (hlen : c.len = 0) : exec .hostNop s = .next (s.endCommand c stOk 0) := runCommand_of_running hc hopc hlen

theorem exec_summary (hopc : c.opc = 1) (hlen : c.len = 0) :
    let l := s.summaryBytes ((c.seq + 65535) % 65536)
    exec .summary s = .next ((s.modHost fun h => { h with memory := cellsWrite h.memory c.arg.toNat l }).endCommand c stOk l.length) :=
  runCommand_of_running hc hopc hlen

/-! CHKPT (R398) -/

section
variable (hopc : c.opc = 2) (hlen : c.len = 1)
include hopc hlen

theorem exec_chkpt_starts (hnew : c.started = none) : exec .chkpt s = .next
    (s.modHost fun h => { h with commands := modifyAt (fun (c : Command) => { c with started := some s.ns }) 0 h.commands }) := by
  show execChkpt s = _
  simp only [execChkpt, runCommand_of_running hc hopc hlen, hnew]

variable {t0 : Nat} (hstarted : c.started = some t0)
include hstarted

theorem exec_chkpt_waves {r : RegionId} (hr : allSlots.find? s.mayWave = some r) : exec .chkpt s = .next
    (s.draw.2.startWave r (2 ^ 63 + r.slot * 2 ^ 57 + 2 ^ 56) (s.draw.1 % 2 ^ 42 * 4096) false) := by
  show execChkpt s = _
  simp only [execChkpt, runCommand_of_running hc hopc hlen, hstarted, hr]

theorem exec_chkpt_streams (hhalted : allSlots.find? s.mayWave = none) (hquiet : ∀ r ∈ allSlots, (s.slot r).active = false)
    (hports : s.carriers c.portMask ≠ []) :
    let p := s.flushLoft.meetStreamed.checkpointBytes s.us
    exec .chkpt s = .next
      ((p.2.modHost fun h => { h with safeTier := (h.safeTier.filter fun e => e.1 ≠ c.arg.toNat) ++ [(c.arg.toNat, p.1)] }).endCommand c stOk 0) := by
  have hnone : (allSlots.filter fun r => (s.slot r).active).isEmpty = true :=
    List.isEmpty_iff.2 (List.filter_eq_nil_iff.2 fun r hr => ne_true_of_eq_false (hquiet r hr))
  have hcarried : (!(s.carriers c.portMask).isEmpty) = true := by simpa using hports
  intro p
  show execChkpt s = _
  simp only [execChkpt, runCommand_of_running hc hopc hlen, hstarted, hhalted, hnone, if_true]
  exact stepWhen_true hcarried

end

/-! Tenancies and key slots (R413 to R415, R427) -/

theorem exec_tenset (hopc : c.opc = 3) (hlen : c.len = 3) :
    let t := c.arg.toNat
    let cfg := (c.body.getD 0 0).toNat % 2 ^ 64 &&& 0x80000FFFFFFFFFFF
    let lane := (c.body.getD 1 0).toNat % 2 ^ 32
    let port := (c.body.getD 2 0).toNat % 2 ^ 36
    exec .tenset s = if s.tensetRefused t cfg lane port then .next (s.endCommand c stRefused 0)
      else .next ((s.setTenancy t cfg lane port).endCommand c stOk 0) :=
  runCommand_of_running hc hopc hlen

theorem exec_tenclr (hopc : c.opc = 4) (hlen : c.len = 0) (ht : c.arg.toNat ≤ 62) (hfree : s.slotsBusy c.arg.toNat = false)
    (hheld : ∀ e ∈ s.bricks, e.2.life = .held → bit (s.tenancy c.arg.toNat).cfg.toNat (BrickId.bay (BitVec.ofNat 14 e.1)) = false) :
    exec .tenclr s = .next ((s.clearTenancy c.arg.toNat).endCommand c stOk 0) := by
  have hnone : (s.bricks.any fun e => e.2.life = .held && bit (s.tenancy c.arg.toNat).cfg.toNat (BrickId.bay (BitVec.ofNat 14 e.1))) = false := by
    simpa using hheld
  show execTenclr s = _
  rw [execTenclr, runCommand_of_running hc hopc hlen]
  simp only [hnone, hfree, Nat.not_lt.2 ht, decide_false, Bool.or_self, Bool.false_eq_true, if_false]

theorem exec_keymap (hopc : c.opc = 5) (hlen : c.len = 2) (hk : c.arg.toNat ≤ 255) (hloaded : (s.keySlot c.arg.toNat).st = 1) :
    exec .keymap s = .next ((s.modKeySlot c.arg.toNat fun x =>
      { x with wbase := keyAddress (c.body.getD 0 0), tva := keyAddress (c.body.getD 1 0) }).endCommand c stOk 0) := by
  show execKeymap s = _
  rw [execKeymap, runCommand_of_running hc hopc hlen]
  exact if_neg (by simp [hloaded, hk])

/-! RESTORE (R399) -/

section
variable (hopc : c.opc = 6) (hlen : c.len = 1) (other : List Byte)
include hopc hlen

theorem exec_restore_refused (hlive : ∃ e ∈ s.tenancies, e.2.cfg.getLsbD 63 = true) : exec (.restore other) s = .next (s.endCommand c stRefused 0) := by
  have hany : (s.tenancies.any fun e => e.2.cfg.getLsbD 63) = true := List.any_eq_true.2 hlive
  show execRestore other s = _
  rw [execRestore, runCommand_of_running hc hopc hlen]
  simp only [hany, Bool.true_or, if_true]

theorem exec_restore (hclear : ∀ e ∈ s.tenancies, e.2.cfg.getLsbD 63 = false) (hfree : ∀ r ∈ allSlots, (s.slot r).st = .free)
    (hports : s.carriers c.portMask ≠ []) :
    let tier := s.safeTierAt c.arg.toNat other
    exec (.restore other) s = .next (if manifestSigned tier then s.restoreFrom c tier else s.endCommand c stBadSig 0) := by
  have htenancies : (s.tenancies.any fun e => e.2.cfg.getLsbD 63) = false := List.any_eq_false.2 fun e he => ne_true_of_eq_false (hclear e he)
  have hslots : (allSlots.any fun r => decide ((s.slot r).st ≠ .free)) = false := by simpa using hfree
  intro tier
  show execRestore other s = _
  rw [execRestore, runCommand_of_running hc hopc hlen]
  simp only [htenancies, hslots, Bool.or_self, Bool.false_eq_true, if_false]
  exact stepWhen_true (by simpa using hports)

end

end

section
variable {s : State} {c : Command} {tier : List Byte}

/-- A manifest whose hashes hold is written whole, its bricks are held again and its keys unsealed. -/
theorem State.restoreFrom_good (hgood : ∀ g ∈ manifestSegments tier, g.2.2.2.2 = true) :
    let segs := manifestSegments tier
    let good := segs.filter s.segmentLands
    let written := good.foldl (fun s g => s.writeSegment g) { s with loft := [] }
    let sram (d : Nat) : List Byte := ((segs.find? fun g => g.1 = 3 && g.2.1 = d).map (·.2.2.2.1)).getD []
    let blob := ((segs.find? fun g => g.1 = 4).map (·.2.2.2.1)).getD []
    s.restoreFrom c tier =
      (((good.filter fun g => g.1 = 2).foldl (fun s g => s.reholdBrick g (sram (g.2.1 / 4096))) written).unsealKeys blob).endCommand c stOk 0 := by
  intro segs good written sram blob
  have hall : (segs.takeWhile fun g => g.2.2.2.2) = segs := List.takeWhile_eq_self_iff.2 hgood
  have hnone : (segs.any fun g => !g.2.2.2.2) = false := by simpa using hgood
  simp only [State.restoreFrom, show manifestSegments tier = segs from rfl, hall, hnone, Bool.false_eq_true, if_false]
  rfl

/-- A hash that fails zeroes the segments that were written before it. -/
theorem State.restoreFrom_bad (hbad : ∃ g ∈ manifestSegments tier, g.2.2.2.2 = false) :
    let good := ((manifestSegments tier).takeWhile fun g => g.2.2.2.2).filter s.segmentLands
    s.restoreFrom c tier =
      (good.foldl (fun (s : State) g => s.wipeSegment g) (good.foldl (fun (s : State) g => s.writeSegment g) { s with loft := [] })).endCommand c stBadSig 0 := by
  have hany : ((manifestSegments tier).any fun g => !g.2.2.2.2) = true := by simpa using hbad
  simp only [State.restoreFrom, hany, if_true]

end

/-! Sessions (R421, R424) -/

theorem State.sessionAnswer_of_session {s : State} {k : Nat} {e : Session} (h : s.session k = some e) (l : List Byte) :
    let cipher := gcmCrypt e.key (beBytes 12 e.sent) l
    s.sessionAnswer k l = (s.modSession k fun e => { e with sent := e.sent + 1 }).spdmAnswer (cipher ++ gcmTag e.key (beBytes 12 e.sent) [] cipher) := by
  simp only [State.sessionAnswer, h]

theorem State.session_id {s : State} {k : Nat} {e : Session} (h : s.session k = some e) : e.id = k := by
  simpa using List.find?_some h

/-- A change of one session leaves what another reads. -/
theorem State.modSession_session_other (s : State) {j k : Nat} {f : Session → Session} (hid : ∀ e, (f e).id = e.id) (hj : j ≠ k) :
    (s.modSession k f).session j = s.session j := by
  have hkeeps : (fun e : Session => decide (e.id = j)) ∘ (fun e => if e.id = k then f e else e) = fun e => decide (e.id = j) := by
    funext e
    simp only [Function.comp_apply]
    split <;> simp [hid]
  have hfind : (s.modSession k f).session j = (s.session j).map fun e => if e.id = k then f e else e := by
    rw [State.session, State.modSession, List.find?_map, hkeeps]
    rfl
  rw [hfind]
  cases hsession : s.session j with
  | none => rfl
  | some e => rw [Option.map_some, if_neg (by rw [State.session_id hsession]; exact hj)]

theorem State.sessionAnswer_session_other (s : State) (l : List Byte) {j k : Nat} (hj : j ≠ k) : (s.sessionAnswer k l).session j = s.session j := by
  unfold State.sessionAnswer
  split
  case h_1 => rfl
  case h_2 => exact State.modSession_session_other s (fun _ => rfl) hj

/-- The keystone without one session. -/
def State.dropSession (s : State) (k : Nat) : State := { s with keystone := { s.keystone with sessions := s.keystone.sessions.filter fun e => e.id ≠ k } }

theorem State.dropSession_session (s : State) (j k : Nat) : (s.dropSession k).session j = if j = k then none else s.session j := by
  rw [State.session, State.dropSession, List.find?_filter]
  split
  case isTrue hj => exact List.find?_eq_none.2 fun e _ => by simp [hj]
  case isFalse hj =>
    refine congrArg (fun p => List.find? p s.keystone.sessions) (funext fun e => ?_)
    by_cases he : e.id = j <;> simp [he, hj]

theorem exec_keyload {s : State} {session t hash key k : Nat} {e : Session} (he : s.session session = some e) (hlive : (s.tenancy t).cfg.getLsbD 63 = true)
    (hk : ((List.range 256).find? fun k => (s.keySlot k).st = 0) = some k) :
    exec (.keyload session t hash key) s = .next ((s.modKeySlot k fun _ =>
      { hash := BitVec.ofNat 256 hash, key := BitVec.ofNat 256 key, tenancy := t, requester := e.requester, st := 1 }).sessionAnswer session (leBytes 2 k)) := by
  show execKeyload session t hash key s = _
  simp only [execKeyload, he, hlive, hk, Bool.not_true, Bool.false_eq_true, if_false]

theorem State.modKeySlot_keySlot (s : State) (k j : Nat) (f : KeySlot → KeySlot) : (s.modKeySlot k f).keySlot j = if k = j then f (s.keySlot k) else s.keySlot j :=
  Table.getD_set ..

theorem exec_keydrop {s : State} {session k key : Nat} {e : Session} (he : s.session session = some e) (hrequester : e.requester = some key)
    (hloaded : (s.keySlot k).st ≠ 0) (howner : (s.keySlot k).requester = some key) :
    exec (.keydrop session k) s = .next ((s.emptySlot k).sessionAnswer session []) := by
  show execKeydrop session k s = _
  simp only [execKeydrop, he]
  exact if_pos (by simp [hrequester, hloaded, howner])

/-! SPDM (R421 to R423) -/

theorem certificateChain_of_point {x y : Nat} (h : aliasPoint = some (x, y)) :
    let body := Config.aliasCertificate x y
    let sig := ecdsaSign Config.identityKey Config.aliasNonce (sha256 body).toNat
    certificateChain = Config.identityCertificate ++ (body ++ beBytes 32 sig.1 ++ beBytes 32 sig.2) := by
  simp only [certificateChain, aliasCertificate, h]

section
variable {s : State}

theorem exec_spdmGetMeasurements {index : Nat} (nonce : Nat) {m : BitVec 256} (hm : s.measurement index = some m) :
    let v := beBytes 32 m.toNat
    let p := s.signed (Config.transcript 1 nonce v).toNat
    exec (.spdmGetMeasurements index nonce) s = .next (p.2.spdmAnswer (v ++ p.1)) := by
  show execSpdmGetMeasurements index nonce s = _
  simp only [execSpdmGetMeasurements, hm]

theorem State.freeSession_eq_none (hbusy : ∀ k, k < 8 → s.session k ≠ none) : s.freeSession = none :=
  List.find?_eq_none.2 fun k hk => by simpa using hbusy k (List.mem_range.1 hk)

theorem exec_spdmExchange_rejected (hfull : s.freeSession = none) (x y : Nat) (auth : Option ((Nat × Nat) × (Nat × Nat))) :
    exec (.spdmKeyExchange (.exchange x y auth)) s = .next (s.spdmAnswer invalidRequest) := by
  show execSpdmKeyExchange (.exchange x y auth) s = _
  simp only [execSpdmKeyExchange, hfull]

theorem exec_spdmExchange {k : Nat} (hfree : s.freeSession = some k) (x y : Nat) (auth : Option ((Nat × Nat) × (Nat × Nat))) :
    exec (.spdmKeyExchange (.exchange x y auth)) s =
      .next (if onCurve (x, y) then s.openSession k (x, y) auth else s.spdmAnswer invalidRequest) := by
  show execSpdmKeyExchange (.exchange x y auth) s = _
  simp only [execSpdmKeyExchange, hfree]

/-- A requester that gives no signature, or a good one, has its session opened. -/
theorem State.openSession_opens {k : Nat} {p : Nat × Nat} {auth : Option ((Nat × Nat) × (Nat × Nat))} :
    let d := (Config.drbg s.keystone.draws).toNat % p256N
    let mine := (mulPoint (some p256G) 256 d).getD (0, 0)
    let secret := ((mulPoint (some p) 256 d).getD (0, 0)).1
    let points := pointBytes p ++ pointBytes mine
    (auth = none ∨ ∃ q sig, auth = some (q, sig) ∧ onCurve q = true ∧ ecdsaVerify (some q) (Config.transcript 2 k points).toNat sig = true) →
    s.openSession k p auth = { s with keystone := { s.keystone with
      draws := s.keystone.draws + 1
      sessions := s.keystone.sessions ++ [{ id := k, requester := auth.map fun a => (sha256 (pointBytes a.1)).toNat, key := Config.sessionKey secret points }]
      reply := leBytes 1 k ++ pointBytes mine } } := by
  rintro d mine secret points (rfl | ⟨q, sig, rfl, hcurve, hverified⟩)
  · rfl
  · have hsigned : (onCurve q && ecdsaVerify (some q) (Config.transcript 2 k points).toNat sig) = true := by rw [hcurve, hverified]; rfl
    exact if_neg (by simpa using hsigned)

theorem exec_spdmUpdate {k : Nat} (h : s.session k ≠ none) :
    exec (.spdmKeyExchange (.update k)) s = .next ((s.sessionAnswer k []).modSession k fun e => { e with key := Config.updatedKey e.key, sent := 0 }) :=
  congrArg _ (if_pos (Option.isSome_iff_ne_none.2 h))

end

/-! TDIs and host accesses (R225, R432, R435) -/

section
variable {s : State} {t : Nat} (ht : t ≤ 62)
include ht

theorem exec_tdiEnterRun {bound : Bool} (hold : (s.tenancy t).tdi = .configUnlocked ∨ (s.tenancy t).tdi = .configLocked)
    (hstreams : bound = true → s.streamsUsed t < 8) :
    exec (.tdiEnterRun t bound) s = .next (s.modTenancy t fun x => { x with tdi := .run, ide := bound }) := by
  have hstream : (!bound || decide (s.streamsUsed t < 8)) = true := by
    cases bound with
    | false => rfl
    | true => exact decide_eq_true (hstreams rfl)
  show execTdiEnterRun t bound s = _
  exact stepWhen_true (by rw [hstream]; simp [ht, hold])

theorem exec_tdiLeaveRun {target : TdiState} (hrun : (s.tenancy t).tdi = .run) (htarget : target ≠ .run) :
    exec (.tdiLeaveRun t target) s = .next (s.modTenancy t fun x => { x with tdi := target, ide := false }) := by
  show execTdiLeaveRun t target s = _
  exact stepWhen_true (by simp [TdiState.leaves, ht, hrun, htarget])

end

/-- With all streams in use a TDI that needs one stays out of RUN. -/
theorem exec_tdiEnterRun_noStream {s : State} {t : Nat} (hfull : 8 ≤ s.streamsUsed t) : exec (.tdiEnterRun t true) s = .next s := by
  show execTdiEnterRun t true s = _
  exact congrArg _ (if_neg (by simp [Nat.not_lt.2 hfull]))

section
variable {s : State} {t va : Nat} {ide : Bool}

theorem exec_hstAccess_write (vs : List Byte) (len : Nat) : exec (.hstAccess t ide va (some vs) len) s =
    match (s.writeFault { cls := .hst, tenancy := t } va vs.length).1 with
    | some _ => .next (s.writeFault { cls := .hst, tenancy := t } va vs.length).2
    | none => .next ((s.writeFault { cls := .hst, tenancy := t } va vs.length).2.hstWrite t ide vs va (piecesOf va vs.length)) := by
  show execHstAccess t ide va (some vs) len s = _
  simp only [execHstAccess]
  obtain ⟨f, u⟩ := s.writeFault { cls := .hst, tenancy := t } va vs.length
  cases f <;> rfl

theorem exec_hstAccess_read (len : Nat) : exec (.hstAccess t ide va none len) s =
    match (s.hstRead t ide (piecesOf va len)).1 with
    | some l => .next { (s.hstRead t ide (piecesOf va len)).2 with host := { (s.hstRead t ide (piecesOf va len)).2.host with dma := l } }
    | none => .next (s.hstRead t ide (piecesOf va len)).2 := by
  show execHstAccess t ide va none len s = _
  simp only [execHstAccess]
  obtain ⟨l, u⟩ := s.hstRead t ide (piecesOf va len)
  cases l <;> rfl

end

/-- Settles O60, each clause by the lemma of its command or event. -/
theorem hostCommandsRun : Obligations.HostCommandsRun := by
  refine ⟨fun s k rest hkicks => ⟨fun hfirst hopen hposts => ⟨exec_kick_outOfOrder hkicks hopen hposts hfirst,
      fun c => exec_kick_takes hkicks hopen hposts hfirst, exec_kick_retries hkicks hopen hposts hfirst⟩,
      fun htries hdue hopen hposts => ⟨fun c => exec_kickReread_takes hkicks hopen hposts htries hdue,
        exec_kickReread_retries hkicks hopen hposts htries hdue, exec_kickReread_stale hkicks hopen hposts htries hdue⟩⟩,
    fun s seq status data rest => exec_completionPost, fun s v => exec_cqbaseWrite v, fun s c hc => ⟨exec_badOpcode hc, exec_hostNop hc, exec_summary hc,
      fun hopc hlen => ⟨exec_chkpt_starts hc hopc hlen, fun t0 r hstarted => exec_chkpt_waves hc hopc hlen hstarted, fun t0 => exec_chkpt_streams hc hopc hlen⟩,
      fun hopc hlen => ?tenset, exec_tenclr hc, exec_keymap hc, fun hopc hlen other => ⟨exec_restore_refused hc hopc hlen other, fun hclear hfree hports => ?restore⟩⟩,
    fun s k e l he => State.sessionAnswer_of_session he l,
    fun s session t hash key k e he hlive hk => ⟨_, exec_keyload he hlive hk, rfl, rfl, fun j hj => ?otherKey, ?newKey⟩,
    fun s session k key e => exec_keydrop,
    fun s => ⟨rfl, fun x y => certificateChain_of_point, fun nonce => rfl, fun index nonce m => exec_spdmGetMeasurements nonce,
      fun hbusy => exec_spdmExchange_rejected (State.freeSession_eq_none hbusy), fun k x y auth hfree => ?exchange,
      fun k hsession => ⟨exec_spdmUpdate hsession, rfl, (s.sessionAnswer k []).dropSession k, rfl, ?gone, fun j hj => ?stays⟩⟩,
    fun s t ht => ⟨fun bound => exec_tdiEnterRun ht, exec_tdiEnterRun_noStream, fun target => exec_tdiLeaveRun ht⟩,
    fun s t va ide => ⟨fun vs len hgood => ?write, fun vs len f hfault => ?writeFault, fun l len hread => ?read, fun len hfault => ?readFault⟩⟩
  case tenset =>
    have hexec := exec_tenset hc hopc hlen
    exact ⟨fun hgood => hexec.trans (if_neg (ne_true_of_eq_false hgood)), fun hbad => hexec.trans (if_pos hbad)⟩
  case restore =>
    have hexec := exec_restore hc hopc hlen other hclear hfree hports
    exact ⟨fun hforged => hexec.trans (congrArg _ (if_neg (ne_true_of_eq_false hforged))),
      fun hsigned hgood => hexec.trans (congrArg _ ((if_pos hsigned).trans (State.restoreFrom_good hgood))),
      fun hsigned hbad => hexec.trans (congrArg _ ((if_pos hsigned).trans (State.restoreFrom_bad hbad)))⟩
  case otherKey => rw [State.modKeySlot_keySlot, if_neg hj.symm]
  case newKey => rw [State.modKeySlot_keySlot, if_pos rfl]
  case exchange =>
    have hexec := exec_spdmExchange hfree x y auth
    exact ⟨fun hoff => hexec.trans (congrArg _ (if_neg (ne_true_of_eq_false hoff))),
      fun hon hauth => hexec.trans (congrArg _ ((if_pos hon).trans (State.openSession_opens hauth)))⟩
  case gone => rw [State.dropSession_session, if_pos rfl]
  case stays => rw [State.dropSession_session, if_neg hj, State.sessionAnswer_session_other s [] hj]
  case write => rw [exec_hstAccess_write, hgood]
  case writeFault => rw [exec_hstAccess_write, hfault]
  case read => rw [exec_hstAccess_read, hread]
  case readFault => rw [exec_hstAccess_read, hfault]

end Sys2Proof.Machine
